-- ==== Sys2Proof/Word.lean ====
section
/-! DEFINITION. Word types: bytes, 32-bit registers, 64-bit pairs (chapters 00 and 02). -/

namespace Sys2Proof

abbrev Byte := BitVec 8
abbrev Word := BitVec 32
abbrev DWord := BitVec 64

end Sys2Proof
end

