-- ==== Sys2Proof/Config.lean ====
section
/-! DEFINITION. What the spec leaves open or an implementation fixes: opaque constants that no proof can evaluate. The log
entries name what each stands for. -/

namespace Sys2Proof.Config

/-- A register value the spec does not state: the occasion (State.fresh) and which value (log 23). -/
opaque freeWord : Nat → Nat → BitVec 32

/-- A choice the spec leaves to the implementation: the occasion and which choice (log 12). -/
opaque pick : Nat → Nat → Nat

/-- How the home finds a sector that no write has stored since reset (R520): sector, DIA sector; modulo 4: clean,
corrected, uncorrectable, misdirected (log 5). -/
opaque coldClass : Nat → Nat → Nat

/-- What the cells of a 32-byte unit that no write has stored since reset hold (R520, log 5). -/
opaque coldCells : Nat → BitVec 256

/-- The allotment tag that the cells of an unwritten sector hold (R520, log 5). -/
opaque coldTag : Nat → BitVec 4

/-- The keys that the die's true random source gives to the key of a number (R440, R456, log 5): the data key pair, tweak key above,
and the integrity key. -/
opaque keyData : Nat → BitVec 512
opaque keyInteg : Nat → BitVec 256

/-- What a partition region written under one key reads as under another (R442, R443, log 5): the key's number, the panel or
partition, which table, which entry. -/
opaque veiled : Nat → Nat → Nat → Nat → BitVec 64

/-- What the device writes into a sector of a frame whose contents the spec leaves opaque (R328): the frame, the sector (log 25). -/
opaque frameBody : Nat → Nat → BitVec 512

/-- DBMAX and EMMAX of the signed calibration in the fuses (R475, log 28). -/
opaque dbmax : Nat
opaque emmax : Nat

/-- The device-unique identifier (R480, log 28). -/
opaque devid : BitVec 64

/-- The OEM's ECDSA P-384 signature over a message's SHA-384 verifies against the fused key (R491, R494, log 28): the
message, the signature. -/
opaque signed : List (BitVec 8) → List (BitVec 8) → Bool

/-- Where in the region at 0x00_0000 the mirrors of `ISALEVEL` (0) and of the active banks (1 and 2, by KIND) stand, and where in the region at
0x01_0000 the bytes of the engine assignment begin (R480, log 61). -/
opaque mirrorAt : Nat → Nat
opaque enginesAt : Nat

/-- The digest of the fused signing key (R491, R496, log 28). -/
opaque keyDigest : List (BitVec 8)

/-- Where the record of each of the 32 stencil images stands in the signed firmware image that carries them (R429, R491, log 16): the image's
bytes, the number; a byte offset. -/
opaque stencilAt : List (BitVec 8) → Nat → Nat

end Sys2Proof.Config
end

