-- ==== Sys2Proof/Machine/Aes.lean ====
section
/-! DEFINITION. AES-256 (FIPS 197), XTS for a unit of 32 bytes (R442) and AES-CMAC of whole blocks (R445). Bytes are natural numbers
below 256, a block or key is a bit vector whose byte 0 is bits 7:0. -/

namespace Sys2Proof.Machine

/-! ## Bytes -/

/-- The S-box: entry `k` is byte `k`. -/
def aesBox : Nat :=
    0xc072a49cafa2d4adf04759fa7dc982ca76abd7fe2b670130c56f6bf27b777c63 +
    0x75b227ebe28012079a059618c323c7041531d871f1e5a534ccf73f362693fdb7 * 2 ^ 256 +
    0xcf584c4a39becb6a5bb1fc20ed00d153842fe329b3d63b52a05a6e1b1a2c8309 * 2 ^ 512 +
    0xd2f3ff1021dab6bcf5389d928f40a351a89f3c507f02f94585334d43fbaaefd0 * 2 ^ 768 +
    0xdb0b5ede14b8ee4688902a22dc4f816073195d643d7ea7c41744975fec130ccd * 2 ^ 1024 +
    0x08ae7a65eaf4566ca94ed58d6d37c8e779e4959162acd3c25c2406490a3a32e0 * 2 ^ 1280 +
    0x9e1dc186b95735610ef6034866b53e708a8bbd4b1f74dde8c6b4a61c2e2578ba * 2 ^ 1536 +
    0x16bb54b00f2d99416842e6bf0d89a18cdf2855cee9871e9b948ed9691198f8e1 * 2 ^ 1792

/-- The inverse S-box. -/
def aesBoxInv : Nat :=
    0xcbe9dec444438e3487ff2f9b8239e37cfbd7f3819ea340bf38a53630d56a0952 +
    0x25d18b6d49a25b76b224d92866a12e084ec3fa420b954cee3d23c2a632947b54 * 2 ^ 256 +
    0x849d8da75746155edab9edfd5048706c92b6655dcc5ca4d41698688664f6f872 * 2 ^ 512 +
    0x6b8a130103bdafc1020f3fca8f1e2cd00645b3b80558e4f70ad3bc8c00abd890 * 2 ^ 768 +
    0x6edf751ce837f9e28535ade72274ac9673e6b4f0cecff297eadc674f4111913a * 2 ^ 1024 +
    0xf45acd78fec0db9a2079d2c64b3e56fc1bbe18aa0e62b76f89c5291d711af147 * 2 ^ 1280 +
    0xef9cc9939f7ae52d0d4ab519a97f51605fec8027591012b131c7078833a8dd1f * 2 ^ 1536 +
    0x7d0c2155631469e126d677ba7e042b17619953833cbbebc8b0f52aae4d3be0a0 * 2 ^ 1792

/-- An entry of a table of bytes. -/
def boxAt (box b : Nat) : Nat := box / 2 ^ (8 * b) % 256

/-- Times x in GF(2^8). -/
def gfTwice (b : Nat) : Nat := if b < 128 then 2 * b else (2 * b) ^^^ 0x11B

/-- Times a constant below 16 in GF(2^8). -/
def gfTimes (c b : Nat) : Nat :=
  let b2 := gfTwice b
  let b4 := gfTwice b2
  let b8 := gfTwice b4
  (if c % 2 == 1 then b else 0) ^^^ (if c / 2 % 2 == 1 then b2 else 0) ^^^ (if c / 4 % 2 == 1 then b4 else 0) ^^^
    (if c / 8 % 2 == 1 then b8 else 0)

/-- The bytes of a number, lowest first. -/
def octets (n v : Nat) : List Nat := (List.range n).map fun k => v / 2 ^ (8 * k) % 256

/-- A number from its bytes, lowest first. -/
def ofOctets (bs : List Nat) : Nat := bs.foldr (fun b v => b + 256 * v) 0

/-! ## The cipher -/

/-- The next word of the key schedule: number `i`, from the word before and the word eight before. -/
def nextKeyWord (i : Nat) (w1 w8 : List Nat) : List Nat :=
  let t :=
    if i % 8 == 0 then
      match (w1.drop 1 ++ w1.take 1).map (boxAt aesBox) with
      | x :: xs => (x ^^^ 2 ^ (i / 8 - 1)) :: xs
      | [] => []
    else if i % 8 == 4 then w1.map (boxAt aesBox)
    else w1
  List.zipWith (· ^^^ ·) t w8

/-- Words of the key schedule, latest first, `fuel` words more. -/
def extendKey : Nat → Nat → List (List Nat) → List (List Nat)
  | 0, _, ws => ws
  | fuel + 1, i, ws => extendKey fuel (i + 1) (nextKeyWord i (ws.getD 0 []) (ws.getD 7 []) :: ws)

/-- The fifteen round keys, of 16 bytes. -/
def roundKeys (key : BitVec 256) : List (List Nat) :=
  let k := octets 32 key.toNat
  let ws := (extendKey 52 8 ((List.range 8).map fun i => (k.drop (4 * i)).take 4).reverse).reverse
  (List.range 15).map fun r => ((ws.drop (4 * r)).take 4).flatten

/-- ShiftRows by `d` places to the left (3: its inverse). -/
def shiftRows (d : Nat) (s : List Nat) : List Nat :=
  (List.range 16).map fun i => s.getD (i % 4 + 4 * ((i / 4 + d * (i % 4)) % 4)) 0

/-- MixColumns with the coefficients of a row. -/
def mixColumns (cs s : List Nat) : List Nat :=
  (List.range 16).map fun i =>
    (List.range 4).foldl (fun a j => a ^^^ gfTimes (cs.getD ((j + 4 - i % 4) % 4) 0) (s.getD (4 * (i / 4) + j) 0)) 0

/-- AddRoundKey. -/
def addKey (k s : List Nat) : List Nat := List.zipWith (· ^^^ ·) s k

/-- AES-256 of a block. -/
def aesEncrypt (key : BitVec 256) (b : BitVec 128) : BitVec 128 :=
  let ks := roundKeys key
  let s := addKey (ks.headD []) (octets 16 b.toNat)
  let s1 := ((ks.drop 1).take 13).foldl (fun s k => addKey k (mixColumns [2, 3, 1, 1] (shiftRows 1 (s.map (boxAt aesBox))))) s
  BitVec.ofNat 128 (ofOctets (addKey (ks.getD 14 []) (shiftRows 1 (s1.map (boxAt aesBox)))))

/-- Its inverse. -/
def aesDecrypt (key : BitVec 256) (b : BitVec 128) : BitVec 128 :=
  let ks := (roundKeys key).reverse
  let s := addKey (ks.headD []) (octets 16 b.toNat)
  let s1 := ((ks.drop 1).take 13).foldl (fun s k =>
    mixColumns [14, 11, 13, 9] (addKey k ((shiftRows 3 s).map (boxAt aesBoxInv)))) s
  BitVec.ofNat 128 (ofOctets (addKey (ks.getD 14 []) ((shiftRows 3 s1).map (boxAt aesBoxInv))))

/-! ## XTS (R442) -/

/-- Times α in GF(2^128), byte 0 lowest. -/
def xtsDouble (t : BitVec 128) : BitVec 128 := (t <<< 1) ^^^ (if t.getLsbD 127 then 0x87#128 else 0#128)

/-- A unit of two blocks under a pair of keys, data key below tweak key, with its tweak. -/
def xtsUnit (f : BitVec 256 → BitVec 128 → BitVec 128) (pair : BitVec 512) (tweak : Nat) (u : BitVec 256) : BitVec 256 :=
  let k := pair.extractLsb' 0 256
  let t0 := aesEncrypt (pair.extractLsb' 256 256) (BitVec.ofNat 128 tweak)
  let t1 := xtsDouble t0
  (f k (u.extractLsb' 128 128 ^^^ t1) ^^^ t1) ++ (f k (u.extractLsb' 0 128 ^^^ t0) ^^^ t0)

def xtsEncrypt (pair : BitVec 512) (tweak : Nat) (u : BitVec 256) : BitVec 256 := xtsUnit aesEncrypt pair tweak u

def xtsDecrypt (pair : BitVec 512) (tweak : Nat) (u : BitVec 256) : BitVec 256 := xtsUnit aesDecrypt pair tweak u

/-! ## CMAC (R445) -/

/-- A block read with its first byte as the most significant. -/
def bigEnd (b : BitVec 128) : Nat := ofOctets (octets 16 b.toNat).reverse

/-- The subkey K1 of SP 800-38B. -/
def cmacSubkey (key : BitVec 256) : BitVec 128 :=
  let l := bigEnd (aesEncrypt key 0)
  let d := (2 * l % 2 ^ 128) ^^^ (if l ≥ 2 ^ 127 then 0x87 else 0)
  BitVec.ofNat 128 (ofOctets (octets 16 d).reverse)

/-- The chain of blocks, K1 in the last. -/
def cmacChain (key : BitVec 256) (k1 : BitVec 128) : List (BitVec 128) → BitVec 128 → BitVec 128
  | [], x => x
  | [b], x => aesEncrypt key (x ^^^ b ^^^ k1)
  | b :: c :: bs, x => cmacChain key k1 (c :: bs) (aesEncrypt key (x ^^^ b))

/-- AES-CMAC of a message of whole blocks. -/
def aesCmac (key : BitVec 256) (blocks : List (BitVec 128)) : BitVec 128 :=
  cmacChain key (cmacSubkey key) blocks 0

end Sys2Proof.Machine
end

