-- ==== Sys2Proof/Syntax.lean ====
section
/-! DEFINITION. The instructions and event rows of the opcode table as one inductive. A machine instruction
(chapters 02, 04, 05, 07-17 of the spec) carries its guard, its register fields and its modifier fields under the
names of its encoding table; an event row (spec/95) carries the identity of what it concerns and has no word. -/

namespace Sys2Proof

/-- The class bit of a register field (R24): 0 V register, 1 G register. -/
inductive RegClass where
  | v | g
  deriving DecidableEq, Repr

/-- The 10-bit register field of R24, Table 1: I, W, class, number. -/
structure Reg where
  ind : Bool
  w : Bool
  cls : RegClass
  num : BitVec 7
  deriving DecidableEq, Repr

/-- The guard GD of R23: bit 55 negates, bits [54:52] select P0-P7. -/
structure Guard where
  neg : Bool
  p : BitVec 3
  deriving DecidableEq, Repr

/-- One constructor per row of the opcode table. -/
inductive Instr where
  /-- NOP, opcode 0x01, format SYS. -/
  | nop (gd : Guard)
  /-- BRA, opcode 0x02, format BR. -/
  | bra (gd : Guard) (pr : BitVec 8) (disp : BitVec 32)
  /-- BRX, opcode 0x03, format BR. -/
  | brx (gd : Guard) (a : Reg) (pr : BitVec 8)
  /-- CALL, opcode 0x04, format BR. -/
  | call (gd : Guard) (pr : BitVec 8) (disp : BitVec 32)
  /-- CALLX, opcode 0x05, format BR. -/
  | callx (gd : Guard) (a : Reg) (pr : BitVec 8)
  /-- RET, opcode 0x06, format BR. -/
  | ret (gd : Guard) (a : Reg)
  /-- EXIT, opcode 0x07, format SYS. -/
  | exit (gd : Guard)
  /-- YIELD, opcode 0x08, format SYS. -/
  | yield (gd : Guard) (cyc : BitVec 16)
  /-- PRIO, opcode 0x09, format SYS. -/
  | prio (gd : Guard) (p : BitVec 8)
  /-- REGROUP, opcode 0x0A, format RR. -/
  | regroup (gd : Guard) (a : Reg)
  /-- BARG, opcode 0x0B, format SYS. -/
  | barg (gd : Guard) (a : Reg) (hi : BitVec 16) (lo : BitVec 16)
  /-- BART, opcode 0x0C, format SYS. -/
  | bart (gd : Guard) (a : Reg) (gm : BitVec 16)
  /-- ARRIVE, opcode 0x0D, format SYS. -/
  | arrive (gd : Guard) (d : Reg) (a : Reg) (ofs : BitVec 16)
  /-- AWAIT, opcode 0x0E, format SYS. -/
  | await (gd : Guard) (a : Reg) (test : BitVec 1) (pd : BitVec 3) (ofs : BitVec 16)
  /-- VOTE, opcode 0x0F, format RR. -/
  | vote (gd : Guard) (d : Reg) (c : Reg) (pd : BitVec 3) (op : BitVec 2) (neg : BitVec 1) (pa : BitVec 3)
  /-- ELECT, opcode 0x10, format RR. -/
  | elect (gd : Guard) (d : Reg) (c : Reg) (pd : BitVec 3)
  /-- SHFL, opcode 0x11, format RR. -/
  | shfl (gd : Guard) (d : Reg) (a : Reg) (b : Reg) (c : Reg) (mode : BitVec 2) (pd : BitVec 3)
  /-- REDG, opcode 0x12, format RR. -/
  | redg (gd : Guard) (d : Reg) (a : Reg) (c : Reg) (op : BitVec 4)
  /-- SCANG, opcode 0x13, format RR. -/
  | scang (gd : Guard) (d : Reg) (a : Reg) (c : Reg) (excl : BitVec 1) (op : BitVec 4)
  /-- MATCH, opcode 0x14, format RR. -/
  | matchG (gd : Guard) (d : Reg) (a : Reg) (c : Reg) (b64 : BitVec 1) (pd : BitVec 3)
  /-- WAITT, opcode 0x15, format SYS. -/
  | waitt (gd : Guard) (a : Reg)
  /-- MOV, opcode 0x20, format RR. -/
  | mov (gd : Guard) (d : Reg) (a : Reg) (size : BitVec 2)
  /-- MOVI, opcode 0x21, format RI. -/
  | movi (gd : Guard) (d : Reg) (imm : BitVec 32)
  /-- MOVG, opcode 0x22, format RR. -/
  | movg (gd : Guard) (d : Reg) (a : Reg) (first : BitVec 1) (lane : BitVec 5)
  /-- SEL, opcode 0x23, format RR. -/
  | sel (gd : Guard) (d : Reg) (a : Reg) (b : Reg) (size : BitVec 1) (neg : BitVec 1) (pc : BitVec 3)
  /-- PSET, opcode 0x24, format RR. -/
  | pset (gd : Guard) (a : Reg) (b : Reg) (test : BitVec 2) (pd : BitVec 3)
  /-- PLOP, opcode 0x25, format RR. -/
  | plop (gd : Guard) (op : BitVec 3) (pd : BitVec 3) (pa : BitVec 3) (pb : BitVec 3)
  /-- P2V, opcode 0x26, format RR. -/
  | p2v (gd : Guard) (d : Reg)
  /-- V2P, opcode 0x27, format RR. -/
  | v2p (gd : Guard) (a : Reg) (mask : BitVec 7)
  /-- WBASE, opcode 0x28, format RI. -/
  | wbase (gd : Guard) (a : Reg) (rel : BitVec 1) (delta : BitVec 16)
  /-- IXSET, opcode 0x29, format RI. -/
  | ixset (gd : Guard) (a : Reg) (imm : BitVec 32)
  /-- IXADD, opcode 0x2A, format RI. -/
  | ixadd (gd : Guard) (a : Reg) (imm : BitVec 32)
  /-- SRD, opcode 0x2B, format SYS. -/
  | srd (gd : Guard) (d : Reg) (sr : BitVec 16)
  /-- SWR, opcode 0x2C, format SYS. -/
  | swr (gd : Guard) (a : Reg) (sr : BitVec 16)
  /-- EMPTY, opcode 0x2D, format RR. -/
  | empty (gd : Guard) (d : Reg) (size : BitVec 2)
  /-- TFULL, opcode 0x2E, format RR. -/
  | tfull (gd : Guard) (a : Reg) (test : BitVec 2) (pd : BitVec 3)
  /-- ALLOT, opcode 0x2F, format SYS. -/
  | allot (gd : Guard) (n : BitVec 8) (pd : BitVec 3)
  /-- IADD, opcode 0x30, format RR. -/
  | iadd (gd : Guard) (d : Reg) (a : Reg) (b : Reg) (sat : BitVec 2)
  /-- ISUB, opcode 0x31, format RR. -/
  | isub (gd : Guard) (d : Reg) (a : Reg) (b : Reg) (sat : BitVec 2)
  /-- IADD3, opcode 0x32, format RR. -/
  | iadd3 (gd : Guard) (d : Reg) (a : Reg) (b : Reg) (c : Reg) (sat : BitVec 2)
  /-- IMUL, opcode 0x33, format RR. -/
  | imul (gd : Guard) (d : Reg) (a : Reg) (b : Reg) (sat : BitVec 2)
  /-- IMULH, opcode 0x34, format RR. -/
  | imulh (gd : Guard) (d : Reg) (a : Reg) (b : Reg) (sgn : BitVec 2)
  /-- IMAD, opcode 0x35, format RR. -/
  | imad (gd : Guard) (d : Reg) (a : Reg) (b : Reg) (c : Reg) (sat : BitVec 2)
  /-- IMIN, opcode 0x36, format RR. -/
  | imin (gd : Guard) (d : Reg) (a : Reg) (b : Reg) (u : BitVec 1)
  /-- IMAX, opcode 0x37, format RR. -/
  | imax (gd : Guard) (d : Reg) (a : Reg) (b : Reg) (u : BitVec 1)
  /-- IABS, opcode 0x38, format RR. -/
  | iabs (gd : Guard) (d : Reg) (a : Reg) (s1 : BitVec 1)
  /-- INEG, opcode 0x39, format RR. -/
  | ineg (gd : Guard) (d : Reg) (a : Reg) (s1 : BitVec 1)
  /-- AND, opcode 0x3A, format RR. -/
  | and (gd : Guard) (d : Reg) (a : Reg) (b : Reg)
  /-- OR, opcode 0x3B, format RR. -/
  | or (gd : Guard) (d : Reg) (a : Reg) (b : Reg)
  /-- XOR, opcode 0x3C, format RR. -/
  | xor (gd : Guard) (d : Reg) (a : Reg) (b : Reg)
  /-- ANDN, opcode 0x3D, format RR. -/
  | andn (gd : Guard) (d : Reg) (a : Reg) (b : Reg)
  /-- NOT, opcode 0x3E, format RR. -/
  | not (gd : Guard) (d : Reg) (a : Reg)
  /-- LOP3, opcode 0x3F, format RR. -/
  | lop3 (gd : Guard) (d : Reg) (a : Reg) (b : Reg) (c : Reg) (lut : BitVec 8)
  /-- SHL, opcode 0x40, format RR. -/
  | shl (gd : Guard) (d : Reg) (a : Reg) (b : Reg) (wrap : BitVec 1)
  /-- SHR, opcode 0x41, format RR. -/
  | shr (gd : Guard) (d : Reg) (a : Reg) (b : Reg) (wrap : BitVec 1)
  /-- SAR, opcode 0x42, format RR. -/
  | sar (gd : Guard) (d : Reg) (a : Reg) (b : Reg) (wrap : BitVec 1)
  /-- ROTL, opcode 0x43, format RR. -/
  | rotl (gd : Guard) (d : Reg) (a : Reg) (b : Reg)
  /-- FSHL, opcode 0x44, format RR. -/
  | fshl (gd : Guard) (d : Reg) (a : Reg) (b : Reg) (c : Reg)
  /-- POPC, opcode 0x45, format RR. -/
  | popc (gd : Guard) (d : Reg) (a : Reg)
  /-- CLZ, opcode 0x46, format RR. -/
  | clz (gd : Guard) (d : Reg) (a : Reg)
  /-- BREV, opcode 0x47, format RR. -/
  | brev (gd : Guard) (d : Reg) (a : Reg)
  /-- BFE, opcode 0x48, format RR. -/
  | bfe (gd : Guard) (d : Reg) (a : Reg) (b : Reg) (sx : BitVec 1)
  /-- BFI, opcode 0x49, format RR. -/
  | bfi (gd : Guard) (d : Reg) (a : Reg) (b : Reg) (c : Reg)
  /-- ISETP, opcode 0x4A, format RR. -/
  | isetp (gd : Guard) (a : Reg) (b : Reg) (cmp : BitVec 3) (u : BitVec 1) (b64 : BitVec 1) (pd : BitVec 3)
  /-- ICSUB, opcode 0x4B, format RR. -/
  | icsub (gd : Guard) (d : Reg) (a : Reg) (b : Reg) (pd : BitVec 3)
  /-- IADD64, opcode 0x4C, format RR. -/
  | iadd64 (gd : Guard) (d : Reg) (a : Reg) (b : Reg)
  /-- ISUB64, opcode 0x4D, format RR. -/
  | isub64 (gd : Guard) (d : Reg) (a : Reg) (b : Reg)
  /-- IMULW, opcode 0x4E, format RR. -/
  | imulw (gd : Guard) (d : Reg) (a : Reg) (b : Reg) (sgn : BitVec 2)
  /-- LEA, opcode 0x4F, format RR. -/
  | lea (gd : Guard) (d : Reg) (a : Reg) (b : Reg) (sx : BitVec 1) (sh : BitVec 3)
  /-- ISAT, opcode 0x50, format RR. -/
  | isat (gd : Guard) (d : Reg) (a : Reg) (u : BitVec 1) (ty : BitVec 4)
  /-- IDP4, opcode 0x51, format RR. -/
  | idp4 (gd : Guard) (d : Reg) (a : Reg) (b : Reg) (c : Reg) (sat : BitVec 1) (au : BitVec 1) (bu : BitVec 1)
  /-- FADD, opcode 0x60, format RR. -/
  | fadd (gd : Guard) (d : Reg) (a : Reg) (b : Reg) (rnd : BitVec 3)
  /-- FSUB, opcode 0x61, format RR. -/
  | fsub (gd : Guard) (d : Reg) (a : Reg) (b : Reg) (rnd : BitVec 3)
  /-- FMUL, opcode 0x62, format RR. -/
  | fmul (gd : Guard) (d : Reg) (a : Reg) (b : Reg) (rnd : BitVec 3)
  /-- FFMA, opcode 0x63, format RR. -/
  | ffma (gd : Guard) (d : Reg) (a : Reg) (b : Reg) (c : Reg) (rnd : BitVec 3)
  /-- FMIN, opcode 0x64, format RR. -/
  | fmin (gd : Guard) (d : Reg) (a : Reg) (b : Reg)
  /-- FMAX, opcode 0x65, format RR. -/
  | fmax (gd : Guard) (d : Reg) (a : Reg) (b : Reg)
  /-- FMINP, opcode 0x66, format RR. -/
  | fminp (gd : Guard) (d : Reg) (a : Reg) (b : Reg)
  /-- FMAXP, opcode 0x67, format RR. -/
  | fmaxp (gd : Guard) (d : Reg) (a : Reg) (b : Reg)
  /-- FABS, opcode 0x68, format RR. -/
  | fabs (gd : Guard) (d : Reg) (a : Reg)
  /-- FNEG, opcode 0x69, format RR. -/
  | fneg (gd : Guard) (d : Reg) (a : Reg)
  /-- FSETP, opcode 0x6A, format RR. -/
  | fsetp (gd : Guard) (a : Reg) (b : Reg) (cmp : BitVec 3) (pd : BitVec 3)
  /-- FCLASS, opcode 0x6B, format RR. -/
  | fclass (gd : Guard) (d : Reg) (a : Reg)
  /-- FRND, opcode 0x6C, format RR. -/
  | frnd (gd : Guard) (d : Reg) (a : Reg) (rnd : BitVec 3)
  /-- FDIV, opcode 0x6D, format RR. -/
  | fdiv (gd : Guard) (d : Reg) (a : Reg) (b : Reg) (rnd : BitVec 3)
  /-- FSQRT, opcode 0x6E, format RR. -/
  | fsqrt (gd : Guard) (d : Reg) (a : Reg) (rnd : BitVec 3)
  /-- FRCP, opcode 0x6F, format RR. -/
  | frcp (gd : Guard) (d : Reg) (a : Reg) (rnd : BitVec 3)
  /-- FRSQ, opcode 0x70, format RR. -/
  | frsq (gd : Guard) (d : Reg) (a : Reg)
  /-- FEXP2, opcode 0x71, format RR. -/
  | fexp2 (gd : Guard) (d : Reg) (a : Reg)
  /-- FLOG2, opcode 0x72, format RR. -/
  | flog2 (gd : Guard) (d : Reg) (a : Reg)
  /-- FSINPI, opcode 0x73, format RR. -/
  | fsinpi (gd : Guard) (d : Reg) (a : Reg)
  /-- FCOSPI, opcode 0x74, format RR. -/
  | fcospi (gd : Guard) (d : Reg) (a : Reg)
  /-- FTANH, opcode 0x75, format RR. -/
  | ftanh (gd : Guard) (d : Reg) (a : Reg)
  /-- HADD2, opcode 0x76, format RR. -/
  | hadd2 (gd : Guard) (d : Reg) (a : Reg) (b : Reg) (rnd : BitVec 3) (ty : BitVec 4)
  /-- HMUL2, opcode 0x77, format RR. -/
  | hmul2 (gd : Guard) (d : Reg) (a : Reg) (b : Reg) (rnd : BitVec 3) (ty : BitVec 4)
  /-- HFMA2, opcode 0x78, format RR. -/
  | hfma2 (gd : Guard) (d : Reg) (a : Reg) (b : Reg) (c : Reg) (rnd : BitVec 3) (ty : BitVec 4)
  /-- FCVT, opcode 0x79, format RR. -/
  | fcvt (gd : Guard) (d : Reg) (a : Reg) (rnd : BitVec 3) (dst : BitVec 4) (src : BitVec 4)
  /-- F2I, opcode 0x7A, format RR. -/
  | f2i (gd : Guard) (d : Reg) (a : Reg) (rnd : BitVec 3) (dst : BitVec 4)
  /-- I2F, opcode 0x7B, format RR. -/
  | i2f (gd : Guard) (d : Reg) (a : Reg) (rnd : BitVec 3) (dst : BitVec 4) (src : BitVec 4)
  /-- QCVT, opcode 0x7C, format RR. -/
  | qcvt (gd : Guard) (d : Reg) (a : Reg) (b : Reg) (rnd : BitVec 3) (ty : BitVec 4)
  /-- QDEQ, opcode 0x7D, format RR. -/
  | qdeq (gd : Guard) (d : Reg) (a : Reg) (b : Reg) (rnd : BitVec 3) (ty : BitVec 4) (el : BitVec 3)
  /-- QSCALE, opcode 0x7E, format RR. -/
  | qscale (gd : Guard) (d : Reg) (a : Reg) (am : BitVec 1) (ty : BitVec 4)
  /-- MXON, opcode 0x90, format SYS. -/
  | mxon (gd : Guard) (shape : BitVec 2) (scaled : BitVec 1) (ty : BitVec 4) (try_ : BitVec 1) (pd : BitVec 3)
  /-- MXOFF, opcode 0x91, format SYS. -/
  | mxoff (gd : Guard)
  /-- MXSYNC, opcode 0x92, format SYS. -/
  | mxsync (gd : Guard)
  /-- MXCLR, opcode 0x93, format RR. -/
  | mxclr (gd : Guard)
  /-- STLD, opcode 0x94, format ENG. -/
  | stld (gd : Guard) (a : Reg) (ofs : BitVec 12)
  /-- STSWAP, opcode 0x95, format SYS. -/
  | stswap (gd : Guard)
  /-- MMA, opcode 0x96, format RR. -/
  | mma (gd : Guard) (a : Reg)
  /-- MMAS, opcode 0x97, format RR. -/
  | mmas (gd : Guard) (a : Reg) (b : Reg)
  /-- MXRD, opcode 0x98, format RR. -/
  | mxrd (gd : Guard) (d : Reg) (a : Reg) (size : BitVec 2)
  /-- MXST, opcode 0x99, format MEM. -/
  | mxst (gd : Guard) (t : Reg) (a : Reg) (x : Reg) (ofs : BitVec 14) (scope : BitVec 3) (ord : BitVec 2) (sz : BitVec 3)
  /-- LD, opcode 0xA0, format MEM. -/
  | ld (gd : Guard) (t : Reg) (a : Reg) (x : Reg) (ofs : BitVec 14) (scope : BitVec 3) (ord : BitVec 2) (sz : BitVec 3)
  /-- ST, opcode 0xA1, format MEM. -/
  | st (gd : Guard) (t : Reg) (a : Reg) (x : Reg) (ofs : BitVec 14) (scope : BitVec 3) (ord : BitVec 2) (sz : BitVec 3)
  /-- LDP, opcode 0xA2, format MEM. -/
  | ldp (gd : Guard) (t : Reg) (a : Reg) (x : Reg) (ofs : BitVec 14) (scope : BitVec 3) (ord : BitVec 2) (sz : BitVec 3)
  /-- STP, opcode 0xA3, format MEM. -/
  | stp (gd : Guard) (t : Reg) (a : Reg) (x : Reg) (ofs : BitVec 14) (scope : BitVec 3) (ord : BitVec 2) (sz : BitVec 3)
  /-- LDK, opcode 0xA4, format MEM. -/
  | ldk (gd : Guard) (t : Reg) (a : Reg) (x : Reg) (ofs : BitVec 14) (sz : BitVec 3)
  /-- ATOM, opcode 0xA5, format MEM. -/
  | atom (gd : Guard) (t : Reg) (a : Reg) (x : Reg) (aop : BitVec 5) (aofs : BitVec 9) (scope : BitVec 3) (ord : BitVec 2) (sz : BitVec 3)
  /-- ACAS, opcode 0xA6, format MEM. -/
  | acas (gd : Guard) (t : Reg) (a : Reg) (x : Reg) (ofs : BitVec 14) (scope : BitVec 3) (ord : BitVec 2) (sz : BitVec 3)
  /-- RED, opcode 0xA7, format MEM. -/
  | red (gd : Guard) (a : Reg) (x : Reg) (aop : BitVec 5) (aofs : BitVec 9) (scope : BitVec 3) (ord : BitVec 2) (sz : BitVec 3)
  /-- ATOMP, opcode 0xA8, format MEM. -/
  | atomp (gd : Guard) (t : Reg) (a : Reg) (x : Reg) (aop : BitVec 5) (aofs : BitVec 9) (scope : BitVec 3) (ord : BitVec 2) (sz : BitVec 3)
  /-- ACASP, opcode 0xA9, format MEM. -/
  | acasp (gd : Guard) (t : Reg) (a : Reg) (x : Reg) (ofs : BitVec 14) (scope : BitVec 3) (ord : BitVec 2) (sz : BitVec 3)
  /-- FENCE, opcode 0xAA, format SYS. -/
  | fence (gd : Guard) (scope : BitVec 3) (ord : BitVec 2)
  /-- PREF, opcode 0xAB, format MEM. -/
  | pref (gd : Guard) (a : Reg) (x : Reg) (ofs : BitVec 14) (scope : BitVec 3) (sz : BitVec 3)
  /-- CFLUSH, opcode 0xAC, format MEM. -/
  | cflush (gd : Guard) (a : Reg) (x : Reg) (ofs : BitVec 14) (scope : BitVec 3) (sz : BitVec 3)
  /-- TAGRD, opcode 0xAD, format MEM. -/
  | tagrd (gd : Guard) (t : Reg) (a : Reg) (x : Reg) (ofs : BitVec 14) (sz : BitVec 3)
  /-- TAGWR, opcode 0xAE, format MEM. -/
  | tagwr (gd : Guard) (t : Reg) (a : Reg) (x : Reg) (ofs : BitVec 14) (sz : BitVec 3)
  /-- COPY, opcode 0xC0, format ENG. -/
  | copy (gd : Guard) (d : Reg) (a : Reg) (b : Reg) (tmpl : BitVec 6) (hnd : BitVec 5)
  /-- COPYM, opcode 0xC1, format ENG. -/
  | copym (gd : Guard) (d : Reg) (a : Reg) (b : Reg) (tmpl : BitVec 6) (hnd : BitVec 5)
  /-- HWAIT, opcode 0xC2, format SYS. -/
  | hwait (gd : Guard) (hnd : BitVec 5) (pd : BitVec 3)
  /-- HREL, opcode 0xC3, format SYS. -/
  | hrel (gd : Guard) (hnd : BitVec 5)
  /-- HSTAT, opcode 0xC4, format SYS. -/
  | hstat (gd : Guard) (d : Reg) (hnd : BitVec 5)
  /-- CFETCH, opcode 0xC5, format SYS. -/
  | cfetch (gd : Guard) (a : Reg) (pd : BitVec 3)
  /-- CWAIT, opcode 0xC6, format SYS. -/
  | cwait (gd : Guard) (a : Reg)
  /-- JMPF, opcode 0xC7, format BR. -/
  | jmpf (gd : Guard) (a : Reg) (pr : BitVec 8) (disp : BitVec 32)
  /-- CALLF, opcode 0xC8, format BR. -/
  | callf (gd : Guard) (a : Reg) (pr : BitVec 8) (disp : BitVec 32)
  /-- CEVICT, opcode 0xC9, format SYS. -/
  | cevict (gd : Guard) (a : Reg)
  /-- RAST, opcode 0xD0, format ENG. -/
  | rast (gd : Guard) (d : Reg) (a : Reg) (hnd : BitVec 5)
  /-- VISLD, opcode 0xD1, format RR. -/
  | visld (gd : Guard) (d : Reg) (a : Reg) (b : Reg) (pos : BitVec 1)
  /-- BARY, opcode 0xD2, format RR. -/
  | bary (gd : Guard) (d : Reg) (a : Reg) (b : Reg) (c : Reg)
  /-- TEX, opcode 0xD3, format RR. -/
  | tex (gd : Guard) (d : Reg) (a : Reg) (b : Reg) (c : Reg) (nm : BitVec 1) (lin : BitVec 1) (pd : BitVec 3)
  /-- TEXG, opcode 0xD4, format RR. -/
  | texg (gd : Guard) (d : Reg) (a : Reg) (b : Reg) (c : Reg) (comp : BitVec 2) (nm : BitVec 1) (pd : BitVec 3)
  /-- TEXQ, opcode 0xD5, format RR. -/
  | texq (gd : Guard) (d : Reg) (a : Reg) (c : Reg)
  /-- RSMARK, opcode 0xD6, format RR. -/
  | rsmark (gd : Guard) (a : Reg)
  /-- RTBOX, opcode 0xD7, format RR. -/
  | rtbox (gd : Guard) (d : Reg) (a : Reg) (b : Reg) (c : Reg) (pd : BitVec 3)
  /-- RTTRI, opcode 0xD8, format RR. -/
  | rttri (gd : Guard) (d : Reg) (a : Reg) (b : Reg) (c : Reg) (cull : BitVec 2) (pd : BitVec 3)
  /-- RTXF, opcode 0xD9, format RR. -/
  | rtxf (gd : Guard) (d : Reg) (a : Reg) (c : Reg) (dir : BitVec 1)
  /-- SIG, opcode 0xDA, format RR. -/
  | sig (gd : Guard) (d : Reg) (a : Reg)
  /-- SIGEND, opcode 0xDB, format RR. -/
  | sigend (gd : Guard) (a : Reg) (b : Reg) (c : Reg)
  /-- TIME, opcode 0xE0, format SYS. -/
  | time (gd : Guard) (d : Reg)
  /-- LAUNCH, opcode 0xE1, format SYS. -/
  | launch (gd : Guard) (a : Reg) (pd : BitVec 3)
  /-- LAUNCHW, opcode 0xE2, format SYS. -/
  | launchw (gd : Guard) (a : Reg)
  /-- LWAIT, opcode 0xE3, format SYS. -/
  | lwait (gd : Guard) (d : Reg) (a : Reg) (test : BitVec 1) (pd : BitVec 3)
  /-- LPUB, opcode 0xE4, format SYS. -/
  | lpub (gd : Guard) (a : Reg) (pd : BitVec 3)
  /-- PLATCH, opcode 0xE5, format SYS. -/
  | platch (gd : Guard) (d : Reg) (md : BitVec 1) (slot : BitVec 2) (pd : BitVec 3)
  /-- DECLS, opcode 0xE6, format SYS. -/
  | decls (gd : Guard) (a : Reg)
  /-- KSEL_GEN, opcode 0xE7, format SYS. -/
  | kselGen (gd : Guard) (slot : BitVec 9) (pd : BitVec 3)
  /-- KSEL_ZERO, opcode 0xE7, format SYS. -/
  | kselZero (gd : Guard) (slot : BitVec 9) (pd : BitVec 3)
  /-- KSEL_DCL, opcode 0xE7, format SYS. -/
  | kselDcl (gd : Guard) (a : Reg) (slot : BitVec 9) (pd : BitVec 3)
  /-- KSEL_UNDCL, opcode 0xE7, format SYS. -/
  | kselUndcl (gd : Guard) (a : Reg) (slot : BitVec 9) (pd : BitVec 3)
  /-- KSEL_STAT, opcode 0xE7, format SYS. -/
  | kselStat (gd : Guard) (d : Reg) (slot : BitVec 9)
  /-- TRAP, opcode 0xF0, format SYS. -/
  | trap (gd : Guard) (a : Reg) (w64 : BitVec 1) (code : BitVec 16)
  /-- RTE, opcode 0xF1, format SYS. -/
  | rte (gd : Guard)
  /-- CTXSV, opcode 0xF2, format SYS. -/
  | ctxsv (gd : Guard) (a : Reg) (hold : BitVec 1) (pd : BitVec 3)
  /-- CTXLD, opcode 0xF3, format SYS. -/
  | ctxld (gd : Guard) (a : Reg) (pd : BitVec 3)
  /-- IFRRD, opcode 0xF4, format SYS. -/
  | ifrrd (gd : Guard) (d : Reg) (a : Reg) (dw : BitVec 3) (ent : BitVec 9)
  /-- FRQPOP, opcode 0xF5, format SYS. -/
  | frqpop (gd : Guard) (d : Reg) (panel : BitVec 4) (pd : BitVec 3)
  /-- FRQACK, opcode 0xF6, format SYS. -/
  | frqack (gd : Guard) (a : Reg) (refuse : BitVec 1) (pd : BitVec 3)
  /-- RNGWR, opcode 0xF7, format SYS. -/
  | rngwr (gd : Guard) (d : Reg) (a : Reg) (pd : BitVec 3)
  /-- RNGINV_A, opcode 0xF8, format SYS. -/
  | rnginvA (gd : Guard) (a : Reg)
  /-- RNGINV_B, opcode 0xF8, format SYS. -/
  | rnginvB (gd : Guard) (a : Reg) (disc : BitVec 1) (n1 : BitVec 12)
  /-- DIRTYHV, opcode 0xF9, format SYS. -/
  | dirtyhv (gd : Guard) (d : Reg) (a : Reg) (n1 : BitVec 5)
  /-- HALT, opcode 0xFA, format SYS. -/
  | halt (gd : Guard)
  /-- YIELD_EXPIRY (spec/95). -/
  | yieldExpiry (tid : Nat) (grp : Nat) (ent : Nat)
  /-- REGROUP_COMPLETION (spec/95). -/
  | regroupCompletion (tid : Nat)
  /-- WAITT_RELEASE (spec/95). -/
  | waittRelease (tid : Nat) (grp : Nat) (lane : Nat)
  /-- PRODUCER_COMPLETION (spec/95). -/
  | producerCompletion (tid : Nat) (op : Nat) (lane : Nat)
  /-- MXSYNC_FOLD (spec/95). -/
  | mxsyncFold (tid : Nat) (grp : Nat) (lane : Nat)
  /-- PLANE_READY (spec/95). -/
  | planeReady (core : Nat) (quad : Nat)
  /-- STSWAP_COMPLETION (spec/95). -/
  | stswapCompletion (core : Nat) (quad : Nat)
  /-- GRID_SWITCH_END (spec/95). -/
  | gridSwitchEnd (core : Nat) (quad : Nat)
  /-- ACCESS_AT_HOME (spec/95). -/
  | accessAtHome (tid : Nat) (op : Nat) (lane : Nat) (piece : Nat)
  /-- COPY_BEAT (spec/95). -/
  | copyBeat (eng : Nat) (beat : Nat)
  /-- HANDLE_DRAIN_END (spec/95). -/
  | handleDrainEnd (tid : Nat) (hnd : Nat)
  /-- CODE_FETCH_COMPLETION (spec/95). -/
  | codeFetchCompletion (core : Nat) (seg : Nat)
  /-- RASTER_COMMAND (spec/95). -/
  | rasterCommand (panel : Nat)
  /-- RESIDENCY_REQUEST (spec/95). -/
  | residencyRequest (k : Nat)
  /-- TEAM_PLACEMENT (spec/95). -/
  | teamPlacement (tid : Nat)
  /-- STOP_REQUEST (spec/95). -/
  | stopRequest (tid : Nat)
  /-- FREEZE_BROADCAST (spec/95). -/
  | freezeBroadcast (tid : Nat) (panel : Nat)
  /-- IFR_SNAPSHOT (spec/95). -/
  | ifrSnapshot (tid : Nat)
  /-- SAVE_COMPLETE (spec/95). -/
  | saveComplete (tid : Nat)
  /-- TEAM_EVICTION (spec/95). -/
  | teamEviction (tid : Nat)
  /-- TEAM_RESTORE (spec/95). -/
  | teamRestore (tid : Nat)
  /-- REPLAY_END (spec/95). -/
  | replayEnd (tid : Nat)
  /-- ROLLBACK (spec/95). -/
  | rollback (ctx : Nat)
  /-- LAUNCH_COMPLETION (spec/95). -/
  | launchCompletion (lid : Nat)
  /-- SITTING_OPENING (spec/95). -/
  | sittingOpening (k : Nat)
  /-- SITTING_END (spec/95). -/
  | sittingEnd (k : Nat)
  /-- GRACE_EXPIRY (spec/95). -/
  | graceExpiry (k : Nat)
  /-- STCTL_SWITCH (spec/95). -/
  | stctlSwitch (v : BitVec 32)
  /-- FRAME_START (spec/95). -/
  | frameStart (canvas : Nat)
  /-- SCAN_OUT_LINE (spec/95). -/
  | scanOutLine (canvas : Nat) (line : Nat)
  /-- PROOF_INSTANT (spec/95). -/
  | proofInstant (canvas : Nat) (layer : Nat)
  /-- SCRUB_COMPLETION (spec/95). -/
  | scrubCompletion (panel : Nat) (pass : Bool)
  /-- TELL_TALE_STATE_WORD (spec/95). -/
  | tellTaleStateWord (msg : List (BitVec 8))
  /-- ATTITUDE_MESSAGE (spec/95). -/
  | attitudeMessage (msg : List (BitVec 8))
  /-- GPTP_MESSAGE (spec/95). -/
  | gptpMessage (port : Nat) (t : BitVec 64)
  /-- SPDM_MESSAGE (spec/95). -/
  | spdmMessage (mctp : Bool) (msg : List (BitVec 8))
  /-- STAGING_MESSAGE (spec/95). -/
  | stagingMessage (port : Nat) (msg : List (BitVec 8))
  /-- UNADMITTED_FRAME (spec/95). -/
  | unadmittedFrame (port : Nat)
  /-- FRAME_START_PACKET (spec/95). -/
  | frameStartPacket (r : Nat)
  /-- CAMERA_LINE_PACKET (spec/95). -/
  | cameraLinePacket (r : Nat) (dt : Nat) (bad : Bool) (pix : List (BitVec 16))
  /-- FRAME_END_PACKET (spec/95). -/
  | frameEndPacket (r : Nat)
  /-- CAMERA_CONTROL_WRITE (spec/95). -/
  | cameraControlWrite (r : Nat) (dw : Nat) (v : BitVec 64)
  /-- CANVAS_APPLY (spec/95). -/
  | canvasApply (canvas : Nat)
  /-- LAYER_ENTRY_WRITE (spec/95). -/
  | layerEntryWrite (canvas : Nat) (layer : Nat) (dw : Nat) (v : BitVec 64)
  /-- WARP_CONFIGURATION_WRITE (spec/95). -/
  | warpConfigurationWrite (dw : Nat) (v : BitVec 64)
  /-- PRFINJ_WRITE (spec/95). -/
  | prfinjWrite (v : BitVec 64)
  /-- PARTITION_REQUEST (spec/95). -/
  | partitionRequest (first : Nat) (v : BitVec 64)
  /-- PARTITION_DISSOLUTION (spec/95). -/
  | partitionDissolution (first : Nat)
  /-- ENGINE_ASSIGNMENT_WRITE (spec/95). -/
  | engineAssignmentWrite (eng : Nat) (v : BitVec 8)
  /-- RRESET (spec/95). -/
  | rreset (fn : Nat) (ctx : BitVec 32)
  /-- APERTURE_READ (spec/95). -/
  | apertureRead (fn : Nat) (ofs : Nat) (n : Nat)
  /-- APERTURE_WRITE (spec/95). -/
  | apertureWrite (fn : Nat) (ofs : Nat) (data : List (BitVec 8))
  /-- FUNCTION_LEVEL_RESET (spec/95). -/
  | functionLevelReset (fn : Nat)
  /-- STAGING_BEGIN (spec/95). -/
  | stagingBegin (kind : Nat)
  /-- STAGING_CHUNK (spec/95). -/
  | stagingChunk (kind : Nat) (ofs : Nat) (data : List (BitVec 8))
  /-- STAGING_PERMIT (spec/95). -/
  | stagingPermit (kind : Nat) (data : List (BitVec 8))
  /-- STAGING_END (spec/95). -/
  | stagingEnd (kind : Nat)
  /-- STAGING_ABORT (spec/95). -/
  | stagingAbort (kind : Nat)
  /-- WAKE (spec/95). -/
  | wake (cause : Nat)
  /-- BOOT_FALLBACK (spec/95). -/
  | bootFallback (kind : Nat)
  /-- THERMAL (spec/95). -/
  | thermal (arg : Nat)
  /-- MEMORY_SCRUB (spec/95). -/
  | memoryScrub (panel : Nat) (sector : Nat)
  /-- REGISTER_WRITE (spec/95). -/
  | registerWrite (fn : Nat) (ofs : Nat) (v : BitVec 64)
  /-- GRID_STEP_PASS (spec/95). -/
  | gridStepPass (tid : Nat) (grp : Nat) (lane : Nat)
  /-- ILLEGAL_OPCODE (spec/95). -/
  | illegalOpcode (w : BitVec 64)
  /-- PORT_LINK_CHANGE (spec/95). -/
  | portLinkChange (port : Nat) (up : Bool)
  /-- DEBUG_PERMIT (spec/95). -/
  | debugPermit (data : List (BitVec 8))
  /-- BANK_SWITCH (spec/95). -/
  | bankSwitch
  /-- GATE_WINDOW_END (spec/95). -/
  | gateWindowEnd
  /-- ADMISSION_INTERVAL (spec/95). -/
  | admissionInterval
  /-- WARP_LATCH (spec/95). -/
  | warpLatch
  /-- STATE_WORD_EXPIRY (spec/95). -/
  | stateWordExpiry
  /-- DEEP_SLEEP (spec/95). -/
  | deepSleep
  /-- TIMED_WAKE (spec/95). -/
  | timedWake
  /-- DEVICE_RESET (spec/95). -/
  | deviceReset
  /-- DEBUG_FREEZE (spec/95). -/
  | debugFreeze
  /-- MILLISECOND (spec/95). -/
  | millisecond
  /-- SECOND (spec/95). -/
  | second
  /-- CODE_ABSENT (spec/95). -/
  | codeAbsent
  /-- POWER_LOSS (spec/95). -/
  | powerLoss
  /-- FIRMWARE_HEALTHY_REPORT (spec/95). -/
  | firmwareHealthyReport
  deriving DecidableEq, Repr

end Sys2Proof
end

