-- ==== Sys2Proof/Machine/Arith.lean ====
section
/-! DEFINITION. Number formats and arithmetic rules (chapter 06): the eight floating-point formats, rounding, NaNs,
conversions, the correctly rounded special functions and the block-48 scale rule, all on exact values. -/

namespace Sys2Proof.Machine

/-- The floating-point types of R138, in code order. -/
inductive FType where
  | fp32 | fp16 | bf16 | e4m3 | e5m2 | e3m2 | e2m3 | e2m1
  deriving DecidableEq, Repr

/-- Type codes 0 to 7 (R35, Table 3). -/
def FType.ofCode : Nat → FType
  | 0 => .fp32 | 1 => .fp16 | 2 => .bf16 | 3 => .e4m3 | 4 => .e5m2 | 5 => .e3m2 | 6 => .e2m3 | _ => .e2m1

/-- Exponent bits e of R138, Table 1. -/
def FType.ebits : FType → Nat
  | .fp32 => 8 | .fp16 => 5 | .bf16 => 8 | .e4m3 => 4 | .e5m2 => 5 | .e3m2 => 3 | .e2m3 => 2 | .e2m1 => 2

/-- Mantissa bits m of R138, Table 1. -/
def FType.mbits : FType → Nat
  | .fp32 => 23 | .fp16 => 10 | .bf16 => 7 | .e4m3 => 3 | .e5m2 => 2 | .e3m2 => 2 | .e2m3 => 3 | .e2m1 => 1

/-- Bias of R138, Table 1. -/
def FType.bias : FType → Int
  | .fp32 => 127 | .fp16 => 15 | .bf16 => 127 | .e4m3 => 7 | .e5m2 => 15 | .e3m2 => 3 | .e2m3 => 1 | .e2m1 => 1

/-- emax of R138, Table 1. -/
def FType.emax : FType → Int
  | .fp32 => 127 | .fp16 => 15 | .bf16 => 127 | .e4m3 => 8 | .e5m2 => 15 | .e3m2 => 4 | .e2m3 => 2 | .e2m1 => 2

/-- Width in bits. -/
def FType.width (t : FType) : Nat := 1 + t.ebits + t.mbits

/-- The type has infinities (R138, Table 1). -/
def FType.hasInf : FType → Bool
  | .fp32 | .fp16 | .bf16 | .e5m2 => true
  | _ => false

/-- The type has NaNs (R138, Table 1). -/
def FType.hasNan : FType → Bool
  | .e3m2 | .e2m3 | .e2m1 => false
  | _ => true

/-- The largest finite value's mantissa as an integer of m + 1 bits: E4M3 gives up its last code to NaN (R139). -/
def FType.maxMant (t : FType) : Nat :=
  match t with
  | .e4m3 => 14
  | _ => 2 ^ (t.mbits + 1) - 1

/-- The bits of the largest finite magnitude. -/
def FType.maxBits (t : FType) : Nat :=
  ((t.emax + t.bias).toNat <<< t.mbits) + (t.maxMant - 2 ^ t.mbits)

/-- The bits of +infinity, for a type that has it. -/
def FType.infBits (t : FType) : Nat := (2 ^ t.ebits - 1) <<< t.mbits

/-- The sign bit in place. -/
def FType.signBit (t : FType) (neg : Bool) : Nat := if neg then 2 ^ (t.ebits + t.mbits) else 0

/-- A decoded value: a NaN with the mantissa field it carries and that field's width, an infinity, or a finite value
`(-1)^neg * m * 2^e` (zero when `m = 0`). -/
inductive FVal where
  | nan (neg : Bool) (mant width : Nat)
  | inf (neg : Bool)
  | fin (neg : Bool) (m : Nat) (e : Int)
  deriving DecidableEq, Repr

/-- R139, R140: decode the low bits of `b`. An E4M3 NaN carries no payload, so it decodes as the quiet bit alone. -/
def FType.decode (t : FType) (b : Nat) : FVal :=
  let neg := (b >>> (t.ebits + t.mbits)) % 2 == 1
  let e := (b >>> t.mbits) % 2 ^ t.ebits
  let m := b % 2 ^ t.mbits
  if e == 2 ^ t.ebits - 1 && t.hasInf then
    if m == 0 then .inf neg else .nan neg m t.mbits
  else if t == .e4m3 && e == 15 && m == 7 then .nan neg 1 1
  else if e == 0 then .fin neg m (1 - t.bias - t.mbits)
  else .fin neg (m + 2 ^ t.mbits) ((e : Int) - t.bias - t.mbits)

/-- Decode an FP32 register. -/
def fp32 (w : BitVec 32) : FVal := FType.fp32.decode w.toNat

def FVal.isNan : FVal → Bool
  | .nan .. => true
  | _ => false

/-- R140: quiet when the most significant mantissa bit is 1. -/
def FVal.isSNan : FVal → Bool
  | .nan _ m w => !(m.testBit (w - 1))
  | _ => false

def FVal.isInf : FVal → Bool
  | .inf _ => true
  | _ => false

def FVal.isZero : FVal → Bool
  | .fin _ 0 _ => true
  | _ => false

def FVal.sign : FVal → Bool
  | .nan n _ _ => n
  | .inf n => n
  | .fin n _ _ => n

/-- The value with its sign replaced. -/
def FVal.withSign (s : Bool) : FVal → FVal
  | .nan _ m w => .nan s m w
  | .inf _ => .inf s
  | .fin _ m e => .fin s m e

abbrev FFlags := BitVec 5

/-- The flag bits of R152, Table 4. -/
def fNV : FFlags := 1
def fDZ : FFlags := 2
def fOF : FFlags := 4
def fUF : FFlags := 8
def fNX : FFlags := 16

/-- Rounding modes of R35, Table 3. -/
inductive RMode where
  | rne | rtz | rdn | rup | rna
  deriving DecidableEq, Repr

def RMode.ofCode : Nat → RMode
  | 0 => .rne | 1 => .rtz | 2 => .rdn | 3 => .rup | _ => .rna

/-- The result of an operation: bits of the result type, and the flags raised. -/
structure FRes where
  bits : Nat
  flags : FFlags
  deriving DecidableEq, Repr

/-- `n * 2^e` over `d` as a fraction of natural numbers. -/
def scale2 (n d : Nat) (e : Int) : Nat × Nat :=
  if 0 ≤ e then (n * 2 ^ e.toNat, d) else (n, d * 2 ^ (-e).toNat)

/-- Floor of log2 of the positive fraction `n / d`. -/
def floorLog2 (n d : Nat) : Int :=
  let g : Int := (n.log2 : Int) - d.log2
  let (a, b) := scale2 n d (-g)
  if a < b then g - 1 else g

/-- Whether a magnitude with integer part `r` and remainder `rem / d` moves up (R144). -/
def roundsUp (mode : RMode) (neg : Bool) (r rem d : Nat) : Bool :=
  match mode with
  | .rne => 2 * rem > d || (2 * rem == d && r % 2 == 1)
  | .rtz => false
  | .rdn => neg && rem != 0
  | .rup => !neg && rem != 0
  | .rna => 2 * rem ≥ d

/-- The integer nearest `n / d` under the mode, and whether it is exact (R144). -/
def roundInt (mode : RMode) (neg : Bool) (n d : Nat) : Nat × Bool :=
  let r := n / d
  let rem := n % d
  (if roundsUp mode neg r rem d then r + 1 else r, rem == 0)

/-- R145, Table 3: whether an overflow under this mode gives an infinity. -/
def overflowsToInf (t : FType) (mode : RMode) (neg : Bool) : Bool :=
  t.hasInf && (match mode with
    | .rne | .rna => true
    | .rtz => false
    | .rdn => neg
    | .rup => !neg)

/-- R144 to R146: round the positive fraction `n / d` with the given sign. -/
def roundPos (t : FType) (mode : RMode) (neg : Bool) (n d : Nat) : FRes :=
  let l := floorLog2 n d
  let mb : Int := t.mbits
  let qmin := 1 - t.bias - mb
  let q := max (l - mb) qmin
  let (a, b) := scale2 n d (-q)
  let (r, exact) := roundInt mode neg a b
  let ovf := q ≥ t.emax - mb && r * 2 ^ (q - (t.emax - mb)).toNat > t.maxMant
  if ovf then
    ⟨t.signBit neg + (if overflowsToInf t mode neg then t.infBits else t.maxBits), fOF ||| fNX⟩
  else
    let (a', b') := scale2 n d (mb - l)
    let unbounded := (roundInt mode neg a' b').1
    let tiny := l < 1 - t.bias && !(l == -t.bias && unbounded == 2 ^ (t.mbits + 1))
    ⟨t.signBit neg + ((q - qmin).toNat <<< t.mbits) + r,
      if exact then 0 else if tiny then fNX ||| fUF else fNX⟩

/-- R144: round an exact signed fraction; a zero keeps the sign it is given. -/
def roundFrac (t : FType) (mode : RMode) (neg : Bool) (n d : Nat) : FRes :=
  if n == 0 then ⟨t.signBit neg, 0⟩ else roundPos t mode neg n d

/-- R144: round `(-1)^neg * m * 2^e`. -/
def roundDyadic (t : FType) (mode : RMode) (neg : Bool) (m : Nat) (e : Int) : FRes :=
  let (n, d) := scale2 m 1 e
  roundFrac t mode neg n d

/-- R140, Table 2: the default NaN. -/
def FType.defaultNan : FType → Nat
  | .fp32 => 0x7FC00000 | .fp16 => 0x7E00 | .bf16 => 0x7FC0 | .e4m3 => 0x7F | _ => 0x7E

/-- `Quiet` of a NaN in a type that has NaNs (R147, R150): the sign and the most significant payload bits that fit. -/
def quietTo (t : FType) (neg : Bool) (mant width : Nat) : Nat :=
  match t with
  | .e4m3 => t.signBit neg + 0x7F
  | _ =>
    let m := if width ≤ t.mbits then mant <<< (t.mbits - width) else mant >>> (width - t.mbits)
    t.signBit neg + t.infBits + (m ||| 2 ^ (t.mbits - 1))

/-- R150: conversion of a decoded value, scaled by `2^k`, into a floating-point type. -/
def convertScaled (t : FType) (mode : RMode) (x : FVal) (k : Int) : FRes :=
  match x with
  | .nan neg m w =>
    let inv : FFlags := if x.isSNan then fNV else 0
    if t.hasNan then ⟨quietTo t neg m w, inv⟩ else ⟨t.signBit neg + t.maxBits, fNV⟩
  | .inf neg =>
    if t.hasInf then ⟨t.signBit neg + t.infBits, 0⟩
    else if t == .e4m3 then ⟨t.signBit neg + 0x7F, fNV⟩
    else ⟨t.signBit neg + t.maxBits, fOF ||| fNX⟩
  | .fin neg m e => roundDyadic t mode neg m (e + k)

/-- R150. -/
def convert (t : FType) (mode : RMode) (x : FVal) : FRes := convertScaled t mode x 0

/-- Invalid when some operand is a signalling NaN (R147). -/
def snanFlag (xs : List FVal) : FFlags := if xs.any FVal.isSNan then fNV else 0

/-- R147: `Quiet` of the first NaN of a list, in the result's type. -/
def firstNan (t : FType) : List FVal → Option Nat
  | [] => none
  | .nan n m w :: _ => some (quietTo t n m w)
  | _ :: xs => firstNan t xs

/-- The integer `(-1)^neg * m * 2^(e - lo)` for `lo ≤ e`. -/
def signedAt (neg : Bool) (m : Nat) (e lo : Int) : Int :=
  let v : Int := (m * 2 ^ (e - lo).toNat : Nat)
  if neg then -v else v

/-- R144: the rounded sum of two finite values; an exact zero sum of opposite signs is +0, or -0 under RDN. -/
def addFin (t : FType) (mode : RMode) (n1 : Bool) (m1 : Nat) (e1 : Int) (n2 : Bool) (m2 : Nat) (e2 : Int) : FRes :=
  let lo := min e1 e2
  let s := signedAt n1 m1 e1 lo + signedAt n2 m2 e2 lo
  if s == 0 then
    ⟨t.signBit (if n1 == n2 then n1 else mode == .rdn), 0⟩
  else roundDyadic t mode (s < 0) s.natAbs lo

/-- `a + b` in a type (R144-R148, R182). -/
def fadd (t : FType) (mode : RMode) (a b : FVal) : FRes :=
  match firstNan t [a, b] with
  | some r => ⟨r, snanFlag [a, b]⟩
  | none =>
    match a, b with
    | .inf n1, .inf n2 => if n1 == n2 then ⟨t.signBit n1 + t.infBits, 0⟩ else ⟨t.defaultNan, fNV⟩
    | .inf n, _ => ⟨t.signBit n + t.infBits, 0⟩
    | _, .inf n => ⟨t.signBit n + t.infBits, 0⟩
    | .fin n1 m1 e1, .fin n2 m2 e2 => addFin t mode n1 m1 e1 n2 m2 e2
    | _, _ => ⟨t.defaultNan, fNV⟩

/-- `a - b`: the sign of b is inverted unless b is a NaN (R182). -/
def fsub (t : FType) (mode : RMode) (a b : FVal) : FRes :=
  fadd t mode a (if b.isNan then b else b.withSign (!b.sign))

/-- `a * b` (R144-R148, R182). -/
def fmul (t : FType) (mode : RMode) (a b : FVal) : FRes :=
  match firstNan t [a, b] with
  | some r => ⟨r, snanFlag [a, b]⟩
  | none =>
    let s := a.sign != b.sign
    if (a.isInf && b.isZero) || (a.isZero && b.isInf) then ⟨t.defaultNan, fNV⟩
    else match a, b with
      | .fin _ m1 e1, .fin _ m2 e2 => roundDyadic t mode s (m1 * m2) (e1 + e2)
      | _, _ => ⟨t.signBit s + t.infBits, 0⟩

/-- R149 in a type: one rounding of `a * b + c`. -/
def ffma (t : FType) (mode : RMode) (a b c : FVal) : FRes :=
  let inv := (a.isZero && b.isInf) || (a.isInf && b.isZero)
  match firstNan t [c] with
  | some r => ⟨r, if inv then fNV else snanFlag [a, b, c]⟩
  | none =>
    match firstNan t [a, b] with
    | some r => ⟨r, snanFlag [a, b]⟩
    | none =>
      let s := a.sign != b.sign
      if inv then ⟨t.defaultNan, fNV⟩
      else match a, b, c with
        | .fin _ m1 e1, .fin _ m2 e2, .fin n3 m3 e3 => addFin t mode s (m1 * m2) (e1 + e2) n3 m3 e3
        | .fin .., .fin .., .inf n => ⟨t.signBit n + t.infBits, 0⟩
        | _, _, .inf n => if n == s then ⟨t.signBit n + t.infBits, 0⟩ else ⟨t.defaultNan, fNV⟩
        | _, _, _ => ⟨t.signBit s + t.infBits, 0⟩

/-- A finite or infinite value as a rank for comparison: the sign of `a - b` for values that are not NaN. -/
def fcmp (a b : FVal) : Ordering :=
  match a, b with
  | .inf n1, .inf n2 => if n1 == n2 then .eq else if n1 then .lt else .gt
  | .inf n, _ => if n then .lt else .gt
  | _, .inf n => if n then .gt else .lt
  | .fin n1 m1 e1, .fin n2 m2 e2 =>
    let lo := min e1 e2
    compare (signedAt n1 m1 e1 lo) (signedAt n2 m2 e2 lo)
  | _, _ => .eq

/-- `Pick` of R183: −0 counts as less than +0; equal operands of equal sign give a. -/
def fpick (wantMax : Bool) (a b : BitVec 32) : BitVec 32 :=
  let va := fp32 a
  let vb := fp32 b
  let o : Ordering := match fcmp va vb with
    | .eq => if va.sign == vb.sign then .eq else if va.sign then .lt else .gt
    | o => o
  match o with
  | .eq => a
  | .lt => if wantMax then b else a
  | .gt => if wantMax then a else b

/-- FMIN and FMAX (R183): prefer a number to a NaN. -/
def fminmax (wantMax : Bool) (a b : BitVec 32) : FRes :=
  let va := fp32 a
  let vb := fp32 b
  let fl := snanFlag [va, vb]
  if va.isNan && vb.isNan then ⟨(firstNan .fp32 [va]).getD 0, fl⟩
  else if va.isNan then ⟨b.toNat, fl⟩
  else if vb.isNan then ⟨a.toNat, fl⟩
  else ⟨(fpick wantMax a b).toNat, fl⟩

/-- FMINP and FMAXP (R183): propagate a NaN. -/
def fminmaxp (wantMax : Bool) (a b : BitVec 32) : FRes :=
  let va := fp32 a
  let vb := fp32 b
  match firstNan .fp32 [va, vb] with
  | some r => ⟨r, snanFlag [va, vb]⟩
  | none => ⟨(fpick wantMax a b).toNat, 0⟩

/-- FSETP (R185): the condition codes of R169, and invalid. -/
def fsetp (cmp : Nat) (a b : BitVec 32) : Bool × FFlags :=
  let va := fp32 a
  let vb := fp32 b
  let nan := va.isNan || vb.isNan
  let o := fcmp va vb
  let r := if nan then cmp == 1 || cmp == 7 else
    match cmp with
    | 0 => o == .eq
    | 1 => o != .eq
    | 2 => o == .lt
    | 3 => o != .gt
    | 4 => o == .gt
    | 5 => o != .lt
    | 6 => true
    | _ => false
  let quietInvalid := nan && 2 ≤ cmp && cmp ≤ 5
  (r, if quietInvalid then fNV else snanFlag [va, vb])

/-- FCLASS (R186). -/
def fclass (a : BitVec 32) : Nat :=
  match fp32 a with
  | .inf true => 1
  | .inf false => 128
  | .nan n m w => if (FVal.nan n m w).isSNan then 256 else 512
  | .fin n m _ =>
    if m == 0 then (if n then 8 else 16)
    else if m < 2 ^ 23 then (if n then 4 else 32)
    else (if n then 2 else 64)

/-- FRND (R187). -/
def frnd (mode : RMode) (a : BitVec 32) : FRes :=
  match fp32 a with
  | .nan n m w => ⟨quietTo .fp32 n m w, snanFlag [.nan n m w]⟩
  | .inf _ => ⟨a.toNat, 0⟩
  | .fin n m e =>
    if m == 0 || 0 ≤ e then ⟨a.toNat, 0⟩
    else
      let (r, _) := roundInt mode n m (2 ^ (-e).toNat)
      ⟨(roundDyadic .fp32 .rne n r 0).bits, 0⟩

/-- Integer types, codes 8 to 14 (R35): width and signedness. -/
def intWidth (code : Nat) : Nat :=
  if code ≤ 9 then 32 else if code ≤ 11 then 16 else if code ≤ 13 then 8 else 4

def intSigned (code : Nat) : Bool := code % 2 == 0

def intMin (code : Nat) : Int := if intSigned code then -(2 ^ (intWidth code - 1) : Nat) else 0

def intMax (code : Nat) : Int :=
  if intSigned code then (2 ^ (intWidth code - 1) : Nat) - 1 else (2 ^ intWidth code : Nat) - 1

/-- `Sat(x, type)`. -/
def satInt (code : Nat) (x : Int) : Int := min (max x (intMin code)) (intMax code)

/-- R151, R191: the result as the low 32 bits, sign- or zero-extended by its type. -/
def f2i (code : Nat) (mode : RMode) (a : BitVec 32) : BitVec 32 × FFlags :=
  match fp32 a with
  | .nan .. => (0, fNV)
  | .inf n => (BitVec.ofInt 32 (if n then intMin code else intMax code), fNV)
  | .fin n m e =>
    let (p, q) := scale2 m 1 e
    let (r, exact) := roundInt mode n p q
    let v : Int := if n then -(r : Int) else r
    if v < intMin code || intMax code < v then (BitVec.ofInt 32 (satInt code v), fNV)
    else (BitVec.ofInt 32 v, if exact then 0 else fNX)

/-- The low w bits of `a` as an integer of a type of codes 8 to 14. -/
def intOf (code : Nat) (a : BitVec 32) : Int :=
  let w := intWidth code
  let v := a.toNat % 2 ^ w
  if intSigned code && v ≥ 2 ^ (w - 1) then (v : Int) - (2 ^ w : Nat) else v

/-- R151, R192. -/
def i2f (t : FType) (code : Nat) (mode : RMode) (a : BitVec 32) : FRes :=
  let x := intOf code a
  roundFrac t mode (x < 0) x.natAbs 1

/-! ### Special functions (R155): exact rationals, square roots by integer square root, the rest by fixed-point series
with `seriesBits` fractional bits. A transcendental value lies strictly between two neighbours of that grid and is rounded
from there; log entry 20 says what this rests on. -/

/-- Fractional bits of the series. -/
def seriesBits : Nat := 400

/-- Floor of the square root, one bit per step from bit `k - 1` down. -/
def isqrtAux (n : Nat) : Nat → Nat → Nat
  | 0, r => r
  | k + 1, r =>
    let c := r + 2 ^ k
    isqrtAux n k (if c * c ≤ n then c else r)

def isqrt (n : Nat) : Nat := isqrtAux n (n.log2 / 2 + 1) 0

/-- Round the square root of the positive fraction `n / d`: scaled so that the integer root has at least 64 bits, and
taken as lying strictly inside its unit when the root is not exact. -/
def roundSqrt (mode : RMode) (n d : Nat) : FRes :=
  let sh := 2 * (64 + d.log2)
  let x := n * 2 ^ sh / d
  let r := isqrt x
  if r * r * d == n * 2 ^ sh then roundFrac .fp32 mode false r (2 ^ (sh / 2))
  else roundFrac .fp32 mode false (2 * r + 1) (2 ^ (sh / 2 + 1))

/-- A value strictly between `t` and `t + 1` in units of `2^-seriesBits`, rounded under RNE. -/
def roundInside (neg : Bool) (t : Nat) : FRes :=
  roundFrac .fp32 .rne neg (2 * t + 1) (2 ^ (seriesBits + 1))

/-- `sum of y^k / k!` by Horner-like accumulation of terms, in fixed point: `fuel` terms from term `k`. -/
def expAux (y : Nat) : Nat → Nat → Nat → Nat → Nat
  | 0, _, _, acc => acc
  | fuel + 1, k, term, acc =>
    let term' := term * y / 2 ^ seriesBits / (k + 1)
    expAux y fuel (k + 1) term' (acc + term')

/-- e^y for fixed-point `y` in [0, 1). -/
def expFix (y : Nat) : Nat := expAux y 100 0 (2 ^ seriesBits) (2 ^ seriesBits)

/-- The sum over k of `z^(2k+1) / (2k+1)`, alternating when `alt`, in fixed point: area tangent or arc tangent. -/
def atanAux (z2 : Nat) (alt : Bool) : Nat → Nat → Nat → Int → Int
  | 0, _, _, acc => acc
  | fuel + 1, k, p, acc =>
    let t : Int := (p / (2 * k + 1) : Nat)
    atanAux z2 alt fuel (k + 1) (p * z2 / 2 ^ seriesBits) (if alt && k % 2 == 1 then acc - t else acc + t)

/-- `atanh z` (alt false) or `atan z` (alt true) of the fixed-point `z`. -/
def atanFix (alt : Bool) (z : Nat) : Nat :=
  (atanAux (z * z / 2 ^ seriesBits) alt 200 0 z 0).toNat

/-- ln 2 = 2 atanh (1/3). -/
def ln2Fix : Nat := 2 * atanFix false (2 ^ seriesBits / 3)

/-- pi = 16 atan (1/5) - 4 atan (1/239). -/
def piFix : Nat := 16 * atanFix true (2 ^ seriesBits / 5) - 4 * atanFix true (2 ^ seriesBits / 239)

/-- The sum of `y^(2k+1)/(2k+1)!` or `y^(2k)/(2k)!`, alternating when `alt`. -/
def trigAux (y2 : Nat) (alt : Bool) : Nat → Nat → Nat → Int → Int
  | 0, _, _, acc => acc
  | fuel + 1, k, term, acc =>
    let term' := term * y2 / 2 ^ seriesBits / ((k + 1) * (k + 2))
    trigAux y2 alt fuel (k + 2) term' (if alt && k / 2 % 2 == 0 then acc - term' else acc + term')

/-- sine (alt) or hyperbolic sine. -/
def sinFix (alt : Bool) (y : Nat) : Nat := (trigAux (y * y / 2 ^ seriesBits) alt 150 1 y y).toNat

/-- cosine (alt) or hyperbolic cosine. -/
def cosFix (alt : Bool) (y : Nat) : Nat :=
  (trigAux (y * y / 2 ^ seriesBits) alt 150 0 (2 ^ seriesBits) (2 ^ seriesBits : Nat)).toNat

/-- A finite magnitude `m * 2^e` in fixed point; exact for `e ≥ -seriesBits`. -/
def toFix (m : Nat) (e : Int) : Nat :=
  let k := e + seriesBits
  if 0 ≤ k then m * 2 ^ k.toNat else m / 2 ^ (-k).toNat

/-- FEXP2 of a finite nonzero operand. -/
def exp2Fin (neg : Bool) (m : Nat) (e : Int) : FRes :=
  if !neg && floorLog2 (scale2 m 1 e).1 (scale2 m 1 e).2 ≥ 9 then roundPos .fp32 .rne false (2 ^ 300) 1
  else if neg && floorLog2 (scale2 m 1 e).1 (scale2 m 1 e).2 ≥ 9 then roundPos .fp32 .rne false 1 (2 ^ 300)
  else
    let x : Int := if neg then -(toFix m e : Int) else toFix m e
    let one : Int := (2 ^ seriesBits : Nat)
    let n := x / one
    let f := (x % one).toNat
    if f == 0 then roundDyadic .fp32 .rne false 1 n
    else
      let t := expFix (f * ln2Fix / 2 ^ seriesBits)
      let (a, b) := scale2 (2 * t + 1) (2 ^ (seriesBits + 1)) n
      roundFrac .fp32 .rne false a b

/-- FLOG2 of a positive finite operand. -/
def log2Fin (m : Nat) (e : Int) : FRes :=
  let k : Int := m.log2
  let z := m - 2 ^ m.log2
  if z == 0 then
    let v := k + e
    roundFrac .fp32 .rne (v < 0) v.natAbs 1
  else
    let y := z * 2 ^ seriesBits / (m + 2 ^ m.log2)
    let frac := 2 * atanFix false y * 2 ^ seriesBits / ln2Fix
    let v : Int := (k + e) * (2 ^ seriesBits : Nat) + frac
    if 0 ≤ v then roundInside false v.toNat else roundInside true (v.natAbs - 1)

/-- `sin (pi r)` or `cos (pi r)` for `r = f / 2^seriesBits` in [0, 2), as a sign and a fixed-point magnitude, reduced to a
first-octant-free quarter turn. -/
def sinPiFix (f : Nat) : Bool × Nat :=
  let one := 2 ^ seriesBits
  let neg := f ≥ one
  let g := f % one
  let h := if 2 * g > one then one - g else g
  (neg, sinFix true (h * piFix / one))

/-- FSINPI of a finite nonzero operand (R155, Table 5). -/
def sinPiFin (neg : Bool) (m : Nat) (e : Int) : FRes :=
  if 0 ≤ e then ⟨FType.fp32.signBit neg, 0⟩
  else
    let one := 2 ^ seriesBits
    let f := toFix m e % (2 * one)
    if f % one == 0 then ⟨FType.fp32.signBit neg, 0⟩
    else if 2 * f % one == 0 then
      roundFrac .fp32 .rne (neg != (decide (f ≥ one))) 1 1
    else
      let (s, t) := sinPiFix f
      roundInside (neg != s) t

/-- FCOSPI of a finite operand: cos (pi x) = sin (pi (|x| + 1/2)). -/
def cosPiFin (m : Nat) (e : Int) : FRes :=
  let one := 2 ^ seriesBits
  let f := (toFix m e + one / 2) % (2 * one)
  if f % one == 0 then ⟨0, 0⟩
  else if 2 * f % one == 0 then roundFrac .fp32 .rne (decide (f ≥ one)) 1 1
  else
    let (s, t) := sinPiFix f
    roundInside s t

/-- FTANH of a finite nonzero operand: beyond 16 the value is nearer to 1 than a quarter of a unit in the last place. -/
def tanhFin (neg : Bool) (m : Nat) (e : Int) : FRes :=
  if floorLog2 (scale2 m 1 e).1 (scale2 m 1 e).2 ≥ 4 then roundFrac .fp32 .rne neg (2 ^ 64 - 1) (2 ^ 64)
  else
    let y := toFix m e
    roundInside neg (sinFix false y * 2 ^ seriesBits / cosFix false y)

/-- The nine special functions, the code of R164's order. -/
inductive SFunc where
  | fdiv | fsqrt | frcp | frsq | fexp2 | flog2 | fsinpi | fcospi | ftanh
  deriving DecidableEq, Repr

/-- FDIV of operands that are not NaN (R155). -/
def fdivNum (mode : RMode) (a b : FVal) : FRes :=
  let t := FType.fp32
  let s := a.sign != b.sign
  match a, b with
  | .inf _, .inf _ => ⟨t.defaultNan, fNV⟩
  | .inf _, _ => ⟨t.signBit s + t.infBits, 0⟩
  | _, .inf _ => ⟨t.signBit s, 0⟩
  | .fin _ m1 e1, .fin _ m2 e2 =>
    if m2 == 0 then
      if m1 == 0 then ⟨t.defaultNan, fNV⟩ else ⟨t.signBit s + t.infBits, fDZ⟩
    else
      let (n, d) := scale2 m1 m2 (e1 - e2)
      roundFrac t mode s n d
  | _, _ => ⟨t.defaultNan, fNV⟩

/-- A function of one operand that is not a NaN (R155, Table 5). -/
def sfuncNum (f : SFunc) (mode : RMode) (a : FVal) : FRes :=
  let t := FType.fp32
  let bad : FRes := ⟨t.defaultNan, fNV⟩
  match f, a with
  | .fdiv, _ => bad
  | .frcp, _ => fdivNum mode (.fin false 1 0) a
  | .fsqrt, .inf n => if n then bad else ⟨t.infBits, 0⟩
  | .fsqrt, .fin n m e =>
    if m == 0 then ⟨t.signBit n, 0⟩ else if n then bad
    else roundSqrt mode (scale2 m 1 e).1 (scale2 m 1 e).2
  | .frsq, .inf n => if n then bad else ⟨0, 0⟩
  | .frsq, .fin n m e =>
    if m == 0 then ⟨t.signBit n + t.infBits, fDZ⟩ else if n then bad
    else roundSqrt .rne (scale2 m 1 e).2 (scale2 m 1 e).1
  | .fexp2, .inf n => ⟨if n then 0 else t.infBits, 0⟩
  | .fexp2, .fin n m e => if m == 0 then ⟨0x3F800000, 0⟩ else exp2Fin n m e
  | .flog2, .inf n => if n then bad else ⟨t.infBits, 0⟩
  | .flog2, .fin n m e =>
    if m == 0 then ⟨t.signBit true + t.infBits, fDZ⟩ else if n then bad else log2Fin m e
  | .fsinpi, .inf _ => bad
  | .fsinpi, .fin n m e => if m == 0 then ⟨t.signBit n, 0⟩ else sinPiFin n m e
  | .fcospi, .inf _ => bad
  | .fcospi, .fin _ m e => cosPiFin m e
  | .ftanh, .inf n => ⟨t.signBit n + 0x3F800000, 0⟩
  | .ftanh, .fin n m e => if m == 0 then ⟨t.signBit n, 0⟩ else tanhFin n m e
  | _, .nan .. => bad

/-- R155, R188: a special function of its operand bits (b is used by FDIV only). -/
def sfunc (f : SFunc) (mode : RMode) (a b : BitVec 32) : FRes :=
  let va := fp32 a
  let vb := fp32 b
  if f == .fdiv then
    match firstNan .fp32 [va, vb] with
    | some r => ⟨r, snanFlag [va, vb]⟩
    | none => fdivNum mode va vb
  else
    match firstNan .fp32 [va] with
    | some r => ⟨r, snanFlag [va]⟩
    | none => sfuncNum f mode va

/-- The scale of R157 and R193 for a positive finite magnitude `m * 2^e`. -/
def scaleCode (t : FType) (m : Nat) (e : Int) : Nat :=
  let k := floorLog2 (scale2 m 1 e).1 (scale2 m 1 e).2 - t.emax + 127
  (min (max k 0) 254).toNat

/-- QSCALE of a magnitude (R193). -/
def qscaleOf (t : FType) (m : FVal) : Nat :=
  match m with
  | .nan .. => 0xFF
  | .inf _ => if t == .e5m2 then 0xEF else 0xFF
  | .fin _ n e => if n == 0 then 0x7F else scaleCode t n e

/-- The magnitude of a value of a floating-point type as the bits of a non-negative FP32 (R160): exact for every source
type. -/
def magFp32 (x : FVal) : Nat :=
  match x with
  | .nan .. => 0
  | .inf _ => FType.fp32.infBits
  | .fin _ m e => (roundDyadic .fp32 .rne false m e).bits

/-- R160: the new AMAX after one source element. -/
def amaxStep (amax : BitVec 32) (x : FVal) : BitVec 32 :=
  if x.isNan then amax ||| 0x80000000#32
  else
    let old := amax.toNat % 2 ^ 31
    BitVec.ofNat 32 ((amax.toNat / 2 ^ 31) * 2 ^ 31 + max old (magFp32 x))

/-- R159: what an SWR of AMAX stores. -/
def amaxWrite (v : BitVec 32) : BitVec 32 :=
  if v.toNat % 2 ^ 31 > 0x7F800000 then 0xFF800000#32 else v

/-- QDEQ of an element code (R195). -/
def qdeq (t : FType) (mode : RMode) (code k : Nat) : FRes :=
  if k == 0xFF then ⟨0x7FC00000, 0⟩
  else convertScaled .fp32 mode (t.decode code) ((k : Int) - 127)

/-- One element of QCVT (R194). -/
def qcvtElem (t : FType) (mode : RMode) (x : FVal) (k : Nat) : FRes :=
  if k == 0xFF then ⟨0, snanFlag [x]⟩
  else convertScaled t mode x (127 - (k : Int))

end Sys2Proof.Machine
end

