-- ==== Sys2Proof/Machine/State.lean ====
section
/-! DEFINITION. The state of the machine as plain data, what ends a run, and the machine right after reset. -/

namespace Sys2Proof.Machine

/-! ## Registers -/

/-- The states of a register (R81, Table 2). -/
inductive RState where
  | full | pending | void
  deriving DecidableEq, Repr

/-- A V register slot or a G register: value, state (R81), poison (R84), tag-poison PT (R461). -/
structure Slot where
  val : BitVec 32
  st : RState
  poison : Bool
  pt : Bool
  deriving DecidableEq, Repr

/-- Full, zero and not poisoned (R76). -/
def Slot.zero : Slot := ⟨0, .full, false, false⟩

/-- Where a register field resolves (R77): nothing for NULL, a register slot, a G register. -/
inductive Ref where
  | null
  | v (slot : Nat)
  | g (num : Nat)
  deriving DecidableEq, Repr

/-- A value read from an operand of any width, with its poison and PT (R462), and where its lowest poisoned register
lies, encoded as R348 encodes a slot. -/
structure Opnd where
  val : Nat
  poison : Bool
  pt : Bool
  loc : Nat
  deriving DecidableEq, Repr

/-! ## Traps -/

/-- The trap causes of R348, Table 7, in code order from 1. -/
inductive Cause where
  | illegalOpcode | illegalEncoding | privilege | regBounds | emptyRead | emptyNoProducer | modeAlias | syncMask
  | codeAbsent | address | align | paletteBounds | rangeLock | tagMismatch | classStore | arith | imageVersion
  | template | noEngine | launchFault | user
  deriving DecidableEq, Repr

/-- The code of a cause (R348, Table 7). -/
def Cause.code : Cause → Nat
  | .illegalOpcode => 1 | .illegalEncoding => 2 | .privilege => 3 | .regBounds => 4 | .emptyRead => 5
  | .emptyNoProducer => 6 | .modeAlias => 7 | .syncMask => 8 | .codeAbsent => 9 | .address => 10 | .align => 11
  | .paletteBounds => 12 | .rangeLock => 13 | .tagMismatch => 14 | .classStore => 15 | .arith => 16
  | .imageVersion => 17 | .template => 18 | .noEngine => 19 | .launchFault => 20 | .user => 21

/-- A trap to be taken: cause, INFO (R347) and the value of TRAPA. -/
structure Trap where
  cause : Cause
  info : BitVec 16
  addr : BitVec 64
  deriving DecidableEq, Repr

/-- A trap a thread takes at its next issue opportunity (R245, R321, R464), with the address TRAPPC will hold. -/
structure PendTrap where
  trap : Trap
  pc : BitVec 64
  deriving DecidableEq, Repr

/-! ## Threads and groups -/

/-- Where an access waits for stage B (R242, R243): nowhere, in an entry of a panel's merge table, or refused by a panel
and to be retried in the order `ord`. -/
inductive Wait where
  | no
  | merge (panel idx : Nat)
  | refused (panel ord : Nat)
  deriving DecidableEq, Repr

/-- An access that an instruction makes at issue without an IFR entry (a range-table walk, a descriptor, a completion
record, R238, R376, R386, R387), waiting for stage B, or, with the key it was translated to and its expected tag (R444, R450), for its
gate or the thread's own earlier accesses. `kind` is the fault record's (R244); `got` is the descriptor that a waiting LAUNCH, LAUNCHW or LPUB
has read (R386, R419). -/
structure Probe where
  va : BitVec 64
  dia : Nat
  kind : Nat
  wait : Wait
  key : Option Nat := none
  slot : Nat := 0
  tag : BitVec 4 := 0
  got : Option Nat := none
  deriving DecidableEq, Repr

/-- A thread (R53, R74-R80, R86). P7 is not stored. `aw` is AW64; `mx`, `mt`, `scaled`, `shape` and `mtype` are the
fields of MODE (R204). `wakeAt` is the target of a waiting WAITT, `cwait` the address of a waiting CWAIT; `consumed` says that the thread consumed poison and
performs nothing until its context is rolled back or its launch abandoned (R463, R469). -/
structure Thread where
  live : Bool
  regs : List Slot
  preds : BitVec 7
  wb : Nat
  ix : BitVec 10
  aw : BitVec 4
  mx : Bool
  mt : Bool
  scaled : Bool
  shape : BitVec 2
  mtype : BitVec 4
  amax : BitVec 32
  trapc : BitVec 32
  trappc : BitVec 64
  trapa : BitVec 64
  ptrap : Option PendTrap
  wakeAt : Option (BitVec 64)
  cwait : Option (BitVec 64)
  consumed : Bool
  probe : Option Probe
  deriving DecidableEq, Repr

/-- The YIELD state of an entry (R116): its cycles have not run out, and it waits for another entry to issue. -/
structure YieldSt where
  cycles : Nat
  waits : Bool
  deriving DecidableEq, Repr

/-- A frontier entry (R60, Table 2). `blocked` marks the members that wait in a blocking instruction (R61); `arrived`
says that the members have arrived at a collective and wait at its PC (R119). -/
structure Entry where
  pc : BitVec 64
  prio : BitVec 8
  mask : BitVec 32
  age : Nat
  solitary : Bool
  blocked : BitVec 32
  arrived : Bool
  yld : Option YieldSt
  deriving DecidableEq, Repr

/-- One arrival at a synchronisation instance: who, the mask supplied, the operands read at arrival, where the results
go, and the sequence number of its IFR entry (R118, R137). -/
structure Arrival where
  grp : Nat
  lane : Nat
  vals : List Opnd
  pred : Bool
  dst : Ref
  pd : Nat
  seq : Nat
  deriving DecidableEq, Repr

/-- The collectives (R118). -/
inductive CollOp where
  | barg | bart | vote | elect | shfl | redg | scang | matchG
  deriving DecidableEq, Repr

/-- An open synchronisation instance with its key (R118). -/
structure Instance where
  op : CollOp
  modf : Nat
  mask : BitVec 32
  arrivals : List Arrival
  deriving DecidableEq, Repr

/-- A group (R52, R55, R60, R79, R86). -/
structure Group where
  lanes : List Thread
  gregs : List Slot
  flags : BitVec 5
  fctl : BitVec 5
  allot : Nat
  role : Nat
  entries : List Entry
  insts : List Instance
  pipe : Option (Nat × Nat)
  served : Nat
  deriving DecidableEq, Repr

/-- The issuing entry of the step being performed: team, group, index of the entry, and the members that issue. -/
structure Cur where
  tid : Nat
  grp : Nat
  ent : Nat
  deriving DecidableEq, Repr

/-! ## The in-flight record -/

/-- A piece of a memory access, whole at its home (R248, R265): virtual address, DIA (or byte of the controller's private
memory when `prv`), length, data or atomic operand, compared value, key and key slot (R439), whether tags are checked
(R235 TCHK), performed or answered, where it waits, and whether a stop's snapshot found it waiting, so that only its replay sends it
again (R342). -/
structure Piece where
  va : BitVec 64
  dia : Nat
  len : Nat
  data : Nat
  cmp : Nat
  key : Nat
  slot : Nat
  chk : Bool
  prv : Bool
  done : Bool
  wait : Wait
  held : Bool := false
  deriving DecidableEq, Repr

/-- What an IFR entry's operand block holds for one lane: its destination, its operand bits, and its progress (`fw`: it
was refused, or discarded with its thread); for a memory access its pieces, the value answered, and the threads (group, lane) on whose behalf the
lane acts, one but for a uniform issue (R57, R89). -/
structure LaneOp where
  lane : Nat
  dst : Ref
  a : Nat
  b : Nat
  done : Bool
  fw : Bool
  poison : Bool := false
  pt : Bool := false
  pieces : List Piece := []
  res : Nat := 0
  who : List (Nat × Nat) := []
  deriving DecidableEq, Repr

/-- The operation of an IFR entry (R334, Table 4), with what its replay needs. -/
inductive IfrOp where
  | sfu (f : SFunc) (mode : RMode)
  | arrival
  | ld (ldk : Bool)
  | tagrd
  | st
  | tagwr
  | atom (op : Nat)
  | acas
  | red (op : Nat)
  | mxst
  | arrive
  | cfetch
  | stld
  | copy (multi : Bool)
  | refill
  | tex (mode comp : Nat) (mark : Bool) (pd : Nat)
  | ray (mode arg pd : Nat)
  | rast
  deriving DecidableEq, Repr

/-- An IFR entry (R331-R333): index, sequence number, issuing group and instruction word, and its lanes. -/
structure IfrEntry where
  idx : Nat
  seq : Nat
  op : IfrOp
  grp : Nat
  ord : Nat
  scope : Nat
  sz : Nat
  aux : Nat
  hnd : Nat
  dwords : Nat
  pc : BitVec 64
  lanes : List LaneOp
  deriving DecidableEq, Repr

/-! ## Memory (chapters 09, 10, 11, 17, 18) -/

/-- A 64-byte sector that a write has stored since reset (R458-R460, R520): its number (physical address / 64), the DIA
sector it was written under, its allocation tag, the key with which each 32-byte unit was encrypted (0: no key of the
model's, the cells it held before), whether it carries the poison pattern, and the symbol errors of its codeword. Its
bytes stand, decrypted, in `State.mem`. -/
structure Sector where
  idx : Nat
  dia : Nat
  tag : BitVec 4
  key0 : Nat
  key1 : Nat
  poison : Bool
  err : List (Nat × BitVec 16)
  deriving DecidableEq, Repr

/-- A dirty sector of a home L2 (R259): what LPDDR-6 holds beneath it. -/
structure Dirty where
  idx : Nat
  sector : Option Sector
  bytes : Nat
  deriving DecidableEq, Repr

/-- A sector in a core's L1 (R258, R270): DIA / 64, bytes, unit keys, and whether `LDK` has read it. -/
structure L1Sector where
  core : Nat
  dia : Nat
  bytes : Nat
  key0 : Nat
  key1 : Nat
  ldk : Bool
  deriving DecidableEq, Repr

/-- A range table entry that translates (R235), as a range register holds it. -/
structure RangeEnt where
  vbase : Nat
  vlimit : Nat
  dia : Nat
  key : Nat
  cls : BitVec 8
  shared : Bool
  prot : Bool
  tchk : Bool
  x : Bool
  w : Bool
  r : Bool
  deriving DecidableEq, Repr

/-- A merge entry that is not Free (R242, R243): its page (DIA / 65,536), Held or Posted, the record of the access that
allocated it, and the order in which a Held entry waits for the queue. -/
structure Merge where
  idx : Nat
  page : Nat
  posted : Bool
  va : BitVec 64
  dia : Nat
  ctx : BitVec 32
  kind : Nat
  ord : Nat
  deriving DecidableEq, Repr

/-- A fault record in a partition's queue (R244, Table 5). -/
structure FaultRec where
  va : BitVec 64
  dia : Nat
  ctx : BitVec 32
  panel : Nat
  merge : Nat
  kind : Nat
  time : BitVec 64
  deriving DecidableEq, Repr

/-- An entry of a range-lock table (R294): the operation that registered it, the palette (a team) or memory it covers,
its bytes from `lo` up to but not including `hi`, and whether it is a destination. -/
structure Lock where
  owner : Nat
  pal : Option Nat
  lo : Nat
  hi : Nat
  dst : Bool
  deriving DecidableEq, Repr

/-- A duplicate-table entry (R332, R336): the tag and, for an atomic, the old value and its poison. -/
structure Dup where
  ctx : BitVec 32
  tid : Nat
  seq : Nat
  unit : Nat
  line : Nat
  old : Nat
  poison : Bool
  deriving DecidableEq, Repr

/-- A panel's memory side: the length of its page table, its entries that are not 0 (R239) and its sectors that are uncorrectable
(R461), its tile tags that are not 0 (R446), its merge table (R243) and the number of accesses it has refused (R242), its range locks,
its duplicate table, and the sector that its channel group scrubs next (R459). -/
structure Panel where
  num : Nat
  ptlen : Nat
  ptes : List (Nat × BitVec 64)
  ptbad : List Nat := []
  tags : List (Nat × BitVec 64)
  merges : List Merge
  refusals : Nat
  locks : List Lock
  dup : List Dup
  scrubAt : Nat := 0
  deriving DecidableEq, Repr

/-! ## Handles and copies (chapter 12) -/

/-- Handle states (R308). -/
inductive HState where
  | free | filling | full | draining
  deriving DecidableEq, Repr

/-- A local handle of a team (R309). -/
structure Handle where
  st : HState
  exp : Nat
  rcv : Nat
  sc : Nat
  int : Bool
  ref : Bool
  deriving DecidableEq, Repr

/-! ## The matrix grid (chapter 08) -/

/-- The binding states of a matrix grid (R200). -/
inductive GridSt where
  | unbound | switchingIn | bound | switchingOut | frozen
  deriving DecidableEq, Repr

/-- A partial sum of the grid (R161): an exact multiple of 2^-266 (of 1 for INT8) with whether every product so far was -0,
an infinity, or NaN. -/
inductive Part where
  | fin (v : Int) (negz : Bool)
  | inf (neg : Bool)
  | nan
  deriving DecidableEq, Repr

/-- What has entered the grid for a row and not passed it (R215, Table 8): a step, or an MXSYNC with the flags it brings. -/
inductive MxOp where
  | step
  | sync (flags : BitVec 5)
  deriving DecidableEq, Repr

/-- The row area of a streaming thread (R208, R212, R214): partial sums, count, scales, flags of folds, whether its stream
is open, and what is on its way through the grid. -/
structure MxRow where
  grp : Nat
  lane : Nat
  part : List Part
  cnt : Nat
  sa : Nat
  sb : List Nat
  flags : BitVec 5
  opened : Bool
  queue : List MxOp
  deriving DecidableEq, Repr

/-- A plane (R209): its bytes as a number, lowest first, and whether a byte of them carried an error (R214). -/
structure Plane where
  bytes : Nat
  poison : Bool
  deriving DecidableEq, Repr

/-- The states of the back plane (R210, Table 5); `loading` knows the palette offset, the IFR entry and the lock of its
STLD, 0 while a stop has released it (R297). -/
inductive BackSt where
  | empty
  | loading (off seq lock : Nat)
  | ready (p : Plane)
  deriving DecidableEq, Repr

/-- The matrix grid of a quad that is not Unbound (R199, R200): binding, planes, STSWAPs that wait, rows. -/
structure Grid where
  core : Nat
  quad : Nat
  st : GridSt
  tid : Nat
  shape : BitVec 2
  mtype : BitVec 4
  scaled : Bool
  front : Option Plane
  back : BackSt
  swaps : Nat
  rows : List MxRow
  deriving DecidableEq, Repr

/-! ## Teams -/

/-- A palette access that has been performed and whose destination is Pending until it is written (R257, R268): its
name among the team's, the threads (group, lane) that issued it, the destination, the value and the poison of each register. -/
structure PalPend where
  id : Nat
  who : List (Nat × Nat)
  dst : Ref
  width : Nat
  val : Nat
  bad : List Bool
  deriving DecidableEq, Repr

/-- A barrier that has completed (R121): its participants, the sequence number that every access after it reaches, and the
lanes of IFR entries (sequence number, lane) that it orders before those accesses. -/
structure Barrier where
  who : List (Nat × Nat)
  seq : Nat
  pend : List (Nat × Nat)
  deriving DecidableEq, Repr

/-- The team states of R71, Table 3. -/
inductive TeamSt where
  | pending | resident | saved | evicted | ended
  deriving DecidableEq, Repr

/-- A team (R52, R54, R68, R71). `tid` names it in the model; 0 is the studio controller's (R491). `pal`, `palSize` and
`palBad` are its palette allotment, its bytes that are not 0, and its words with an uncorrectable error (R254, R256);
`asked` says that its stop is due (R325), `stopping` that the request has reached its core, `acks` which homes have acknowledged
the freeze broadcast of this stop (R326) and `frozen` which homes treat its pieces under R337;
`templates` is the template table it read, none where malformed (R305); `image` is the first page of its code and the
number of its segments, `preload` whether it was launched preload-all, `holds` the pages a saved team held (R318) and
`lost` those a refused fetch took from it, `awaiting` the pages its placement or restore still fetches (R320); `tread` is its read of the
template table while it waits (R305), `fetches` what of its fetches and that read waited when it was saved (R246), `gridImage` the grid image in its frame (R226);
`snapped` says that its IFR has been snapshot, `evicting` that its stop is an eviction (R246, R326); `frame` is its place in
the frame pool, by offset and size (R380), `frameBytes` the headers written there (of the grid image too), `frameKey` the model's number for its opaque sections and `holdFlag` its HOLD (R228, R329, R354); `moved`
counts the sectors of the frame that the gates have let pass for a save or a restore that goes on (R383);
`barriers` are the barriers completed whose earlier accesses are outstanding (R121);
`order` is its place among pending teams of its level and `since` when it was placed or became pending (R68, R70);
`replay` bounds the sequence numbers that its restore replays, 0 when no replay is running (R345). -/
structure Team where
  tid : Nat
  ctx : BitVec 32
  grid : BitVec 32
  team : Nat
  level : Nat
  groups : List Group
  st : TeamSt
  core : Nat
  quad : Nat
  insts : List Instance
  regroup : List Arrival
  ifr : List IfrEntry
  seq : Nat
  ft : Bool
  rp : Bool
  lid : Nat
  cls : BitVec 8
  pal : List Host.Cell
  palSize : Nat
  palBad : List Nat
  palPend : List PalPend
  barriers : List Barrier
  asked : Bool
  stopping : Bool
  acks : List Nat
  frozen : List Nat
  handles : List Handle
  templates : List (Option (BitVec 512))
  image : Nat × Nat
  preload : Bool
  holds : List Nat
  lost : List Nat
  awaiting : List Nat
  tread : Option Probe
  fetches : List Probe := []
  gridImage : Option Grid
  snapped : Bool
  evicting : Bool
  frame : Option (Nat × Nat)
  frameBytes : List (BitVec 8)
  frameKey : Nat
  holdFlag : Bool
  moved : Nat := 0
  order : Nat
  since : BitVec 64
  replay : Nat
  deriving DecidableEq, Repr

/-- A code-store segment that is not Free (R317): its core, context and page, whether its words have landed, the teams
that hold it, its bytes that are not 0 and its poisoned words, whether it is declassifying (R453), the DIA and key of its page, and
where its fetch waits. -/
structure Segment where
  core : Nat
  ctx : BitVec 32
  page : Nat
  resident : Bool
  holders : List Nat
  bytes : List Host.Cell
  bad : List Nat
  declass : Bool
  dia : Nat
  key : Nat
  wait : Wait
  deriving DecidableEq, Repr

/-- A role record of a launch descriptor with its entry priority (R374, Table 5). -/
structure Role where
  seg : Nat
  word : Nat
  groups : Nat
  allot : Nat
  prio : BitVec 8
  deriving DecidableEq, Repr

/-- A launch from its acceptance until its completion record is written (R374-R377): its name, context and partition, the
descriptor's fields, the mark that joins CLASS0 in its teams (R449), the FIXD address that a fixed sitting took it from (R371), the
index of its first team that has not been placed, its teams that Ended, the first fatal trap, whether a team was lost,
whether it was abandoned, when it was accepted, and the miss its final write waits on. -/
structure Launch where
  lid : Nat
  ctx : BitVec 32
  part : Nat
  grid : BitVec 32
  teams : Nat
  level : Nat
  scope : Nat
  preload : Bool
  nseg : Nat
  pal : Nat
  ngroup : Nat
  roles : List Role
  code : Nat
  crec : BitVec 64
  cls : BitVec 8
  fixd : Option Nat
  next : Nat
  ended : Nat
  fatal : Option Nat
  lost : Bool
  abandoned : Bool
  since : BitVec 64
  miss : Option Probe
  deriving DecidableEq, Repr

/-- A record of a pentimento log (R468): the context it was made for, what the sector held before, and whether the record reads as
uncorrectable (R470). -/
structure LogRec where
  ctx : BitVec 32
  idx : Nat
  sector : Option Sector
  bytes : Nat
  bad : Bool := false
  deriving DecidableEq, Repr

/-- A write of the device's for a context that waits for room in the log (R468): its DIA, bytes, value and key. -/
structure LateWrite where
  ctx : BitVec 32
  dia : Nat
  len : Nat
  val : Nat
  key : Nat
  deriving DecidableEq, Repr

/-- A rollback record (R472, Table 3). -/
structure RollRec where
  time : BitVec 64
  ctx : BitVec 32
  kind : Nat
  dia : Nat
  istart : BitVec 64
  deriving DecidableEq, Repr

/-- A residency log (R404): the bytes of its region that are not 0 (WIDX, RIDX, DROP and the ring of records), and when each page's
last record was written. -/
structure ResLog where
  region : List Host.Cell
  last : List (Nat × BitVec 64)
  deriving DecidableEq, Repr

/-- A partition (R382, R482): first panel and size, its fault record queue (R244), its declassification list (R453); its
pentimento log with its capacity, its rollback ring's records and indices (R468, R472), its residency log; `tkey` is the key under
which its tables are written, 0 before its slot has first been filled (R443). -/
structure Partition where
  first : Nat
  size : Nat
  tkey : Nat
  queue : List FaultRec
  decls : List (BitVec 384)
  log : List LogRec
  logcap : Nat
  rolls : List RollRec
  widx : BitVec 32
  ridx : BitVec 32
  drop : Nat
  res : ResLog
  deriving DecidableEq, Repr

/-- A Ready key slot (R439, R440): the number, never reused, by which the model names its keys, its data key pair (the tweak key above
the data key) and its integrity key. -/
structure KeySlot where
  slot : Nat
  key : Nat
  data : BitVec 512
  integ : BitVec 256
  deriving DecidableEq, Repr

/-! ## Copies (chapter 12) -/

/-- A page of 4 KiB of a copy's box as it was translated at issue (R310): virtual page, DIA of its first byte, key and key slot (R439),
PROT. -/
structure PageX where
  page : Nat
  dia : Nat
  key : Nat
  slot : Nat
  prot : Bool
  deriving DecidableEq, Repr

/-- A beat (R304): its first element and its elements, whether it has been performed, and the miss it waits on. -/
structure Beat where
  first : Nat
  count : Nat
  done : Bool
  miss : Option Probe
  deriving DecidableEq, Repr

/-- A receiver of a copy into palettes (R313, R344): the beats it has received, and whether it has stopped. -/
structure Recv where
  tid : Nat
  got : List Nat
  stopped : Bool
  deriving DecidableEq, Repr

/-- A copy command (R302-R313): its name, which its locks carry too; issuing team and IFR entry; whether it is a COPYM, or
a receiver's refill (R344); the template as read; bases; handle; the threads (group, lane) of a register destination, and its slot; the pages of its source, version array
and destination; the join of the classes of its source; its beats; the tiles checked, with the outcome (R312); its receivers; whether its ranges are registered. -/
structure Copy where
  id : Nat
  tid : Nat
  ctx : BitVec 32
  seq : Nat
  multi : Bool
  refill : Bool
  tmpl : BitVec 512
  sbase : BitVec 64
  dbase : BitVec 64
  hnd : Nat
  dsts : List (Nat × Nat)
  slot : Nat
  src : List PageX
  vers : List PageX
  dst : List PageX
  cls : BitVec 8
  beats : List Beat
  tiles : List (Nat × Bool)
  recvs : List Recv
  registered : Bool
  deriving DecidableEq, Repr

/-- A copy engine (R302, R303): the partition it is assigned to, and its queue. -/
structure Engine where
  num : Nat
  part : Option Nat
  cmds : List Copy
  deriving DecidableEq, Repr

/-- What awaits a receiver that is not Resident (R313, R344): its name, the command, whether the receiver has been placed or
restored since, and whether the command's posting has reached its handle, so that only its refill is left. -/
structure Posting where
  tid : Nat
  copy : Copy
  ready : Bool
  posted : Bool
  deriving DecidableEq, Repr

/-- A raster command (R390-R396): its name, which its lock carries too; team, IFR entry, panel, handle, tile offset and descriptor;
the next primitive, whether the tile has been begun, whether it stands in the rasteriser's queue, the read that waits, and what has been
read of the next primitive. -/
structure Raster where
  id : Nat
  tid : Nat
  ctx : BitVec 32
  seq : Nat
  panel : Nat
  hnd : Nat
  off : Nat
  desc : BitVec 512
  next : Nat
  started : Bool
  queued : Bool
  miss : Option Probe
  got : List Nat := []
  deriving DecidableEq, Repr

/-- A context: the 16 dwords of its descriptor (R363), the partition whose table holds it, whether it is held (R354),
its range registers (R234), its charge of wear in units of 2^-16 (R474), its ring's read index and whether a reset of it is requested (R378, R379),
whether it is armed, whether a checkpoint of it has been taken since, whether it has rolled back since its last checkpoint, when its
interval began (R466-R470); whether a checkpoint awaits
the saves of its teams (R467); the teams with their halted commands and postings, the launches and the ring index that the
checkpoint recorded. -/
structure Ctx where
  part : Nat
  desc : List (BitVec 64)
  held : Bool
  rr : List RangeEnt
  wear : Nat
  ringRead : BitVec 32
  ringReset : Bool
  armed : Bool
  ckDone : Bool
  rolled : Bool
  istart : BitVec 64
  ckpt : Bool
  ckTeams : List Team
  ckLaunches : List Launch
  ckRead : BitVec 32
  ckParked : List Copy
  ckPosts : List Posting
  ckRasters : List Raster
  deriving DecidableEq, Repr

/-! ## Sittings (chapter 14) -/

/-- A sitting that is open (R367-R373): its entry's index and fields, the cores it still covers, when it ends, and when
its extension runs out. -/
structure Sitting where
  idx : Nat
  part : Nat
  kind : Nat
  policy : Nat
  grace : Nat
  prio : Nat
  ctx : BitVec 32
  cores : List Nat
  stop : BitVec 64
  extended : Option (BitVec 64)
  deriving DecidableEq, Repr

/-- The sitting table (R366-R368): the entries of both banks that are not 0, by index, dword 0 lowest; their cycles in µs;
`STCTL`; whether a switch has been made; when the next boundary falls; and when each valid entry opens next. -/
structure Sittings where
  bank0 : List (Nat × BitVec 256)
  bank1 : List (Nat × BitVec 256)
  cycle0 : Nat
  cycle1 : Nat
  abank : Bool
  want : Bool
  refused : Bool
  ctxbad : Bool
  badent : BitVec 8
  begun : Bool
  boundary : BitVec 64
  opens : List (Nat × BitVec 64)
  now : List Sitting
  deriving DecidableEq, Repr

/-- What asks a channel group for sectors (R383): a piece of a lane, the texels of a lane, a beat of a copy, the save of a team's frame,
a code fetch, a primitive of a raster command; or a request that reaches its home only when it is admitted. -/
inductive GateReq where
  | now
  | piece (tid seq lane k : Nat)
  | texels (tid seq lane : Nat)
  | beat (id k : Nat)
  | frame (tid : Nat)
  | code (core : Nat) (ctx : BitVec 32) (page : Nat)
  | raster (id : Nat)
  deriving DecidableEq, Repr

/-- The gate of a best-effort context at a channel group (R383), the sectors admitted in the microsecond, for a critical
context the reads served in the window, and the requests that wait, in arrival order. -/
structure Gate where
  panel : Nat
  ctx : BitVec 32
  g : Nat
  used : Nat
  reads : Nat
  queue : List GateReq := []
  deriving DecidableEq, Repr

/-- A poll of a ring or the take of a fixed sitting that has begun (R371, R378): the context, FIXD of a fixed sitting, how many of the ring's
pages have been checked, and the write index once it has been read. It goes on as the gates and the log let it (R376, R383). -/
structure Poll where
  ctx : BitVec 32
  fixd : Option Nat
  pages : Nat
  write : Option (BitVec 32)
  deriving DecidableEq, Repr

/-- A quad for which the sequencer makes room (R70): the pending team, the quad, the teams to stop in their order, and whether
one of them is of the pending team's level. -/
structure Room where
  tid : Nat
  core : Nat
  quad : Nat
  stops : List Nat
  peer : Bool
  deriving DecidableEq, Repr

/-! ## Health (chapter 18) -/

/-- The wear states of a core (R476). -/
inductive WearSt where
  | inService | derated | drained | retired
  deriving DecidableEq, Repr

/-- A core's entry of the lifetime record (R475, Table 5; WACC in units of 2^-16), what its wear accounting keeps (R473; of the wear to be
charged in `rest`, of WACC in `fine`, both in parts of 2^-16 unit as `wearUnit` counts them), the contexts that have had a team on the
core in the millisecond, and the operating point: the firmware's setting in 10 mV and in MHz (R17), the cap that shadow-latch detectors put on it, the
milliseconds in a row with at most 8 events and, at 0.55 V, with more than 64 (R465). -/
structure Life where
  core : Nat
  wacc : Nat
  dbti : Nat
  emacc : Nat
  use : Nat
  st : WearSt
  qret : Bool
  vstep : Nat
  slevt : Nat
  opsec : Nat
  rest : Nat
  volt : Nat
  mhz : Nat
  cap : Nat
  quiet : Nat
  loud : Nat
  fine : Nat
  users : List (BitVec 32)
  deriving DecidableEq, Repr

/-- The health states of a panel (R426, Table 5). -/
inductive PanelSt where
  | inService | suspect | quarantined | retired
  deriving DecidableEq, Repr

/-- A panel's health (R426, R427): state, consecutive scrub passes, quarantines in service life, the layers (canvas, layer)
that made it Suspect, the operating seconds at which it was quarantined, and when its scrub test ends. -/
structure PanelHealth where
  num : Nat
  st : PanelSt
  passrun : Nat
  qcount : Nat
  by_ : List (Nat × Nat)
  quars : List Nat
  scrub : Option (BitVec 64)
  deriving DecidableEq, Repr

/-- A function's register window (R481): number 0 is the physical function. -/
structure Fn where
  num : Nat
  ready : Bool
  flrBusy : Bool
  fsctx : BitVec 32
  fs : BitVec 8
  ce : Nat
  ue : Nat
  tagm : Nat
  misdir : Nat
  frec : Nat
  rbrec : Nat
  vectors : Nat
  deriving DecidableEq, Repr

/-! ## Display (chapter 16) -/

/-- A canvas timing in force or accepted (R497). -/
structure Timing where
  en : Bool
  vact : Nat
  hact : Nat
  tline : Nat
  period : Nat
  fs0 : BitVec 64
  deriving DecidableEq, Repr

/-- A canvas (R417, R497): the dwords of its timing block that software writes, the timing in force and the accepted one that
waits for its FS0, FCOUNT, FSCUR; the next line of the frame to be scanned out, whether the frame composes its safety layers
only (R435), and the last line sent to the glass. -/
structure Canvas where
  num : Nat
  regs : List (BitVec 64)
  refused : Bool
  tim : Option Timing
  next : Option Timing
  fcount : Nat
  fscur : BitVec 64
  line : Nat
  blank : Bool
  glass : List (BitVec 32)
  deriving DecidableEq, Repr

/-- A publication that a layer holds (R419). -/
structure Pub where
  slot : Nat
  frame : Nat
  ctx : BitVec 32
  buf : Nat
  sigt : Nat
  order : Nat
  panel : Nat
  atime : BitVec 64
  deriving DecidableEq, Repr

/-- A layer (R415, R424, R427): its entry as written, when it was last written if that has not taken effect, the entries in force with
the frame from which each governs, newest first; its publications; the next frame to be proved, the frames decided with what each
shows (true: the buffer), the first line that shows the stencil after a SCAN; the fields of LSTAT; the frame an arbiter's table
is expected for; the panels that last published slots 0 and 1. -/
structure Layer where
  canvas : Nat
  num : Nat
  regs : List (BitVec 64)
  changed : Option (BitVec 64)
  ents : List (Nat × List (BitVec 64))
  pubs : List Pub
  proofNext : Nat
  decided : List (Nat × Bool)
  scanFrom : Option Nat
  stencil : Bool
  result : Nat
  hold : Nat
  run : Nat
  fails : Nat
  frame : BitVec 32
  badpub : Nat
  late : Nat
  arb : Nat
  arbFor : Option Nat
  panels : List (Nat × Nat)
  deriving DecidableEq, Repr

/-- A pose slot as latched (R435, R438): values, TIME of the entry used (0 when previous values were reused), the class of the
range it was read through, whether it is stale, and whether a usable entry has ever been found. -/
structure PoseSlot where
  vals : List (BitVec 32)
  time : BitVec 64
  cls : BitVec 8
  stale : Bool
  found : Bool
  deriving DecidableEq, Repr

/-- What the warp stage has latched for a frame that has not started (R435): the frame's start, configuration, mesh, slots, and whether the
canvas is blanked for it. -/
structure Latch where
  fs : BitVec 64
  cfg : List (BitVec 64)
  mesh : List (BitVec 32)
  slots : List PoseSlot
  blank : Bool
  deriving DecidableEq, Repr

/-- The warp stage (R433-R438): its configuration as written and as in force; its copy of the mesh, as INT32 words (none: all 0), and the
MESHSEQ it copied; the slots; LSEQ as of the last latch, whether the configuration was written since; whether it has latched, BLANK, the count of
POSE_STALE; the instant from which its next latch may fall, and what it has latched for frames to come; what it applies to the frame being
scanned out: configuration, mesh, slots. -/
structure Warp where
  regs : List (BitVec 64)
  cfg : List (BitVec 64)
  mesh : List (BitVec 32)
  meshSeq : BitVec 32
  slots : List PoseSlot
  lseq : Nat
  rewritten : Bool
  latched : Bool
  blank : Bool
  stales : Nat
  since : Nat
  latches : List Latch
  scanCfg : List (BitVec 64) := List.replicate 11 0
  scanMesh : List (BitVec 32) := []
  scanSlots : List PoseSlot := []
  deriving DecidableEq, Repr

/-- The tell-tale state word (R431): the last SEQ accepted, the word and when it was accepted, while it is current. -/
structure TellTale where
  seq : Option (BitVec 32)
  word : Option (BitVec 32 × BitVec 64)
  deriving DecidableEq, Repr

/-- The display side: canvases, layers, the warp stage, the state word; PRFINJ with the proofs its FRAMES still affects; BADPUBX; the
bytes of the signed image whose stencil images the store holds (R429). -/
structure Display where
  canvases : List Canvas
  layers : List Layer
  warp : Warp
  tell : TellTale
  prfinj : BitVec 64
  injLeft : Nat
  badpubx : Nat
  stencils : List (BitVec 8) := []
  deriving DecidableEq, Repr

/-! ## Host, vehicle network and firmware (chapter 19) -/

/-- A port of the vehicle network (R486, R498): its link, its filter drops. -/
structure Port where
  num : Nat
  up : Bool
  drops : Nat
  deriving DecidableEq, Repr

/-- The frame a camera receiver is receiving (R499). -/
structure CamFrame where
  lines : Nat
  errf : Bool
  fnum : Nat
  tfs : BitVec 64
  deriving DecidableEq, Repr

/-- A camera receiver (R499): its control block as written, ERR, DROPS, NEXT, FRAMES, and the frame being received. -/
structure Camera where
  num : Nat
  regs : List (BitVec 64)
  err : Bool
  drops : Nat
  next : Nat
  frames : Nat
  rx : Option CamFrame
  deriving DecidableEq, Repr

/-- A firmware event that is pending (R502): code, argument, merged occurrences. -/
structure FwEvent where
  code : Nat
  arg : Nat
  merged : Nat
  deriving DecidableEq, Repr

/-- A staging that is open (R500): KIND, the bytes staged, the permit attached, and the SEQ of the last message accepted since its
begin. -/
structure Staging where
  kind : Nat
  bytes : List (BitVec 8)
  permit : Option (List (BitVec 8))
  seq : Option (BitVec 32)
  deriving DecidableEq, Repr

/-- The staging mailbox (R500, Table 10): dwords 0 and 1 as written, STATUS, and its data buffer. -/
structure Mailbox where
  ctl : BitVec 64
  len : BitVec 64
  status : Nat
  data : List Host.Cell
  deriving DecidableEq, Repr

/-- An image in a bank of the non-volatile store (R491): KIND, bank, its bytes, and whether the bank is pending. -/
structure Bank where
  kind : Nat
  num : Nat
  bytes : List (BitVec 8)
  pending : Bool
  deriving DecidableEq, Repr

/-- The non-volatile store and the fuses (R491-R493): the banks that hold an image, the active bank of each KIND, HIVER, SVNF, the
fall-backs recorded. -/
structure Nv where
  banks : List Bank
  active0 : Nat
  active1 : Nat
  hiver : Nat
  svnf : Nat
  fallbacks : Nat
  deriving DecidableEq, Repr

/-- Whether the device runs (R478, R488, R493): it runs, it is on its way into deep sleep, it sleeps, its clocks are frozen, it has no
supply. -/
inductive Power where
  | awake | entering | asleep | frozen | off
  deriving DecidableEq, Repr

/-- The sleep control block (R501) and the device's power: a wake that arrived during entry, by its cause; what the sleep found held. -/
structure Sleep where
  power : Power
  wten : Bool
  waket : BitVec 64
  timed : Option (BitVec 64)
  slpt : BitVec 64
  cause : Nat
  early : Option Nat
  heldBefore : List (BitVec 32)
  deriving DecidableEq, Repr

/-- The firmware side: pending events, open stagings, the mailbox, the non-volatile store, the device time by which the booted
firmware must report healthy, whether debug is enabled, whether device time has been set (R361), sleep. -/
structure Firmware where
  events : List FwEvent
  stagings : List Staging
  mailbox : Mailbox
  nv : Nv
  healthyBy : Option (BitVec 64)
  debug : Bool
  timeSet : Bool
  sleep : Sleep
  deriving DecidableEq, Repr

/-- A partition's request block (R482): dword 0 as written, and FAULTS. -/
structure Request where
  first : Nat
  dw0 : BitVec 64
  faults : Bool
  deriving DecidableEq, Repr

/-! ## The machine -/

/-- A memory error (R458-R461): a symbol of a sector's codeword changes, or a sector of a page table or a record of a log becomes
uncorrectable (log 90). -/
inductive Upset where
  | symbol (idx p : Nat) (v : BitVec 16)
  | pageTable (panel k : Nat)
  | logRecord (part n : Nat)
  deriving DecidableEq, Repr

/-- What the agenda asks of the next step: an issue by a group, an event row, that device time passes (log 1, 15), or an act of the
firmware for which the spec gives no register: it writes a context descriptor (R363), it sets a core's operating point in 10 mV and
in MHz (R17), it advances RIDX of a partition's residency log or rollback ring (R404, R472). `cut` is an issue that a stop request
meets when `k` of its members have entered (R66). -/
inductive Action where
  | issue (tid grp : Nat)
  | cut (tid grp k : Nat)
  | together (tid : Nat) (grps : List Nat)
  | event (i : Instr)
  | elapse (ns : Nat)
  | descriptor (part : Nat) (desc : List (BitVec 64))
  | operate (core volt mhz : Nat)
  | advance (part : Nat) (rolls : Bool) (ridx : BitVec 32)
  | upset (u : Upset)
  deriving DecidableEq, Repr

/-- The whole machine. `parked` holds the copies that their team's stop has halted (R297), `rasters` the raster commands in queue
order, `resReqs` the residency requests on their way to a home. The first fields are the model's own (log entries 1 and 2): the chosen order of agents, the
issuing entry, whether the last issue only waited, the team whose stop request has met an issue part-way and the groups in which it
has (R66), the counter applied to free values, the service counter of R59. `attRej` and `wordRej` count rejected messages (R498), `msNext` and `secNext` are when the next millisecond and second fall (R465, R475),
`opSecs` counts the seconds for which the device was powered (R426), `late` holds the device's writes that wait for room in a log, in
order (R468), `polls` the polls and takes that have begun (R371, R378), `lifeStore` is the lifetime record as the non-volatile store last took it (R475), `scrubEnd` is when every channel group is to have scrubbed each of its
sectors (R459), or, asleep, how long it has left for that. -/
structure State where
  agenda : List Action
  cur : Option Cur
  waited : Bool
  cutting : Option (Nat × List Nat)
  fresh : Nat
  serve : Nat
  consumptions : List Nat
  teams : List Team
  ctl : Team
  grids : List Grid
  ctxs : List Ctx
  launches : List Launch
  nextLid : Nat
  engines : List Engine
  parked : List Copy
  posts : List Posting
  rasters : List Raster
  resReqs : List (Nat × BitVec 32)
  sits : Sittings
  rooms : List Room
  life : List Life
  lifeStore : List Life
  phealth : List PanelHealth
  gates : List Gate
  windowEnd : BitVec 64
  admitEnd : BitVec 64
  fns : List Fn
  mem : List Host.Cell
  sectors : List Sector
  dirty : List Dirty
  l1 : List L1Sector
  panels : List Panel
  parts : List Partition
  keys : List KeySlot
  nextKey : Nat
  code : List Segment
  ctlMem : List Host.Cell
  ctlImage : Nat
  ctlCnt : Nat
  ctlPoison : Bool
  ctlCause : BitVec 8
  ctlPc : BitVec 64
  disp : Display
  ports : List Port
  attRej : Nat
  wordRej : Nat
  cams : List Camera
  fw : Firmware
  reqs : List Request
  msNext : BitVec 64
  secNext : BitVec 64
  opSecs : Nat
  late : List LateWrite
  polls : List Poll
  scrubEnd : BitVec 64
  time : BitVec 64
  deriving DecidableEq, Repr

/-- A machine instruction that no entry issues: `exec` was asked for one while no frontier entry issues (raised by
`issue`; safe: `step` always names the issuing entry first). -/
inductive Fault where
  | noIssuingEntry
  deriving DecidableEq, Repr

/-- Raised by an arm of `exec` whose instruction has no meaning yet (safe). -/
inductive Refusal where
  | notModelled (mnemonic : String)
  deriving DecidableEq, Repr

/-- A group of no threads. -/
def Group.empty : Group := ⟨[], [], 0, 0, 64, 0, [], [], none, 0⟩

/-- The studio controller's team before its first task (R491, R502). -/
def Team.controller : Team :=
  { tid := 0, ctx := 0, grid := 0, team := 0, level := 0, groups := [Group.empty], st := .resident, core := 0, quad := 0,
    insts := [], regroup := [], ifr := [], seq := 0, ft := false, rp := false, lid := 0, cls := 0, pal := [],
    palSize := 0, palBad := [], palPend := [], barriers := [], asked := false, stopping := false, acks := [], frozen := [], handles := [], templates := [], image := (0, 0),
    preload := false, holds := [], lost := [], awaiting := [], tread := none, gridImage := none,
    snapped := false, evicting := false, frame := none, frameBytes := [], frameKey := 0, holdFlag := false, order := 0, since := 0, replay := 0 }

/-- A panel at reset: no partition holds it and its tables are empty. -/
def Panel.initial (n : Nat) : Panel :=
  { num := n, ptlen := 0, ptes := [], tags := [], merges := [], refusals := 0, locks := [], dup := [] }

/-- A function's window at reset (R481). -/
def Fn.initial (n : Nat) : Fn := ⟨n, true, false, 0, 0, 0, 0, 0, 0, 0, 0, 0⟩

/-- A core's lifetime record before any wear, at the nominal operating point (R17, R475). -/
def Life.initial (core : Nat) : Life := ⟨core, 0, 0, 0, 0, .inService, false, 0, 0, 0, 0, 40, 2000, 2400, 0, 0, 0, []⟩

/-- A layer at reset. -/
def Layer.initial (canvas num : Nat) : Layer :=
  ⟨canvas, num, List.replicate 8 0, none, [(0, List.replicate 8 0)], [], 0, [], none, false, 0, 0, 0, 0, 0, 0, 0, 0, none, []⟩

/-- The warp stage at reset. -/
def Warp.initial : Warp :=
  ⟨List.replicate 11 0, List.replicate 11 0, [], 0, List.replicate 4 ⟨[0, 0, 0, 0], 0, 0, false, false⟩, 0,
   true, false, false, 0, 0, [], List.replicate 11 0, [], []⟩

/-- The display side at reset: no timing is in force, every entry is 0 (R415, R497). -/
def Display.initial : Display :=
  { canvases := (List.range 6).map fun n => ⟨n, List.replicate 8 0, false, none, none, 0, 0, 0, false, []⟩
    layers := (List.range 96).map fun k => Layer.initial (k / 16) (k % 16)
    warp := Warp.initial, tell := ⟨none, none⟩, prfinj := 0, injLeft := 0, badpubx := 0 }

/-- The sleep control block at reset (R501). -/
def Sleep.initial : Sleep := ⟨.awake, false, 0, none, 0, 0, none, []⟩

/-- A non-volatile store in which no image stands (log 3). -/
def Nv.initial : Nv := ⟨[], 0, 0, 0, 0, 0⟩

/-- The firmware side at reset: the boot event is pending (R502). -/
def Firmware.initial : Firmware :=
  { events := [⟨0, 0, 0⟩], stagings := [], mailbox := ⟨0, 0, 0, []⟩, nv := Nv.initial, healthyBy := none, debug := false,
    timeSet := false, sleep := Sleep.initial }

/-- The machine right after reset (chapters 00 to 19). -/
def State.reset : State :=
  { agenda := [], cur := none, waited := false, cutting := none, fresh := 0, serve := 0, consumptions := [], teams := [], ctl := Team.controller, grids := [], ctxs := [], launches := [], nextLid := 1,
    engines := (List.range 24).map fun n => ⟨n, none, []⟩, parked := [], posts := [], rasters := [], resReqs := [],
    sits := ⟨[], [], 0, 0, false, false, false, false, 0, false, 0, [], []⟩, rooms := [], life := (List.range 48).map Life.initial, lifeStore := (List.range 48).map Life.initial,
    phealth := (List.range 12).map fun n => ⟨n, .inService, 0, 0, [], [], none⟩, gates := [], windowEnd := 50000, admitEnd := 1000,
    fns := (List.range 257).map Fn.initial, mem := [], sectors := [], dirty := [], l1 := [],
    panels := (List.range 12).map Panel.initial, parts := [], keys := [], nextKey := 1, code := [], ctlMem := [], ctlImage := 0, ctlCnt := 0, ctlPoison := false, ctlCause := 0, ctlPc := 0,
    disp := Display.initial, ports := [⟨0, true, 0⟩, ⟨1, true, 0⟩], attRej := 0, wordRej := 0,
    cams := (List.range 4).map fun n => ⟨n, List.replicate 4 0, false, 0, 0, 0, none⟩, fw := Firmware.initial,
    reqs := (List.range 12).map fun n => ⟨n, 0, false⟩, msNext := 1000000, secNext := 1000000000, opSecs := 0, late := [], polls := [], scrubEnd := 86400000000000, time := 0 }

end Sys2Proof.Machine
end

