-- ==== Sys2Proof/Machine/Bytes.lean ====
section
/-! DEFINITION. Byte memories as lists of cells in one canonical form: addresses strictly rising, no byte listed that is
0, which is what an unlisted address reads as. -/

namespace Sys2Proof.Machine

abbrev Memory := List Host.Cell

/-- Read one byte. -/
def Memory.read : Memory → Nat → BitVec 8
  | [], _ => 0
  | (b, v) :: m, a => if a < b then 0 else if a = b then v else Memory.read m a

/-- Write one byte: 0 leaves no cell. -/
def Memory.write : Memory → Nat → BitVec 8 → Memory
  | [], a, v => if v = 0 then [] else [(a, v)]
  | (b, w) :: m, a, v =>
    if a < b then (if v = 0 then (b, w) :: m else (a, v) :: (b, w) :: m)
    else if a = b then (if v = 0 then m else (a, v) :: m)
    else (b, w) :: Memory.write m a v

/-- The canonical form from an address on. -/
def Memory.wfFrom : Nat → Memory → Bool
  | _, [] => true
  | lo, (a, v) :: m => decide (lo ≤ a) && v != 0 && Memory.wfFrom (a + 1) m

/-- The canonical form. -/
def Memory.wf (m : Memory) : Bool := Memory.wfFrom 0 m

/-- `n` bytes from `a`, the lowest address least significant (chapter 00: little-endian). -/
def Memory.readN (m : Memory) (a : Nat) : Nat → Nat
  | 0 => 0
  | n + 1 => (m.read a).toNat + 256 * Memory.readN m (a + 1) n

/-- Write the low `n` bytes of a value from `a` on. -/
def Memory.writeN (m : Memory) (a : Nat) : Nat → Nat → Memory
  | 0, _ => m
  | n + 1, v => Memory.writeN (m.write a (BitVec.ofNat 8 v)) (a + 1) n (v / 256)

/-- Bits `hi` down to `lo` of a number. -/
def bitsOf (v hi lo : Nat) : Nat := v / 2 ^ lo % 2 ^ (hi + 1 - lo)

/-- A value of `n` bits as a signed number. -/
def signedOf (n v : Nat) : Int := (BitVec.ofNat n v).toInt

end Sys2Proof.Machine
end

