-- ==== Sys2Proof/WellFormed.lean ====
section
/-! DEFINITION. Which instructions have a word the decoder accepts: the register-field, guard, code and operand-class
rules of chapter 02 (R22-R35) and of each encoding table. -/

namespace Sys2Proof

/-- NULL, the field value 0x0FF (R25). -/
def Reg.null : Reg := ⟨false, false, .g, 127⟩

def Reg.isNull (r : Reg) : Bool := r.cls == .g && r.num == 127

/-- A V register field. -/
def Reg.isV (r : Reg) : Bool := r.cls == .v

/-- A G register field other than NULL. -/
def Reg.isG (r : Reg) : Bool := r.cls == .g && r.num != 127

/-- The field is not one R26 forbids whatever its use: G64-G126, I = 1 or W = 1 where class G or NULL forbids it. -/
def Reg.legal (r : Reg) : Bool :=
  match r.cls with
  | .v => true
  | .g => !r.ind && (r.num.toNat < 64 || (r.num.toNat == 127 && !r.w))

/-- The number is aligned for an operand of `width` registers (R26, R27); NULL has every width (R25). -/
def Reg.okW (r : Reg) (width : Nat) : Bool := r.isNull || r.num.toNat % width == 0

/-- The classes an entry permits for an operand: V, G, NULL. The model's choice (log 64): a field that its table gives a role
only (dest, src, data, operand, phase) may be NULL; one that is given a register's class or width (V, G, pair, quad, 32-bit)
may be NULL only where the table adds it. -/
def Reg.classOk (r : Reg) (v g n : Bool) : Bool :=
  (r.isV && v) || (r.isG && g) || (r.isNull && n)

/-- A source field of the given classes and width. -/
def Reg.srcOk (r : Reg) (v g n : Bool) (width : Nat) : Bool :=
  r.legal && r.classOk v g n && r.okW width

/-- A field the instruction writes: W must be 0 (R26). -/
def Reg.dstOk (r : Reg) (v g n : Bool) (width : Nat) : Bool :=
  r.srcOk v g n width && !r.w

/-- R28: a G destination only when no source names class V. -/
def gDestOk (d : Reg) (srcs : List Reg) : Bool := !d.isG || srcs.all (fun r => !r.isV)

/-- The "always" guard 0b0111 (R23). -/
def Guard.isAlways (g : Guard) : Bool := !g.neg && g.p == 7

/-- Every guard but 0b1111 (R23). -/
def Guard.ok (g : Guard) : Bool := !(g.neg && g.p == 7)

def Guard.always : Guard := ⟨false, 7⟩

/-- Registers of an operand of size code SZ (R35): 1, 1, 1, 2, 4. -/
def szRegs (sz : BitVec 3) : Nat := if sz.toNat ≤ 2 then 1 else if sz.toNat == 3 then 2 else 4

/-- The selectors of R86, Table 4. -/
def SReg.listed (sel : BitVec 16) : Bool := sel.toNat ≤ 0x1A

/-- Registers an operand for a special register needs (R104): WEAR, TRAPPC and TRAPA are 64 bits. -/
def SReg.regs (sel : BitVec 16) : Nat := if [0x14, 0x16, 0x17].contains sel.toNat then 2 else 1

/-- Scope T of R86, Table 4. -/
def SReg.perThread (sel : BitVec 16) : Bool :=
  [0x00, 0x09, 0x0B, 0x0C, 0x0D, 0x10, 0x15, 0x16, 0x17].contains sel.toNat

/-- Access RW of R86, Table 4. -/
def SReg.writable (sel : BitVec 16) : Bool :=
  [0x0B, 0x0C, 0x0D, 0x0E, 0x0F, 0x10, 0x16].contains sel.toNat

/-- R104: what makes an SRD's selector and destination legal. -/
def SReg.srdOk (sel : BitVec 16) (d : Reg) : Bool :=
  SReg.listed sel && d.okW (SReg.regs sel) && !(SReg.perThread sel && d.isG)

/-- R105: what makes an SWR's selector and source legal; a read-only register is PRIVILEGE at run time. -/
def SReg.swrOk (sel : BitVec 16) (a : Reg) : Bool := SReg.listed sel && a.okW (SReg.regs sel)

/-- The highest element index of QDEQ for a packed type (R195). -/
def maxElem (ty : Nat) : Nat :=
  if ty ≤ 2 then 1 else if ty ≤ 4 then 3 else if ty ≤ 6 then 4 else 7

/-- The atomic operation codes and the sizes they take (R272): 9 to 15 only at 32 bits. -/
def atomOk (aop : BitVec 5) (sz : BitVec 3) : Bool :=
  aop.toNat ≤ 8 || (aop.toNat ≤ 15 && sz == 2)

/-- The opcodes R38, Table 5 assigns. -/
def opAssigned (op : BitVec 8) : Bool :=
  let n := op.toNat
  (0x01 ≤ n && n ≤ 0x15) || (0x20 ≤ n && n ≤ 0x51) || (0x60 ≤ n && n ≤ 0x7E) || (0x90 ≤ n && n ≤ 0x99) || (0xA0 ≤ n && n ≤ 0xAE) || (0xC0 ≤ n && n ≤ 0xC9) || (0xD0 ≤ n && n ≤ 0xDB) || (0xE0 ≤ n && n ≤ 0xE7) || (0xF0 ≤ n && n ≤ 0xFA)

/-- The instruction has a word the decoder accepts; an event row has none. -/
def Instr.wf : Instr → Bool
  | .nop gd => gd.ok
  | .bra gd _ _ => gd.ok
  | .brx gd a _ => gd.ok && a.srcOk true true false 2
  | .call gd _ _ => gd.ok
  | .callx gd a _ => gd.ok && a.srcOk true true false 2
  | .ret gd a => gd.ok && a.srcOk true true false 2
  | .exit gd => gd.ok
  | .yield gd _ => gd.ok
  | .prio gd _ => gd.isAlways
  | .regroup gd a => gd.isAlways && a.srcOk true false false 1
  | .barg gd a hi lo => gd.ok && a.srcOk true true true 1 && (a.isNull || (hi == 0 && lo == 0))
  | .bart gd a gm => gd.ok && a.srcOk true true true 1 && (a.isNull || gm == 0)
  | .arrive gd d a _ => gd.ok && d.dstOk true true true 1 && a.srcOk true true true 1 && gDestOk d [a]
  | .await gd a test pd _ => gd.ok && a.srcOk true true true 1 && (test == 1 || pd == 7)
  | .vote gd d c pd op _ _ => gd.ok && d.dstOk true true true 1 && c.srcOk true true false 1 && (if op == 3 then pd == 7 else d.isNull)
  | .elect gd d c _ => gd.ok && d.dstOk true true true 1 && c.srcOk true true false 1
  | .shfl gd d a b c _ _ => gd.ok && d.dstOk true false false 1 && a.srcOk true false false 1 && b.srcOk true true false 1 && c.srcOk true true false 1
  | .redg gd d a c op => gd.ok && d.dstOk true true true 1 && a.srcOk true false false 1 && c.srcOk true true false 1 && op.toNat ≤ 10
  | .scang gd d a c _ op => gd.ok && d.dstOk true false false 1 && a.srcOk true false false 1 && c.srcOk true true false 1 && op.toNat ≤ 10
  | .matchG gd d a c b64 _ => gd.ok && d.dstOk true false false 1 && a.srcOk true false false 1 && c.srcOk true true false 1 && a.okW (if b64 == 1 then 2 else 1)
  | .waitt gd a => gd.ok && a.srcOk true true false 2
  | .mov gd d a size => gd.ok && d.dstOk true true true (1 <<< size.toNat) && a.srcOk true true true (1 <<< size.toNat) && size.toNat ≤ 2 && gDestOk d [a]
  | .movi gd d _ => gd.ok && d.dstOk true true true 1
  | .movg gd d a first lane => gd.ok && d.dstOk false true false 1 && a.srcOk true false false 1 && (first == 0 || lane == 0)
  | .sel gd d a b size _ _ => gd.ok && d.dstOk true true true (1 <<< size.toNat) && a.srcOk true true true (1 <<< size.toNat) && b.srcOk true true true (1 <<< size.toNat) && gDestOk d [a, b]
  | .pset gd a b test _ => gd.ok && a.srcOk true true true 1 && b.srcOk true true true 1 && test.toNat ≤ 2 && (test == 2 || b.isNull)
  | .plop gd op _ _ _ => gd.ok && op.toNat ≤ 5
  | .p2v gd d => gd.ok && d.dstOk true false false 1
  | .v2p gd a _ => gd.ok && a.srcOk true true true 1
  | .wbase gd a _ _ => gd.ok && a.srcOk true true true 1
  | .ixset gd a _ => gd.ok && a.srcOk true true true 1
  | .ixadd gd a _ => gd.ok && a.srcOk true true true 1
  | .srd gd d sr => gd.ok && d.dstOk true true false 1 && SReg.srdOk sr d
  | .swr gd a sr => gd.ok && a.srcOk true true false 1 && SReg.swrOk sr a
  | .empty gd d size => gd.ok && d.dstOk true true true (1 <<< size.toNat) && size.toNat ≤ 2
  | .tfull gd a test _ => gd.ok && a.srcOk true true true 1 && test.toNat ≤ 2 && !a.w
  | .allot gd n _ => gd.isAlways && (8 ≤ n.toNat && n.toNat ≤ 128)
  | .iadd gd d a b sat => gd.ok && d.dstOk true true true 1 && a.srcOk true true true 1 && b.srcOk true true true 1 && sat.toNat ≤ 2 && gDestOk d [a, b]
  | .isub gd d a b sat => gd.ok && d.dstOk true true true 1 && a.srcOk true true true 1 && b.srcOk true true true 1 && sat.toNat ≤ 2 && gDestOk d [a, b]
  | .iadd3 gd d a b c sat => gd.ok && d.dstOk true true true 1 && a.srcOk true true true 1 && b.srcOk true true true 1 && c.srcOk true true true 1 && sat.toNat ≤ 2 && gDestOk d [a, b, c]
  | .imul gd d a b sat => gd.ok && d.dstOk true true true 1 && a.srcOk true true true 1 && b.srcOk true true true 1 && sat.toNat ≤ 2 && gDestOk d [a, b]
  | .imulh gd d a b sgn => gd.ok && d.dstOk true true true 1 && a.srcOk true true true 1 && b.srcOk true true true 1 && sgn.toNat ≤ 2 && gDestOk d [a, b]
  | .imad gd d a b c sat => gd.ok && d.dstOk true true true 1 && a.srcOk true true true 1 && b.srcOk true true true 1 && c.srcOk true true true 1 && sat.toNat ≤ 2 && gDestOk d [a, b, c]
  | .imin gd d a b _ => gd.ok && d.dstOk true true true 1 && a.srcOk true true true 1 && b.srcOk true true true 1 && gDestOk d [a, b]
  | .imax gd d a b _ => gd.ok && d.dstOk true true true 1 && a.srcOk true true true 1 && b.srcOk true true true 1 && gDestOk d [a, b]
  | .iabs gd d a _ => gd.ok && d.dstOk true true true 1 && a.srcOk true true true 1 && gDestOk d [a]
  | .ineg gd d a _ => gd.ok && d.dstOk true true true 1 && a.srcOk true true true 1 && gDestOk d [a]
  | .and gd d a b => gd.ok && d.dstOk true true true 1 && a.srcOk true true true 1 && b.srcOk true true true 1 && gDestOk d [a, b]
  | .or gd d a b => gd.ok && d.dstOk true true true 1 && a.srcOk true true true 1 && b.srcOk true true true 1 && gDestOk d [a, b]
  | .xor gd d a b => gd.ok && d.dstOk true true true 1 && a.srcOk true true true 1 && b.srcOk true true true 1 && gDestOk d [a, b]
  | .andn gd d a b => gd.ok && d.dstOk true true true 1 && a.srcOk true true true 1 && b.srcOk true true true 1 && gDestOk d [a, b]
  | .not gd d a => gd.ok && d.dstOk true true true 1 && a.srcOk true true true 1 && gDestOk d [a]
  | .lop3 gd d a b c _ => gd.ok && d.dstOk true true true 1 && a.srcOk true true true 1 && b.srcOk true true true 1 && c.srcOk true true true 1 && gDestOk d [a, b, c]
  | .shl gd d a b _ => gd.ok && d.dstOk true true true 1 && a.srcOk true true true 1 && b.srcOk true true true 1 && gDestOk d [a, b]
  | .shr gd d a b _ => gd.ok && d.dstOk true true true 1 && a.srcOk true true true 1 && b.srcOk true true true 1 && gDestOk d [a, b]
  | .sar gd d a b _ => gd.ok && d.dstOk true true true 1 && a.srcOk true true true 1 && b.srcOk true true true 1 && gDestOk d [a, b]
  | .rotl gd d a b => gd.ok && d.dstOk true true true 1 && a.srcOk true true true 1 && b.srcOk true true true 1 && gDestOk d [a, b]
  | .fshl gd d a b c => gd.ok && d.dstOk true true true 1 && a.srcOk true true true 1 && b.srcOk true true true 1 && c.srcOk true true true 1 && gDestOk d [a, b, c]
  | .popc gd d a => gd.ok && d.dstOk true true true 1 && a.srcOk true true true 1 && gDestOk d [a]
  | .clz gd d a => gd.ok && d.dstOk true true true 1 && a.srcOk true true true 1 && gDestOk d [a]
  | .brev gd d a => gd.ok && d.dstOk true true true 1 && a.srcOk true true true 1 && gDestOk d [a]
  | .bfe gd d a b _ => gd.ok && d.dstOk true true true 1 && a.srcOk true true true 1 && b.srcOk true true true 1 && gDestOk d [a, b]
  | .bfi gd d a b c => gd.ok && d.dstOk true true true 1 && a.srcOk true true true 1 && b.srcOk true true true 1 && c.srcOk true true true 1 && gDestOk d [a, b, c]
  | .isetp gd a b cmp _ b64 _ => gd.ok && a.srcOk true true true 1 && b.srcOk true true true 1 && cmp.toNat ≤ 5 && (a.okW (if b64 == 1 then 2 else 1) && b.okW (if b64 == 1 then 2 else 1))
  | .icsub gd d a b _ => gd.ok && d.dstOk true true true 1 && a.srcOk true true true 1 && b.srcOk true true true 1 && gDestOk d [a, b]
  | .iadd64 gd d a b => gd.ok && d.dstOk true true false 2 && a.srcOk true true false 2 && b.srcOk true true false 2 && gDestOk d [a, b]
  | .isub64 gd d a b => gd.ok && d.dstOk true true false 2 && a.srcOk true true false 2 && b.srcOk true true false 2 && gDestOk d [a, b]
  | .imulw gd d a b sgn => gd.ok && d.dstOk true true false 2 && a.srcOk true true true 1 && b.srcOk true true true 1 && sgn.toNat ≤ 2 && gDestOk d [a, b]
  | .lea gd d a b _ _ => gd.ok && d.dstOk true true false 2 && a.srcOk true true false 2 && b.srcOk true true true 1 && gDestOk d [a, b]
  | .isat gd d a _ ty => gd.ok && d.dstOk true true true 1 && a.srcOk true true true 1 && (8 ≤ ty.toNat && ty.toNat ≤ 14) && gDestOk d [a]
  | .idp4 gd d a b c _ _ _ => gd.ok && d.dstOk true true true 1 && a.srcOk true true true 1 && b.srcOk true true true 1 && c.srcOk true true true 1 && gDestOk d [a, b, c]
  | .fadd gd d a b rnd => gd.ok && d.dstOk true true true 1 && a.srcOk true true true 1 && b.srcOk true true true 1 && rnd.toNat ≤ 3 && gDestOk d [a, b]
  | .fsub gd d a b rnd => gd.ok && d.dstOk true true true 1 && a.srcOk true true true 1 && b.srcOk true true true 1 && rnd.toNat ≤ 3 && gDestOk d [a, b]
  | .fmul gd d a b rnd => gd.ok && d.dstOk true true true 1 && a.srcOk true true true 1 && b.srcOk true true true 1 && rnd.toNat ≤ 3 && gDestOk d [a, b]
  | .ffma gd d a b c rnd => gd.ok && d.dstOk true true true 1 && a.srcOk true true true 1 && b.srcOk true true true 1 && c.srcOk true true true 1 && rnd.toNat ≤ 3 && gDestOk d [a, b, c]
  | .fmin gd d a b => gd.ok && d.dstOk true true true 1 && a.srcOk true true true 1 && b.srcOk true true true 1 && gDestOk d [a, b]
  | .fmax gd d a b => gd.ok && d.dstOk true true true 1 && a.srcOk true true true 1 && b.srcOk true true true 1 && gDestOk d [a, b]
  | .fminp gd d a b => gd.ok && d.dstOk true true true 1 && a.srcOk true true true 1 && b.srcOk true true true 1 && gDestOk d [a, b]
  | .fmaxp gd d a b => gd.ok && d.dstOk true true true 1 && a.srcOk true true true 1 && b.srcOk true true true 1 && gDestOk d [a, b]
  | .fabs gd d a => gd.ok && d.dstOk true true true 1 && a.srcOk true true true 1 && gDestOk d [a]
  | .fneg gd d a => gd.ok && d.dstOk true true true 1 && a.srcOk true true true 1 && gDestOk d [a]
  | .fsetp gd a b _ _ => gd.ok && a.srcOk true true true 1 && b.srcOk true true true 1
  | .fclass gd d a => gd.ok && d.dstOk true true true 1 && a.srcOk true true true 1 && gDestOk d [a]
  | .frnd gd d a rnd => gd.ok && d.dstOk true true true 1 && a.srcOk true true true 1 && rnd.toNat ≤ 3 && gDestOk d [a]
  | .fdiv gd d a b rnd => gd.ok && d.dstOk true true true 1 && a.srcOk true true true 1 && b.srcOk true true true 1 && rnd.toNat ≤ 3 && gDestOk d [a, b]
  | .fsqrt gd d a rnd => gd.ok && d.dstOk true true true 1 && a.srcOk true true true 1 && rnd.toNat ≤ 3 && gDestOk d [a]
  | .frcp gd d a rnd => gd.ok && d.dstOk true true true 1 && a.srcOk true true true 1 && rnd.toNat ≤ 3 && gDestOk d [a]
  | .frsq gd d a => gd.ok && d.dstOk true true true 1 && a.srcOk true true true 1 && gDestOk d [a]
  | .fexp2 gd d a => gd.ok && d.dstOk true true true 1 && a.srcOk true true true 1 && gDestOk d [a]
  | .flog2 gd d a => gd.ok && d.dstOk true true true 1 && a.srcOk true true true 1 && gDestOk d [a]
  | .fsinpi gd d a => gd.ok && d.dstOk true true true 1 && a.srcOk true true true 1 && gDestOk d [a]
  | .fcospi gd d a => gd.ok && d.dstOk true true true 1 && a.srcOk true true true 1 && gDestOk d [a]
  | .ftanh gd d a => gd.ok && d.dstOk true true true 1 && a.srcOk true true true 1 && gDestOk d [a]
  | .hadd2 gd d a b rnd ty => gd.ok && d.dstOk true true true 1 && a.srcOk true true true 1 && b.srcOk true true true 1 && rnd.toNat ≤ 3 && (1 ≤ ty.toNat && ty.toNat ≤ 2) && gDestOk d [a, b]
  | .hmul2 gd d a b rnd ty => gd.ok && d.dstOk true true true 1 && a.srcOk true true true 1 && b.srcOk true true true 1 && rnd.toNat ≤ 3 && (1 ≤ ty.toNat && ty.toNat ≤ 2) && gDestOk d [a, b]
  | .hfma2 gd d a b c rnd ty => gd.ok && d.dstOk true true true 1 && a.srcOk true true true 1 && b.srcOk true true true 1 && c.srcOk true true true 1 && rnd.toNat ≤ 3 && (1 ≤ ty.toNat && ty.toNat ≤ 2) && gDestOk d [a, b, c]
  | .fcvt gd d a rnd dst src => gd.ok && d.dstOk true true true 1 && a.srcOk true true true 1 && rnd.toNat ≤ 4 && dst.toNat ≤ 7 && src.toNat ≤ 7 && gDestOk d [a] && dst != src
  | .f2i gd d a rnd dst => gd.ok && d.dstOk true true true 1 && a.srcOk true true true 1 && rnd.toNat ≤ 4 && (8 ≤ dst.toNat && dst.toNat ≤ 14) && gDestOk d [a]
  | .i2f gd d a rnd dst src => gd.ok && d.dstOk true true true 1 && a.srcOk true true true 1 && rnd.toNat ≤ 4 && dst.toNat ≤ 2 && (8 ≤ src.toNat && src.toNat ≤ 14) && gDestOk d [a]
  | .qcvt gd d a b rnd ty => gd.ok && d.dstOk true true true 1 && a.srcOk true true false 1 && b.srcOk true true true 1 && rnd.toNat ≤ 4 && (1 ≤ ty.toNat && ty.toNat ≤ 7) && gDestOk d [a, b] && a.okW (if ty.toNat ≤ 2 then 2 else 4)
  | .qdeq gd d a b rnd ty el => gd.ok && d.dstOk true true true 1 && a.srcOk true true true 1 && b.srcOk true true true 1 && rnd.toNat ≤ 4 && (1 ≤ ty.toNat && ty.toNat ≤ 7) && gDestOk d [a, b] && el.toNat ≤ maxElem ty.toNat
  | .qscale gd d a _ ty => gd.ok && d.dstOk true true true 1 && a.srcOk true true true 1 && (3 ≤ ty.toNat && ty.toNat ≤ 7) && gDestOk d [a]
  | .mxon gd shape scaled ty try_ pd => gd.ok && shape.toNat ≤ 2 && [1, 2, 3, 4, 5, 6, 7, 12].contains ty.toNat && ((scaled == 0 || [3, 4, 5, 6, 7].contains ty.toNat) && (try_ == 1 || pd == 7))
  | .mxoff gd => gd.ok
  | .mxsync gd => gd.ok
  | .mxclr gd => gd.ok
  | .stld gd a _ => gd.isAlways && a.srcOk false true true 1
  | .stswap gd => gd.isAlways
  | .mma gd a => gd.ok && a.srcOk true false false 1
  | .mmas gd a b => gd.ok && a.srcOk true false false 1 && b.srcOk true true false 1
  | .mxrd gd d a size => gd.ok && d.dstOk true false false (1 <<< size.toNat) && a.srcOk true false false (1 <<< size.toNat) && size.toNat ≤ 2
  | .mxst gd t a x _ scope ord sz => gd.ok && t.srcOk true false false 1 && a.srcOk true true true 2 && x.srcOk true true true 1 && [0, 2].contains ord.toNat && [4].contains sz.toNat && (!a.isNull || scope == 2)
  | .ld gd t a x _ scope ord sz => gd.ok && t.dstOk true true true (szRegs sz) && a.srcOk true true false 2 && x.srcOk true true true 1 && ord.toNat ≤ 1 && sz.toNat ≤ 4 && gDestOk t [a, x] && (ord == 0 || scope != 0)
  | .st gd t a x _ scope ord sz => gd.ok && t.srcOk true true true (szRegs sz) && a.srcOk true true false 2 && x.srcOk true true true 1 && [0, 2].contains ord.toNat && sz.toNat ≤ 4 && (ord == 0 || scope != 0)
  | .ldp gd t a x _ scope ord sz => gd.ok && t.dstOk true true true (szRegs sz) && a.srcOk true true true 1 && x.srcOk true true true 1 && [0, 2].contains scope.toNat && ord.toNat ≤ 1 && sz.toNat ≤ 4 && gDestOk t [a, x]
  | .stp gd t a x _ scope ord sz => gd.ok && t.srcOk true true true (szRegs sz) && a.srcOk true true true 1 && x.srcOk true true true 1 && [0, 2].contains scope.toNat && [0, 2].contains ord.toNat && sz.toNat ≤ 4
  | .ldk gd t a x _ sz => gd.ok && t.dstOk true true true (szRegs sz) && a.srcOk true true false 2 && x.srcOk true true true 1 && sz.toNat ≤ 4 && gDestOk t [a, x]
  | .atom gd t a x aop _ scope _ sz => gd.ok && t.dstOk true true false (szRegs sz) && a.srcOk true true false 2 && x.srcOk true true true (szRegs sz) && (1 ≤ scope.toNat && scope.toNat ≤ 7) && [2, 3].contains sz.toNat && gDestOk t [a, x] && atomOk aop sz
  | .acas gd t a x _ scope _ sz => gd.ok && t.dstOk true true true (szRegs sz) && a.srcOk true true false 2 && x.srcOk true true false (2 * szRegs sz) && (1 ≤ scope.toNat && scope.toNat ≤ 7) && [2, 3].contains sz.toNat && gDestOk t [a, x]
  | .red gd a x aop _ scope ord sz => gd.ok && a.srcOk true true false 2 && x.srcOk true true true (szRegs sz) && (1 ≤ scope.toNat && scope.toNat ≤ 7) && [0, 2].contains ord.toNat && [2, 3].contains sz.toNat && atomOk aop sz
  | .atomp gd t a x aop _ scope _ sz => gd.ok && t.dstOk true true true (szRegs sz) && a.srcOk true true true 1 && x.srcOk true true true (szRegs sz) && [0, 2].contains scope.toNat && [2, 3].contains sz.toNat && gDestOk t [a, x] && atomOk aop sz
  | .acasp gd t a x _ scope _ sz => gd.ok && t.dstOk true true true (szRegs sz) && a.srcOk true true true 1 && x.srcOk true true false (2 * szRegs sz) && [0, 2].contains scope.toNat && [2, 3].contains sz.toNat && gDestOk t [a, x]
  | .fence gd scope ord => gd.ok && (1 ≤ scope.toNat && scope.toNat ≤ 7) && (1 ≤ ord.toNat && ord.toNat ≤ 3)
  | .pref gd a x _ scope sz => gd.ok && a.srcOk true true false 2 && x.srcOk true true true 1 && [3, 4].contains scope.toNat && sz.toNat ≤ 4
  | .cflush gd a x _ scope sz => gd.ok && a.srcOk true true false 2 && x.srcOk true true true 1 && [3, 4, 5].contains scope.toNat && sz.toNat ≤ 4
  | .tagrd gd t a x _ sz => gd.ok && t.dstOk true true false 1 && a.srcOk true true false 2 && x.srcOk true true true 1 && [2].contains sz.toNat && gDestOk t [a, x]
  | .tagwr gd t a x _ sz => gd.ok && t.srcOk true true true 1 && a.srcOk true true false 2 && x.srcOk true true true 1 && [2].contains sz.toNat
  | .copy gd d a b _ _ => gd.ok && d.srcOk true true true 1 && a.srcOk true true true 1 && b.srcOk true true true 1
  | .copym gd d a b _ _ => gd.ok && d.srcOk true true true 1 && a.srcOk true true true 1 && b.srcOk true true false 1
  | .hwait gd _ _ => gd.ok
  | .hrel gd _ => gd.ok
  | .hstat gd d _ => gd.ok && d.dstOk true true false 2
  | .cfetch gd a _ => gd.ok && a.srcOk true true false 2
  | .cwait gd a => gd.ok && a.srcOk true true false 2
  | .jmpf gd a pr disp => gd.ok && a.srcOk true true true 2 && (a.isNull || (pr == 0 && disp == 0))
  | .callf gd a _ disp => gd.ok && a.srcOk true true true 2 && (a.isNull || disp == 0)
  | .cevict gd a => gd.ok && a.srcOk true true false 2
  | .rast gd d a _ => gd.ok && d.srcOk true true true 1 && a.srcOk true true false 2
  | .visld gd d a b pos => gd.ok && d.dstOk true false false 1 && a.srcOk true true true 1 && b.srcOk true true false 1 && d.okW (if pos == 1 then 2 else 4)
  | .bary gd d a b c => gd.ok && d.dstOk true false false 4 && a.srcOk true true false 4 && b.srcOk true true false 4 && c.srcOk true true false 4
  | .tex gd d a b c _ _ _ => gd.ok && d.dstOk true false false 4 && a.srcOk true true false 2 && b.srcOk true true false 2 && c.srcOk true true true 2
  | .texg gd d a b c _ _ _ => gd.ok && d.dstOk true false false 4 && a.srcOk true true false 2 && b.srcOk true true false 2 && c.srcOk true true true 2
  | .texq gd d a c => gd.ok && d.dstOk true false false 4 && a.srcOk true true false 2 && c.srcOk true true true 1
  | .rsmark gd a => gd.ok && a.srcOk true true false 1
  | .rtbox gd d a b c _ => gd.ok && d.dstOk true false false 4 && a.srcOk true true false 4 && b.srcOk true true false 4 && c.srcOk true true false 2
  | .rttri gd d a b c cull _ => gd.ok && d.dstOk true false false 4 && a.srcOk true true false 4 && b.srcOk true true false 4 && c.srcOk true true false 2 && cull.toNat ≤ 2
  | .rtxf gd d a c _ => gd.ok && d.dstOk true false false 4 && a.srcOk true true false 4 && c.srcOk true true false 2
  | .sig gd d a => gd.isAlways && d.dstOk false true false 2 && a.srcOk true false false 1
  | .sigend gd a b c => gd.ok && a.srcOk true true false 2 && b.srcOk true true false 1 && c.srcOk true true false 2
  | .time gd d => gd.ok && d.dstOk true true false 2
  | .launch gd a _ => gd.ok && a.srcOk true true false 2
  | .launchw gd a => gd.ok && a.srcOk true true false 2
  | .lwait gd d a test pd => gd.ok && d.dstOk true true true 2 && a.srcOk true true false 2 && gDestOk d [a] && (test == 1 || pd == 7)
  | .lpub gd a _ => gd.ok && a.srcOk true true false 2
  | .platch gd d _ _ _ => gd.ok && d.dstOk true false false 4
  | .decls gd a => gd.ok && a.srcOk true true true 1
  | .kselGen gd _ _ => gd.ok
  | .kselZero gd _ _ => gd.ok
  | .kselDcl gd a _ _ => gd.ok && a.srcOk true true false 2
  | .kselUndcl gd a _ _ => gd.ok && a.srcOk true true false 2
  | .kselStat gd d _ => gd.ok && d.dstOk true false false 2
  | .trap gd a w64 _ => gd.ok && a.srcOk true true true 1 && a.okW (if w64 == 1 then 2 else 1)
  | .rte gd => gd.ok
  | .ctxsv gd a _ _ => gd.ok && a.srcOk true true false 1
  | .ctxld gd a _ => gd.ok && a.srcOk true true false 1
  | .ifrrd gd d a _ _ => gd.ok && d.dstOk true false false 2 && a.srcOk true false false 4
  | .frqpop gd d _ _ => gd.ok && d.dstOk true false false 1 && d.num.toNat % 8 == 0
  | .frqack gd a _ _ => gd.ok && a.srcOk true true false 2
  | .rngwr gd d a _ => gd.ok && d.dstOk true false true 2 && a.srcOk true false false 4
  | .rnginvA gd a => gd.ok && a.srcOk true true true 1
  | .rnginvB gd a _ _ => gd.ok && a.srcOk true true true 2
  | .dirtyhv gd d a _ => gd.ok && d.dstOk true true true 1 && a.srcOk true true true 2 && gDestOk d [a]
  | .halt gd => gd.ok
  | .yieldExpiry _ _ _ => false
  | .regroupCompletion _ => false
  | .waittRelease _ _ _ => false
  | .producerCompletion _ _ _ => false
  | .mxsyncFold _ _ _ => false
  | .planeReady _ _ => false
  | .stswapCompletion _ _ => false
  | .gridSwitchEnd _ _ => false
  | .accessAtHome _ _ _ _ => false
  | .copyBeat _ _ => false
  | .handleDrainEnd _ _ => false
  | .codeFetchCompletion _ _ => false
  | .rasterCommand _ => false
  | .residencyRequest _ => false
  | .teamPlacement _ => false
  | .stopRequest _ => false
  | .freezeBroadcast _ _ => false
  | .ifrSnapshot _ => false
  | .saveComplete _ => false
  | .teamEviction _ => false
  | .teamRestore _ => false
  | .replayEnd _ => false
  | .rollback _ => false
  | .launchCompletion _ => false
  | .sittingOpening _ => false
  | .sittingEnd _ => false
  | .graceExpiry _ => false
  | .stctlSwitch _ => false
  | .frameStart _ => false
  | .scanOutLine _ _ => false
  | .proofInstant _ _ => false
  | .scrubCompletion _ _ => false
  | .tellTaleStateWord _ => false
  | .attitudeMessage _ => false
  | .gptpMessage _ _ => false
  | .spdmMessage _ _ => false
  | .stagingMessage _ _ => false
  | .unadmittedFrame _ => false
  | .frameStartPacket _ => false
  | .cameraLinePacket _ _ _ _ => false
  | .frameEndPacket _ => false
  | .cameraControlWrite _ _ _ => false
  | .canvasApply _ => false
  | .layerEntryWrite _ _ _ _ => false
  | .warpConfigurationWrite _ _ => false
  | .prfinjWrite _ => false
  | .partitionRequest _ _ => false
  | .partitionDissolution _ => false
  | .engineAssignmentWrite _ _ => false
  | .rreset _ _ => false
  | .apertureRead _ _ _ => false
  | .apertureWrite _ _ _ => false
  | .functionLevelReset _ => false
  | .stagingBegin _ => false
  | .stagingChunk _ _ _ => false
  | .stagingPermit _ _ => false
  | .stagingEnd _ => false
  | .stagingAbort _ => false
  | .wake _ => false
  | .bootFallback _ => false
  | .thermal _ => false
  | .memoryScrub _ _ => false
  | .registerWrite _ _ _ => false
  | .gridStepPass _ _ _ => false
  | .illegalOpcode w => !opAssigned (w.extractLsb' 56 8)
  | .portLinkChange _ _ => false
  | .debugPermit _ => false
  | .bankSwitch  => false
  | .gateWindowEnd  => false
  | .admissionInterval  => false
  | .warpLatch  => false
  | .stateWordExpiry  => false
  | .deepSleep  => false
  | .timedWake  => false
  | .deviceReset  => false
  | .debugFreeze  => false
  | .millisecond  => false
  | .second  => false
  | .codeAbsent  => false
  | .powerLoss  => false
  | .firmwareHealthyReport  => false

/-- The instruction may be performed only by a privileged thread (R37). -/
def Instr.privileged : Instr → Bool
  | .kselGen _ _ _ => true
  | .kselZero _ _ _ => true
  | .kselDcl _ _ _ _ => true
  | .kselUndcl _ _ _ _ => true
  | .kselStat _ _ _ => true
  | .ctxsv _ _ _ _ => true
  | .ctxld _ _ _ => true
  | .ifrrd _ _ _ _ _ => true
  | .frqpop _ _ _ _ => true
  | .frqack _ _ _ _ => true
  | .rngwr _ _ _ _ => true
  | .rnginvA _ _ => true
  | .rnginvB _ _ _ _ => true
  | .dirtyhv _ _ _ _ => true
  | .halt _ => true
  | _ => false

end Sys2Proof
end

