-- ==== Sys2Proof/Decode.lean ====
section
/-! DEFINITION. The decoder (R36 steps 1 and 2) and the encoder, over the six formats of R30 and the encoding tables of
chapters 02, 04, 05 and 07-17. -/

namespace Sys2Proof

/-- Why a word is refused at decode: step 2 of R36, or fewer than eight bytes. Step 1 gives `Instr.illegalOpcode`. -/
inductive DecodeError where
  | illegalEncoding
  | tooShort
  deriving DecidableEq, Repr

/-- Table 1 of R24, from a field's bits. -/
def Reg.ofBits (b : BitVec 10) : Reg :=
  ⟨b.getLsbD 9, b.getLsbD 8, if b.getLsbD 7 then .g else .v, b.extractLsb' 0 7⟩

/-- Table 1 of R24, to a field's bits. -/
def Reg.toBits (r : Reg) : BitVec 10 :=
  BitVec.ofBool r.ind ++ BitVec.ofBool r.w ++ (match r.cls with | .v => 0#1 | .g => 1#1) ++ r.num

def Guard.ofBits (b : BitVec 4) : Guard := ⟨b.getLsbD 3, b.extractLsb' 0 3⟩

def Guard.toBits (g : Guard) : BitVec 4 := BitVec.ofBool g.neg ++ g.p

/-- The guard of a word (R23). -/
def gdOf (w : BitVec 64) : Guard := Guard.ofBits (w.extractLsb' 52 4)

/-- The register field whose lowest bit is `lo`. -/
def regAt (w : BitVec 64) (lo : Nat) : Reg := Reg.ofBits (w.extractLsb' lo 10)

/-- Format RR and format ENG (R30, Table 2). -/
def wordRR (op : BitVec 8) (gd : Guard) (d a b c : Reg) (m : BitVec 12) : BitVec 64 :=
  op ++ gd.toBits ++ d.toBits ++ a.toBits ++ b.toBits ++ c.toBits ++ m

/-- Format RI, and format SYS with SEL and IMM as one field of 32 bits (R30, Table 2). -/
def wordRI (op : BitVec 8) (gd : Guard) (d a : Reg) (imm : BitVec 32) : BitVec 64 :=
  op ++ gd.toBits ++ d.toBits ++ a.toBits ++ imm

/-- Format MEM, with OFS, SCOPE, ORD and SZ as one field of 22 bits (R30, Table 2). -/
def wordMEM (op : BitVec 8) (gd : Guard) (t a x : Reg) (m : BitVec 22) : BitVec 64 :=
  op ++ gd.toBits ++ t.toBits ++ a.toBits ++ x.toBits ++ m

/-- Format BR, H zero (R30, Table 2; R32). -/
def wordBR (op : BitVec 8) (gd : Guard) (prio : BitVec 8) (a : Reg) (disp : BitVec 32) : BitVec 64 :=
  op ++ gd.toBits ++ prio ++ 0#2 ++ a.toBits ++ disp

/-- The word of an instruction; an event row has none. -/
def encode : Instr → Option (BitVec 64)
  | .nop gd => some (wordRI 0x01#8 gd Reg.null Reg.null 0#32)
  | .bra gd pr disp => some (wordBR 0x02#8 gd pr Reg.null disp)
  | .brx gd a pr => some (wordBR 0x03#8 gd pr a 0#32)
  | .call gd pr disp => some (wordBR 0x04#8 gd pr Reg.null disp)
  | .callx gd a pr => some (wordBR 0x05#8 gd pr a 0#32)
  | .ret gd a => some (wordBR 0x06#8 gd 0#8 a 0#32)
  | .exit gd => some (wordRI 0x07#8 gd Reg.null Reg.null 0#32)
  | .yield gd cyc => some (wordRI 0x08#8 gd Reg.null Reg.null (0#16 ++ cyc))
  | .prio gd p => some (wordRI 0x09#8 gd Reg.null Reg.null (0#24 ++ p))
  | .regroup gd a => some (wordRR 0x0A#8 gd Reg.null a Reg.null Reg.null 0#12)
  | .barg gd a hi lo => some (wordRI 0x0B#8 gd Reg.null a (hi ++ lo))
  | .bart gd a gm => some (wordRI 0x0C#8 gd Reg.null a (0#16 ++ gm))
  | .arrive gd d a ofs => some (wordRI 0x0D#8 gd d a (0#16 ++ ofs))
  | .await gd a test pd ofs => some (wordRI 0x0E#8 gd Reg.null a (0#12 ++ test ++ pd ++ ofs))
  | .vote gd d c pd op neg pa => some (wordRR 0x0F#8 gd d Reg.null Reg.null c (0#3 ++ pd ++ op ++ neg ++ pa))
  | .elect gd d c pd => some (wordRR 0x10#8 gd d Reg.null Reg.null c (0#9 ++ pd))
  | .shfl gd d a b c mode pd => some (wordRR 0x11#8 gd d a b c (0#7 ++ mode ++ pd))
  | .redg gd d a c op => some (wordRR 0x12#8 gd d a Reg.null c (0#8 ++ op))
  | .scang gd d a c excl op => some (wordRR 0x13#8 gd d a Reg.null c (0#7 ++ excl ++ op))
  | .matchG gd d a c b64 pd => some (wordRR 0x14#8 gd d a Reg.null c (0#8 ++ b64 ++ pd))
  | .waitt gd a => some (wordRI 0x15#8 gd Reg.null a 0#32)
  | .mov gd d a size => some (wordRR 0x20#8 gd d a Reg.null Reg.null (0#10 ++ size))
  | .movi gd d imm => some (wordRI 0x21#8 gd d Reg.null imm)
  | .movg gd d a first lane => some (wordRR 0x22#8 gd d a Reg.null Reg.null (0#6 ++ first ++ lane))
  | .sel gd d a b size neg pc => some (wordRR 0x23#8 gd d a b Reg.null (0#7 ++ size ++ neg ++ pc))
  | .pset gd a b test pd => some (wordRR 0x24#8 gd Reg.null a b Reg.null (0#7 ++ test ++ pd))
  | .plop gd op pd pa pb => some (wordRR 0x25#8 gd Reg.null Reg.null Reg.null Reg.null (op ++ pd ++ pa ++ pb))
  | .p2v gd d => some (wordRR 0x26#8 gd d Reg.null Reg.null Reg.null 0#12)
  | .v2p gd a mask => some (wordRR 0x27#8 gd Reg.null a Reg.null Reg.null (0#5 ++ mask))
  | .wbase gd a rel delta => some (wordRI 0x28#8 gd Reg.null a (rel ++ 0#15 ++ delta))
  | .ixset gd a imm => some (wordRI 0x29#8 gd Reg.null a imm)
  | .ixadd gd a imm => some (wordRI 0x2A#8 gd Reg.null a imm)
  | .srd gd d sr => some (wordRI 0x2B#8 gd d Reg.null (sr ++ 0#16))
  | .swr gd a sr => some (wordRI 0x2C#8 gd Reg.null a (sr ++ 0#16))
  | .empty gd d size => some (wordRR 0x2D#8 gd d Reg.null Reg.null Reg.null (0#10 ++ size))
  | .tfull gd a test pd => some (wordRR 0x2E#8 gd Reg.null a Reg.null Reg.null (0#7 ++ test ++ pd))
  | .allot gd n pd => some (wordRI 0x2F#8 gd Reg.null Reg.null (0#21 ++ n ++ pd))
  | .iadd gd d a b sat => some (wordRR 0x30#8 gd d a b Reg.null (0#10 ++ sat))
  | .isub gd d a b sat => some (wordRR 0x31#8 gd d a b Reg.null (0#10 ++ sat))
  | .iadd3 gd d a b c sat => some (wordRR 0x32#8 gd d a b c (0#10 ++ sat))
  | .imul gd d a b sat => some (wordRR 0x33#8 gd d a b Reg.null (0#10 ++ sat))
  | .imulh gd d a b sgn => some (wordRR 0x34#8 gd d a b Reg.null (0#10 ++ sgn))
  | .imad gd d a b c sat => some (wordRR 0x35#8 gd d a b c (0#10 ++ sat))
  | .imin gd d a b u => some (wordRR 0x36#8 gd d a b Reg.null (0#11 ++ u))
  | .imax gd d a b u => some (wordRR 0x37#8 gd d a b Reg.null (0#11 ++ u))
  | .iabs gd d a s1 => some (wordRR 0x38#8 gd d a Reg.null Reg.null (0#11 ++ s1))
  | .ineg gd d a s1 => some (wordRR 0x39#8 gd d a Reg.null Reg.null (0#11 ++ s1))
  | .and gd d a b => some (wordRR 0x3A#8 gd d a b Reg.null 0#12)
  | .or gd d a b => some (wordRR 0x3B#8 gd d a b Reg.null 0#12)
  | .xor gd d a b => some (wordRR 0x3C#8 gd d a b Reg.null 0#12)
  | .andn gd d a b => some (wordRR 0x3D#8 gd d a b Reg.null 0#12)
  | .not gd d a => some (wordRR 0x3E#8 gd d a Reg.null Reg.null 0#12)
  | .lop3 gd d a b c lut => some (wordRR 0x3F#8 gd d a b c (0#4 ++ lut))
  | .shl gd d a b wrap => some (wordRR 0x40#8 gd d a b Reg.null (0#11 ++ wrap))
  | .shr gd d a b wrap => some (wordRR 0x41#8 gd d a b Reg.null (0#11 ++ wrap))
  | .sar gd d a b wrap => some (wordRR 0x42#8 gd d a b Reg.null (0#11 ++ wrap))
  | .rotl gd d a b => some (wordRR 0x43#8 gd d a b Reg.null 0#12)
  | .fshl gd d a b c => some (wordRR 0x44#8 gd d a b c 0#12)
  | .popc gd d a => some (wordRR 0x45#8 gd d a Reg.null Reg.null 0#12)
  | .clz gd d a => some (wordRR 0x46#8 gd d a Reg.null Reg.null 0#12)
  | .brev gd d a => some (wordRR 0x47#8 gd d a Reg.null Reg.null 0#12)
  | .bfe gd d a b sx => some (wordRR 0x48#8 gd d a b Reg.null (0#11 ++ sx))
  | .bfi gd d a b c => some (wordRR 0x49#8 gd d a b c 0#12)
  | .isetp gd a b cmp u b64 pd => some (wordRR 0x4A#8 gd Reg.null a b Reg.null (cmp ++ u ++ b64 ++ 0#4 ++ pd))
  | .icsub gd d a b pd => some (wordRR 0x4B#8 gd d a b Reg.null (0#9 ++ pd))
  | .iadd64 gd d a b => some (wordRR 0x4C#8 gd d a b Reg.null 0#12)
  | .isub64 gd d a b => some (wordRR 0x4D#8 gd d a b Reg.null 0#12)
  | .imulw gd d a b sgn => some (wordRR 0x4E#8 gd d a b Reg.null (0#10 ++ sgn))
  | .lea gd d a b sx sh => some (wordRR 0x4F#8 gd d a b Reg.null (0#8 ++ sx ++ sh))
  | .isat gd d a u ty => some (wordRR 0x50#8 gd d a Reg.null Reg.null (0#7 ++ u ++ ty))
  | .idp4 gd d a b c sat au bu => some (wordRR 0x51#8 gd d a b c (0#9 ++ sat ++ au ++ bu))
  | .fadd gd d a b rnd => some (wordRR 0x60#8 gd d a b Reg.null (rnd ++ 0#9))
  | .fsub gd d a b rnd => some (wordRR 0x61#8 gd d a b Reg.null (rnd ++ 0#9))
  | .fmul gd d a b rnd => some (wordRR 0x62#8 gd d a b Reg.null (rnd ++ 0#9))
  | .ffma gd d a b c rnd => some (wordRR 0x63#8 gd d a b c (rnd ++ 0#9))
  | .fmin gd d a b => some (wordRR 0x64#8 gd d a b Reg.null 0#12)
  | .fmax gd d a b => some (wordRR 0x65#8 gd d a b Reg.null 0#12)
  | .fminp gd d a b => some (wordRR 0x66#8 gd d a b Reg.null 0#12)
  | .fmaxp gd d a b => some (wordRR 0x67#8 gd d a b Reg.null 0#12)
  | .fabs gd d a => some (wordRR 0x68#8 gd d a Reg.null Reg.null 0#12)
  | .fneg gd d a => some (wordRR 0x69#8 gd d a Reg.null Reg.null 0#12)
  | .fsetp gd a b cmp pd => some (wordRR 0x6A#8 gd Reg.null a b Reg.null (cmp ++ 0#6 ++ pd))
  | .fclass gd d a => some (wordRR 0x6B#8 gd d a Reg.null Reg.null 0#12)
  | .frnd gd d a rnd => some (wordRR 0x6C#8 gd d a Reg.null Reg.null (rnd ++ 0#9))
  | .fdiv gd d a b rnd => some (wordRR 0x6D#8 gd d a b Reg.null (rnd ++ 0#9))
  | .fsqrt gd d a rnd => some (wordRR 0x6E#8 gd d a Reg.null Reg.null (rnd ++ 0#9))
  | .frcp gd d a rnd => some (wordRR 0x6F#8 gd d a Reg.null Reg.null (rnd ++ 0#9))
  | .frsq gd d a => some (wordRR 0x70#8 gd d a Reg.null Reg.null 0#12)
  | .fexp2 gd d a => some (wordRR 0x71#8 gd d a Reg.null Reg.null 0#12)
  | .flog2 gd d a => some (wordRR 0x72#8 gd d a Reg.null Reg.null 0#12)
  | .fsinpi gd d a => some (wordRR 0x73#8 gd d a Reg.null Reg.null 0#12)
  | .fcospi gd d a => some (wordRR 0x74#8 gd d a Reg.null Reg.null 0#12)
  | .ftanh gd d a => some (wordRR 0x75#8 gd d a Reg.null Reg.null 0#12)
  | .hadd2 gd d a b rnd ty => some (wordRR 0x76#8 gd d a b Reg.null (rnd ++ 0#5 ++ ty))
  | .hmul2 gd d a b rnd ty => some (wordRR 0x77#8 gd d a b Reg.null (rnd ++ 0#5 ++ ty))
  | .hfma2 gd d a b c rnd ty => some (wordRR 0x78#8 gd d a b c (rnd ++ 0#5 ++ ty))
  | .fcvt gd d a rnd dst src => some (wordRR 0x79#8 gd d a Reg.null Reg.null (rnd ++ 0#1 ++ dst ++ src))
  | .f2i gd d a rnd dst => some (wordRR 0x7A#8 gd d a Reg.null Reg.null (rnd ++ 0#5 ++ dst))
  | .i2f gd d a rnd dst src => some (wordRR 0x7B#8 gd d a Reg.null Reg.null (rnd ++ 0#1 ++ dst ++ src))
  | .qcvt gd d a b rnd ty => some (wordRR 0x7C#8 gd d a b Reg.null (rnd ++ 0#5 ++ ty))
  | .qdeq gd d a b rnd ty el => some (wordRR 0x7D#8 gd d a b Reg.null (rnd ++ 0#1 ++ ty ++ 0#1 ++ el))
  | .qscale gd d a am ty => some (wordRR 0x7E#8 gd d a Reg.null Reg.null (0#7 ++ am ++ ty))
  | .mxon gd shape scaled ty try_ pd => some (wordRI 0x90#8 gd Reg.null Reg.null (shape ++ scaled ++ 0#9 ++ ty ++ 0#12 ++ try_ ++ pd))
  | .mxoff gd => some (wordRI 0x91#8 gd Reg.null Reg.null 0#32)
  | .mxsync gd => some (wordRI 0x92#8 gd Reg.null Reg.null 0#32)
  | .mxclr gd => some (wordRR 0x93#8 gd Reg.null Reg.null Reg.null Reg.null 0#12)
  | .stld gd a ofs => some (wordRR 0x94#8 gd Reg.null a Reg.null Reg.null ofs)
  | .stswap gd => some (wordRI 0x95#8 gd Reg.null Reg.null 0#32)
  | .mma gd a => some (wordRR 0x96#8 gd Reg.null a Reg.null Reg.null 0#12)
  | .mmas gd a b => some (wordRR 0x97#8 gd Reg.null a b Reg.null 0#12)
  | .mxrd gd d a size => some (wordRR 0x98#8 gd d a Reg.null Reg.null (0#10 ++ size))
  | .mxst gd t a x ofs scope ord sz => some (wordMEM 0x99#8 gd t a x (ofs ++ scope ++ ord ++ sz))
  | .ld gd t a x ofs scope ord sz => some (wordMEM 0xA0#8 gd t a x (ofs ++ scope ++ ord ++ sz))
  | .st gd t a x ofs scope ord sz => some (wordMEM 0xA1#8 gd t a x (ofs ++ scope ++ ord ++ sz))
  | .ldp gd t a x ofs scope ord sz => some (wordMEM 0xA2#8 gd t a x (ofs ++ scope ++ ord ++ sz))
  | .stp gd t a x ofs scope ord sz => some (wordMEM 0xA3#8 gd t a x (ofs ++ scope ++ ord ++ sz))
  | .ldk gd t a x ofs sz => some (wordMEM 0xA4#8 gd t a x (ofs ++ 0#5 ++ sz))
  | .atom gd t a x aop aofs scope ord sz => some (wordMEM 0xA5#8 gd t a x (aop ++ aofs ++ scope ++ ord ++ sz))
  | .acas gd t a x ofs scope ord sz => some (wordMEM 0xA6#8 gd t a x (ofs ++ scope ++ ord ++ sz))
  | .red gd a x aop aofs scope ord sz => some (wordMEM 0xA7#8 gd Reg.null a x (aop ++ aofs ++ scope ++ ord ++ sz))
  | .atomp gd t a x aop aofs scope ord sz => some (wordMEM 0xA8#8 gd t a x (aop ++ aofs ++ scope ++ ord ++ sz))
  | .acasp gd t a x ofs scope ord sz => some (wordMEM 0xA9#8 gd t a x (ofs ++ scope ++ ord ++ sz))
  | .fence gd scope ord => some (wordRI 0xAA#8 gd Reg.null Reg.null (0#24 ++ scope ++ ord ++ 0#3))
  | .pref gd a x ofs scope sz => some (wordMEM 0xAB#8 gd Reg.null a x (ofs ++ scope ++ 0#2 ++ sz))
  | .cflush gd a x ofs scope sz => some (wordMEM 0xAC#8 gd Reg.null a x (ofs ++ scope ++ 0#2 ++ sz))
  | .tagrd gd t a x ofs sz => some (wordMEM 0xAD#8 gd t a x (ofs ++ 0#5 ++ sz))
  | .tagwr gd t a x ofs sz => some (wordMEM 0xAE#8 gd t a x (ofs ++ 0#5 ++ sz))
  | .copy gd d a b tmpl hnd => some (wordRR 0xC0#8 gd d a b Reg.null (tmpl ++ hnd ++ 0#1))
  | .copym gd d a b tmpl hnd => some (wordRR 0xC1#8 gd d a b Reg.null (tmpl ++ hnd ++ 0#1))
  | .hwait gd hnd pd => some (wordRI 0xC2#8 gd Reg.null Reg.null (0#24 ++ hnd ++ pd))
  | .hrel gd hnd => some (wordRI 0xC3#8 gd Reg.null Reg.null (0#24 ++ hnd ++ 0#3))
  | .hstat gd d hnd => some (wordRI 0xC4#8 gd d Reg.null (0#24 ++ hnd ++ 0#3))
  | .cfetch gd a pd => some (wordRI 0xC5#8 gd Reg.null a (0#29 ++ pd))
  | .cwait gd a => some (wordRI 0xC6#8 gd Reg.null a 0#32)
  | .jmpf gd a pr disp => some (wordBR 0xC7#8 gd pr a disp)
  | .callf gd a pr disp => some (wordBR 0xC8#8 gd pr a disp)
  | .cevict gd a => some (wordRI 0xC9#8 gd Reg.null a 0#32)
  | .rast gd d a hnd => some (wordRR 0xD0#8 gd d a Reg.null Reg.null (0#6 ++ hnd ++ 0#1))
  | .visld gd d a b pos => some (wordRR 0xD1#8 gd d a b Reg.null (0#11 ++ pos))
  | .bary gd d a b c => some (wordRR 0xD2#8 gd d a b c 0#12)
  | .tex gd d a b c nm lin pd => some (wordRR 0xD3#8 gd d a b c (0#7 ++ nm ++ lin ++ pd))
  | .texg gd d a b c comp nm pd => some (wordRR 0xD4#8 gd d a b c (0#5 ++ comp ++ nm ++ 0#1 ++ pd))
  | .texq gd d a c => some (wordRR 0xD5#8 gd d a Reg.null c 0#12)
  | .rsmark gd a => some (wordRR 0xD6#8 gd Reg.null a Reg.null Reg.null 0#12)
  | .rtbox gd d a b c pd => some (wordRR 0xD7#8 gd d a b c (0#9 ++ pd))
  | .rttri gd d a b c cull pd => some (wordRR 0xD8#8 gd d a b c (0#7 ++ cull ++ pd))
  | .rtxf gd d a c dir => some (wordRR 0xD9#8 gd d a Reg.null c (0#11 ++ dir))
  | .sig gd d a => some (wordRR 0xDA#8 gd d a Reg.null Reg.null 0#12)
  | .sigend gd a b c => some (wordRR 0xDB#8 gd Reg.null a b c 0#12)
  | .time gd d => some (wordRI 0xE0#8 gd d Reg.null 0#32)
  | .launch gd a pd => some (wordRI 0xE1#8 gd Reg.null a (0#29 ++ pd))
  | .launchw gd a => some (wordRI 0xE2#8 gd Reg.null a 0#32)
  | .lwait gd d a test pd => some (wordRI 0xE3#8 gd d a (0#28 ++ test ++ pd))
  | .lpub gd a pd => some (wordRI 0xE4#8 gd Reg.null a (0#29 ++ pd))
  | .platch gd d md slot pd => some (wordRI 0xE5#8 gd d Reg.null (0#15 ++ md ++ 0#11 ++ slot ++ pd))
  | .decls gd a => some (wordRI 0xE6#8 gd Reg.null a 0#32)
  | .kselGen gd slot pd => some (wordRI 0xE7#8 gd Reg.null Reg.null (0#13 ++ 0#3 ++ 0#4 ++ slot ++ pd))
  | .kselZero gd slot pd => some (wordRI 0xE7#8 gd Reg.null Reg.null (0#13 ++ 1#3 ++ 0#4 ++ slot ++ pd))
  | .kselDcl gd a slot pd => some (wordRI 0xE7#8 gd Reg.null a (0#13 ++ 2#3 ++ 0#4 ++ slot ++ pd))
  | .kselUndcl gd a slot pd => some (wordRI 0xE7#8 gd Reg.null a (0#13 ++ 3#3 ++ 0#4 ++ slot ++ pd))
  | .kselStat gd d slot => some (wordRI 0xE7#8 gd d Reg.null (0#13 ++ 4#3 ++ 0#4 ++ slot ++ 7#3))
  | .trap gd a w64 code => some (wordRI 0xF0#8 gd Reg.null a (0#15 ++ w64 ++ code))
  | .rte gd => some (wordRI 0xF1#8 gd Reg.null Reg.null 0#32)
  | .ctxsv gd a hold pd => some (wordRI 0xF2#8 gd Reg.null a (0#15 ++ hold ++ 0#13 ++ pd))
  | .ctxld gd a pd => some (wordRI 0xF3#8 gd Reg.null a (0#29 ++ pd))
  | .ifrrd gd d a dw ent => some (wordRI 0xF4#8 gd d a (0#20 ++ dw ++ ent))
  | .frqpop gd d panel pd => some (wordRI 0xF5#8 gd d Reg.null (0#24 ++ panel ++ 0#1 ++ pd))
  | .frqack gd a refuse pd => some (wordRI 0xF6#8 gd Reg.null a (0#15 ++ refuse ++ 0#13 ++ pd))
  | .rngwr gd d a pd => some (wordRI 0xF7#8 gd d a (0#29 ++ pd))
  | .rnginvA gd a => some (wordRI 0xF8#8 gd Reg.null a (0#15 ++ 0#1 ++ 0#16))
  | .rnginvB gd a disc n1 => some (wordRI 0xF8#8 gd Reg.null a (0#15 ++ 1#1 ++ 0#3 ++ disc ++ n1))
  | .dirtyhv gd d a n1 => some (wordRI 0xF9#8 gd d a (0#27 ++ n1))
  | .halt gd => some (wordRI 0xFA#8 gd Reg.null Reg.null 0#32)
  | .illegalOpcode w => some w
  | .yieldExpiry _ _ _ => none
  | .regroupCompletion _ => none
  | .waittRelease _ _ _ => none
  | .producerCompletion _ _ _ => none
  | .mxsyncFold _ _ _ => none
  | .planeReady _ _ => none
  | .stswapCompletion _ _ => none
  | .gridSwitchEnd _ _ => none
  | .accessAtHome _ _ _ _ => none
  | .copyBeat _ _ => none
  | .handleDrainEnd _ _ => none
  | .codeFetchCompletion _ _ => none
  | .rasterCommand _ => none
  | .residencyRequest _ => none
  | .teamPlacement _ => none
  | .stopRequest _ => none
  | .freezeBroadcast _ _ => none
  | .ifrSnapshot _ => none
  | .saveComplete _ => none
  | .teamEviction _ => none
  | .teamRestore _ => none
  | .replayEnd _ => none
  | .rollback _ => none
  | .launchCompletion _ => none
  | .sittingOpening _ => none
  | .sittingEnd _ => none
  | .graceExpiry _ => none
  | .stctlSwitch _ => none
  | .frameStart _ => none
  | .scanOutLine _ _ => none
  | .proofInstant _ _ => none
  | .scrubCompletion _ _ => none
  | .tellTaleStateWord _ => none
  | .attitudeMessage _ => none
  | .gptpMessage _ _ => none
  | .spdmMessage _ _ => none
  | .stagingMessage _ _ => none
  | .unadmittedFrame _ => none
  | .frameStartPacket _ => none
  | .cameraLinePacket _ _ _ _ => none
  | .frameEndPacket _ => none
  | .cameraControlWrite _ _ _ => none
  | .canvasApply _ => none
  | .layerEntryWrite _ _ _ _ => none
  | .warpConfigurationWrite _ _ => none
  | .prfinjWrite _ => none
  | .partitionRequest _ _ => none
  | .partitionDissolution _ => none
  | .engineAssignmentWrite _ _ => none
  | .rreset _ _ => none
  | .apertureRead _ _ _ => none
  | .apertureWrite _ _ _ => none
  | .functionLevelReset _ => none
  | .stagingBegin _ => none
  | .stagingChunk _ _ _ => none
  | .stagingPermit _ _ => none
  | .stagingEnd _ => none
  | .stagingAbort _ => none
  | .wake _ => none
  | .bootFallback _ => none
  | .thermal _ => none
  | .memoryScrub _ _ => none
  | .registerWrite _ _ _ => none
  | .gridStepPass _ _ _ => none
  | .portLinkChange _ _ => none
  | .debugPermit _ => none
  | .bankSwitch => none
  | .gateWindowEnd => none
  | .admissionInterval => none
  | .warpLatch => none
  | .stateWordExpiry => none
  | .deepSleep => none
  | .timedWake => none
  | .deviceReset => none
  | .debugFreeze => none
  | .millisecond => none
  | .second => none
  | .codeAbsent => none
  | .powerLoss => none
  | .firmwareHealthyReport => none

/-- The instruction a word's opcode names, with its fields read from the places its format gives them. Whether the
word is legal is `decode`'s question; the sub-operations of RNGINV and KSEL (R33) are told apart by SEL. -/
def parse (w : BitVec 64) : Option Instr :=
  match (w.extractLsb' 56 8).toNat with
  | 0x01 => some (.nop (gdOf w))
  | 0x02 => some (.bra (gdOf w) (w.extractLsb' 44 8) (w.extractLsb' 0 32))
  | 0x03 => some (.brx (gdOf w) (regAt w 32) (w.extractLsb' 44 8))
  | 0x04 => some (.call (gdOf w) (w.extractLsb' 44 8) (w.extractLsb' 0 32))
  | 0x05 => some (.callx (gdOf w) (regAt w 32) (w.extractLsb' 44 8))
  | 0x06 => some (.ret (gdOf w) (regAt w 32))
  | 0x07 => some (.exit (gdOf w))
  | 0x08 => some (.yield (gdOf w) (w.extractLsb' 0 16))
  | 0x09 => some (.prio (gdOf w) (w.extractLsb' 0 8))
  | 0x0A => some (.regroup (gdOf w) (regAt w 32))
  | 0x0B => some (.barg (gdOf w) (regAt w 32) (w.extractLsb' 16 16) (w.extractLsb' 0 16))
  | 0x0C => some (.bart (gdOf w) (regAt w 32) (w.extractLsb' 0 16))
  | 0x0D => some (.arrive (gdOf w) (regAt w 42) (regAt w 32) (w.extractLsb' 0 16))
  | 0x0E => some (.await (gdOf w) (regAt w 32) (w.extractLsb' 19 1) (w.extractLsb' 16 3) (w.extractLsb' 0 16))
  | 0x0F => some (.vote (gdOf w) (regAt w 42) (regAt w 12) (w.extractLsb' 6 3) (w.extractLsb' 4 2) (w.extractLsb' 3 1) (w.extractLsb' 0 3))
  | 0x10 => some (.elect (gdOf w) (regAt w 42) (regAt w 12) (w.extractLsb' 0 3))
  | 0x11 => some (.shfl (gdOf w) (regAt w 42) (regAt w 32) (regAt w 22) (regAt w 12) (w.extractLsb' 3 2) (w.extractLsb' 0 3))
  | 0x12 => some (.redg (gdOf w) (regAt w 42) (regAt w 32) (regAt w 12) (w.extractLsb' 0 4))
  | 0x13 => some (.scang (gdOf w) (regAt w 42) (regAt w 32) (regAt w 12) (w.extractLsb' 4 1) (w.extractLsb' 0 4))
  | 0x14 => some (.matchG (gdOf w) (regAt w 42) (regAt w 32) (regAt w 12) (w.extractLsb' 3 1) (w.extractLsb' 0 3))
  | 0x15 => some (.waitt (gdOf w) (regAt w 32))
  | 0x20 => some (.mov (gdOf w) (regAt w 42) (regAt w 32) (w.extractLsb' 0 2))
  | 0x21 => some (.movi (gdOf w) (regAt w 42) (w.extractLsb' 0 32))
  | 0x22 => some (.movg (gdOf w) (regAt w 42) (regAt w 32) (w.extractLsb' 5 1) (w.extractLsb' 0 5))
  | 0x23 => some (.sel (gdOf w) (regAt w 42) (regAt w 32) (regAt w 22) (w.extractLsb' 4 1) (w.extractLsb' 3 1) (w.extractLsb' 0 3))
  | 0x24 => some (.pset (gdOf w) (regAt w 32) (regAt w 22) (w.extractLsb' 3 2) (w.extractLsb' 0 3))
  | 0x25 => some (.plop (gdOf w) (w.extractLsb' 9 3) (w.extractLsb' 6 3) (w.extractLsb' 3 3) (w.extractLsb' 0 3))
  | 0x26 => some (.p2v (gdOf w) (regAt w 42))
  | 0x27 => some (.v2p (gdOf w) (regAt w 32) (w.extractLsb' 0 7))
  | 0x28 => some (.wbase (gdOf w) (regAt w 32) (w.extractLsb' 31 1) (w.extractLsb' 0 16))
  | 0x29 => some (.ixset (gdOf w) (regAt w 32) (w.extractLsb' 0 32))
  | 0x2A => some (.ixadd (gdOf w) (regAt w 32) (w.extractLsb' 0 32))
  | 0x2B => some (.srd (gdOf w) (regAt w 42) (w.extractLsb' 16 16))
  | 0x2C => some (.swr (gdOf w) (regAt w 32) (w.extractLsb' 16 16))
  | 0x2D => some (.empty (gdOf w) (regAt w 42) (w.extractLsb' 0 2))
  | 0x2E => some (.tfull (gdOf w) (regAt w 32) (w.extractLsb' 3 2) (w.extractLsb' 0 3))
  | 0x2F => some (.allot (gdOf w) (w.extractLsb' 3 8) (w.extractLsb' 0 3))
  | 0x30 => some (.iadd (gdOf w) (regAt w 42) (regAt w 32) (regAt w 22) (w.extractLsb' 0 2))
  | 0x31 => some (.isub (gdOf w) (regAt w 42) (regAt w 32) (regAt w 22) (w.extractLsb' 0 2))
  | 0x32 => some (.iadd3 (gdOf w) (regAt w 42) (regAt w 32) (regAt w 22) (regAt w 12) (w.extractLsb' 0 2))
  | 0x33 => some (.imul (gdOf w) (regAt w 42) (regAt w 32) (regAt w 22) (w.extractLsb' 0 2))
  | 0x34 => some (.imulh (gdOf w) (regAt w 42) (regAt w 32) (regAt w 22) (w.extractLsb' 0 2))
  | 0x35 => some (.imad (gdOf w) (regAt w 42) (regAt w 32) (regAt w 22) (regAt w 12) (w.extractLsb' 0 2))
  | 0x36 => some (.imin (gdOf w) (regAt w 42) (regAt w 32) (regAt w 22) (w.extractLsb' 0 1))
  | 0x37 => some (.imax (gdOf w) (regAt w 42) (regAt w 32) (regAt w 22) (w.extractLsb' 0 1))
  | 0x38 => some (.iabs (gdOf w) (regAt w 42) (regAt w 32) (w.extractLsb' 0 1))
  | 0x39 => some (.ineg (gdOf w) (regAt w 42) (regAt w 32) (w.extractLsb' 0 1))
  | 0x3A => some (.and (gdOf w) (regAt w 42) (regAt w 32) (regAt w 22))
  | 0x3B => some (.or (gdOf w) (regAt w 42) (regAt w 32) (regAt w 22))
  | 0x3C => some (.xor (gdOf w) (regAt w 42) (regAt w 32) (regAt w 22))
  | 0x3D => some (.andn (gdOf w) (regAt w 42) (regAt w 32) (regAt w 22))
  | 0x3E => some (.not (gdOf w) (regAt w 42) (regAt w 32))
  | 0x3F => some (.lop3 (gdOf w) (regAt w 42) (regAt w 32) (regAt w 22) (regAt w 12) (w.extractLsb' 0 8))
  | 0x40 => some (.shl (gdOf w) (regAt w 42) (regAt w 32) (regAt w 22) (w.extractLsb' 0 1))
  | 0x41 => some (.shr (gdOf w) (regAt w 42) (regAt w 32) (regAt w 22) (w.extractLsb' 0 1))
  | 0x42 => some (.sar (gdOf w) (regAt w 42) (regAt w 32) (regAt w 22) (w.extractLsb' 0 1))
  | 0x43 => some (.rotl (gdOf w) (regAt w 42) (regAt w 32) (regAt w 22))
  | 0x44 => some (.fshl (gdOf w) (regAt w 42) (regAt w 32) (regAt w 22) (regAt w 12))
  | 0x45 => some (.popc (gdOf w) (regAt w 42) (regAt w 32))
  | 0x46 => some (.clz (gdOf w) (regAt w 42) (regAt w 32))
  | 0x47 => some (.brev (gdOf w) (regAt w 42) (regAt w 32))
  | 0x48 => some (.bfe (gdOf w) (regAt w 42) (regAt w 32) (regAt w 22) (w.extractLsb' 0 1))
  | 0x49 => some (.bfi (gdOf w) (regAt w 42) (regAt w 32) (regAt w 22) (regAt w 12))
  | 0x4A => some (.isetp (gdOf w) (regAt w 32) (regAt w 22) (w.extractLsb' 9 3) (w.extractLsb' 8 1) (w.extractLsb' 7 1) (w.extractLsb' 0 3))
  | 0x4B => some (.icsub (gdOf w) (regAt w 42) (regAt w 32) (regAt w 22) (w.extractLsb' 0 3))
  | 0x4C => some (.iadd64 (gdOf w) (regAt w 42) (regAt w 32) (regAt w 22))
  | 0x4D => some (.isub64 (gdOf w) (regAt w 42) (regAt w 32) (regAt w 22))
  | 0x4E => some (.imulw (gdOf w) (regAt w 42) (regAt w 32) (regAt w 22) (w.extractLsb' 0 2))
  | 0x4F => some (.lea (gdOf w) (regAt w 42) (regAt w 32) (regAt w 22) (w.extractLsb' 3 1) (w.extractLsb' 0 3))
  | 0x50 => some (.isat (gdOf w) (regAt w 42) (regAt w 32) (w.extractLsb' 4 1) (w.extractLsb' 0 4))
  | 0x51 => some (.idp4 (gdOf w) (regAt w 42) (regAt w 32) (regAt w 22) (regAt w 12) (w.extractLsb' 2 1) (w.extractLsb' 1 1) (w.extractLsb' 0 1))
  | 0x60 => some (.fadd (gdOf w) (regAt w 42) (regAt w 32) (regAt w 22) (w.extractLsb' 9 3))
  | 0x61 => some (.fsub (gdOf w) (regAt w 42) (regAt w 32) (regAt w 22) (w.extractLsb' 9 3))
  | 0x62 => some (.fmul (gdOf w) (regAt w 42) (regAt w 32) (regAt w 22) (w.extractLsb' 9 3))
  | 0x63 => some (.ffma (gdOf w) (regAt w 42) (regAt w 32) (regAt w 22) (regAt w 12) (w.extractLsb' 9 3))
  | 0x64 => some (.fmin (gdOf w) (regAt w 42) (regAt w 32) (regAt w 22))
  | 0x65 => some (.fmax (gdOf w) (regAt w 42) (regAt w 32) (regAt w 22))
  | 0x66 => some (.fminp (gdOf w) (regAt w 42) (regAt w 32) (regAt w 22))
  | 0x67 => some (.fmaxp (gdOf w) (regAt w 42) (regAt w 32) (regAt w 22))
  | 0x68 => some (.fabs (gdOf w) (regAt w 42) (regAt w 32))
  | 0x69 => some (.fneg (gdOf w) (regAt w 42) (regAt w 32))
  | 0x6A => some (.fsetp (gdOf w) (regAt w 32) (regAt w 22) (w.extractLsb' 9 3) (w.extractLsb' 0 3))
  | 0x6B => some (.fclass (gdOf w) (regAt w 42) (regAt w 32))
  | 0x6C => some (.frnd (gdOf w) (regAt w 42) (regAt w 32) (w.extractLsb' 9 3))
  | 0x6D => some (.fdiv (gdOf w) (regAt w 42) (regAt w 32) (regAt w 22) (w.extractLsb' 9 3))
  | 0x6E => some (.fsqrt (gdOf w) (regAt w 42) (regAt w 32) (w.extractLsb' 9 3))
  | 0x6F => some (.frcp (gdOf w) (regAt w 42) (regAt w 32) (w.extractLsb' 9 3))
  | 0x70 => some (.frsq (gdOf w) (regAt w 42) (regAt w 32))
  | 0x71 => some (.fexp2 (gdOf w) (regAt w 42) (regAt w 32))
  | 0x72 => some (.flog2 (gdOf w) (regAt w 42) (regAt w 32))
  | 0x73 => some (.fsinpi (gdOf w) (regAt w 42) (regAt w 32))
  | 0x74 => some (.fcospi (gdOf w) (regAt w 42) (regAt w 32))
  | 0x75 => some (.ftanh (gdOf w) (regAt w 42) (regAt w 32))
  | 0x76 => some (.hadd2 (gdOf w) (regAt w 42) (regAt w 32) (regAt w 22) (w.extractLsb' 9 3) (w.extractLsb' 0 4))
  | 0x77 => some (.hmul2 (gdOf w) (regAt w 42) (regAt w 32) (regAt w 22) (w.extractLsb' 9 3) (w.extractLsb' 0 4))
  | 0x78 => some (.hfma2 (gdOf w) (regAt w 42) (regAt w 32) (regAt w 22) (regAt w 12) (w.extractLsb' 9 3) (w.extractLsb' 0 4))
  | 0x79 => some (.fcvt (gdOf w) (regAt w 42) (regAt w 32) (w.extractLsb' 9 3) (w.extractLsb' 4 4) (w.extractLsb' 0 4))
  | 0x7A => some (.f2i (gdOf w) (regAt w 42) (regAt w 32) (w.extractLsb' 9 3) (w.extractLsb' 0 4))
  | 0x7B => some (.i2f (gdOf w) (regAt w 42) (regAt w 32) (w.extractLsb' 9 3) (w.extractLsb' 4 4) (w.extractLsb' 0 4))
  | 0x7C => some (.qcvt (gdOf w) (regAt w 42) (regAt w 32) (regAt w 22) (w.extractLsb' 9 3) (w.extractLsb' 0 4))
  | 0x7D => some (.qdeq (gdOf w) (regAt w 42) (regAt w 32) (regAt w 22) (w.extractLsb' 9 3) (w.extractLsb' 4 4) (w.extractLsb' 0 3))
  | 0x7E => some (.qscale (gdOf w) (regAt w 42) (regAt w 32) (w.extractLsb' 4 1) (w.extractLsb' 0 4))
  | 0x90 => some (.mxon (gdOf w) (w.extractLsb' 30 2) (w.extractLsb' 29 1) (w.extractLsb' 16 4) (w.extractLsb' 3 1) (w.extractLsb' 0 3))
  | 0x91 => some (.mxoff (gdOf w))
  | 0x92 => some (.mxsync (gdOf w))
  | 0x93 => some (.mxclr (gdOf w))
  | 0x94 => some (.stld (gdOf w) (regAt w 32) (w.extractLsb' 0 12))
  | 0x95 => some (.stswap (gdOf w))
  | 0x96 => some (.mma (gdOf w) (regAt w 32))
  | 0x97 => some (.mmas (gdOf w) (regAt w 32) (regAt w 22))
  | 0x98 => some (.mxrd (gdOf w) (regAt w 42) (regAt w 32) (w.extractLsb' 0 2))
  | 0x99 => some (.mxst (gdOf w) (regAt w 42) (regAt w 32) (regAt w 22) (w.extractLsb' 8 14) (w.extractLsb' 5 3) (w.extractLsb' 3 2) (w.extractLsb' 0 3))
  | 0xA0 => some (.ld (gdOf w) (regAt w 42) (regAt w 32) (regAt w 22) (w.extractLsb' 8 14) (w.extractLsb' 5 3) (w.extractLsb' 3 2) (w.extractLsb' 0 3))
  | 0xA1 => some (.st (gdOf w) (regAt w 42) (regAt w 32) (regAt w 22) (w.extractLsb' 8 14) (w.extractLsb' 5 3) (w.extractLsb' 3 2) (w.extractLsb' 0 3))
  | 0xA2 => some (.ldp (gdOf w) (regAt w 42) (regAt w 32) (regAt w 22) (w.extractLsb' 8 14) (w.extractLsb' 5 3) (w.extractLsb' 3 2) (w.extractLsb' 0 3))
  | 0xA3 => some (.stp (gdOf w) (regAt w 42) (regAt w 32) (regAt w 22) (w.extractLsb' 8 14) (w.extractLsb' 5 3) (w.extractLsb' 3 2) (w.extractLsb' 0 3))
  | 0xA4 => some (.ldk (gdOf w) (regAt w 42) (regAt w 32) (regAt w 22) (w.extractLsb' 8 14) (w.extractLsb' 0 3))
  | 0xA5 => some (.atom (gdOf w) (regAt w 42) (regAt w 32) (regAt w 22) (w.extractLsb' 17 5) (w.extractLsb' 8 9) (w.extractLsb' 5 3) (w.extractLsb' 3 2) (w.extractLsb' 0 3))
  | 0xA6 => some (.acas (gdOf w) (regAt w 42) (regAt w 32) (regAt w 22) (w.extractLsb' 8 14) (w.extractLsb' 5 3) (w.extractLsb' 3 2) (w.extractLsb' 0 3))
  | 0xA7 => some (.red (gdOf w) (regAt w 32) (regAt w 22) (w.extractLsb' 17 5) (w.extractLsb' 8 9) (w.extractLsb' 5 3) (w.extractLsb' 3 2) (w.extractLsb' 0 3))
  | 0xA8 => some (.atomp (gdOf w) (regAt w 42) (regAt w 32) (regAt w 22) (w.extractLsb' 17 5) (w.extractLsb' 8 9) (w.extractLsb' 5 3) (w.extractLsb' 3 2) (w.extractLsb' 0 3))
  | 0xA9 => some (.acasp (gdOf w) (regAt w 42) (regAt w 32) (regAt w 22) (w.extractLsb' 8 14) (w.extractLsb' 5 3) (w.extractLsb' 3 2) (w.extractLsb' 0 3))
  | 0xAA => some (.fence (gdOf w) (w.extractLsb' 5 3) (w.extractLsb' 3 2))
  | 0xAB => some (.pref (gdOf w) (regAt w 32) (regAt w 22) (w.extractLsb' 8 14) (w.extractLsb' 5 3) (w.extractLsb' 0 3))
  | 0xAC => some (.cflush (gdOf w) (regAt w 32) (regAt w 22) (w.extractLsb' 8 14) (w.extractLsb' 5 3) (w.extractLsb' 0 3))
  | 0xAD => some (.tagrd (gdOf w) (regAt w 42) (regAt w 32) (regAt w 22) (w.extractLsb' 8 14) (w.extractLsb' 0 3))
  | 0xAE => some (.tagwr (gdOf w) (regAt w 42) (regAt w 32) (regAt w 22) (w.extractLsb' 8 14) (w.extractLsb' 0 3))
  | 0xC0 => some (.copy (gdOf w) (regAt w 42) (regAt w 32) (regAt w 22) (w.extractLsb' 6 6) (w.extractLsb' 1 5))
  | 0xC1 => some (.copym (gdOf w) (regAt w 42) (regAt w 32) (regAt w 22) (w.extractLsb' 6 6) (w.extractLsb' 1 5))
  | 0xC2 => some (.hwait (gdOf w) (w.extractLsb' 3 5) (w.extractLsb' 0 3))
  | 0xC3 => some (.hrel (gdOf w) (w.extractLsb' 3 5))
  | 0xC4 => some (.hstat (gdOf w) (regAt w 42) (w.extractLsb' 3 5))
  | 0xC5 => some (.cfetch (gdOf w) (regAt w 32) (w.extractLsb' 0 3))
  | 0xC6 => some (.cwait (gdOf w) (regAt w 32))
  | 0xC7 => some (.jmpf (gdOf w) (regAt w 32) (w.extractLsb' 44 8) (w.extractLsb' 0 32))
  | 0xC8 => some (.callf (gdOf w) (regAt w 32) (w.extractLsb' 44 8) (w.extractLsb' 0 32))
  | 0xC9 => some (.cevict (gdOf w) (regAt w 32))
  | 0xD0 => some (.rast (gdOf w) (regAt w 42) (regAt w 32) (w.extractLsb' 1 5))
  | 0xD1 => some (.visld (gdOf w) (regAt w 42) (regAt w 32) (regAt w 22) (w.extractLsb' 0 1))
  | 0xD2 => some (.bary (gdOf w) (regAt w 42) (regAt w 32) (regAt w 22) (regAt w 12))
  | 0xD3 => some (.tex (gdOf w) (regAt w 42) (regAt w 32) (regAt w 22) (regAt w 12) (w.extractLsb' 4 1) (w.extractLsb' 3 1) (w.extractLsb' 0 3))
  | 0xD4 => some (.texg (gdOf w) (regAt w 42) (regAt w 32) (regAt w 22) (regAt w 12) (w.extractLsb' 5 2) (w.extractLsb' 4 1) (w.extractLsb' 0 3))
  | 0xD5 => some (.texq (gdOf w) (regAt w 42) (regAt w 32) (regAt w 12))
  | 0xD6 => some (.rsmark (gdOf w) (regAt w 32))
  | 0xD7 => some (.rtbox (gdOf w) (regAt w 42) (regAt w 32) (regAt w 22) (regAt w 12) (w.extractLsb' 0 3))
  | 0xD8 => some (.rttri (gdOf w) (regAt w 42) (regAt w 32) (regAt w 22) (regAt w 12) (w.extractLsb' 3 2) (w.extractLsb' 0 3))
  | 0xD9 => some (.rtxf (gdOf w) (regAt w 42) (regAt w 32) (regAt w 12) (w.extractLsb' 0 1))
  | 0xDA => some (.sig (gdOf w) (regAt w 42) (regAt w 32))
  | 0xDB => some (.sigend (gdOf w) (regAt w 32) (regAt w 22) (regAt w 12))
  | 0xE0 => some (.time (gdOf w) (regAt w 42))
  | 0xE1 => some (.launch (gdOf w) (regAt w 32) (w.extractLsb' 0 3))
  | 0xE2 => some (.launchw (gdOf w) (regAt w 32))
  | 0xE3 => some (.lwait (gdOf w) (regAt w 42) (regAt w 32) (w.extractLsb' 3 1) (w.extractLsb' 0 3))
  | 0xE4 => some (.lpub (gdOf w) (regAt w 32) (w.extractLsb' 0 3))
  | 0xE5 => some (.platch (gdOf w) (regAt w 42) (w.extractLsb' 16 1) (w.extractLsb' 3 2) (w.extractLsb' 0 3))
  | 0xE6 => some (.decls (gdOf w) (regAt w 32))
  | 0xE7 =>
    match (w.extractLsb' 16 3).toNat with
    | 0 => some (.kselGen (gdOf w) (w.extractLsb' 3 9) (w.extractLsb' 0 3))
    | 1 => some (.kselZero (gdOf w) (w.extractLsb' 3 9) (w.extractLsb' 0 3))
    | 2 => some (.kselDcl (gdOf w) (regAt w 32) (w.extractLsb' 3 9) (w.extractLsb' 0 3))
    | 3 => some (.kselUndcl (gdOf w) (regAt w 32) (w.extractLsb' 3 9) (w.extractLsb' 0 3))
    | 4 => some (.kselStat (gdOf w) (regAt w 42) (w.extractLsb' 3 9))
    | _ => none
  | 0xF0 => some (.trap (gdOf w) (regAt w 32) (w.extractLsb' 16 1) (w.extractLsb' 0 16))
  | 0xF1 => some (.rte (gdOf w))
  | 0xF2 => some (.ctxsv (gdOf w) (regAt w 32) (w.extractLsb' 16 1) (w.extractLsb' 0 3))
  | 0xF3 => some (.ctxld (gdOf w) (regAt w 32) (w.extractLsb' 0 3))
  | 0xF4 => some (.ifrrd (gdOf w) (regAt w 42) (regAt w 32) (w.extractLsb' 9 3) (w.extractLsb' 0 9))
  | 0xF5 => some (.frqpop (gdOf w) (regAt w 42) (w.extractLsb' 4 4) (w.extractLsb' 0 3))
  | 0xF6 => some (.frqack (gdOf w) (regAt w 32) (w.extractLsb' 16 1) (w.extractLsb' 0 3))
  | 0xF7 => some (.rngwr (gdOf w) (regAt w 42) (regAt w 32) (w.extractLsb' 0 3))
  | 0xF8 =>
    match (w.extractLsb' 16 1).toNat with
    | 0 => some (.rnginvA (gdOf w) (regAt w 32))
    | 1 => some (.rnginvB (gdOf w) (regAt w 32) (w.extractLsb' 12 1) (w.extractLsb' 0 12))
    | _ => none
  | 0xF9 => some (.dirtyhv (gdOf w) (regAt w 42) (regAt w 32) (w.extractLsb' 0 5))
  | 0xFA => some (.halt (gdOf w))
  | _ => some (.illegalOpcode w)

/-- R36 steps 1 and 2: an unassigned opcode gives `Instr.illegalOpcode`; any other word is legal when its instruction is
well formed and no bit of the word lies outside the instruction's fields. -/
def decode (w : BitVec 64) : Except DecodeError Instr :=
  match parse w with
  | some i => if i.wf && encode i == some w then .ok i else .error .illegalEncoding
  | none => .error .illegalEncoding

/-- Eight bytes, the lowest address first, as a word (R21). -/
def wordOfBytes (bs : List (BitVec 8)) : BitVec 64 :=
  bs.foldr (fun b acc => (acc <<< 8) ||| b.setWidth 64) 0#64

/-- The bytes of a word, the lowest address first (R21). -/
def bytesOfWord (w : BitVec 64) : List (BitVec 8) :=
  (List.range 8).map fun k => w.extractLsb' (8 * k) 8

/-- Decode the first word of a byte sequence. -/
def decodeBytes (bs : List (BitVec 8)) : Except DecodeError (Instr × List (BitVec 8)) :=
  if bs.length < 8 then .error .tooShort
  else (decode (wordOfBytes (bs.take 8))).map fun i => (i, bs.drop 8)

/-- The opcode table's numbering: the word whose lowest `nbits` bits are `w`, laid out as memory holds it and decoded. -/
def decodeTableWord (nbits w : Nat) : Option Instr :=
  match decodeBytes (bytesOfWord (BitVec.ofNat 64 (w % 2 ^ nbits))) with
  | .ok (i, _) => some i
  | .error _ => none

end Sys2Proof
end

