-- ==== Sys2Proof/Machine/Descriptor.lean ====
section
/-! DEFINITION. The fields of a context's descriptor (R363, Table 1) and when it is malformed (R364). -/

namespace Sys2Proof.Machine

/-- A dword of the descriptor. -/
def Ctx.dw (c : Ctx) (k : Nat) : BitVec 64 := c.desc.getD k 0

/-- Bits `hi` down to `lo` of a dword of the descriptor. -/
def Ctx.bits (c : Ctx) (k hi lo : Nat) : Nat := (c.dw k).toNat / 2 ^ lo % 2 ^ (hi + 1 - lo)

def Ctx.id (c : Ctx) : BitVec 32 := BitVec.ofNat 32 (c.bits 0 63 32)
def Ctx.valid (c : Ctx) : Bool := (c.dw 0).getLsbD 31
def Ctx.vf (c : Ctx) : Nat := c.bits 0 30 22
def Ctx.levcap (c : Ctx) : Nat := c.bits 0 21 20
def Ctx.crit (c : Ctx) : Bool := (c.dw 0).getLsbD 19
def Ctx.minor (c : Ctx) : Nat := c.bits 0 15 8
def Ctx.class0 (c : Ctx) : BitVec 8 := BitVec.ofNat 8 (c.bits 0 7 0)
def Ctx.target (c : Ctx) : Nat := c.bits 1 63 48
def Ctx.rtbase (c : Ctx) : Nat := c.bits 1 47 0
def Ctx.ttbase (c : Ctx) : Nat := c.bits 2 55 12 * 4096
def Ctx.fpbase (c : Ctx) : Nat := c.bits 3 47 12 * 4096
def Ctx.fpsize (c : Ctx) : Nat := c.bits 4 63 32
def Ctx.rtcount (c : Ctx) : Nat := c.bits 4 12 0
def Ctx.trapv (c : Ctx) : BitVec 64 := BitVec.ofNat 64 (c.bits 5 55 3 * 8)
def Ctx.rbase (c : Ctx) : Nat := c.bits 6 55 6 * 64
def Ctx.rlog (c : Ctx) : Nat := c.bits 6 3 0
def Ctx.idxa (c : Ctx) : Nat := c.bits 7 55 3 * 8
def Ctx.ovr (c : Ctx) : Nat := c.bits 8 63 48
def Ctx.rej (c : Ctx) : Nat := c.bits 8 47 32
def Ctx.abn (c : Ctx) : Nat := c.bits 8 31 16
def Ctx.rstate (c : Ctx) : Nat := c.bits 8 15 14
def Ctx.fpwait (c : Ctx) : Bool := (c.dw 8).getLsbD 13

/-- Dword 8, which the device writes (R363). -/
def Ctx.status (ovr rej abn rstate : Nat) (fpwait : Bool) : BitVec 64 :=
  BitVec.ofNat 64 (min ovr 0xFFFF * 2 ^ 48 + min rej 0xFFFF * 2 ^ 32 + min abn 0xFFFF * 2 ^ 16 + rstate % 4 * 2 ^ 14 +
    (if fpwait then 2 ^ 13 else 0))

def Ctx.setStatus (c : Ctx) (ovr rej abn rstate : Nat) (fpwait : Bool) : Ctx :=
  { c with desc := c.desc.set 8 (Ctx.status ovr rej abn rstate fpwait) }

def Ctx.addOvr (c : Ctx) (n : Nat) : Ctx := c.setStatus (c.ovr + n) c.rej c.abn c.rstate c.fpwait
def Ctx.addRej (c : Ctx) (n : Nat) : Ctx := c.setStatus c.ovr (c.rej + n) c.abn c.rstate c.fpwait
def Ctx.addAbn (c : Ctx) (n : Nat) : Ctx := c.setStatus c.ovr c.rej (c.abn + n) c.rstate c.fpwait
def Ctx.setRing (c : Ctx) (r : Nat) : Ctx := c.setStatus c.ovr c.rej c.abn r c.fpwait
def Ctx.setFpwait (c : Ctx) (b : Bool) : Ctx := c.setStatus c.ovr c.rej c.abn c.rstate b

/-- The reserved bits of dwords 0 to 7 (R363, Table 1). -/
def Ctx.reserved : List (BitVec 64) :=
  [0x0000000000070000, 0, 0xFF00000000000FFF, 0xFFFF000000000FFF, 0x00000000FFFFE000, 0xFF00000000000007,
   0xFF00000000000030, 0xFF00000000000007]

/-- R364: the descriptor is malformed. Diovo 1.0 offers minor level 0 only. -/
def Ctx.malformed (c : Ctx) : Bool :=
  (Ctx.reserved.zipIdx.any fun x => c.dw x.2 &&& x.1 != 0) ||
  ((List.range 7).any fun k => c.dw (9 + k) != 0) ||
  c.vf > 256 || c.minor != 0 || (c.crit != (c.target != 0)) || c.rtcount > 4096 || c.rlog > 12 ||
  c.rtbase / 2 ^ 44 != c.part || c.fpbase / 2 ^ 44 != c.part

/-- A descriptor the device acts on (R364, R10). -/
def Ctx.usable (c : Ctx) : Bool := c.valid && !c.malformed

end Sys2Proof.Machine
end

