-- ==== Sys2Proof/Machine/Operands.lean ====
section
/-! DEFINITION. Operands: predicates and guards, resolving a register field, reading a source with its full/empty state
and poison, writing a destination (R23-R28, R77-R84, R462, R463, R523). -/

namespace Sys2Proof.Machine

/-- What becomes of one member of the issuing entry: it continues at the next word, at a target with a priority, traps,
waits in the instruction, ends, consumes poison on its context's behalf (R463), has arrived at a collective (R119),
returns from its handler (R353), yields (R116), continues at the next word with another priority (R117). -/
inductive Fate where
  | next
  | go (pc : BitVec 64) (prio : BitVec 8)
  | trap (t : Trap)
  | stay
  | exit
  | consume
  | arrive
  | ret (pc : BitVec 64)
  | yld (n : Nat)
  | reprio (p : BitVec 8)
  deriving DecidableEq, Repr

def mkTrap (c : Cause) (addr : Nat) : Trap := ⟨c, 0, BitVec.ofNat 64 addr⟩

/-- A thread that has ended and holds nothing. -/
def Thread.dead : Thread :=
  { live := false, regs := [], preds := 0, wb := 0, ix := 0, aw := 0, mx := false, mt := false,
    scaled := false, shape := 0, mtype := 0, amax := 0, trapc := 0, trappc := 0,
    trapa := 0, ptrap := none, wakeAt := none, cwait := none, consumed := false, probe := none }

/-- A thread at placement with allotment `a` (R76). -/
def Thread.initial (a : Nat) : Thread :=
  { Thread.dead with live := true, regs := List.replicate a Slot.zero }

/-- The thread of a lane. -/
def Group.thread (g : Group) (l : Nat) : Thread := g.lanes.getD l Thread.dead

/-- Replace the thread of a lane. -/
def Group.setThread (g : Group) (l : Nat) (t : Thread) : Group := { g with lanes := g.lanes.set l t }

/-- A register slot of a thread. -/
def Thread.slot (t : Thread) (n : Nat) : Slot := t.regs.getD n Slot.zero

/-- A G register. -/
def Group.greg (g : Group) (n : Nat) : Slot := g.gregs.getD n Slot.zero

/-- Read a predicate: P7 is true (R80). -/
def Thread.pred (t : Thread) (n : Nat) : Bool := n == 7 || t.preds.getLsbD n

/-- Write a predicate: P7 discards (R29, R80). -/
def Thread.setPred (t : Thread) (n : Nat) (b : Bool) : Thread :=
  if n ≥ 7 then t
  else { t with preds := if b then t.preds ||| (1#7 <<< n) else t.preds &&& ~~~(1#7 <<< n) }

/-- The guard of R23 in one thread. -/
def Thread.guard (t : Thread) (gd : Guard) : Bool := t.pred gd.p.toNat != gd.neg

/-- N of a thread's binding (R203, R204). -/
def Thread.columns (t : Thread) : Nat := 128 * 2 ^ t.shape.toNat

/-- The first slot of an operand that lies inside the thread's own accumulator window (R206, R207). -/
def Thread.aliases (t : Thread) (slot width : Nat) : Option Nat :=
  let lo := t.aw.toNat * 64
  if t.mx && slot < lo + t.columns && lo < slot + width then some (max slot lo) else none

/-- R77: resolve a field to register slots; `window` exempts the fields R207 exempts from MODE_ALIAS. -/
def resolveAt (window : Bool) (g : Group) (l : Nat) (r : Reg) (width : Nat) : Except Fate Ref :=
  if r.isNull then .ok .null
  else match r.cls with
    | .g => .ok (.g r.num.toNat)
    | .v =>
      let t := g.thread l
      let n := r.num.toNat + (if r.ind then t.ix.toNat else 0)
      let slot := t.wb + n
      if r.ind && n % width != 0 then .error (.trap (mkTrap .regBounds slot))
      else if slot + width > g.allot then .error (.trap (mkTrap .regBounds (max slot g.allot)))
      else match (if window then none else t.aliases slot width) with
        | some a => .error (.trap (mkTrap .modeAlias a))
        | none => .ok (.v slot)

/-- R77 and R207. -/
def resolve (g : Group) (l : Nat) (r : Reg) (width : Nat) : Except Fate Ref := resolveAt false g l r width

/-- The registers an operand names, lowest first. -/
def slotsOf (g : Group) (l : Nat) (ref : Ref) (width : Nat) : List Slot :=
  match ref with
  | .null => List.replicate width Slot.zero
  | .v s => (List.range width).map fun k => (g.thread l).slot (s + k)
  | .g n => (List.range width).map fun k => g.greg (n + k)

/-- A register of an operand, encoded as R348 encodes a slot. -/
def Ref.loc (r : Ref) (k : Nat) : Nat :=
  match r with
  | .null => 0
  | .v s => s + k
  | .g n => 0x10000 + n + k

/-- The value of registers, lowest first (R27). -/
def slotsVal : List Slot → Nat
  | [] => 0
  | x :: xs => x.val.toNat + 2 ^ 32 * slotsVal xs

/-- The operand that Full registers hold: it carries the poison of any of them (log 81). -/
def opndOf (ref : Ref) (ss : List Slot) : Opnd :=
  let p := ss.filter (·.poison)
  ⟨slotsVal ss, !p.isEmpty, !p.isEmpty && p.all (·.pt), ref.loc (ss.findIdx (·.poison))⟩

/-- R82: read a source that has been resolved. A Pending source with W = 0 makes the member wait. -/
def readRef (g : Group) (l : Nat) (ref : Ref) (w : Bool) (width : Nat) : Except Fate Opnd :=
  let ss := slotsOf g l ref width
  if ss.any (·.st == .void) then
    .error (.trap (mkTrap .emptyNoProducer (ref.loc (ss.findIdx (·.st == .void)))))
  else if ss.any (·.st == .pending) then
    if w then .error (.trap (mkTrap .emptyRead (ref.loc (ss.findIdx (·.st == .pending))))) else .error .stay
  else .ok (opndOf ref ss)

/-- R77 and R82: read a source field. -/
def readSrc (g : Group) (l : Nat) (r : Reg) (width : Nat) : Except Fate Opnd := do
  let ref ← resolve g l r width
  readRef g l ref r.w width

/-- R83: resolve a destination and wait while it is Pending. -/
def dstReady (g : Group) (l : Nat) (r : Reg) (width : Nat) : Except Fate Ref := do
  let ref ← resolve g l r width
  if (slotsOf g l ref width).any (·.st == .pending) then .error .stay else .ok ref

/-- Whether a source with W = 0 is Pending and not Void, so that the entry is ineligible (R61). -/
def srcPending (g : Group) (l : Nat) (r : Reg) (width : Nat) : Bool :=
  match resolve g l r width with
  | .ok ref =>
    let ss := slotsOf g l ref width
    !r.w && !ss.any (·.st == .void) && ss.any (·.st == .pending)
  | .error _ => false

/-- R462: the poison of a result, from the sources it read. -/
def joinPoison (xs : List Opnd) : Bool × Bool :=
  let p := xs.filter (·.poison)
  (!p.isEmpty, !p.isEmpty && p.all (·.pt))

/-- R84 and R463: the uses of `xs` are consumptions. -/
def consumeAll (xs : List Opnd) : Except Fate Unit :=
  match xs.find? (·.poison) with
  | none => .ok ()
  | some x => if (joinPoison xs).2 then .error (.trap (mkTrap .tagMismatch x.loc)) else .error .consume

/-- Replace `width` registers from `n` by what `f` gives for each. -/
def setRange (xs : List Slot) (n : Nat) : List Slot → List Slot
  | [] => xs
  | v :: vs => setRange (xs.set n v) (n + 1) vs

/-- Replace the registers a resolved operand names. -/
def putSlots (g : Group) (l : Nat) (ref : Ref) (vs : List Slot) : Group :=
  match ref with
  | .null => g
  | .v s => let t := g.thread l; g.setThread l { t with regs := setRange t.regs s vs }
  | .g n => { g with gregs := setRange g.gregs n vs }

/-- A value as `width` Full registers, lowest first. -/
def fullSlots (width v : Nat) (poison pt : Bool) : List Slot :=
  (List.range width).map fun k => ⟨BitVec.ofNat 32 (v / 2 ^ (32 * k)), .full, poison, pt⟩

/-- Write a result whose registers are poisoned one by one (R256). -/
def writeEach (g : Group) (l : Nat) (ref : Ref) (width v : Nat) (bad : List Bool) : Group :=
  putSlots g l ref ((List.range width).map fun k => ⟨BitVec.ofNat 32 (v / 2 ^ (32 * k)), .full, bad.getD k false, false⟩)

/-- Write a result: value, Full, poison and PT (R81, R84, R462). -/
def writeRef (g : Group) (l : Nat) (ref : Ref) (width v : Nat) (poison pt : Bool) : Group :=
  putSlots g l ref (fullSlots width v poison pt)

/-- Change the state of the registers an operand names, keeping their values and clearing poison. -/
def markRef (g : Group) (l : Nat) (ref : Ref) (width : Nat) (st : RState) : Group :=
  putSlots g l ref ((slotsOf g l ref width).map fun x => { x with st := st, poison := false, pt := false })

end Sys2Proof.Machine
end

