-- ==== Sys2Proof/Machine/Ops.lean ====
section
/-! DEFINITION. The named operations over the machine: teams, groups and threads, the frontier (R60-R66), cancelling a
synchronisation instance (R118), taking a trap and returning from one (R346-R353, R521). -/

namespace Sys2Proof.Machine

abbrev Result := Host.Outcome State Fault Refusal

/-! ## Teams and groups -/

/-- The team of an identity; 0 is the studio controller's. -/
def State.team? (s : State) (tid : Nat) : Option Team :=
  if tid == 0 then some s.ctl else s.teams.find? (·.tid == tid)

/-- Replace a team by identity. -/
def State.setTeam (s : State) (t : Team) : State :=
  if t.tid == 0 then { s with ctl := t }
  else { s with teams := s.teams.map fun u => if u.tid == t.tid then t else u }

/-- Change a team, if it exists. -/
def State.updTeam (s : State) (tid : Nat) (f : Team → Team) : State :=
  match s.team? tid with
  | some t => s.setTeam (f t)
  | none => s

/-- A group of a team. -/
def Team.group (t : Team) (gi : Nat) : Group := t.groups.getD gi Group.empty

def Team.setGroup (t : Team) (gi : Nat) (g : Group) : Team := { t with groups := t.groups.set gi g }

def Team.updGroup (t : Team) (gi : Nat) (f : Group → Group) : Team := t.setGroup gi (f (t.group gi))

def State.updGroup (s : State) (tid gi : Nat) (f : Group → Group) : State :=
  s.updTeam tid fun t => t.updGroup gi f

def Group.updThread (g : Group) (l : Nat) (f : Thread → Thread) : Group := g.setThread l (f (g.thread l))

/-! ## Contexts, launches, functions -/

def State.ctx? (s : State) (id : BitVec 32) : Option Ctx := s.ctxs.find? fun c => c.usable && c.id == id

/-- The handler address of a team's context (R346); 0 means no handler. -/
def State.trapv (s : State) (t : Team) : BitVec 64 :=
  match s.ctx? t.ctx with
  | some c => c.trapv
  | none => 0

def State.updLaunch (s : State) (lid : Nat) (f : Launch → Launch) : State :=
  { s with launches := s.launches.map fun l => if l.lid == lid then f l else l }

/-- A fault-summary bit of a function becomes 1, for the context `ctx`; a change from 0 sends the vector (R481). -/
def Fn.raise (f : Fn) (bit : Nat) (ctx : BitVec 32) : Fn :=
  { f with fs := f.fs ||| (1#8 <<< bit), fsctx := ctx,
           vectors := if f.fs.getLsbD bit then f.vectors else f.vectors + 1 }

def State.updFn (s : State) (n : Nat) (f : Fn → Fn) : State :=
  { s with fns := s.fns.map fun x => if x.num == n then f x else x }

/-! ## Lane masks -/

/-- The lanes of a mask in ascending order. -/
def lanesOf (m : BitVec 32) : List Nat := (List.range 32).filter fun l => m.getLsbD l

/-- The mask of one lane. -/
def laneBit (l : Nat) : BitVec 32 := 1#32 <<< l

/-- The mask of a list of lanes. -/
def maskOf (ls : List Nat) : BitVec 32 := ls.foldl (fun m l => m ||| laneBit l) 0#32

/-! ## The frontier -/

/-- The sticky flags of a group take more flags (R153). -/
def Group.orFlags (g : Group) (f : FFlags) : Group := { g with flags := g.flags ||| f }

/-- Two entries meet at one PC and merge (R63); members that have arrived at a collective stay apart (R119, log 21). -/
def Entry.mergesWith (a b : Entry) : Bool :=
  a.pc == b.pc && !a.solitary && !b.solitary && a.arrived == b.arrived

/-- The merged entry of R63. -/
def Entry.merge (a b : Entry) : Entry :=
  { a with
    mask := a.mask ||| b.mask
    prio := if a.prio.toNat ≤ b.prio.toNat then a.prio else b.prio
    age := max a.age b.age
    blocked := a.blocked ||| b.blocked
    yld := match a.yld with | some y => some y | none => b.yld }

/-- R63: add an entry to a frontier, merging it with the entry it meets; R60: an empty mask is no entry. -/
def addEntry : List Entry → Entry → List Entry
  | [], n => if n.mask == 0 then [] else [n]
  | e :: es, n =>
    if n.mask == 0 then e :: es
    else if e.mergesWith n then e.merge n :: es
    else e :: addEntry es n

/-- Take lanes out of every entry; entries left with none are removed (R60). -/
def dropLanes (es : List Entry) (m : BitVec 32) : List Entry :=
  (es.map fun e => { e with mask := e.mask &&& ~~~m, blocked := e.blocked &&& ~~~m }).filter fun e => e.mask != 0

/-- An entry of its own at a place: age 0, nothing waiting. -/
def Entry.at (pc : BitVec 64) (prio : BitVec 8) (mask : BitVec 32) (sol : Bool) : Entry :=
  ⟨pc, prio, mask, 0, sol, 0, false, none⟩

/-- The lanes among `fs` whose fate `p` selects. -/
def lanesWith (fs : List (Nat × Fate)) (p : Fate → Bool) : BitVec 32 :=
  maskOf ((fs.filter fun x => p x.2).map (·.1))

/-- The entry a member that left the issuing entry `e` joins, if it goes to a place of its own (R62, R112, R116, R353). -/
def Fate.entry (e : Entry) (l : Nat) : Fate → Option Entry
  | .go pc prio => some (Entry.at pc prio (laneBit l) e.solitary)
  | .ret pc => some (Entry.at pc e.prio (laneBit l) false)
  | .reprio p => some (Entry.at (e.pc + 8) p (laneBit l) e.solitary)
  | .yld n => some { Entry.at (e.pc + 8) e.prio (laneBit l) e.solitary with yld := some ⟨n, true⟩ }
  | _ => none

/-- R62 and R64: the frontier after the entry `e`, taken out of `es`, has issued with the given fates. Members that
continue form one entry at PC + 8 with age 0; members that wait or have arrived stay at the word. A trapping member is
placed by `takeTrap`; one that ends is in no entry. -/
def frontierAfter (es : List Entry) (e : Entry) (fs : List (Nat × Fate)) : List Entry :=
  let others := es.map fun x => { x with yld := x.yld.map fun y => { y with waits := false } }
  let stay := lanesWith fs fun f => f == .stay || f == .consume
  let arr := lanesWith fs fun f => f == .arrive
  let es1 := addEntry others (Entry.at (e.pc + 8) e.prio (lanesWith fs fun f => f == .next) e.solitary)
  let es2 := addEntry es1 { Entry.at e.pc e.prio stay e.solitary with blocked := lanesWith fs fun f => f == .stay }
  let es3 := addEntry es2 { Entry.at e.pc e.prio arr e.solitary with arrived := true }
  (fs.filterMap fun x => Fate.entry e x.1 x.2).foldl addEntry es3

/-! ## Ending a thread, cancelling an instance -/

/-- R114: the thread ends; its registers stay (R91). -/
def Group.endThread (g : Group) (l : Nat) : Group :=
  { g.updThread l (fun t => { t with live := false }) with entries := dropLanes g.entries (laneBit l) }

/-- Free the IFR entry of an arrival (R331). -/
def Team.freeSeqs (t : Team) (seqs : List Nat) : Team :=
  { t with ifr := t.ifr.filter fun e => !(seqs.contains e.seq) }

/-- Where a live thread stands: the index of its entry. -/
def Group.entryOf (g : Group) (l : Nat) : Option Entry := g.entries.find? fun e => e.mask.getLsbD l

/-- What a trap writes (R346, R347). -/
def Thread.setTrap (t : Thread) (tr : Trap) (pc : BitVec 64) : Thread :=
  { t with trapc := tr.info ++ BitVec.ofNat 16 tr.cause.code, trappc := pc, trapa := tr.addr, probe := none }

/-- The recorded end of a studio-controller thread (R521); `cause` 0 is consumed poison. -/
def State.controllerFault (s : State) (cause : Nat) (pc : BitVec 64) : State :=
  let s1 := { s with ctlCnt := min (s.ctlCnt + 1) 0xFFFFFFFF, ctlPoison := cause == 0,
                     ctlCause := BitVec.ofNat 8 cause, ctlPc := pc }
  s1.updFn 0 fun f => f.raise 0 0

/-- The unit of an arrival in its instance's space: its lane, or its group for BART (R118). -/
def Instance.unitOf (i : Instance) (a : Arrival) : Nat := if i.op == .bart then a.grp else a.lane

/-- The first fatal trap of a launch is kept (R349). -/
def State.noteFatal (s : State) (t : Team) (cause : Nat) : State :=
  s.updLaunch t.lid fun l => { l with fatal := match l.fatal with | some c => some c | none => some cause }

/-- R346, R349, R65 for a thread of a team that stands in no entry any more: the trap registers are written, and the
thread forms a solitary entry at the handler with priority `prio`, or ends when the trap is fatal. -/
def State.trapInto (s : State) (tid gi l : Nat) (tr : Trap) (pc : BitVec 64) (prio : BitVec 8) (sol : Bool) : State :=
  match s.team? tid with
  | none => s
  | some t =>
    let h := s.trapv t
    if sol || h == 0 then
      let t' := t.updGroup gi fun g => (g.updThread l fun x => { x.setTrap tr pc with live := false })
      (s.setTeam { t' with ft := true }).noteFatal t tr.cause.code
    else
      s.setTeam (t.updGroup gi fun g =>
        { g.updThread l (fun x => x.setTrap tr pc) with
          entries := addEntry g.entries (Entry.at h prio (laneBit l) true) })

/-- The instances of a group's space, or of the team's (R118). -/
def Team.instances (t : Team) (isTeam : Bool) (gi : Nat) : List Instance :=
  if isTeam then t.insts else (t.group gi).insts

def Team.setInstances (t : Team) (isTeam : Bool) (gi : Nat) (is : List Instance) : Team :=
  if isTeam then { t with insts := is } else t.updGroup gi fun g => { g with insts := is }

/-- The thread of an arrival takes SYNC_MASK at its own collective word, with the mask it supplied (R118). -/
def State.syncMaskArrival (s : State) (tid : Nat) (i : Instance) (a : Arrival) : State :=
  match s.team? tid with
  | none => s
  | some t =>
    match (t.group a.grp).entryOf a.lane with
    | none => s
    | some e =>
      let t' := (t.updGroup a.grp fun g => { g with entries := dropLanes g.entries (laneBit a.lane) }).freeSeqs [a.seq]
      (s.setTeam t').trapInto tid a.grp a.lane (mkTrap .syncMask i.mask.toNat) e.pc e.prio e.solitary

/-- R118: cancel an instance; every thread arrived at it takes SYNC_MASK. -/
def State.cancelInstance (s : State) (tid : Nat) (isTeam : Bool) (gi : Nat) (i : Instance) : State :=
  match s.team? tid with
  | none => s
  | some t =>
    let s1 := s.setTeam (t.setInstances isTeam gi ((t.instances isTeam gi).filter fun j => j != i))
    i.arrivals.foldl (fun st a => st.syncMaskArrival tid i a) s1

/-- The open instances that need a thread's arrival: its unit is in the mask (R114, R118). -/
def Team.needing (t : Team) (gi l : Nat) : List (Bool × Instance) :=
  ((t.group gi).insts.filter fun i => i.mask.getLsbD l).map (fun i => (false, i)) ++
  (t.insts.filter fun i => i.mask.getLsbD gi).map (fun i => (true, i))

/-- Cancel every instance of a list in its group's or team's space. -/
def State.cancelAll (s : State) (tid gi : Nat) (xs : List (Bool × Instance)) : State :=
  xs.foldl (fun st x => st.cancelInstance tid x.1 gi x.2) s

/-- Whether a thread of a team lives. -/
def State.alive (s : State) (tid gi l : Nat) : Bool :=
  match s.team? tid with
  | some t => ((t.group gi).thread l).live
  | none => false

/-- R114, R118: threads that have just ended cancel the instances that needed their arrival; a SYNC_MASK among the
cancelled that is fatal ends further threads, so the sweep repeats, `fuel` times at most. -/
def State.sweepEnded (s : State) (tid : Nat) : Nat → List (Nat × Nat) → State
  | 0, _ => s
  | _, [] => s
  | fuel + 1, (gi, l) :: rest =>
    match s.team? tid with
    | none => s
    | some t =>
      let hit := t.needing gi l
      let s1 := s.cancelAll tid gi hit
      let arrived := hit.flatMap fun x => x.2.arrivals.map fun a => (a.grp, a.lane)
      s1.sweepEnded tid fuel (rest ++ arrived.filter fun a => s.alive tid a.1 a.2 && !s1.alive tid a.1 a.2)

end Sys2Proof.Machine
end

