-- ==== Sys2Proof/Machine/Collective.lean ====
section
/-! DEFINITION. What a collective computes, and the completion of its instance (R118-R129, R83). -/

namespace Sys2Proof.Machine

/-- R321, R49: the word after the last of a segment is in no segment the thread may fall into. -/
def fallsOff (pc : BitVec 64) : Bool := (pc + 8).toNat % 4096 == 0

/-- The reduction operations of R126, Table 4: one step and the flags it raises. -/
def redStep (op : Nat) (acc x : BitVec 32) : BitVec 32 × FFlags :=
  match op with
  | 0 => (acc + x, 0)
  | 1 => (if acc.toInt ≤ x.toInt then acc else x, 0)
  | 2 => (if acc.toInt ≥ x.toInt then acc else x, 0)
  | 3 => (if acc.toNat ≤ x.toNat then acc else x, 0)
  | 4 => (if acc.toNat ≥ x.toNat then acc else x, 0)
  | 5 => (acc &&& x, 0)
  | 6 => (acc ||| x, 0)
  | 7 => (acc ^^^ x, 0)
  | 8 => let r := fadd .fp32 .rne (fp32 acc) (fp32 x); (BitVec.ofNat 32 r.bits, r.flags)
  | 9 => let r := fminmax false acc x; (BitVec.ofNat 32 r.bits, r.flags)
  | _ => let r := fminmax true acc x; (BitVec.ofNat 32 r.bits, r.flags)

/-- The identities of R126, Table 4. -/
def redIdentity (op : Nat) : BitVec 32 :=
  match op with
  | 1 => 0x7FFFFFFF | 2 => 0x80000000 | 3 => 0xFFFFFFFF | 5 => 0xFFFFFFFF | 8 => 0x80000000 | 9 => 0x7F800000
  | 10 => 0xFF800000 | _ => 0

/-- The fold of R126: it begins with the first value. -/
def redFold (op : Nat) : List (BitVec 32) → BitVec 32 × FFlags
  | [] => (redIdentity op, 0)
  | x :: xs => xs.foldl (fun r y => let q := redStep op r.1 y; (q.1, r.2 ||| q.2)) (x, 0)

/-- The first data operand of an arrival. -/
def Arrival.opnd (a : Arrival) (k : Nat) : Opnd := a.vals.getD k ⟨0, false, false, 0⟩

/-- What a completed collective writes in one participant: register value and poison, width in registers, predicate. -/
structure CollOut where
  val : Nat
  poison : Bool × Bool := (false, false)
  width : Nat := 1
  pred : Bool := false

/-- The participants of an instance in ascending lane order. -/
def Instance.ordered (i : Instance) : List Arrival :=
  (List.range 32).flatMap fun l => i.arrivals.filter (·.lane == l)

/-- SHFL in one participant (R125). -/
def shflOut (i : Instance) (a : Arrival) : CollOut :=
  let b := a.opnd 1
  let v := b.val
  let src : Option Nat := match i.modf / 8 % 4 with
    | 0 => some v
    | 1 => if v ≤ a.lane then some (a.lane - v) else none
    | 2 => some (a.lane + v)
    | _ => some (a.lane ^^^ v)
  match (if v > 31 then none else src.bind fun k => i.arrivals.find? (·.lane == k)) with
  | some p => ⟨(p.opnd 0).val, joinPoison [p.opnd 0, b], 1, !b.poison⟩
  | none => ⟨(a.opnd 0).val, joinPoison [a.opnd 0, b], 1, false⟩

/-- VOTE in one participant (R123): op in MOD[5:4]. -/
def voteOut (i : Instance) : CollOut :=
  let ps := i.arrivals.map (·.pred)
  match i.modf / 16 % 4 with
  | 0 => ⟨0, (false, false), 1, ps.all id⟩
  | 1 => ⟨0, (false, false), 1, ps.any id⟩
  | 2 => ⟨0, (false, false), 1, ps.all id || ps.all (!·)⟩
  | _ => ⟨(maskOf ((i.arrivals.filter (·.pred)).map (·.lane))).toNat, (false, false), 1, false⟩

/-- SCANG in one participant (R126): MOD[4] EXCL, MOD[3:0] op. -/
def scanOut (i : Instance) (a : Arrival) : CollOut :=
  let below := i.ordered.filter fun p => if i.modf / 16 % 2 == 1 then p.lane < a.lane else p.lane ≤ a.lane
  let xs := below.map fun p => p.opnd 0
  ⟨(redFold (i.modf % 16) (xs.map fun x => BitVec.ofNat 32 x.val)).1.toNat, joinPoison xs, 1, false⟩

/-- REDG in every participant (R126). -/
def redOut (i : Instance) : CollOut :=
  let xs := i.ordered.map fun p => p.opnd 0
  ⟨(redFold (i.modf % 16) (xs.map fun x => BitVec.ofNat 32 x.val)).1.toNat, joinPoison xs, 1, false⟩

/-- MATCH in one participant (R127). -/
def matchOut (i : Instance) (a : Arrival) : CollOut :=
  let eq := i.arrivals.filter fun p => (p.opnd 0).val == (a.opnd 0).val
  let pz := joinPoison (i.arrivals.map fun p => p.opnd 0)
  ⟨(maskOf (eq.map (·.lane))).toNat, pz, 1, eq.length == i.arrivals.length && !pz.1⟩

/-- ELECT in one participant (R124). -/
def electOut (i : Instance) (a : Arrival) : CollOut :=
  let low := i.ordered.head?.map (·.lane)
  ⟨low.getD 0, (false, false), 1, low == some a.lane⟩

/-- What an instance's completion writes in one participant. -/
def collOut (i : Instance) (a : Arrival) : CollOut :=
  match i.op with
  | .barg | .bart => ⟨0, (false, false), 1, false⟩
  | .vote => voteOut i
  | .elect => electOut i a
  | .shfl => shflOut i a
  | .redg => redOut i
  | .scang => scanOut i a
  | .matchG => matchOut i a

/-- The flags of a completed instance: those of the full inclusive fold (R126). -/
def collFlags (i : Instance) : FFlags :=
  match i.op with
  | .redg | .scang => (redFold (i.modf % 16) (i.ordered.map fun p => BitVec.ofNat 32 (p.opnd 0).val)).2
  | _ => 0

/-- The live lanes of a group. -/
def Group.liveLanes (g : Group) : List Nat := (List.range 32).filter fun l => (g.thread l).live

/-- A destination of an arrival has become Pending since; a participant waits until its producer completes (R83). -/
def Arrival.dstPending (t : Team) (w : Nat) (a : Arrival) : Bool :=
  (slotsOf (t.group a.grp) a.lane a.dst w).any (·.st == .pending)

/-- Every live thread of every unit of the mask has arrived (R118, R129). -/
def Instance.isComplete (t : Team) (i : Instance) : Bool :=
  if i.op == .bart then
    (lanesOf i.mask).all fun gi => (t.group gi).liveLanes.all fun l => i.arrivals.any fun a => a.grp == gi && a.lane == l
  else (lanesOf i.mask).all fun l => i.arrivals.any (·.lane == l)

/-- An instance may complete now: every needed thread has arrived, and no destination is Pending (R83, R118). -/
def Instance.mayComplete (t : Team) (i : Instance) : Bool := i.isComplete t && !(i.arrivals.any fun a => a.dstPending t 1)

/-- A participant takes its results and continues at its own PC + 8, with the priority and age of the entry it waited in
(R119). -/
def completeArrival (i : Instance) (t : Team) (a : Arrival) : Team :=
  t.updGroup a.grp fun g =>
    let o := collOut i a
    let g1 := (writeRef g a.lane a.dst o.width o.val o.poison.1 o.poison.2).updThread a.lane
      fun th => th.setPred a.pd o.pred
    match g1.entryOf a.lane with
    | none => g1
    | some e =>
      let moved := { Entry.at (e.pc + 8) e.prio (laneBit a.lane) e.solitary with age := e.age }
      let g2 := { g1 with entries := addEntry (dropLanes g1.entries (laneBit a.lane)) moved }
      if fallsOff e.pc then
        g2.updThread a.lane fun th =>
          { th with ptrap := some ⟨mkTrap .codeAbsent (e.pc + 8).toNat, e.pc + 8⟩ }
      else g2

/-- The kinds of IFR entry that read, and read again in a replay (R334, Table 4). -/
def IfrOp.isRead : IfrOp → Bool
  | .sfu _ _ | .ld _ | .tagrd | .tex _ _ _ _ | .ray _ _ _ => true
  | .arrival | .st | .tagwr | .atom _ | .acas | .red _ | .mxst | .arrive | .cfetch | .stld | .copy _ | .refill | .rast => false

/-- A piece has been performed for good. A read that has not been delivered is made again by a replay (R300, R343), so until then what
its order puts after it waits. -/
def IfrEntry.final (e : IfrEntry) (o : LaneOp) (p : Piece) : Bool := p.done && (o.done || !e.op.isRead)

/-- Every piece of a lane has been performed for good. -/
def IfrEntry.settled (e : IfrEntry) (o : LaneOp) : Bool := o.pieces.all (e.final o)

/-- The lanes whose pieces are outstanding on behalf of some of the threads `who`. -/
def Team.outstanding (t : Team) (who : List (Nat × Nat)) : List (Nat × Nat) :=
  t.ifr.flatMap fun e => (e.lanes.filter fun o => o.who.any who.contains && !e.settled o).map fun o => (e.seq, o.lane)

/-- R121, R286: a barrier of the threads `who` completes: what is outstanding of them, and what earlier barriers of theirs still order
before them, is ordered before every access that they issue from now on. -/
def Team.passBarrier (t : Team) (who : List (Nat × Nat)) : Team :=
  let earlier := (t.barriers.filter fun b => b.who.any who.contains).flatMap (·.pend)
  let live := earlier.filter fun x => t.ifr.any fun e => e.seq == x.1 && e.lanes.any fun o => o.lane == x.2 && !e.settled o
  let pend := (t.outstanding who ++ live).eraseDups
  if pend.isEmpty then t else { t with barriers := t.barriers ++ [⟨who, t.seq, pend⟩] }

/-- The collectives that order memory accesses (R121). -/
def CollOp.orders (op : CollOp) : Bool := op == .barg || op == .bart

/-- R118, R119, R121: complete an instance. -/
def Team.completeInstance (t : Team) (isTeam : Bool) (gi : Nat) (i : Instance) : Team :=
  let t0 := if i.op.orders then t.passBarrier (i.arrivals.map fun a => (a.grp, a.lane)) else t
  let t1 := t0.setInstances isTeam gi ((t0.instances isTeam gi).erase i)
  let t2 := i.arrivals.foldl (completeArrival i) t1
  let t3 := t2.freeSeqs (i.arrivals.map (·.seq))
  if isTeam then t3 else t3.updGroup gi fun g => g.orFlags (collFlags i)

/-- Complete every instance of a space that may complete. -/
def Team.completeReady (t : Team) (isTeam : Bool) (gi : Nat) : Team :=
  ((t.instances isTeam gi).filter fun i => i.mayComplete t).foldl (fun u i => u.completeInstance isTeam gi i) t

/-- R83: a register has become Full: instances that waited for it complete. -/
def Team.resumeInstances (t : Team) : Team :=
  (List.range t.groups.length).foldl (fun u gi => u.completeReady false gi) (t.completeReady true 0)

end Sys2Proof.Machine
end

