-- ==== Sys2Proof/Machine/Issue.lean ====
section
/-! DEFINITION. The issue of an instruction by an entry (R61, R62, R64), what its fates do, and what follows the ends of threads
and teams (R71, R72, R85, R114). -/

namespace Sys2Proof.Machine

/-! ## The issue of an instruction -/

/-- Perform a lane function on lanes in ascending order (R56, R79); a lane that fails performs nothing. -/
def foldLanes {σ : Type} (f : σ → Nat → Except Fate (σ × Fate)) : List Nat → σ → σ × List (Nat × Fate)
  | [], s => (s, [])
  | l :: ls, s =>
    match f s l with
    | .ok (s', ft) => let r := foldLanes f ls s'; (r.1, (l, ft) :: r.2)
    | .error ft => let r := foldLanes f ls s; (r.1, (l, ft) :: r.2)

/-- The fate of a lane; a lane with none continues at the next word (R62: its guard was false). -/
def fateOf (fs : List (Nat × Fate)) (l : Nat) : Fate :=
  match fs.find? (·.1 == l) with
  | some x => x.2
  | none => .next

/-- What the fates of the members do besides moving them: ends, traps, consumptions, and running off a segment. -/
def State.applyFate (s : State) (c : Cur) (e : Entry) (l : Nat) (f : Fate) : State :=
  let ctl := c.tid == 0
  match f with
  | .exit => s.updGroup c.tid c.grp fun g => g.updThread l fun t => { t with live := false }
  | .trap tr =>
    if ctl then
      (s.updGroup 0 c.grp fun g => g.updThread l fun t => { t with live := false }).controllerFault tr.cause.code e.pc
    else s.trapInto c.tid c.grp l tr e.pc e.prio e.solitary
  | .consume =>
    if ctl then
      (s.updGroup 0 c.grp fun g => g.endThread l).controllerFault 0 e.pc
    else
      { s.updGroup c.tid c.grp fun g => g.updThread l fun t => { t with consumed := true } with
        consumptions := s.consumptions ++ [c.tid] }
  | .next | .yld _ | .reprio _ =>
    if fallsOff e.pc then
      s.updGroup c.tid c.grp fun g => g.updThread l fun t =>
        { t with ptrap := some ⟨mkTrap .codeAbsent (e.pc + 8).toNat, e.pc + 8⟩ }
    else s
  | _ => s

/-- R60, R72: a group whose frontier is empty has ended and its issue slot is free. -/
def Group.settle (g : Group) : Group := if g.entries.isEmpty then { g with pipe := none } else g

/-- Every group of the team has ended (R60, R71). -/
def Team.allEnded (t : Team) : Bool := t.groups.all fun g => g.entries.isEmpty

/-- The kinds of IFR entry whose lanes are discarded once their thread has ended: nothing of them is left but a write of the thread's
registers, or a wait (R85, R114, R333). -/
def IfrOp.endsWithThread (op : IfrOp) : Bool := op.isRead || op == .arrive || op == .cfetch

/-- I1 operations (R334). -/
def IfrOp.isWriteKind : IfrOp → Bool
  | .st | .tagwr | .atom _ | .acas | .red _ | .mxst => true
  | .sfu _ _ | .ld _ | .tagrd | .tex _ _ _ _ | .ray _ _ _ | .arrival | .arrive | .cfetch | .stld | .copy _ | .refill | .rast => false

/-- Every lane of an entry is complete or discarded (R331). -/
def IfrEntry.finished (e : IfrEntry) : Bool := !e.lanes.isEmpty && e.lanes.all (·.done)

/-- R331: free the entries whose lanes are all complete or discarded. -/
def Team.freeFinished (t : Team) : Team := { t with ifr := t.ifr.filter fun e => !e.finished }

/-- None of a list of threads (group, lane) lives. -/
def Team.allDead (t : Team) (who : List (Nat × Nat)) : Bool := who.all fun x => !((t.group x.1).thread x.2).live

/-- R81: a G register whose producer's lanes have all been discarded has no producer outstanding, so it is Void. -/
def Team.voidG (t : Team) (gi : Nat) (dst : Ref) (width : Nat) : Team :=
  match dst with
  | .g _ => t.updGroup gi fun g => markRef g 0 dst width .void
  | _ => t

/-- A lane is discarded: nothing of it is to be performed any more (R85, R245). -/
def LaneOp.discard (o : LaneOp) : LaneOp :=
  { o with done := true, fw := true, pieces := o.pieces.map fun p => { p with done := true, wait := .no } }

/-- R81: what the discarded lanes of an entry would have written. A V register is Void; a G register, which the lanes of an entry write
together (R79), is Void once no other lane is left that could write it. -/
def Team.voidLanes (t : Team) (e : IfrEntry) (gone : LaneOp → Bool) : Team :=
  (e.lanes.filter fun o => gone o && !o.done).foldl (fun u o => match o.dst, o.who with
    | .g _, _ => if e.lanes.any fun b => !b.done && !gone b && b.dst == o.dst then u else u.voidG e.grp o.dst e.dwords
    | .v _, (g, l) :: _ => u.updGroup g fun x => markRef x l o.dst e.dwords .void
    | _, _ => u) t

/-- The lanes of an entry that `gone` selects are discarded (R81, R114, R245, R333). -/
def Team.discardLanes (t : Team) (e : IfrEntry) (gone : LaneOp → Bool) : Team :=
  let t1 := t.voidLanes e gone
  { t1 with ifr := t1.ifr.map fun x =>
      if x.seq == e.seq then { x with lanes := x.lanes.map fun o => if gone o && !o.done then o.discard else o } else x }

/-- The group whose threads issued a palette access. -/
def PalPend.grp (p : PalPend) : Nat := (p.who.head?.map (·.1)).getD 0

/-- Palette accesses of one issue that write one G register (R79, R83): it stays Pending until all of them land. -/
def PalPend.landsWith (p q : PalPend) : Bool :=
  p.id == q.id || (p.grp == q.grp && p.dst == q.dst && match p.dst with
    | .g _ => true
    | _ => false)

/-- R114: the lanes of reads, special functions and the like, and the palette accesses, whose threads have ended are discarded; a
collective may have waited for what they held Pending (R83). -/
def Team.dropDead (t : Team) : Team :=
  let t1 := (t.ifr.filter (·.op.endsWithThread)).foldl (fun u e => u.discardLanes e fun o => t.allDead o.who) t
  let gone := t.palPend.filter fun p => t.allDead p.who
  let left := t.palPend.filter fun p => !t.allDead p.who
  let t2 := gone.foldl (fun u p => if left.any p.landsWith then u else u.voidG p.grp p.dst p.width) { t1 with palPend := left }
  t2.freeFinished.resumeInstances

/-! ## The quad's configuration (R196-R200) -/

/-- The grid of a quad; none while it is Unbound. -/
def State.grid? (s : State) (core quad : Nat) : Option Grid := s.grids.find? fun g => g.core == core && g.quad == quad

/-- Put a quad's grid. -/
def State.setGrid (s : State) (g : Grid) : State :=
  { s with grids := (s.grids.filter fun x => !(x.core == g.core && x.quad == g.quad)) ++ [g] }

/-- A quad's grid becomes Unbound. -/
def State.dropGrid (s : State) (core quad : Nat) : State :=
  { s with grids := s.grids.filter fun x => !(x.core == core && x.quad == quad) }

/-- A team's quad is in matrix configuration. -/
def State.matrixMode (s : State) (t : Team) : Bool :=
  t.tid != 0 && match s.grid? t.core t.quad with
    | some g => g.st == .bound || g.st == .switchingIn || g.st == .switchingOut
    | none => false

/-- A thread streams into the grid. -/
def Team.streams (t : Team) (gi l : Nat) : Bool :=
  let th := (t.group gi).thread l
  th.live && th.mx

/-- Rows of threads that no longer stream go; a binding without a streaming thread ends, once an STLD in flight has
arrived (R199, R200, R208). -/
def State.gridSettle (s : State) (tid : Nat) : State :=
  match s.team? tid with
  | none => s
  | some t =>
    match (if tid == 0 then none else s.grid? t.core t.quad) with
    | none => s
    | some g =>
      if g.tid != tid || (g.st != .bound && g.st != .switchingIn) then s
      else
        let rows := g.rows.filter fun r => t.streams r.grp r.lane
        let loading := match g.back with
          | .loading _ _ _ => true
          | _ => false
        if rows.isEmpty && !loading then
          s.setGrid { g with st := .switchingOut, rows := [], front := none, back := .empty, swaps := 0 }
        else if rows == g.rows then s
        else s.setGrid { g with rows := rows }

/-! ## The end of a team (R71, R72, R91, R255) -/

/-- A team leaves every segment (R318). -/
def State.dropHolds (s : State) (tid : Nat) : State :=
  let leave (x : Segment) : Segment := { x with holders := x.holders.erase tid }
  { s with code := (s.code.map leave).filter (fun x => !x.holders.isEmpty) }

/-- An extended sitting stays open over the cores that still hold a team of its context (R373). -/
def State.shrinkExtended (s : State) : State :=
  let holds (x : Sitting) (core : Nat) : Bool := s.teams.any fun t => t.st == .resident && t.ctx == x.ctx && t.core == core
  let now := s.sits.now.map fun x => if x.extended.isSome then { x with cores := x.cores.filter (holds x) } else x
  { s with sits := { s.sits with now := now.filter fun x => x.extended.isNone || !x.cores.isEmpty } }

/-- Bytes of frame space that a team reserves (R380). -/
def frameNeed (ngroup pal : Nat) : Nat := (256 + ngroup * 155648 + pal + 589824 + 557056 + 4095) / 4096 * 4096

/-- The reservations in a context's frame pool. -/
def State.reserved (s : State) (ctx : BitVec 32) : List (Nat × Nat) :=
  (s.teams.filter (fun t => t.ctx == ctx)).filterMap (·.frame)

/-- The lowest place for a frame in a context's pool (R380). -/
def State.framePlace (s : State) (c : Ctx) (n : Nat) : Option Nat :=
  let rs := s.reserved c.id
  ((0 :: rs.map fun r => r.1 + r.2).mergeSort fun a b => a ≤ b).find? fun o =>
    o + n ≤ c.fpsize * 4096 && rs.all fun r => o + n ≤ r.1 || r.1 + r.2 ≤ o

/-- FPWAIT (R380): a launch of the context has a team that waits for room in the pool. -/
def State.settleFp (s : State) : State :=
  { s with ctxs := s.ctxs.map fun c =>
      if !c.usable then c
      else
        let w := s.launches.any fun l => l.ctx == c.id && l.next < l.teams && !l.abandoned &&
          (s.framePlace c (frameNeed l.ngroup (l.pal * 4096))).isNone
        if w == c.fpwait then c else c.setFpwait w }

/-- A team whose every group has ended enters Ended: its resources are reclaimed (R71, R72, R318, R380). -/
def State.endTeam (s : State) (tid : Nat) : State :=
  match s.team? tid with
  | none => s
  | some t =>
    if tid == 0 || t.st != .resident || !t.allEnded then s
    else
      let s1 := (s.setTeam { t with st := .ended, asked := false, frame := none }).dropHolds tid
      let s2 := (s1.updLaunch t.lid fun l => { l with ended := l.ended + 1 }).shrinkExtended
      { s2 with posts := s2.posts.filter fun p => p.tid != tid }.settleFp

/-- Groups and IFR lanes of ended threads settle; the grid and the team end where nothing is left of them (R60, R72, R114, R199). -/
def State.settleEnds (s : State) (tid : Nat) : State :=
  ((s.updTeam tid fun t => Team.dropDead { t with groups := t.groups.map Group.settle }).gridSettle tid).endTeam tid

/-- What follows the ends of threads: the instances that needed them are cancelled, and what they leave settles. Where none ended only the
grid may have lost its last streaming thread. -/
def State.afterEnds (s : State) (tid : Nat) (ended : List (Nat × Nat)) : State :=
  if ended.isEmpty then s.gridSettle tid else (s.sweepEnded tid 1024 ended).settleEnds tid

/-- R62, R64: the group's service (R59), its other entries older by one, the issued entry replaced by what its members
have become, then ends, traps and consumptions. -/
def finishIssue (s : State) (c : Cur) (e : Entry) (fs0 : List (Nat × Fate)) : State :=
  let fs := (lanesOf e.mask).map fun l => (l, fateOf fs0 l)
  let s1 := s.updGroup c.tid c.grp fun g =>
    { g with entries := frontierAfter (g.entries.erase e) e fs, served := s.serve + 1 }
  let s2 := fs.foldl (fun st x => st.applyFate c e x.1 x.2) { s1 with serve := s.serve + 1 }
  let ended := (fs.map (·.1)).filter fun l => s.alive c.tid c.grp l && !s2.alive c.tid c.grp l
  let s4 := s2.afterEnds c.tid (ended.map fun l => (c.grp, l))
  { s4 with cur := none, waited := false }

/-- The issue waits: nothing changes (R61). -/
def waitIssue (s : State) : Result := .next { s with cur := none, waited := true }

/-- The issuing team, group and entry. -/
def State.issuing (s : State) : Option (Cur × Team × Group × Entry) :=
  match s.cur with
  | none => none
  | some c =>
    match s.team? c.tid with
    | none => none
    | some t =>
      match (t.group c.grp).entries[c.ent]? with
      | none => none
      | some e => some (c, t, t.group c.grp, e)

/-- The members whose guard is true. -/
def actLanes (g : Group) (e : Entry) (gd : Guard) : List Nat :=
  (lanesOf e.mask).filter fun l => (g.thread l).guard gd

/-- The threads that stood in the issuing entry when it was selected: with those that a stop request keeps at the word (R66), which stand in
the entry that the cut put last. -/
def State.wholeMask (s : State) (c : Cur) (e : Entry) : BitVec 32 :=
  match s.cutting with
  | some (tid, gs) => if tid == c.tid && gs.getLast? == some c.grp then
      e.mask ||| (((((s.team? c.tid).map fun t => t.group c.grp).bind fun g => g.entries.getLast?).getD e).mask) else e.mask
  | none => e.mask

/-- Members of the entry wait in its instruction, and none of them could leave it (R61, Table 3 of R110; log 66). -/
def Entry.stillWaits (e : Entry) (fs : List (Nat × Fate)) : Bool :=
  e.blocked != 0 && (lanesOf e.blocked).all fun l => fateOf fs l == .stay

/-- No member's own access has come further (R238, R444). -/
def State.sameProbes (s s1 : State) (c : Cur) (e : Entry) : Bool :=
  let probes (x : State) : Option (List (Option Probe)) :=
    (x.team? c.tid).map fun t => (lanesOf e.mask).map fun l => ((t.group c.grp).thread l).probe
  probes s == probes s1

/-- The issue of an instruction by the current entry: it waits while a member whose guard is true has a Pending source
with W = 0, while `ready` fails for the members that issue, or while every member that already waits still must (R61);
otherwise `run` performs it for the members whose guard is true, and the frontier moves. -/
def issue (s : State) (gd : Guard) (srcs : List (Reg × Nat)) (ready : State → Cur → List Nat → Bool)
    (run : Cur → Entry → List Nat → State → State × List (Nat × Fate)) : Result :=
  match s.issuing with
  | none => .fault .noIssuingEntry
  | some (c, _, g, e) =>
    let act := actLanes g e gd
    if act.any fun l => srcs.any fun x => srcPending g l x.1 x.2 then waitIssue s
    else if !ready s c act then waitIssue s
    else
      let r := run c e act s
      if e.stillWaits r.2 && s.sameProbes r.1 c e then waitIssue s
      else .next (finishIssue r.1 c e r.2)

/-- R56, R61: an engine operation that waits at issue holds back its whole entry, as nothing of the instruction has entered before it:
where its first thread waits, or a later one while what it waits for is busy with earlier operations. A thread in fault-wait waits alone
(R245). -/
def holdEntry (s : State) (c : Cur) (e : Entry) (act : List Nat) (busy : Bool) (r : State × List (Nat × Fate)) :
    State × List (Nat × Fate) :=
  let waits (l : Nat) : Bool := fateOf r.2 l == .stay
  if act.any waits && s.sameProbes r.1 c e && (act.head?.any waits || busy) then (s, (lanesOf e.mask).map fun l => (l, .stay)) else r

/-- Nothing beside the sources holds the issue back. -/
def always (_ : State) (_ : Cur) (_ : List Nat) : Bool := true

/-- Run a lane function that touches only its group. It reads registers from the group as the instruction found it, so
that members who write one G register write the same value (R79). -/
def runG (body : Entry → Group → Group → Nat → Except Fate (Group × Fate)) (c : Cur) (e : Entry) (act : List Nat) (s : State) :
    State × List (Nat × Fate) :=
  match s.team? c.tid with
  | none => (s, [])
  | some t =>
    let r := foldLanes (body e (t.group c.grp)) act (t.group c.grp)
    (s.setTeam (t.setGroup c.grp r.1), r.2)

/-- Run a lane function over the whole state. -/
def runS (body : Cur → Entry → State → Nat → Except Fate (State × Fate)) (c : Cur) (e : Entry) (act : List Nat)
    (s : State) : State × List (Nat × Fate) := foldLanes (body c e) act s

/-- R198, R61: an instruction that needs a multiplier. In matrix configuration the entry is skipped while no member whose guard
is true has MT, and waits for a Pending source as it otherwise would; then those with MT trap and every other member stays. -/
def issueMul (s : State) (gd : Guard) (srcs : List (Reg × Nat)) (perform : Result) : Result :=
  match s.issuing with
  | none => .fault .noIssuingEntry
  | some (c, t, g, e) =>
    let act := actLanes g e gd
    if s.matrixMode t then
      let mts := act.filter fun l => (g.thread l).mt
      if mts.isEmpty || act.any fun l => srcs.any fun x => srcPending g l x.1 x.2 then waitIssue s
      else .next (finishIssue s c e ((lanesOf e.mask).map fun l =>
        (l, if mts.contains l then .trap (mkTrap .modeAlias 0) else .stay)))
    else perform

/-- Every member of the issuing entry, whatever its guard, takes a trap (R36). -/
def trapAll (s : State) (tr : Entry → Trap) : Result :=
  match s.issuing with
  | none => .fault .noIssuingEntry
  | some (c, _, _, e) => .next (finishIssue s c e ((lanesOf e.mask).map fun l => (l, .trap (tr e))))

/-- The trap of R36 step 3, with the instruction word in TRAPA (R348). -/
def wordTrap (c : Cause) (i : Instr) : Trap := ⟨c, 0, (encode i).getD 0⟩

/-- R36 step 3 and R37: a privileged instruction raises PRIVILEGE in every member of the entry of an unprivileged
thread, and is performed on the studio controller. -/
def privileged (i : Instr) (s : State) (perform : Result) : Result :=
  match s.issuing with
  | none => .fault .noIssuingEntry
  | some (c, _, _, _) => if c.tid == 0 then perform else trapAll s fun _ => wordTrap .privilege i

end Sys2Proof.Machine
end

