-- ==== Sys2Proof/Machine/Home.lean ====
section
/-! DEFINITION. The memory side of a home panel: homes and page tables (R233, R239, R240, R248), the codeword of a sector
(R458-R460), encryption (R442), the home L2 (R259), the pentimento log (R468), the error counters (R484). -/

namespace Sys2Proof.Machine

/-! ## Homes and pages -/

/-- A partition, by its first panel. -/
def State.part? (s : State) (first : Nat) : Option Partition := s.parts.find? (·.first == first)

def State.updPart (s : State) (first : Nat) (f : Partition → Partition) : State :=
  { s with parts := s.parts.map fun p => if p.first == first then f p else p }

/-- The partition that holds a panel. -/
def State.partOf (s : State) (panel : Nat) : Option Partition :=
  s.parts.find? fun p => p.first ≤ panel && panel < p.first + p.size

def State.panel (s : State) (n : Nat) : Panel := (s.panels.find? (·.num == n)).getD (Panel.initial n)

def State.updPanel (s : State) (n : Nat) (f : Panel → Panel) : State :=
  { s with panels := s.panels.map fun p => if p.num == n then f p else p }

/-- R233: the home panel of a DIA and the index of its page's entry there. -/
def State.home (s : State) (dia : Nat) : Option (Nat × Nat) :=
  match s.part? (bitsOf dia 47 44) with
  | some p => let pg := bitsOf dia 43 16; some (p.first + pg % p.size, pg / p.size)
  | none => none

/-- A page entry; beyond PTLEN, and in an uncorrectable sector of the table, it is an entry with VALID = 0 (R239, R461). -/
def Panel.pte (p : Panel) (i : Nat) : BitVec 64 :=
  if i < p.ptlen && !p.ptbad.contains (i / 8) then ((p.ptes.find? (·.1 == i)).map (·.2)).getD 0 else 0

/-- Insert into a list by rising number; 0 leaves no entry. -/
def putEntry : List (Nat × BitVec 64) → Nat → BitVec 64 → List (Nat × BitVec 64)
  | [], i, v => if v = 0 then [] else [(i, v)]
  | (j, w) :: es, i, v =>
    if i < j then (if v = 0 then (j, w) :: es else (i, v) :: (j, w) :: es)
    else if i = j then (if v = 0 then es else (i, v) :: es)
    else (j, w) :: putEntry es i v

def Panel.setPte (p : Panel) (i : Nat) (e : BitVec 64) : Panel := { p with ptes := putEntry p.ptes i e }

/-- The page entry that covers a DIA. -/
def State.pte (s : State) (dia : Nat) : BitVec 64 :=
  match s.home dia with
  | some (n, i) => (s.panel n).pte i
  | none => 0

def State.setPte (s : State) (dia : Nat) (e : BitVec 64) : State :=
  match s.home dia with
  | some (n, i) => s.updPanel n fun p => p.setPte i e
  | none => s

/-- VALID of a page entry (R239). -/
def pteValid (e : BitVec 64) : Bool := e.getLsbD 63

/-- OWNER of a page entry (R239). -/
def pteOwner (e : BitVec 64) : Nat := bitsOf e.toNat 48 40

/-- R240: the physical address of a DIA whose page entry is `e`. -/
def physOf (e : BitVec 64) (dia : Nat) : Nat := bitsOf e.toNat 39 16 * 65536 + dia % 65536

/-- R248: a write sets DIRTY of its page. -/
def State.markDirty (s : State) (dia : Nat) : State := s.setPte dia (s.pte dia ||| 1#64 <<< 62)

/-! ## Counters (R481, R484) -/

inductive Counter where
  | ce | ue | tagm | misdir | frec | rbrec
  deriving DecidableEq, Repr

/-- A counter saturates at 0xFFFF_FFFF (R481). -/
def sat32 (n : Nat) : Nat := min n 0xFFFFFFFF

def Fn.count (f : Fn) : Counter → Fn
  | .ce => { f with ce := sat32 (f.ce + 1) }
  | .ue => { f with ue := sat32 (f.ue + 1) }
  | .tagm => { f with tagm := sat32 (f.tagm + 1) }
  | .misdir => { f with misdir := sat32 (f.misdir + 1) }
  | .frec => { f with frec := sat32 (f.frec + 1) }
  | .rbrec => { f with rbrec := sat32 (f.rbrec + 1) }

/-- R484: counted in the physical function and in the owner. -/
def State.count (s : State) (k : Counter) (owner : Nat) : State :=
  let s1 := s.updFn 0 fun f => f.count k
  if owner == 0 then s1 else s1.updFn owner fun f => f.count k

/-! ## The codeword of a sector (R458-R460) -/

/-- Multiply by α = x in GF(2^16) with x^16 + x^12 + x^3 + x + 1. -/
def gfDouble (v : BitVec 16) : BitVec 16 := if v.getLsbD 15 then (v <<< 1) ^^^ 0x100B#16 else v <<< 1

/-- v · α^p. -/
def gfAlpha : Nat → BitVec 16 → BitVec 16
  | 0, v => v
  | p + 1, v => gfAlpha p (gfDouble v)

/-- D of R458, from a DIA's sector number. -/
def dMark (ds : Nat) : BitVec 16 :=
  BitVec.ofNat 16 (bitsOf ds 15 0) ^^^ BitVec.ofNat 16 (bitsOf ds 31 16) ^^^ BitVec.ofNat 16 (bitsOf ds 41 32)

/-- The syndromes of a list of symbol errors. -/
def syndromes (es : List (Nat × BitVec 16)) : BitVec 16 × BitVec 16 :=
  es.foldl (fun s e => (s.1 ^^^ e.2, s.2 ^^^ gfAlpha e.1 e.2)) (0, 0)

/-- The classes of R459, Table 1. -/
inductive SynClass where
  | clean
  | corrected (p : Nat)
  | tag
  | misdirected
  | uncorrectable
  deriving DecidableEq, Repr

/-- The class of a pair of syndromes. -/
def classify (s0 s1 : BitVec 16) : SynClass :=
  if s0 == 0 && s1 == 0 then .clean
  else if s0 == 0 then .uncorrectable
  else if s1 == gfAlpha 32 s0 && s0.toNat < 16 then .tag
  else if s1 == gfAlpha 33 s0 then .misdirected
  else match (List.range 36).find? fun p => p != 32 && p != 33 && s1 == gfAlpha p s0 with
    | some p => .corrected p
    | none => .uncorrectable

/-- The syndromes that the home computes for a sector read at DIA sector `ds` with expected tag `exp`. -/
def Sector.syn (x : Sector) (ds : Nat) (exp : BitVec 4) : BitVec 16 × BitVec 16 :=
  let s := syndromes (x.err ++ [(32, (x.tag ^^^ exp).setWidth 16), (33, dMark x.dia ^^^ dMark ds)])
  if x.poison then (s.1 ^^^ 1, s.2 ^^^ gfAlpha 40 1) else s

/-- Add a symbol error. -/
def addErr (es : List (Nat × BitVec 16)) (p : Nat) (v : BitVec 16) : List (Nat × BitVec 16) :=
  let old := ((es.find? (·.1 == p)).map (·.2)).getD 0
  let rest := es.filter (·.1 != p)
  if old ^^^ v == 0 then rest else rest ++ [(p, old ^^^ v)]

/-- The stored sector of a physical sector number. -/
def State.sector? (s : State) (idx : Nat) : Option Sector := s.sectors.find? (·.idx == idx)

/-- Store a sector, keeping the list in rising order. -/
def putSector : List Sector → Sector → List Sector
  | [], x => [x]
  | y :: ys, x => if x.idx < y.idx then x :: y :: ys else if x.idx = y.idx then x :: ys else y :: putSector ys x

/-- The DIA sector under which a home reads a sector through a valid page: two valid pages on one frame show what either has stored
(R240); any other frame under a new DIA is misdirected (R520, log 82). -/
def State.readAs (s : State) (idx ds : Nat) : Nat :=
  match s.sector? idx with
  | some x =>
    let e := s.pte (64 * x.dia)
    if x.dia != ds && pteValid e && physOf e (64 * x.dia) / 64 == idx then x.dia else ds
  | none => ds

/-- How the home finds a sector: its class, and the sector after any correction. -/
def State.probeSector (s : State) (idx ds : Nat) (exp : BitVec 4) : SynClass × Option Sector :=
  match s.sector? idx with
  | some x =>
    let y := x.syn ds exp
    match classify y.1 y.2 with
    | .corrected p => (.corrected p, some { x with err := addErr x.err p y.1 })
    | c => (c, some x)
  | none =>
    match Config.coldClass idx ds % 4 with
    | 0 => (.clean, none)
    | 1 => (.corrected 0, none)
    | 2 => (.uncorrectable, none)
    | _ => (.misdirected, none)

/-- R459, R484: count what a decode found; a tag mismatch counts only for an expected tag other than 0. -/
def State.countClass (s : State) (c : SynClass) (exp : BitVec 4) (owner : Nat) : State :=
  match c with
  | .clean => s
  | .corrected _ => s.count .ce owner
  | .tag => if exp == 0 then s else s.count .tagm owner
  | .misdirected => s.count .misdir owner
  | .uncorrectable => s.count .ue owner

/-- The class poisons what is read; PT says that only a tag mismatch did (R461). -/
def SynClass.poison (c : SynClass) (exp : BitVec 4) : Bool × Bool :=
  match c with
  | .clean | .corrected _ => (false, false)
  | .tag => (exp != 0, exp != 0)
  | .misdirected | .uncorrectable => (true, false)

/-- The tag a sector's check bits hold (R460, R520). -/
def State.tagOf (s : State) (idx : Nat) : BitVec 4 :=
  match s.sector? idx with
  | some x => x.tag
  | none => Config.coldTag idx

/-! ## Encryption (R442) -/

/-- The keys of a number: those its slot holds, or held before it was emptied (R440, R444). -/
def State.keyPair (s : State) (k : Nat) : BitVec 512 := ((s.keys.find? (·.key == k)).map (·.data)).getD (Config.keyData k)

def State.keyInteg (s : State) (k : Nat) : BitVec 256 := ((s.keys.find? (·.key == k)).map (·.integ)).getD (Config.keyInteg k)

/-- The number of the key with which unit `h` was encrypted. -/
def Sector.keyOf (x : Sector) (h : Nat) : Nat := if h == 0 then x.key0 else x.key1

/-- The symbol errors of unit `h` of a sector, over its 256 bits. -/
def Sector.mask (x : Sector) (h : Nat) : BitVec 256 :=
  x.err.foldl (fun (m : BitVec 256) e =>
    if 16 * h ≤ e.1 && e.1 < 16 * h + 16 then m ^^^ BitVec.ofNat 256 (e.2.toNat * 2 ^ (16 * (e.1 - 16 * h))) else m) 0

/-- Unit `h` of a sector as its cells hold it: ciphertext, with its errors. -/
def State.cells (s : State) (x : Option Sector) (idx h : Nat) : BitVec 256 :=
  match x with
  | none => Config.coldCells (2 * idx + h)
  | some x =>
    (if x.keyOf h == 0 then Config.coldCells (2 * idx + h)
     else xtsEncrypt (s.keyPair (x.keyOf h)) (2 * x.dia + h) (BitVec.ofNat 256 (Memory.readN s.mem (64 * idx + 32 * h) 32)))
      ^^^ x.mask h

/-- Unit `h` of a sector for a reader with a key at DIA sector `ds`: where the unit was written with that key at that place and has no
error, the decryption of its encryption is what was written. -/
def State.unit (s : State) (x : Option Sector) (idx h ds key : Nat) : BitVec 256 :=
  match x with
  | none => xtsDecrypt (s.keyPair key) (2 * ds + h) (s.cells none idx h)
  | some x =>
    if key != 0 && x.keyOf h == key && x.dia == ds && !(x.err.any fun e => 16 * h ≤ e.1 && e.1 < 16 * h + 16) then
      BitVec.ofNat 256 (Memory.readN s.mem (64 * idx + 32 * h) 32)
    else xtsDecrypt (s.keyPair key) (2 * ds + h) (s.cells (some x) idx h)

/-- Both units of a sector, as one number of 64 bytes. -/
def State.plain (s : State) (x : Option Sector) (idx ds key : Nat) : Nat :=
  (s.unit x idx 0 ds key).toNat + 2 ^ 256 * (s.unit x idx 1 ds key).toNat

/-! ## Reads and writes at the home -/

/-- What a read at the home delivers. -/
structure Rd where
  val : Nat
  poison : Bool
  pt : Bool

/-- A read of `n` bytes within one sector, through a valid page (R459-R461); the corrected sector is written back. -/
def State.homeRead (s : State) (dia n key : Nat) (exp : BitVec 4) : State × Rd :=
  let e := s.pte dia
  let idx := physOf e dia / 64
  let ds := s.readAs idx (dia / 64)
  let (c, x) := s.probeSector idx ds exp
  let s1 := s.countClass c exp (pteOwner e)
  let s2 := match c, x with
    | .corrected _, some y => { s1 with sectors := putSector s1.sectors y }
    | _, _ => s1
  let v := s2.plain x idx ds key
  let p := c.poison exp
  (s2, ⟨v / 2 ^ (8 * (dia % 64)) % 2 ^ (8 * n), p.1, p.2⟩)

/-- A read of any length, sector by sector (R248); `fuel` sectors at most. -/
def State.homeReads (s : State) (key : Nat) (exp : BitVec 4) : Nat → Nat → Nat → State × Rd
  | 0, _, _ => (s, ⟨0, false, false⟩)
  | fuel + 1, dia, n =>
    let k := min n (64 - dia % 64)
    let r := s.homeRead dia k key exp
    if n ≤ k then r
    else
      let q := r.1.homeReads key exp fuel (dia + k) (n - k)
      (q.1, ⟨r.2.val + 2 ^ (8 * k) * q.2.val, r.2.poison || q.2.poison,
             (r.2.poison || q.2.poison) && (!r.2.poison || r.2.pt) && (!q.2.poison || q.2.pt)⟩)

/-- Replace `n` bytes at byte `o` of a number. -/
def patch (old o n v : Nat) : Nat :=
  old - (old / 2 ^ (8 * o) % 2 ^ (8 * n)) * 2 ^ (8 * o) + (v % 2 ^ (8 * n)) * 2 ^ (8 * o)

/-- Lines of 256 bytes of a panel's L2: 8 MiB (R13, R16). -/
def l2Lines : Nat := 32768

/-- R259: before a write, the home L2 keeps what memory holds beneath a sector that becomes dirty; a full one writes another line
back first, of the implementation's choice (R13, log 12). -/
def State.dirtyUnder (s : State) (idx : Nat) : State :=
  if s.dirty.any (·.idx == idx) then s
  else
    let d : Dirty := ⟨idx, s.sector? idx, Memory.readN s.mem (64 * idx) 64⟩
    let lines := ((s.dirty.filter fun x => x.idx / 2 ^ 30 == idx / 2 ^ 30).map (·.idx / 4)).eraseDups
    if lines.contains (idx / 4) || lines.length < l2Lines then { s with dirty := s.dirty ++ [d] }
    else
      let out := (lines[Config.pick s.fresh 5 % lines.length]?).getD 0
      { s with dirty := s.dirty.filter (·.idx / 4 != out) ++ [d], fresh := s.fresh + 1 }

/-- The armed context of a write (R468), if it is one. -/
def State.armed? (s : State) (who : Option (BitVec 32)) : Option Ctx :=
  who.bind fun id => (s.ctx? id).bind fun c => if c.armed then some c else none

/-- R468: the log has room for what a write for `who` to some sectors needs: a record for each that has none. -/
def State.logRoom (s : State) (who : Option (BitVec 32)) (idxs : List Nat) : Bool :=
  match s.armed? who with
  | none => true
  | some c =>
    match s.part? c.part with
    | none => true
    | some p =>
      let need := idxs.eraseDups.filter fun i => !(p.log.any fun r => r.ctx == c.id && r.idx == i)
      need.isEmpty || p.log.length + need.length ≤ p.logcap

/-- R468: USED has reached 90 % of LOGCAP: every armed context of the partition is to take a checkpoint, and its Resident teams
are to stop. -/
def State.forceCheckpoints (s : State) (first : Nat) : State :=
  match s.part? first with
  | none => s
  | some p =>
    if 10 * p.log.length < 9 * p.logcap then s
    else
      let due := (s.ctxs.filter fun c => c.valid && c.armed && c.part == first).map (·.id)
      { s with
        ctxs := s.ctxs.map fun c => if c.valid && due.contains c.id then { c with ckpt := true } else c
        teams := s.teams.map fun t => if due.contains t.ctx && t.st == .resident then { t with asked := true } else t }

/-- The last step of a checkpoint (R467 steps 2 and 3), once no team of the context is left to save: the launch state is
recorded, the log records are released and an interval begins. -/
def State.closeCheckpoint (s : State) (ctx : BitVec 32) : State :=
  match s.ctx? ctx with
  | none => s
  | some c =>
    if !c.ckpt || s.teams.any fun t => t.ctx == ctx && t.st == .resident && (t.asked || t.stopping) then s
    else
      let s1 := s.updPart c.part fun p => { p with log := p.log.filter fun r => r.ctx != ctx }
      { s1 with ctxs := s1.ctxs.map fun x =>
          if x.valid && x.id == ctx then
            { x with
              ckpt := false, ckDone := true, rolled := false, istart := s.time
              ckTeams := s.teams.filter (fun t => t.ctx == ctx)
              ckLaunches := s.launches.filter (fun l => l.ctx == ctx)
              ckRead := x.ringRead
              ckParked := s.parked.filter (fun c => c.ctx == ctx)
              ckPosts := s.posts.filter (fun p => p.copy.ctx == ctx)
              ckRasters := s.rasters.filter (fun r => r.ctx == ctx) }
          else x }

/-- R468: log the sector before the first write of an armed context to it in the interval. -/
def State.logWrite (s : State) (who : Option (BitVec 32)) (idx : Nat) : State :=
  match s.armed? who with
  | none => s
  | some c => match s.part? c.part with
    | none => s
    | some p =>
      if p.log.any fun r => r.ctx == c.id && r.idx == idx then s
      else (s.updPart c.part fun p =>
        { p with log := p.log ++ [{ ctx := c.id, idx := idx, sector := s.sector? idx, bytes := Memory.readN s.mem (64 * idx) 64 }] }).forceCheckpoints c.part

/-- Put a sector's bytes and record. -/
def State.storeSector (s : State) (x : Sector) (bytes : Nat) : State :=
  { s with sectors := putSector s.sectors x, mem := Memory.writeN s.mem (64 * x.idx) 64 bytes }

/-- A write of `n` bytes within one sector, through a valid page, for the context `who` if any (R248, R260, R460, R468):
a whole-sector write clears errors; a partial one merges, and merges an uncorrectable sector into the poison pattern. -/
def State.homeWrite (s : State) (dia n val key : Nat) (exp : BitVec 4) (poison : Bool) (who : Option (BitVec 32)) :
    State :=
  let e := s.pte dia
  let idx := physOf e dia / 64
  let ds := dia / 64
  let s0 := ((s.logWrite who idx).dirtyUnder idx).markDirty dia
  let tag := s.tagOf idx
  if n ≥ 64 then s0.storeSector ⟨idx, ds, tag, key, key, poison, []⟩ val
  else
    let old := s.readAs idx ds
    let (c, x) := s.probeSector idx old exp
    let s1 := s0.countClass c exp (pteOwner e)
    let o := dia % 64
    let touch (h : Nat) : Bool := o < 32 * h + 32 && 32 * h < o + n
    let k (h : Nat) : Nat := if touch h then key else (x.map fun y => y.keyOf h).getD 0
    let u (h : Nat) : Nat := if k h == 0 then 0 else (s.unit x idx h old (k h)).toNat
    let merged := patch (u 0 + 2 ^ 256 * u 1) o n val
    let bad := poison || match c with
      | .misdirected | .uncorrectable => true
      | _ => false
    s1.storeSector ⟨idx, ds, tag, k 0, k 1, bad, []⟩ merged

/-- A write of any length, sector by sector (R248); `fuel` sectors at most. -/
def State.homeWrites (s : State) (key : Nat) (exp : BitVec 4) (poison : Bool) (who : Option (BitVec 32)) :
    Nat → Nat → Nat → Nat → State
  | 0, _, _, _ => s
  | fuel + 1, dia, n, v =>
    let k := min n (64 - dia % 64)
    let s1 := s.homeWrite dia k v key exp poison who
    if n ≤ k then s1 else s1.homeWrites key exp poison who fuel (dia + k) (n - k) (v / 2 ^ (8 * k))

/-- TAGWR at the home (R277): the stored tag changes, the data does not. -/
def State.homeSetTag (s : State) (dia : Nat) (t : BitVec 4) (who : Option (BitVec 32)) : State :=
  let idx := physOf (s.pte dia) dia / 64
  let s0 := ((s.logWrite who idx).dirtyUnder idx).markDirty dia
  let old := s.readAs idx (dia / 64)
  let (c, x) := s.probeSector idx old 0
  let s1 := s0.countClass c 0 (pteOwner (s.pte dia))
  let bad := match c with
    | .misdirected | .uncorrectable => true
    | _ => false
  let k (h : Nat) : Nat := (x.map fun y => y.keyOf h).getD 0
  let u (h : Nat) : Nat := if k h == 0 then 0 else (s.unit x idx h old (k h)).toNat
  s1.storeSector ⟨idx, dia / 64, t, k 0, k 1, bad, []⟩ (u 0 + 2 ^ 256 * u 1)

/-! ## The home L2 (R259, R276) -/

/-- Write a sector back: memory then holds what the L2 holds. -/
def State.writeBack (s : State) (idx : Nat) : State := { s with dirty := s.dirty.filter (·.idx != idx) }

/-- Drop a sector without write-back: memory's own contents stand again, unless the L2 had already written the sector
back, which is the implementation's choice (R259, log 12). -/
def State.dropSector (s : State) (idx : Nat) : State :=
  match s.dirty.find? (·.idx == idx) with
  | none => s
  | some d =>
    let s1 := { s.writeBack idx with fresh := s.fresh + 1 }
    if Config.pick s.fresh 0 % 2 == 0 then s1
    else { s1 with sectors := match d.sector with
                     | some x => putSector s1.sectors x
                     | none => s1.sectors.filter (·.idx != idx)
                   mem := Memory.writeN s1.mem (64 * idx) 64 d.bytes }

/-- Sectors of a channel group's usable memory (R16). -/
def groupSectors : Nat := 15 * 2 ^ 24

/-! ## Gates (R383) -/

/-- The gate of a context at a channel group; 16 until a window has moved it. -/
def State.gate (s : State) (panel : Nat) (ctx : BitVec 32) : Gate :=
  (s.gates.find? fun g => g.panel == panel && g.ctx == ctx).getD { panel := panel, ctx := ctx, g := 16, used := 0, reads := 0 }

def State.setGate (s : State) (g : Gate) : State :=
  let mine (x : Gate) : Bool := x.panel == g.panel && x.ctx == g.ctx
  { s with gates := if s.gates.any mine then s.gates.map (fun x => if mine x then g else x) else s.gates ++ [g] }

/-- Sector requests that a gate admits in a microsecond. -/
def Gate.limit (g : Gate) : Nat := (g.g * 2700 + 15) / 16

/-- A team's accesses and engine operations go on: it runs, or it has ended and they were issued before (R114). -/
def Team.running (t : Team) : Bool := (t.st == .resident && !t.stopping) || t.st == .ended

/-- A request still waits at its home: what made it has been neither performed, stopped nor discarded. -/
def State.asksGate (s : State) (r : GateReq) : Bool :=
  let lane (tid seq l : Nat) (f : LaneOp → Bool) : Bool :=
    (s.team? tid).any fun t => t.running && t.ifr.any fun e => e.seq == seq && e.lanes.any fun o => o.lane == l && f o
  let free (p : Piece) : Bool := !p.done && p.wait == .no && !p.held
  match r with
  | .now => false
  | .piece tid seq l k => lane tid seq l fun o => (o.pieces[k]?).any free
  | .texels tid seq l => lane tid seq l fun o => o.pieces.any free
  | .beat id k => s.engines.any fun e => (e.cmds.head?).any fun c => c.id == id && (c.beats[k]?).any fun b => !b.done
  | .frame tid => (s.team? tid).any fun t => t.st == .resident && t.snapped
  | .code core ctx page => s.code.any fun x => x.core == core && x.ctx == ctx && x.page == page && !x.resident && x.wait == .no
  | .raster id => s.rasters.any fun x => x.id == id && x.queued

/-- A channel group admits a request of a context for `n` sectors, or the request waits there behind those that came before it:
best-effort contexts are gated, and the reads of critical ones are counted. -/
def State.gatePass (s : State) (panel : Nat) (ctx : BitVec 32) (n : Nat) (read : Bool) (req : GateReq) : State × Bool :=
  match s.ctx? ctx with
  | none => (s, true)
  | some c =>
    let g := s.gate panel ctx
    if c.crit then (if read then s.setGate { g with reads := g.reads + 1 } else s, true)
    else
      let q := g.queue.filter s.asksGate
      if (q.isEmpty || q.head? == some req) && g.used + n ≤ g.limit then
        (s.setGate { g with used := g.used + n, queue := q.filter (· != req) }, true)
      else (s.setGate { g with queue := if q.contains req then q else q ++ [req] }, false)

/-- The channel groups admit a request for sectors at several places (a DIA, how many, whether it reads), all of them or none: at the
first group that does not, the request waits. -/
def State.gateAll (s : State) (ctx : BitVec 32) (req : GateReq) (xs : List (Nat × Nat × Bool)) : State × Bool :=
  let homes := xs.filterMap fun x => (s.home x.1).map fun h => (h.1, x.2)
  ((homes.map (·.1)).eraseDups).foldl (fun a p =>
    let mine := homes.filter (·.1 == p)
    let n := (mine.map fun x => x.2.1).sum
    let read := mine.any fun x => x.2.2
    if !a.2 then a
    else
      let r := a.1.gatePass p ctx n read req
      if r.2 then r else ((s.gatePass p ctx n read req).1, false)) (s, true)

/-- A request that the channel groups admit at once or that has not yet reached them (log 57). -/
def State.gateNow (s : State) (ctx : BitVec 32) (xs : List (Nat × Nat × Bool)) : State × Bool :=
  let r := s.gateAll ctx .now xs
  if r.2 then r else (s, false)

/-- Sectors that `n` bytes at a DIA touch. -/
def sectorsOf (dia n : Nat) : Nat := (dia + max n 1 - 1) / 64 - dia / 64 + 1

/-! ## The device's own writes (R376, R378, R354) -/

/-- The physical sectors that `n` bytes at a DIA touch. -/
def State.sectorsAt (s : State) (dia n : Nat) : List Nat :=
  (List.range ((dia + max n 1 - 1) / 64 - dia / 64 + 1)).map fun k => physOf (s.pte (dia + 64 * k)) (dia + 64 * k) / 64

/-- The device can write for a context now: on a valid page, with room in the log, behind no other such write (R468), admitted by the
gate (R383). -/
def State.deviceReady (s : State) (ctx : BitVec 32) (dia n : Nat) : Bool :=
  pteValid (s.pte dia) && s.logRoom (some ctx) (s.sectorsAt dia n) && s.late.all (·.ctx != ctx) &&
    (s.gateNow ctx [(dia, sectorsOf dia n, false)]).2

/-- A write of the device's for a context, which is logged as a thread's is, and waits at its home where it must (R468). -/
def State.deviceWrite (s : State) (w : LateWrite) : State :=
  if s.deviceReady w.ctx w.dia w.len then
    (s.gateNow w.ctx [(w.dia, sectorsOf w.dia w.len, false)]).1.homeWrite w.dia w.len w.val w.key 0 false (some w.ctx)
  else { s with late := s.late ++ [w] }

/-- The device's writes that wait go on in order, as far as they can. -/
def State.drainLate (s : State) : State := s.late.foldl State.deviceWrite { s with late := [] }

/-- Every checkpoint that has no team left to save is taken, and what waited for the log goes on. -/
def State.closeReady (s : State) : State :=
  (((s.ctxs.filter fun c => c.valid && c.ckpt).map (·.id)).foldl State.closeCheckpoint s).drainLate

/-! ## Residency logs (R404) -/

/-- A word of the region: WIDX at 0, RIDX at 4, DROP at 8. -/
def ResLog.word (r : ResLog) (o : Nat) : BitVec 32 := BitVec.ofNat 32 (Memory.readN r.region o 4)

def ResLog.setWord (r : ResLog) (o : Nat) (v : BitVec 32) : ResLog := { r with region := Memory.writeN r.region o 4 v.toNat }

/-- The region, read under another key than it was written with (R442, R443). -/
def ResLog.veiled (r : ResLog) (key first : Nat) : ResLog :=
  { r with region := (List.range 2056).foldl (fun m k => Memory.writeN m (8 * k) 8 (Config.veiled key first 3 k).toNat) [] }

/-! ## L1 (R258) -/

/-- Drop L1 sectors that a test selects. -/
def State.dropL1 (s : State) (f : L1Sector → Bool) : State := { s with l1 := s.l1.filter fun x => !f x }

/-- The cores of a partition. -/
def Partition.hasCore (p : Partition) (core : Nat) : Bool := p.first * 4 ≤ core && core < (p.first + p.size) * 4

end Sys2Proof.Machine
end

