-- ==== Sys2Proof/Machine/Address.lean ====
section
/-! DEFINITION. Stage A (R231-R238, R441), the controller's addresses (R522), stage-B misses: the merge table, the fault
record queue and fault-wait (R242-R245), class marks (R448-R452), range-lock checks (R296). -/

namespace Sys2Proof.Machine

/-! ## Keys (R439-R443) -/

/-- The key a Ready slot holds. -/
def State.keyOf (s : State) (slot : Nat) : Option Nat := (s.keys.find? (·.slot == slot)).map (·.key)

/-- R441: a slot an entry of a context's range table may name. -/
def State.slotUsable (s : State) (c : Ctx) (slot : Nat) : Bool :=
  (s.keyOf slot).isSome && ((slot < 12 && slot == c.part) || (c.vf != 0 && slot == 15 + c.vf))

/-- R443: the slot of a context's own structures. -/
def Ctx.slot (c : Ctx) : Nat := if c.vf == 0 then c.part else 15 + c.vf

/-! ## Range tables (R234, R235) -/

/-- The reserved bits of a range table entry (R235, Table 1). -/
def rangeReserved : List Nat := [0xFF00000000000FFE, 0xFF00000000000FFF, 0xFFFF000000000FFF, 0xFFFFFE0000FFFF11]

/-- A dword of a 32-byte entry. -/
def dwordOf (e k : Nat) : Nat := bitsOf e (64 * k + 63) (64 * k)

/-- A range table entry that translates, for a partition whose first panel is `part` (R235). -/
def rangeOf (part e : Nat) : Option RangeEnt :=
  let vb := bitsOf e 55 12
  let vl := bitsOf e (64 + 55) (64 + 12)
  let dia := bitsOf e (128 + 47) (128 + 12) * 4096
  let d3 := dwordOf e 3
  let bad := (rangeReserved.zipIdx.any fun x => dwordOf e x.2 &&& x.1 != 0) || vl < vb || dia / 2 ^ 44 != part ||
    dia % 2 ^ 44 + (vl + 1 - vb) * 4096 > 2 ^ 44
  if e.testBit 0 && !bad then
    some ⟨vb, vl, dia, bitsOf d3 40 32, BitVec.ofNat 8 (bitsOf d3 31 24), d3.testBit 7, d3.testBit 6, d3.testBit 5,
          d3.testBit 3, d3.testBit 2, d3.testBit 1⟩
  else none

/-- What a walk finds. -/
inductive Walked where
  | found (e : RangeEnt)
  | nothing
  | miss (dia : Nat)
  | gated

/-- The channel groups admit a read for a context; a read for no context is the device's own and is not gated (R383). -/
def State.gateFor (s : State) (gate : Option (BitVec 32)) (xs : List (Nat × Nat × Bool)) : State × Bool :=
  match gate with
  | some id => s.gateNow id xs
  | none => (s, true)

/-- Walk of R234: a binary search over single-copy-atomic reads of 32 bytes, each through the gate of its home (R383). -/
def walk (c : Ctx) (gate : Option (BitVec 32)) (key v : Nat) : Nat → State → Int → Int → State × Walked
  | 0, s, _, _ => (s, .nothing)
  | fuel + 1, s, lo, hi =>
    if lo > hi then (s, .nothing)
    else
      let m := (lo + hi) / 2
      let dia := c.rtbase + 32 * m.toNat
      if !pteValid (s.pte dia) then (s, .miss dia)
      else match s.gateFor gate [(dia, sectorsOf dia 32, true)] with
        | (s1, false) => (s1, .gated)
        | (s1, true) =>
          let r := s1.homeReads key 0 2 dia 32
          let e := r.2.val
          if v < bitsOf e 55 12 then walk c gate key v fuel r.1 lo (m - 1)
          else if v > bitsOf e (64 + 55) (64 + 12) then walk c gate key v fuel r.1 (m + 1) hi
          else match (if r.2.poison then none else rangeOf c.part e) with
            | some x => (r.1, .found x)
            | none => (r.1, .nothing)

/-- A found entry fills a range register; which of sixteen it replaces is the implementation's choice (R234, log 12). -/
def State.fillRange (s : State) (c : Ctx) (e : RangeEnt) : State :=
  { s with fresh := s.fresh + 1
           ctxs := s.ctxs.map fun x =>
             if x.id == c.id then
               { x with rr := if x.rr.length < 16 then x.rr ++ [e] else x.rr.set (Config.pick s.fresh 1 % 16) e }
             else x }

/-- A translated address: DIA, or a byte of the controller's private memory; key; the range's properties. -/
structure Xlat where
  dia : Nat
  prv : Bool
  key : Nat
  slot : Nat
  cls : BitVec 8
  tchk : Bool
  prot : Bool
  shared : Bool
  ent : RangeEnt

/-- The outcome of a translation: done, refused with ADDRESS, a walk that misses stage B at a DIA (R238), or one that its gate does not
admit yet (R383). -/
inductive XRes where
  | ok (x : Xlat)
  | bad
  | miss (dia : Nat)
  | gated

/-- The permission test of R237 and R441 and the address of R234 for a found entry. -/
def State.applyRange (s : State) (c : Ctx) (va : BitVec 64) (need : RangeEnt → Bool) (e : RangeEnt) : XRes :=
  match s.keyOf e.key with
  | some k =>
    if need e && s.slotUsable c e.key then
      .ok ⟨(e.dia + va.toNat % 2 ^ 56 - e.vbase * 4096) % 2 ^ 48, false, k, e.key, e.cls, e.tchk, e.prot, e.shared, e⟩
    else .bad
  | none => .bad

/-- Translate of R234 through a context's table, its walks gated for a context or not. -/
def State.translateFor (s : State) (gate : Option (BitVec 32)) (c : Ctx) (va : BitVec 64) (need : RangeEnt → Bool) : State × XRes :=
  let v := bitsOf va.toNat 55 12
  if va.toNat ≥ 2 ^ 60 then (s, .bad)
  else match c.rr.find? fun e => e.vbase ≤ v && v ≤ e.vlimit with
    | some e => (s, s.applyRange c va need e)
    | none =>
      match walk c gate ((s.keyOf c.slot).getD 0) v 14 s 0 ((c.rtcount : Int) - 1) with
      | (s1, .found e) => (s1.fillRange c e, s1.applyRange c va need e)
      | (s1, .nothing) => (s1, .bad)
      | (s1, .miss d) => (s1, .miss d)
      | (s1, .gated) => (s1, .gated)

/-- Translate of R234 for a context. -/
def State.translate (s : State) (c : Ctx) (va : BitVec 64) (need : RangeEnt → Bool) : State × XRes :=
  s.translateFor (some c.id) c va need

/-- A range with every permission and no property, as the controller's addresses have (R522). -/
def RangeEnt.controller : RangeEnt := ⟨0, 0, 0, 0, 0, false, false, false, true, true, true⟩

/-- R522: the address of a studio-controller thread. -/
def State.ctlTranslate (s : State) (va : BitVec 64) : XRes :=
  let v := va.toNat
  if v < 2 ^ 25 then .ok ⟨v, true, 0, 0, 0, false, false, false, RangeEnt.controller⟩
  else if v / 2 ^ 48 == 1 then
    let dia := v % 2 ^ 48
    match s.part? (dia / 2 ^ 44), s.keyOf (dia / 2 ^ 44) with
    | some _, some k =>
      if pteValid (s.pte dia) then .ok ⟨dia, false, k, dia / 2 ^ 44, 0, false, false, false, RangeEnt.controller⟩ else .bad
    | _, _ => .bad
  else .bad

/-- Stage A for a thread of a team. -/
def State.xlat (s : State) (t : Team) (va : BitVec 64) (need : RangeEnt → Bool) : State × XRes :=
  if t.tid == 0 then (s, s.ctlTranslate va)
  else match s.ctx? t.ctx with
    | some c => s.translate c va need
    | none => (s, .bad)

/-! ## Waits for stage B (R242-R245) -/

def LaneOp.mapWaits (f : Wait → Wait) (o : LaneOp) : LaneOp :=
  { o with pieces := o.pieces.map fun p => { p with wait := f p.wait } }

def Thread.mapWaits (f : Wait → Wait) (t : Thread) : Thread :=
  { t with probe := t.probe.map fun p => { p with wait := f p.wait } }

def Probe.mapWaits (f : Wait → Wait) (p : Probe) : Probe := { p with wait := f p.wait }

def Team.mapWaits (f : Wait → Wait) (t : Team) : Team :=
  { t with ifr := t.ifr.map fun e => { e with lanes := e.lanes.map (LaneOp.mapWaits f) }
           groups := t.groups.map fun g => { g with lanes := g.lanes.map (Thread.mapWaits f) }
           tread := t.tread.map (Probe.mapWaits f)
           fetches := t.fetches.map (Probe.mapWaits f) }

def Copy.mapWaits (f : Wait → Wait) (c : Copy) : Copy :=
  { c with beats := c.beats.map fun b => { b with miss := b.miss.map (Probe.mapWaits f) } }

/-- Apply a change to every wait of the machine. -/
def State.mapWaits (s : State) (f : Wait → Wait) : State :=
  { s with teams := s.teams.map (Team.mapWaits f)
           code := s.code.map fun x => { x with wait := f x.wait }
           engines := s.engines.map fun e => { e with cmds := e.cmds.map (Copy.mapWaits f) }
           parked := s.parked.map (Copy.mapWaits f)
           launches := s.launches.map fun l => { l with miss := l.miss.map (Probe.mapWaits f) }
           rasters := s.rasters.map fun r => { r with miss := r.miss.map (Probe.mapWaits f) } }

/-- An access that waits: where, its DIA and virtual address, its context and its kind in a fault record. -/
structure Waiting where
  wait : Wait
  dia : Nat
  va : BitVec 64
  ctx : BitVec 32
  kind : Nat

/-- The kind of a fault record for an access of an IFR entry (R244, Table 5). -/
def IfrOp.faultKind : IfrOp → Nat
  | .st | .tagwr | .mxst => 1
  | .atom _ | .acas | .red _ => 2
  | _ => 0

/-- A team's waiting accesses. -/
def Team.waiting (t : Team) : List Waiting :=
  (t.ifr.flatMap fun e => e.lanes.flatMap fun o => o.pieces.map fun p => ⟨p.wait, p.dia, p.va, t.ctx, e.op.faultKind⟩) ++
  (t.groups.flatMap fun g => g.lanes.filterMap fun th => th.probe.map fun p => ⟨p.wait, p.dia, p.va, t.ctx, p.kind⟩) ++
  ((t.tread.toList ++ t.fetches).map fun p => ⟨p.wait, p.dia, p.va, t.ctx, p.kind⟩)

def Probe.waiting (ctx : BitVec 32) (p : Probe) : Waiting := ⟨p.wait, p.dia, p.va, ctx, p.kind⟩

/-- The waiting beats of a copy, for its context (R311). -/
def Copy.waiting (c : Copy) : List Waiting := c.beats.filterMap fun b => b.miss.map (Probe.waiting c.ctx)

/-- Every access that waits for stage B. -/
def State.waiting (s : State) : List Waiting :=
  ((s.teams.flatMap Team.waiting) ++
    (s.code.map fun x => (⟨x.wait, x.dia, BitVec.ofNat 64 (x.page * 4096), x.ctx, 5⟩ : Waiting)) ++
    (s.engines.flatMap fun e => e.cmds.flatMap Copy.waiting) ++ (s.parked.flatMap Copy.waiting) ++
    (s.launches.filterMap fun l => l.miss.map (Probe.waiting l.ctx)) ++
    (s.rasters.filterMap fun r => r.miss.map (Probe.waiting r.ctx))).filter fun w => w.wait != .no

/-- Fault records a partition's queue holds (R244). -/
def queueCapacity : Nat := 1024

/-- Merge entries of a panel (R253). -/
def mergeCapacity : Nat := 256

/-- A merge entry's record enters its partition's queue (R243, R244, R484). -/
def State.post (s : State) (panel : Nat) (m : Merge) : State :=
  match s.partOf panel with
  | none => s
  | some p =>
    let vf := match s.ctx? m.ctx with
      | some c => c.vf
      | none => 0
    let s1 := s.updPart p.first fun q => { q with queue := q.queue ++ [⟨m.va, m.dia, m.ctx, panel, m.idx, m.kind, s.time⟩] }
    (s1.updPanel panel fun q =>
      { q with merges := q.merges.map fun x => if x.idx == m.idx then { x with posted := true } else x }).count .frec vf

/-- Emit a merge entry's record: Posted if the queue has room, Held in order otherwise (R243). -/
def State.emit (s : State) (panel : Nat) (m : Merge) : State :=
  match s.partOf panel with
  | none => s
  | some p =>
    if p.queue.length < queueCapacity then s.post panel m
    else { s.updPanel panel fun q =>
             { q with merges := q.merges.map fun x =>
                 if x.idx == m.idx then { x with posted := false, ord := s.fresh } else x } with
           fresh := s.fresh + 1 }

/-- R242, R512: an access meets an invalid page: it joins the page's merge entry, takes the lowest Free one, or is
refused. The record carries `va`, `dia`, `ctx` and `kind`. -/
def State.missAt (s : State) (dia : Nat) (va : BitVec 64) (ctx : BitVec 32) (kind : Nat) : State × Wait :=
  match s.home dia with
  | none => (s, .no)
  | some (n, _) =>
    let p := s.panel n
    match p.merges.find? (·.page == dia / 65536) with
    | some m => (s, .merge n m.idx)
    | none =>
      match (List.range mergeCapacity).find? fun i => p.merges.all (·.idx != i) with
      | some i =>
        let m : Merge := ⟨i, dia / 65536, false, va, dia, ctx, kind, 0⟩
        ((s.updPanel n fun q => { q with merges := q.merges ++ [m] }).emit n m, .merge n i)
      | none => (s.updPanel n fun q => { q with refusals := q.refusals + 1 }, .refused n p.refusals)

/-- A thread's access of its own is released or refused: it may issue again (R61, R245). -/
def Group.unblock (g : Group) (l : Nat) : Group :=
  { g with entries := g.entries.map fun e => if e.mask.getLsbD l then { e with blocked := 0 } else e }

/-- Probes that no longer wait are gone, but for those that have been translated; their threads may issue again. -/
def Group.clearProbes (g : Group) : Group :=
  (List.range g.lanes.length).foldl (fun g l =>
    match (g.thread l).probe with
    | some p =>
      if p.wait != .no then g
      else (if p.key.isSome || p.got.isSome then g else g.updThread l fun t => { t with probe := none }).unblock l
    | none => g) g

def State.clearProbes (s : State) : State :=
  { s with teams := s.teams.map fun t =>
      { t with groups := t.groups.map Group.clearProbes, fetches := t.fetches.filter fun p => p.wait != .no } }

/-- R242: a merge entry of a panel has become Free; the panel retries the access it refused first. -/
def State.retryRefused (s : State) (panel : Nat) : State :=
  let mine := s.waiting.filterMap fun w => match w.wait with
    | .refused n o => if n == panel then some (o, w) else none
    | _ => none
  match mine.mergeSort (fun a b => a.1 ≤ b.1) with
  | [] => s
  | (o, w) :: _ =>
    let put (st : State) (w2 : Wait) : State := st.mapWaits fun x => if x == .refused panel o then w2 else x
    if !pteValid (s.pte w.dia) then
      let r := s.missAt w.dia w.va w.ctx w.kind
      put r.1 r.2
    else (put s .no).clearProbes

/-- A merge entry becomes Free (R243). -/
def State.freeMerge (s : State) (panel idx : Nat) : State :=
  (s.updPanel panel fun p => { p with merges := p.merges.filter (·.idx != idx) }).retryRefused panel

/-- R243: entries with no waiter left become Free. -/
def State.freeOrphans (s : State) : State :=
  let ws := s.waiting.map (·.wait)
  (s.panels.flatMap fun p => p.merges.map fun m => (p.num, m.idx)).foldl
    (fun st x => if ws.contains (.merge x.1 x.2) then st else st.freeMerge x.1 x.2) s

/-- R243: an acknowledgement with retry releases the waiters of an entry. -/
def State.releaseMerge (s : State) (panel idx : Nat) : State :=
  ((s.mapWaits fun w => if w == .merge panel idx then .no else w).clearProbes).freeMerge panel idx

/-- A thread takes a trap at its next issue opportunity (R245, R464). -/
def Group.pend (g : Group) (l : Nat) (tr : Trap) (pc : BitVec 64) : Group :=
  if (g.thread l).live then
    g.updThread l fun t => { t with ptrap := match t.ptrap with | some p => some p | none => some ⟨tr, pc⟩ }
  else g

/-- The threads of a lane take a trap at their next issue opportunity. -/
def Team.pendLane (t : Team) (e : IfrEntry) (o : LaneOp) (tr : Trap) : Team :=
  o.who.foldl (fun u x => u.updGroup x.1 fun g => g.pend x.2 tr e.pc) t

/-- R245: the lanes of an entry that wait in `w` are refused: their threads take ADDRESS, and they are discarded. -/
def Team.refuseEntry (w : Wait) (t : Team) (e : IfrEntry) : Team :=
  let t1 := e.lanes.foldl (fun u o => match o.pieces.find? (·.wait == w) with
    | some p => u.pendLane e o (mkTrap .address p.va.toNat)
    | none => u) t
  t1.discardLanes e fun o => o.pieces.any (·.wait == w)

/-- A thread whose own access is refused takes ADDRESS (R245). -/
def Group.refuseProbe (w : Wait) (g : Group) (l : Nat) : Group :=
  match (g.thread l).probe with
  | some p =>
    if p.wait == w then
      let pc := match g.entryOf l with | some e => e.pc | none => 0
      ((g.updThread l fun th => { th with probe := none }).pend l (mkTrap .address p.va.toNat) pc).unblock l
    else g
  | none => g

/-- R245: the accesses of a team refused by a verdict; a collective may have waited for what they held Pending (R83). -/
def Team.refuse (w : Wait) (t : Team) : Team :=
  let t1 := t.ifr.foldl (Team.refuseEntry w) t
  let groups := t1.groups.map fun g => (List.range g.lanes.length).foldl (Group.refuseProbe w) g
  (Team.freeFinished { t1 with groups := groups }).resumeInstances

/-- Whether a thread is in fault-wait (R245). -/
def Team.faultWait (t : Team) (gi l : Nat) : Bool :=
  (t.ifr.any fun e => e.lanes.any fun o => o.who.contains (gi, l) && o.pieces.any (·.wait != .no)) ||
  match ((t.group gi).thread l).probe with
  | some p => p.wait != .no
  | none => false

/-! ## Class marks (R448-R452) -/

/-- X dominates Y (R448). -/
def clsDominates (x y : BitVec 8) : Bool := y.toNat / 64 ≤ x.toNat / 64 && (y &&& ~~~x &&& 0x3F) == 0

/-- The join of two classes (R448). -/
def clsJoin (x y : BitVec 8) : BitVec 8 :=
  BitVec.ofNat 8 (max (x.toNat / 64) (y.toNat / 64) * 64) ||| ((x ||| y) &&& 0x3F)

/-- The meet of two classes (R448). -/
def clsMeet (x y : BitVec 8) : BitVec 8 :=
  BitVec.ofNat 8 (min (x.toNat / 64) (y.toNat / 64) * 64) ||| ((x &&& y) &&& 0x3F)

/-- R450: raise a team's mark; the controller has none (R522). -/
def State.raiseMark (s : State) (tid : Nat) (cls : BitVec 8) : State :=
  if tid == 0 then s else s.updTeam tid fun t => { t with cls := clsJoin t.cls cls }

/-! ## Range locks (R294-R296) -/

/-- The lowest byte of [lo, hi) that a lock the access minds covers, in the filter of the team's core (R296, Table 4). -/
def State.lockHit (s : State) (t : Team) (pal : Option Nat) (lo hi : Nat) (store : Bool) : Option Nat :=
  match s.partOf (t.core / 4) with
  | none => none
  | some p =>
    let ls := (s.panels.filter fun q => p.first ≤ q.num && q.num < p.first + p.size).flatMap (·.locks)
    let hits := ls.filterMap fun k =>
      if k.pal == pal && (store || k.dst) && max lo k.lo < min hi k.hi then some (max lo k.lo) else none
    hits.min?

/-! ## One thread's access up to its performance (R265) -/

/-- A step of a thread that may stop it with a fate, having changed the state. -/
abbrev Try (α : Type) := Except (State × Fate) α

/-- A thread stopped by a fate, in a step over the state. -/
def settle (r : Try (State × Fate)) : State × Fate :=
  match r with
  | .ok x => x
  | .error x => x

/-- The access that a thread's instruction has under way. -/
def State.putProbe (s : State) (tid gi l : Nat) (p : Option Probe) : State :=
  s.updGroup tid gi fun g => g.updThread l fun th => { th with probe := p }

/-- R234 and R237 for a thread's access at `va`; a walk that misses puts the thread into fault-wait (R238). -/
def State.access (s : State) (tid gi l : Nat) (va : BitVec 64) (need : RangeEnt → Bool) : Try (State × Xlat) :=
  match s.team? tid with
  | none => .error (s, .stay)
  | some t =>
    match ((t.group gi).thread l).probe with
    | some _ => .error (s, .stay)
    | none =>
      match s.xlat t va need with
      | (s1, .ok x) => .ok (s1, x)
      | (s1, .bad) => .error (s1, .trap ⟨.address, 0, va⟩)
      | (s1, .gated) => .error (s1, .stay)
      | (s1, .miss d) =>
        let r := s1.missAt d va t.ctx 6
        .error (r.1.putProbe tid gi l (some { va := va, dia := d, kind := 6, wait := r.2 }), .stay)

/-- R451 and R296 for an access that stage A has let through; the mark is raised first (R450, R452). -/
def State.checks (s : State) (tid : Nat) (va : BitVec 64) (x : Xlat) (n : Nat) (raise store : Bool) : Try State :=
  if tid == 0 then .ok s
  else
    let s1 := if raise then s.raiseMark tid x.cls else s
    match s1.team? tid with
    | none => .ok s1
    | some t =>
      if store && !clsDominates x.cls t.cls then .error (s1, .trap ⟨.classStore, 0, va⟩)
      else match s1.lockHit t none x.dia (x.dia + n) store with
        | some d => .error (s1, .trap ⟨.rangeLock, 0, va + BitVec.ofNat 64 (d - x.dia)⟩)
        | none => .ok s1

end Sys2Proof.Machine
end

