-- ==== Sys2Proof/Machine/Flags.lean ====
section
/-! DEFINITION. Results of fixed-latency instructions: the register, predicate, AMAX and FLAGS they write, and the ARITH
trap (R84, R152-R154, R160, R163). -/

namespace Sys2Proof.Machine

/-- What a fixed-latency instruction computes in one thread: a register value, flags, a predicate, the source elements
that update AMAX. -/
structure AluOut where
  val : Nat
  flags : FFlags := 0
  pred : Bool := false
  amax : List FVal := []

/-- Read every source in field order (R163). -/
def readAll (g : Group) (l : Nat) : List (Reg × Nat) → Except Fate (List Opnd)
  | [] => .ok []
  | (r, w) :: rs => do
    let x ← readSrc g l r w
    let xs ← readAll g l rs
    .ok (x :: xs)

/-- R154: a raised flag whose bit is set in FCTL traps. -/
def arithTrap (g : Group) (f : FFlags) : Option Trap :=
  if f &&& g.fctl != 0 then some ⟨.arith, 0, f.setWidth 64⟩ else none

/-- The effect of a result in one thread once its sources are read and its destination is ready: AMAX and FLAGS are
updated even when the instruction traps with ARITH; then the register and the predicate are written. -/
def putResult (g : Group) (l : Nat) (dst : Ref) (dw : Nat) (pd : Nat) (p pt : Bool) (o : AluOut) : Group × Fate :=
  let g1 := g.updThread l fun t => { t with amax := o.amax.foldl amaxStep t.amax }
  let g2 := g1.orFlags o.flags
  match arithTrap g o.flags with
  | some tr => (g2, .trap tr)
  | none => ((writeRef g2 l dst dw o.val p pt).updThread l fun t => t.setPred pd o.pred, .next)

/-- One thread of a fixed-latency instruction (R163): read the sources, wait for the destination, consume when a
predicate is written, compute, write. `amaxFrom` drops a poisoned source's update of AMAX (R160). -/
def aluBody (d : Reg) (dw : Nat) (srcs : List (Reg × Nat)) (pd : Nat) (f : List Opnd → AluOut) (_ : Entry)
    (g0 g : Group)
    (l : Nat) : Except Fate (Group × Fate) := do
  let xs ← readAll g0 l srcs
  let dst ← dstReady g0 l d dw
  if pd != 7 then consumeAll xs
  let o := f xs
  let (p, pt) := joinPoison xs
  .ok (putResult g l dst dw pd p pt o)

/-- A fixed-latency instruction. -/
def alu (s : State) (gd : Guard) (d : Reg) (dw : Nat) (srcs : List (Reg × Nat)) (pd : Nat) (f : List Opnd → AluOut) :
    Result :=
  issue s gd srcs always (runG (aluBody d dw srcs pd f))

end Sys2Proof.Machine
end

