-- ==== Sys2Proof/Machine/Control.lean ====
section
/-! DEFINITION. Control flow and synchronisation (chapter 05): transfers, EXIT, YIELD, PRIO, the group and team
collectives, REGROUP, WAITT. ARRIVE and AWAIT stand with the palette; JMPF and CALLF with the code store. -/

namespace Sys2Proof.Machine

/-- The link of R112: the entry's priority in bits [63:56] and the address of the next word. -/
def linkOf (e : Entry) : Nat := e.prio.toNat * 2 ^ 56 + (e.pc + 8).toNat % 2 ^ 56

/-- V0, the register whose pair a call writes (R112). -/
def regV0 : Reg := ⟨false, false, .v, 0⟩

/-- Where the controller's image ends, for a thread of the controller (R522). -/
def State.imageEnd (s : State) (c : Cur) : Option Nat := if c.tid == 0 then some s.ctlImage else none

/-- R21 and R111: a target must be a multiple of 8, and lie in the 4 KiB segment of the transferring word; the controller's also in its
image (R522). -/
def checkTarget (img : Option Nat) (e : Entry) (tgt : BitVec 64) : Except Fate Unit :=
  if tgt.toNat % 8 != 0 then .error (.trap ⟨.align, 0, tgt⟩)
  else if tgt.toNat / 4096 != e.pc.toNat / 4096 || img.any (· < tgt.toNat + 8) then .error (.trap ⟨.codeAbsent, 0, tgt⟩)
  else .ok ()

/-- Write the link into V0:V1 of a thread, waiting while either is Pending (R112). -/
def writeLink (e : Entry) (g0 g : Group) (l : Nat) : Except Fate Group := do
  let ref ← dstReady g0 l regV0 2
  .ok (writeRef g l ref 2 (linkOf e) false false)

/-- The direct target of R32, in the 56 bits of a code address (R111). -/
def directTarget (e : Entry) (disp : BitVec 32) : BitVec 64 :=
  (e.pc + 8 * disp.signExtend 64) &&& 0x00FFFFFFFFFFFFFF

/-- BRA and CALL in one thread (R112). -/
def directBody (link : Bool) (prio : BitVec 8) (disp : BitVec 32) (img : Option Nat) (e : Entry) (g0 g : Group) (l : Nat) :
    Except Fate (Group × Fate) := do
  checkTarget img e (directTarget e disp)
  let g' ← if link then writeLink e g0 g l else .ok g
  .ok (g', .go (directTarget e disp) prio)

/-- An indirect target read from a pair: bits [55:0], a poisoned pair being a consumption (R111). -/
def readTarget (g : Group) (l : Nat) (a : Reg) : Except Fate (BitVec 64 × BitVec 8) := do
  let x ← readSrc g l a 2
  consumeAll [x]
  .ok (BitVec.ofNat 64 (x.val % 2 ^ 56), BitVec.ofNat 8 (x.val / 2 ^ 56))

/-- BRX and CALLX in one thread: the target is read before the link is written (R112). -/
def indirectBody (link : Bool) (prio : BitVec 8) (a : Reg) (img : Option Nat) (e : Entry) (g0 g : Group) (l : Nat) :
    Except Fate (Group × Fate) := do
  let (tgt, _) ← readTarget g0 l a
  checkTarget img e tgt
  let g' ← if link then writeLink e g0 g l else .ok g
  .ok (g', .go tgt prio)

/-- RET in one thread: the priority comes from the pair's bits [63:56] (R112). -/
def retBody (a : Reg) (img : Option Nat) (e : Entry) (g0 g : Group) (l : Nat) : Except Fate (Group × Fate) := do
  let (tgt, prio) ← readTarget g0 l a
  checkTarget img e tgt
  .ok (g, .go tgt prio)

/-- Run the body of a transfer, which knows where the controller's image ends. -/
def runTransfer (body : Option Nat → Entry → Group → Group → Nat → Except Fate (Group × Fate)) (c : Cur) (e : Entry) (act : List Nat)
    (s : State) : State × List (Nat × Fate) := runG (body (s.imageEnd c)) c e act s

/-- NOP (R115). -/
def execNop (gd : Guard) (s : State) : Result := issue s gd [] always (runG fun _ _ g _ => .ok (g, .next))

/-- BRA (R112). -/
def execBra (gd : Guard) (pr : BitVec 8) (disp : BitVec 32) (s : State) : Result :=
  issue s gd [] always (runTransfer (directBody false pr disp))

/-- BRX (R112). -/
def execBrx (gd : Guard) (a : Reg) (pr : BitVec 8) (s : State) : Result :=
  issue s gd [(a, 2)] always (runTransfer (indirectBody false pr a))

/-- CALL (R112). -/
def execCall (gd : Guard) (pr : BitVec 8) (disp : BitVec 32) (s : State) : Result :=
  issue s gd [] always (runTransfer (directBody true pr disp))

/-- CALLX (R112). -/
def execCallx (gd : Guard) (a : Reg) (pr : BitVec 8) (s : State) : Result :=
  issue s gd [(a, 2)] always (runTransfer (indirectBody true pr a))

/-- RET (R112). -/
def execRet (gd : Guard) (a : Reg) (s : State) : Result := issue s gd [(a, 2)] always (runTransfer (retBody a))

/-- EXIT (R114). -/
def execExit (gd : Guard) (s : State) : Result := issue s gd [] always (runG fun _ _ g _ => .ok (g, .exit))

/-- YIELD (R116). -/
def execYield (gd : Guard) (cyc : BitVec 16) (s : State) : Result :=
  issue s gd [] always (runG fun _ _ g _ => .ok (g, .yld cyc.toNat))

/-- PRIO (R117). -/
def execPrio (gd : Guard) (p : BitVec 8) (s : State) : Result :=
  issue s gd [] always (runG fun _ _ g _ => .ok (g, .reprio p))

/-! ## Group and team collectives (R118-R129) -/

/-- IFR entries a team may hold (R331). -/
def ifrCapacity : Nat := 512

/-- The lowest free IFR index (R333 leaves the choice open; log 22). -/
def Team.freeIdx (t : Team) : Nat := ((List.range ifrCapacity).find? fun k => t.ifr.all (·.idx != k)).getD 0

/-- Create an IFR entry: it takes the next sequence number (R332). -/
def Team.newEntry (t : Team) (f : Nat → Nat → IfrEntry) : Team :=
  { t with ifr := t.ifr ++ [f t.freeIdx t.seq], seq := t.seq + 1 }

/-- The I2 entry of a collective arrival (R334, kind 16). -/
def arrivalEntry (gi l : Nat) (pc : BitVec 64) (idx seq : Nat) : IfrEntry :=
  { idx := idx, seq := seq, op := .arrival, grp := gi, ord := 0, scope := 0, sz := 0, aux := 0, hnd := 0, dwords := 0,
    pc := pc, lanes := [{ lane := l, dst := .null, a := 0, b := 0, done := false, fw := false }] }

/-- What the members' arrivals have come to so far: the state, the fates, the arrivals cancelled on the way, and the instances that
an arrival has completed. -/
structure ArriveAcc where
  team : Team
  fates : List (Nat × Fate)
  cancelled : List (Instance × Arrival)
  completed : List Instance := []

/-- What one thread supplies at an arrival: the mask, the operands read, a predicate, where results go. -/
structure Supplied where
  mask : BitVec 32
  vals : List Opnd := []
  pred : Bool := false
  dst : Ref := .null
  pd : Nat := 7

/-- R118: the checks on an arrival that do not concern the open instances. -/
def arrivalOk (t : Team) (gi : Nat) (e : Entry) (isTeam : Bool) (idle : List Nat) (l : Nat) (m : BitVec 32) : Bool :=
  let g := t.group gi
  if isTeam then
    m.getLsbD gi && m.toNat < 2 ^ 16 && (lanesOf m).all (fun k => !(t.group k).liveLanes.isEmpty) &&
      idle.isEmpty && !e.solitary
  else
    m.getLsbD l && (lanesOf m).all (fun k => (g.thread k).live) && idle.all (fun k => !m.getLsbD k) && !e.solitary

/-- R118: one thread arrives; `idle` are the members whose guard is false. The instance that its arrival completes is no longer open. -/
def arriveOne (gi : Nat) (e : Entry) (op : CollOp) (modf : Nat) (idle : List Nat) (acc : ArriveAcc) (l : Nat)
    (x : Supplied) : ArriveAcc :=
  let t := acc.team
  let isTeam := op == .bart
  let hit := (t.instances isTeam gi).filter fun i => i.mask &&& x.mask != 0
  let keyed := match hit with
    | [] => true
    | [i] => i.op == op && i.modf == modf && i.mask == x.mask
    | _ => false
  if arrivalOk t gi e isTeam idle l x.mask && keyed then
    let a : Arrival := ⟨gi, l, x.vals, x.pred, x.dst, x.pd, t.seq⟩
    let is := t.instances isTeam gi
    let joined : Instance := match hit with
      | i :: _ => { i with arrivals := i.arrivals ++ [a] }
      | [] => ⟨op, modf, x.mask, [a]⟩
    let rest := is.filter fun j => !hit.contains j
    let full := joined.mayComplete t
    { acc with team := (t.setInstances isTeam gi (if full then rest else rest ++ [joined])).newEntry (arrivalEntry gi l e.pc)
               fates := acc.fates ++ [(l, .arrive)]
               completed := if full then acc.completed ++ [joined] else acc.completed }
  else
    { acc with
      team := t.setInstances isTeam gi ((t.instances isTeam gi).filter fun i => !(hit.contains i))
      fates := acc.fates ++ [(l, .trap ⟨.syncMask, 0, x.mask.setWidth 64⟩)]
      cancelled := acc.cancelled ++ hit.flatMap fun i => i.arrivals.map fun a => (i, a) }

/-- The arrivals of an entry's members in ascending lane order (R118). -/
def arriveAll (gi : Nat) (e : Entry) (op : CollOp) (modf : Nat) (idle : List Nat)
    (supply : Group → Nat → Except Fate Supplied) : List Nat → ArriveAcc → ArriveAcc
  | [], acc => acc
  | l :: ls, acc =>
    match supply (acc.team.group gi) l with
    | .error f => arriveAll gi e op modf idle supply ls { acc with fates := acc.fates ++ [(l, f)] }
    | .ok x => arriveAll gi e op modf idle supply ls (arriveOne gi e op modf idle acc l x)

/-- The issue of a collective: sources Pending or no free IFR entry for every arrival make it wait; then the members
arrive, the frontier moves, the cancelled take SYNC_MASK, and the instances that an arrival completed complete. -/
def collective (s : State) (gd : Guard) (op : CollOp) (modf : Nat) (srcs : List (Reg × Nat))
    (supply : Group → Nat → Except Fate Supplied) : Result :=
  match s.issuing with
  | none => .fault .noIssuingEntry
  | some (c, t, g, e) =>
    let act := actLanes g e gd
    let idle := (lanesOf e.mask).filter fun l => !(act.contains l)
    if act.any fun l => srcs.any fun x => srcPending g l x.1 x.2 then waitIssue s
    else if t.ifr.length + act.length > ifrCapacity then waitIssue s
    else
      let r := arriveAll c.grp e op modf idle supply act { team := t, fates := [], cancelled := [] }
      if e.stillWaits r.fates then waitIssue s
      else
        let s1 := finishIssue (s.setTeam r.team) c e r.fates
        let s2 := r.cancelled.foldl (fun st x => st.syncMaskArrival c.tid x.1 x.2) s1
        let ended := (r.cancelled.map fun x => (x.2.grp, x.2.lane)).filter
          fun a => s1.alive c.tid a.1 a.2 && !s2.alive c.tid a.1 a.2
        let s3 := s2.afterEnds c.tid ended
        .next (s3.updTeam c.tid fun u => r.completed.foldl (fun v i => v.completeInstance (op == .bart) c.grp i) u)

/-- Read a mask operand; a poisoned mask is a consumption (R128). -/
def readMask (g : Group) (l : Nat) (m : Reg) : Except Fate (BitVec 32) := do
  let x ← readSrc g l m 1
  consumeAll [x]
  .ok (BitVec.ofNat 32 x.val)

/-- BARG (R122): the mask is the register's, or the immediate when A is NULL. -/
def execBarg (gd : Guard) (a : Reg) (hi lo : BitVec 16) (s : State) : Result :=
  collective s gd .barg 0 [(a, 1)] fun g l => do
    let m ← readMask g l a
    .ok { mask := if a.isNull then hi ++ lo else m }

/-- BART (R129): the mask of groups is the register's, or the immediate when A is NULL. -/
def execBart (gd : Guard) (a : Reg) (gm : BitVec 16) (s : State) : Result :=
  collective s gd .bart 0 [(a, 1)] fun g l => do
    let m ← readMask g l a
    .ok { mask := if a.isNull then gm.setWidth 32 else m }

/-- VOTE (R123). -/
def execVote (gd : Guard) (d c : Reg) (pd : BitVec 3) (op : BitVec 2) (neg : BitVec 1) (pa : BitVec 3) (s : State) :
    Result :=
  collective s gd .vote (pd ++ op ++ neg ++ pa).toNat [(c, 1)] fun g l => do
    let m ← readMask g l c
    let dst ← dstReady g l d 1
    .ok { mask := m, pred := (g.thread l).pred pa.toNat != (neg == 1), dst := dst, pd := pd.toNat }

/-- ELECT (R124). -/
def execElect (gd : Guard) (d c : Reg) (pd : BitVec 3) (s : State) : Result :=
  collective s gd .elect pd.toNat [(c, 1)] fun g l => do
    let m ← readMask g l c
    let dst ← dstReady g l d 1
    .ok { mask := m, dst := dst, pd := pd.toNat }

/-- SHFL (R125). -/
def execShfl (gd : Guard) (d a b c : Reg) (mode : BitVec 2) (pd : BitVec 3) (s : State) : Result :=
  collective s gd .shfl (mode ++ pd).toNat [(a, 1), (b, 1), (c, 1)] fun g l => do
    let x ← readSrc g l a 1
    let y ← readSrc g l b 1
    let m ← readMask g l c
    let dst ← dstReady g l d 1
    .ok { mask := m, vals := [x, y], dst := dst, pd := pd.toNat }

/-- REDG (R126). -/
def execRedg (gd : Guard) (d a c : Reg) (op : BitVec 4) (s : State) : Result :=
  collective s gd .redg op.toNat [(a, 1), (c, 1)] fun g l => do
    let x ← readSrc g l a 1
    let m ← readMask g l c
    let dst ← dstReady g l d 1
    .ok { mask := m, vals := [x], dst := dst }

/-- SCANG (R126). -/
def execScang (gd : Guard) (d a c : Reg) (excl : BitVec 1) (op : BitVec 4) (s : State) : Result :=
  collective s gd .scang (excl ++ op).toNat [(a, 1), (c, 1)] fun g l => do
    let x ← readSrc g l a 1
    let m ← readMask g l c
    let dst ← dstReady g l d 1
    .ok { mask := m, vals := [x], dst := dst }

/-- MATCH (R127). -/
def execMatchG (gd : Guard) (d a c : Reg) (b64 : BitVec 1) (pd : BitVec 3) (s : State) : Result :=
  let w := if b64 == 1 then 2 else 1
  collective s gd .matchG (b64 ++ pd).toNat [(a, w), (c, 1)] fun g l => do
    let x ← readSrc g l a w
    let m ← readMask g l c
    let dst ← dstReady g l d 1
    .ok { mask := m, vals := [x], dst := dst, pd := pd.toNat }

/-! ## Reorder points (R134, R89, R90) -/

/-- REGROUP in one thread: the key is read at arrival; a solitary thread takes SYNC_MASK (R134). -/
def regroupBody (a : Reg) (c : Cur) (e : Entry) (s : State) (l : Nat) : Except Fate (State × Fate) := do
  match s.team? c.tid with
  | none => .error .stay
  | some t =>
    let x ← readSrc (t.group c.grp) l a 1
    consumeAll [x]
    if e.solitary then .error (.trap (mkTrap .syncMask 0))
    else
      let arr : Arrival := ⟨c.grp, l, [x], false, .null, 7, t.seq⟩
      .ok (s.setTeam (Team.newEntry { t with regroup := t.regroup ++ [arr] } (arrivalEntry c.grp l e.pc)), .arrive)

/-- The issuing team has free IFR entries for `n act` more (R331). -/
def ifrFree (n : List Nat → Nat) (s : State) (c : Cur) (act : List Nat) : Bool :=
  match s.team? c.tid with
  | some t => t.ifr.length + n act ≤ ifrCapacity
  | none => true

/-- REGROUP (R134). -/
def execRegroup (gd : Guard) (a : Reg) (s : State) : Result :=
  issue s gd [(a, 1)] (ifrFree List.length) (runS (regroupBody a))

/-- A thread at a reorder point: its role, key, old place and itself (R134). -/
structure Mover where
  role : Nat
  key : Nat
  grp : Nat
  lane : Nat
  thread : Thread

/-- The order of R134: key, then old group, then old lane. -/
def Mover.before (a b : Mover) : Bool :=
  a.key < b.key || (a.key == b.key && (a.grp < b.grp || (a.grp == b.grp && a.lane ≤ b.lane)))

/-- The arrivals of a reorder point as movers. -/
def Team.movers (t : Team) : List Mover :=
  t.regroup.map fun a => ⟨(t.group a.grp).role, (a.opnd 0).val, a.grp, a.lane, (t.group a.grp).thread a.lane⟩

/-- The `k`-th group of a role after the point holds the movers 32k to 32k + 31 of the role's order (R134); its G
registers are Void, FLAGS the OR of every group's, FCTL that of group 0 (R89); it takes the j-th slot freed by the
role's old groups that held a live thread. -/
def reformGroup (t : Team) (entry : BitVec 64) (prio : BitVec 8) (k : Nat) (ms : List Mover)
    (slots : List (Option (Nat × Nat))) (g : Group) : Group :=
  let mine := (ms.drop (32 * k)).take 32
  let off (t : Thread) : Thread :=
    if entry.toNat % 4096 == 0 then { t with ptrap := some ⟨mkTrap .codeAbsent entry.toNat, entry⟩ } else t
  let threads := mine.map (fun m => off m.thread) ++ List.replicate (32 - mine.length) { Thread.dead with regs := [] }
  let g' := { g with
    lanes := threads
    gregs := List.replicate 64 { Slot.zero with st := .void }
    flags := t.groups.foldl (fun f x => f ||| x.flags) 0
    fctl := (t.group 0).fctl
    entries := if mine.isEmpty then [] else [Entry.at entry prio (maskOf (List.range mine.length)) false]
    pipe := if mine.isEmpty then none else (slots.getD k none) }
  g'

/-- The groups of a role, in order, with their indices. -/
def Team.roleGroups (t : Team) (role : Nat) : List Nat :=
  (List.range t.groups.length).filter fun gi => (t.group gi).role == role

/-- R134: re-form the groups of one role. -/
def reformRole (t0 : Team) (entry : BitVec 64) (prio : BitVec 8) (t : Team) (role : Nat) : Team :=
  let gis := t0.roleGroups role
  let ms := (t0.movers.filter (·.role == role)).mergeSort Mover.before
  let slots := (gis.filter fun gi => !(t0.group gi).liveLanes.isEmpty).map fun gi => (t0.group gi).pipe
  (gis.zipIdx).foldl (fun u x => u.updGroup x.1 (reformGroup t0 entry prio x.2 ms slots)) t

/-- Where a reorder point moves a thread of a role (R134). -/
def newPlace (gis : List Nat) (ms : List Mover) (x : Nat × Nat) : Nat × Nat :=
  let p := ms.findIdx fun m => m.grp == x.1 && m.lane == x.2
  if p < ms.length then (gis.getD (p / 32) 0, p % 32) else x

/-- Where a reorder point moves a thread of the team. -/
def Team.moves (t0 : Team) (x : Nat × Nat) : Nat × Nat :=
  (t0.groups.map (·.role)).eraseDups.foldl (fun y role => if (t0.group x.1).role == role then
    newPlace (t0.roleGroups role) ((t0.movers.filter (·.role == role)).mergeSort Mover.before) x else y) x

/-- The name that a thread which has ended keeps in what it has issued, once its place may be another thread's (R114): no place bears it
and no other thread has it, as no sequence number is ever reused (R332). -/
def Team.ghost (t : Team) (x : Nat × Nat) : Nat × Nat :=
  if x.1 < t.groups.length then (t.groups.length * (t.seq + 1) + x.1, x.2) else x

/-- R85, R89: where the threads of a list stand after a reorder point, thread by thread; one that has ended stands nowhere. -/
def Team.movesAll (t0 : Team) (who : List (Nat × Nat)) : List (Nat × Nat) :=
  who.map fun x => if ((t0.group x.1).thread x.2).live then t0.moves x else t0.ghost x

/-- R89: the copies into registers complete into the threads' registers in their new groups. -/
def State.moveCopies (s : State) (t0 : Team) : State :=
  let move (c : Copy) : Copy := if c.tid == t0.tid then { c with dsts := t0.movesAll c.dsts } else c
  { s with engines := s.engines.map fun e => { e with cmds := e.cmds.map move }, parked := s.parked.map move }

/-- R89: the producers in flight complete into the threads' registers in their new groups, and barriers go with their threads. -/
def moveProducers (t0 : Team) (t : Team) : Team :=
  { t with
    ifr := t.ifr.map fun e => { e with lanes := e.lanes.map fun o => { o with who := t0.movesAll o.who } }
    palPend := t.palPend.map fun p => { p with who := t0.movesAll p.who }
    barriers := t.barriers.map fun b => { b with who := t0.movesAll b.who } }

/-- Every member of a reorder point raises a trap and no thread moves (R134). -/
def regroupTrap (s : State) (t : Team) (c : Cause) : State :=
  let s1 := s.setTeam (Team.freeSeqs { t with regroup := [] } (t.regroup.map (·.seq)))
  t.regroup.foldl (fun st a =>
    match (t.group a.grp).entryOf a.lane with
    | none => st
    | some e =>
      (st.updGroup t.tid a.grp fun g => { g with entries := dropLanes g.entries (laneBit a.lane) }).trapInto
        t.tid a.grp a.lane (mkTrap c 0) e.pc e.prio e.solitary) s1

/-- Every live thread of the team has arrived at its reorder point. -/
def Team.regroupFull (t : Team) : Bool :=
  !t.regroup.isEmpty &&
    (List.range t.groups.length).all fun gi => (t.group gi).liveLanes.all fun l =>
      t.regroup.any fun a => a.grp == gi && a.lane == l

/-- The groups of one role hold different allotments (R90). -/
def Team.allotsDiffer (t : Team) : Bool :=
  t.groups.any fun g => t.groups.any fun h => g.role == h.role && g.allot != h.allot

/-- REGROUP_COMPLETION (R134, R89, R90): once every live thread of the team has arrived, the checks in order, a wait for
Pending G registers, then the threads move. -/
def execRegroupCompletion (tid : Nat) (s : State) : Result :=
  match s.team? tid with
  | none => .next s
  | some t =>
    if !(t.regroupFull && t.st == .resident) then .next s
    else if t.regroup.any fun a => ((t.group a.grp).thread a.lane).mx then
      .next ((regroupTrap s t .modeAlias).settleEnds tid)
    else if t.allotsDiffer then .next ((regroupTrap s t .regBounds).settleEnds tid)
    else if t.groups.any fun g => g.gregs.any (·.st == .pending) then .next s
    else
      let es := t.regroup.filterMap fun a => (t.group a.grp).entryOf a.lane
      let prio := es.foldl (fun p e => if e.prio.toNat < p.toNat then e.prio else p) 255
      let pc := ((es.head?.map (·.pc)).getD 0) + 8
      let t1 := moveProducers t ((t.groups.map (·.role)).eraseDups.foldl (reformRole t pc prio) t)
      .next ((s.setTeam (Team.freeSeqs { t1 with regroup := [] } (t.regroup.map (·.seq)))).moveCopies t)

/-! ## Waiting for device time and YIELD -/

/-- WAITT in one thread (R135): released once device time is at least the operand. -/
def waittBody (time : BitVec 64) (a : Reg) (_ : Entry) (g0 g : Group) (l : Nat) : Except Fate (Group × Fate) := do
  let x ← readSrc g0 l a 2
  consumeAll [x]
  if x.val ≤ time.toNat then .ok (g.updThread l fun t => { t with wakeAt := none }, .next)
  else .ok (g.updThread l fun t => { t with wakeAt := some (BitVec.ofNat 64 x.val) }, .stay)

/-- WAITT (R135). -/
def execWaitt (gd : Guard) (a : Reg) (s : State) : Result :=
  issue s gd [(a, 2)] always (runG (waittBody s.time a))

/-- The entries after a waiting member has left for one of its own at the same word, with the priority and age of the entry it waited
in (R61, log 66). -/
def releaseLane (es : List Entry) (l : Nat) : List Entry :=
  match es.find? fun e => e.mask.getLsbD l with
  | none => es
  | some e =>
    if e.mask == laneBit l then es.map fun x => if x.mask.getLsbD l then { x with blocked := 0 } else x
    else dropLanes es (laneBit l) ++ [{ Entry.at e.pc e.prio (laneBit l) e.solitary with age := e.age }]

/-- WAITT_RELEASE (R135): a member whose target device time has reached becomes eligible, on its own. -/
def execWaittRelease (tid grp lane : Nat) (s : State) : Result :=
  .next (s.updGroup tid grp fun g =>
    match (g.thread lane).wakeAt with
    | some w =>
      if w.toNat ≤ s.time.toNat then { g.updThread lane (fun t => { t with wakeAt := none }) with entries := releaseLane g.entries lane }
      else g
    | none => g)

/-- YIELD_EXPIRY (R116): the cycles of a yielding entry have passed. -/
def execYieldExpiry (tid grp ent : Nat) (s : State) : Result :=
  .next (s.updGroup tid grp fun g =>
    { g with entries := g.entries.zipIdx.map fun x =>
        if x.2 == ent then { x.1 with yld := x.1.yld.map fun y => { y with cycles := 0 } } else x.1 })

end Sys2Proof.Machine
end

