-- ==== Sys2Proof/Machine/Exact.lean ====
section
/-! DEFINITION. The exact computations of the fixed graphics units: barycentrics (R399), clipping and coverage (R392, R393),
ray tests and transforms (R408-R410), texel filtering (R401). -/

namespace Sys2Proof.Machine

/-! ## Exact values -/

/-- A finite FP32 value as a multiple of 2^-149; 0 for the others. -/
def fx : FVal → Int
  | .fin n m e => signedAt n m e (-149)
  | _ => 0

/-- 1 as a multiple of 2^-149. -/
def fxOne : Int := 2 ^ 149

/-- Round an exact quotient to FP32; an exact zero gives +0. -/
def roundQ (mode : RMode) (num den : Int) : Nat :=
  if num == 0 then 0 else (roundFrac .fp32 mode ((num < 0) != (den < 0)) num.natAbs den.natAbs).bits

/-- A quotient rounded to an integer under RNE, for a positive divisor. -/
def roundQInt (num den : Int) : Int :=
  let f := num / den
  let r := num - f * den
  if 2 * r > den || (2 * r == den && f % 2 != 0) then f + 1 else f

/-- Words of a wide operand, lowest first. -/
def wordsOf (n v : Nat) : List (BitVec 32) := (List.range n).map fun k => BitVec.ofNat 32 (v / 2 ^ (32 * k))

/-- Words, lowest first, as a wide value. -/
def ofWords (ws : List Nat) : Nat := ws.foldr (fun w v => w % 2 ^ 32 + 2 ^ 32 * v) 0

/-- FP32 words as values. -/
def valsOf (ws : List (BitVec 32)) : List FVal := ws.map fp32

/-- Component `k` of a list of exact numbers. -/
def nth (xs : List Int) (k : Nat) : Int := xs.getD k 0

/-- The determinant of three vectors. -/
def det3 (a b c : List Int) : Int :=
  nth a 0 * (nth b 1 * nth c 2 - nth b 2 * nth c 1) + nth a 1 * (nth b 2 * nth c 0 - nth b 0 * nth c 2) +
    nth a 2 * (nth b 0 * nth c 1 - nth b 1 * nth c 0)

/-! ## Barycentrics (R399) -/

/-- e0, e1, e2 of R399 for three vertices (X, Y, Z, W) and the point (px, py). -/
def edges (v0 v1 v2 : List Int) (px py : Int) : List Int :=
  let q := [px, py, fxOne]
  let m (v : List Int) : List Int := [nth v 0, nth v 1, nth v 3]
  [det3 (m v1) (m v2) q, det3 (m v2) (m v0) q, det3 (m v0) (m v1) q]

/-- The sum of products of edge values with a component of the vertices. -/
def edgeSum (e : List Int) (v0 v1 v2 : List Int) (k : Nat) : Int := nth e 0 * nth v0 k + nth e 1 * nth v1 k + nth e 2 * nth v2 k

/-- z of R399; a zero divisor or a zero sum gives NaN. -/
def baryDepth (v0 v1 v2 : List Int) (px py : Int) : Nat :=
  let e := edges v0 v1 v2 px py
  let den := edgeSum e v0 v1 v2 3
  if nth e 0 + nth e 1 + nth e 2 == 0 || den == 0 then 0x7FC00000 else roundQ .rne (edgeSum e v0 v1 v2 2) den

/-- The four results of BARY (R399). -/
def bary (p : List (BitVec 32)) (v0 v1 v2 : List (BitVec 32)) : List Nat :=
  let srcs := valsOf (p.take 2 ++ v0 ++ v1 ++ v2)
  match firstNan .fp32 srcs with
  | some n => List.replicate 4 n
  | none =>
    if srcs.any FVal.isInf then List.replicate 4 0x7FC00000
    else
      let ex (ws : List (BitVec 32)) : List Int := (valsOf ws).map fx
      let pt := ex p
      let e := edges (ex v0) (ex v1) (ex v2) (nth pt 0) (nth pt 1)
      let sum := nth e 0 + nth e 1 + nth e 2
      if sum == 0 then List.replicate 4 0x7FC00000
      else e.map (fun x => roundQ .rne x sum) ++ [baryDepth (ex v0) (ex v1) (ex v2) (nth pt 0) (nth pt 1)]

/-! ## Clipping and coverage (R392, R393) -/

/-- G of R392. -/
def guardBand : Int := 32768

/-- The planes of R392 in order, as distances. -/
def planes : List (List Int → Int) :=
  [fun v => nth v 2, fun v => nth v 3 - nth v 2, fun v => nth v 0 + guardBand * nth v 3,
   fun v => guardBand * nth v 3 - nth v 0, fun v => nth v 1 + guardBand * nth v 3, fun v => guardBand * nth v 3 - nth v 1]

/-- The vertex where an edge crosses a plane: every component rounded to FP32. -/
def crossing (a b : List Int) (da db : Int) : List Int :=
  (List.range 4).map fun k =>
    let num := nth a k * (da - db) + da * (nth b k - nth a k)
    fx (FType.fp32.decode (roundQ .rne num ((da - db) * fxOne)))

/-- A list's neighbours, cyclically. -/
def cyclic {α : Type} (xs : List α) : List (α × α) := xs.zip (xs.drop 1 ++ xs.take 1)

/-- `Clip` of R392. -/
def clip (poly : List (List Int)) (dist : List Int → Int) : List (List Int) :=
  (cyclic poly).flatMap fun (a, b) =>
    (if dist a ≥ 0 then [a] else []) ++
    (if decide (dist a ≥ 0) != decide (dist b ≥ 0) then [crossing a b (dist a) (dist b)] else [])

/-- A snapped vertex. -/
abbrev Snap := Int × Int

/-- The fan triangles of a primitive (R392), in order; none where the primitive is discarded. -/
def fans (ff : Bool) (cull : Nat) (v : List (List Int)) : List (Snap × Snap × Snap) :=
  let poly := planes.foldl clip v
  if poly.length < 3 || poly.any fun p => nth p 3 ≤ 0 then []
  else
    let s : List Snap := poly.map fun p => (roundQInt (256 * nth p 0) (nth p 3), roundQInt (256 * nth p 1) (nth p 3))
    let area := ((cyclic s).map fun (a, b) => a.1 * b.2 - b.1 * a.2).foldl (· + ·) (0 : Int)
    let front : Bool := decide (area > 0) != ff
    if area == 0 || (cull == 1 && !front) || (cull == 2 && front) then []
    else match (if area < 0 then s.reverse else s) with
      | a :: rest => (rest.zip (rest.drop 1)).map fun (b, c) => (a, b, c)
      | [] => []

/-- An edge of a fan triangle lets a sample in (R393). -/
def edgeCovers (a b : Snap) (qx qy : Int) : Bool :=
  let dx := b.1 - a.1
  let dy := b.2 - a.2
  let e := dx * (qy - a.2) - dy * (qx - a.1)
  e > 0 || (e == 0 && (dy > 0 || (dy == 0 && dx < 0)))

/-- A fan triangle covers a sample (R393). -/
def covers (t : Snap × Snap × Snap) (qx qy : Int) : Bool :=
  edgeCovers t.1 t.2.1 qx qy && edgeCovers t.2.1 t.2.2 qx qy && edgeCovers t.2.2 t.1 qx qy

/-- Sample offsets in 1/16 of a pixel (R393, Table 5). -/
def sampleOffsets (scode : Nat) : List (Nat × Nat) :=
  match scode with
  | 0 => [(8, 8)]
  | 1 => [(4, 4), (12, 12)]
  | 2 => [(6, 2), (14, 6), (2, 10), (10, 14)]
  | _ => [(9, 5), (7, 11), (13, 9), (5, 3), (3, 13), (1, 7), (11, 15), (15, 1)]

/-- Column, row and sample of sample index `i` (R391). -/
def samplePlace (scode i : Nat) : Nat × Nat × Nat := (i / 2 ^ scode % 32, i / 2 ^ scode / 32, i % 2 ^ scode)

/-- Where a sample lies, in 1/256 of a pixel (R393). -/
def samplePoint (scode tx ty i : Nat) : Int × Int :=
  let (x, y, k) := samplePlace scode i
  let o := (sampleOffsets scode).getD k (0, 0)
  ((256 * (tx + x) + 16 * o.1 : Nat), (256 * (ty + y) + 16 * o.2 : Nat))

/-! ## Ray tests (R408, R409) -/

/-- An exact number or an infinity. -/
inductive Ext where
  | inf (neg : Bool)
  | q (num : Int) (den : Nat)

/-- An FP32 value that is not a NaN. -/
def Ext.of : FVal → Ext
  | .inf n => .inf n
  | v => .q (fx v) (2 ^ 149)

def Ext.le : Ext → Ext → Bool
  | .inf m, .inf n => m || !n
  | .inf m, .q _ _ => m
  | .q _ _, .inf n => !n
  | .q a b, .q c d => a * d ≤ c * b

def Ext.max (x y : Ext) : Ext := if x.le y then y else x
def Ext.min (x y : Ext) : Ext := if x.le y then x else y

/-- (x - o) / d, for finite o and d, d not 0. -/
def Ext.slab (x o d : FVal) : Ext :=
  match x with
  | .inf n => .inf (n != (fx d < 0))
  | v => let s : Int := if fx d < 0 then -1 else 1; .q (s * (fx v - fx o)) (fx d).natAbs

/-- Round a distance to FP32; an exact zero gives +0. -/
def Ext.round (mode : RMode) : Ext → Nat
  | .inf n => FType.fp32.signBit n + FType.fp32.infBits
  | .q a b => roundQ mode a b

/-- One axis of a box test (R408): the interval, or none where the ray misses. -/
def boxAxis (acc : Option (Ext × Ext)) (o d lo hi : FVal) : Option (Ext × Ext) :=
  acc.bind fun (entry, exit) =>
    if fx d == 0 then
      if (Ext.of lo).le (Ext.of o) && (Ext.of o).le (Ext.of hi) then some (entry, exit) else none
    else
      let t1 := Ext.slab lo o d
      let t2 := Ext.slab hi o d
      some (entry.max (t1.min t2), exit.min (t1.max t2))

/-- Value `k` of a list. -/
def valAt (xs : List FVal) (k : Nat) : FVal := xs.getD k (.fin false 0 0)

/-- The distance of a child (R408), from the ray's origin and direction quads and the child's six bounds. -/
def boxDist (org dir bounds : List FVal) : Nat :=
  let ray := org ++ dir
  let geo := org.take 3 ++ dir.take 3
  let v := valAt
  if ray.any FVal.isNan || geo.any FVal.isInf || bounds.any FVal.isNan ||
      ([0, 1, 2].any fun k => !(Ext.of (v bounds k)).le (Ext.of (v bounds (3 + k)))) then 0x7F800000
  else
    let r := [0, 1, 2].foldl (fun acc k => boxAxis acc (v org k) (v dir k) (v bounds k) (v bounds (3 + k)))
      (some (Ext.of (v org 3), Ext.of (v dir 3)))
    match r with
    | none => 0x7F800000
    | some (entry, exit) => if entry.le exit then entry.round .rdn else 0x7F800000

/-- RTBOX (R408): four distances, and whether a child is hit. -/
def rayBox (org dir : List FVal) (node : List FVal) : List Nat × Bool :=
  let ds := (List.range 4).map fun k => boxDist org dir ((node.drop (6 * k)).take 6)
  (ds, ds.any (· != 0x7F800000))

/-- RTTRI (R409). -/
def rayTri (cull : Nat) (org dir tri : List FVal) : List Nat × Bool :=
  let miss := ([0x7F800000, 0, 0, 0], false)
  let pts := tri.take 9
  if (org ++ dir ++ pts).any FVal.isNan || (org.take 3 ++ dir.take 3 ++ pts).any FVal.isInf then miss
  else
    let o := (org.take 3).map fx
    let d := (dir.take 3).map fx
    let p (k : Nat) : List Int := ((pts.drop (3 * k)).take 3).zip o |>.map fun x => fx x.1 - x.2
    let w := [det3 (p 1) (p 2) d, det3 (p 2) (p 0) d, det3 (p 0) (p 1) d]
    let sum := nth w 0 + nth w 1 + nth w 2
    let hit := sum != 0 && (w.all (fun x => x ≥ 0) || w.all fun x => x ≤ 0) &&
      !(cull == 1 && sum < 0) && !(cull == 2 && sum > 0)
    let num := det3 (p 0) (p 1) (p 2)
    let s : Int := if sum < 0 then -1 else 1
    let t := Ext.q (s * num) sum.natAbs
    if hit && (Ext.of (valAt org 3)).le t && t.le (Ext.of (valAt dir 3)) then
      (roundQ .rne num sum :: w.map (fun x => roundQ .rne x sum), true)
    else miss

/-- A term of a transform: a product, or a matrix element on its own. -/
def rayTerm (x y : FVal) : FVal :=
  match x, y with
  | .nan .., _ | _, .nan .. => .nan false 1 1
  | .inf m, .inf n => .inf (m != n)
  | .inf m, .fin n k _ => if k == 0 then .nan false 1 1 else .inf (m != n)
  | .fin m k _, .inf n => if k == 0 then .nan false 1 1 else .inf (m != n)
  | .fin m j e, .fin n k f => .fin (m != n) (j * k) (e + f)

/-- An exact sum rounded once to FP32 (R401, R410): undefined sums give the default NaN, and terms
that are all -0 give +0 (log 88); the terms are multiples of 2^-298. -/
def sumTerms (ts : List FVal) : Nat :=
  if ts.any FVal.isNan || (ts.any fun t => t.isInf && t.sign) && (ts.any fun t => t.isInf && !t.sign) then 0x7FC00000
  else match ts.find? FVal.isInf with
    | some t => FType.fp32.signBit t.sign + FType.fp32.infBits
    | none =>
      let sum := (ts.map fun t => match t with
        | .fin n m e => signedAt n m e (-298)
        | _ => 0).foldl (· + ·) (0 : Int)
      roundQ .rne sum (2 ^ 298)

/-- RTXF (R410). -/
def rayXform (direction : Bool) (v : List (BitVec 32)) (mat : List FVal) : List Nat :=
  let one : FVal := .fin false 1 0
  let row (m : Nat) : Nat :=
    sumTerms ((List.range 3).map (fun n => rayTerm (valAt mat (4 * m + n)) (valAt (valsOf v) n)) ++
      (if direction then [] else [rayTerm (valAt mat (4 * m + 3)) one]))
  [row 0, row 1, row 2, ((v.getD 3 0).toNat)]

/-! ## Texels (R400, R401) -/

/-- A texel's component with a weight of 65,536ths: an exact fraction of two integers, or an infinity, or a NaN. -/
inductive Comp where
  | frac (num : Int) (den : Nat)
  | negZero
  | inf (neg : Bool)
  | nan (bits : Nat)

/-- A floating-point component. -/
def Comp.ofVal (v : FVal) : Comp :=
  match v with
  | .nan n m w => .nan (quietTo .fp32 n m w)
  | .inf n => .inf n
  | .fin n m e => if n && m == 0 then .negZero else .frac (signedAt n m e (-149)) (2 ^ 149)

/-- A component on its own, rounded to FP32 (R401). -/
def Comp.single : Comp → Nat
  | .frac a b => roundQ .rne a b
  | .negZero => 0x80000000
  | .inf n => FType.fp32.signBit n + FType.fp32.infBits
  | .nan b => b

/-- The components of a texel of a format (R400), from its bytes. -/
def texelComps (fmt v : Nat) : List Comp :=
  let un (x : Nat) : Comp := .frac x 255
  let zero : Comp := .frac 0 1
  let one : Comp := .frac 1 1
  match fmt with
  | 0 => (List.range 4).map fun k => un (v / 2 ^ (8 * k) % 256)
  | 1 => (List.range 4).map fun k => Comp.ofVal (FType.fp16.decode (v / 2 ^ (16 * k) % 65536))
  | 2 => [Comp.ofVal (FType.fp32.decode (v % 2 ^ 32)), zero, zero, one]
  | _ => [un (v % 256), zero, zero, one]

/-- BORDER's components (R400). -/
def borderComps (v : Nat) : List Comp := texelComps 1 v

/-- Σ weight × component / 65,536, rounded once (R401); a component of weight 0 is left out, an infinite one too (log 88). -/
def blend (xs : List (Nat × Comp)) : Nat :=
  let used := xs.filter fun x => x.1 != 0
  match used.findSome? fun x => match x.2 with
    | .nan b => some b
    | _ => none with
  | some b => b
  | none =>
    let infs := used.filterMap fun x => match x.2 with
      | .inf n => some n
      | _ => none
    match infs with
    | n :: rest => if rest.all (· == n) then FType.fp32.signBit n + FType.fp32.infBits else 0x7FC00000
    | [] =>
      let den : Nat := 255 * 2 ^ 149
      let num := (used.map fun x => match x.2 with
        | .frac a b => (x.1 : Int) * a * ((den / b : Nat) : Int)
        | _ => 0).foldl (· + ·) (0 : Int)
      roundQ .rne num ((den * 65536 : Nat) : Int)

end Sys2Proof.Machine
end

