-- ==== Sys2Proof/Machine/Access.lean ====
section
/-! DEFINITION. Memory accesses in flight: the order in which a thread's pieces may be performed (R282, R284, R299), a
piece at its home (R242, R248, R262, R272, R273, R277, R464), the duplicate table (R337), the completion of producers
(R81, R331, R334). -/

namespace Sys2Proof.Machine

/-! ## What an atomic does (R272, Table 5) -/

/-- f(old, x) of an operation on `w` bytes. -/
def atomicFn (op w old x : Nat) : Nat :=
  let n := 8 * w
  let m := 2 ^ n
  let so := signedOf n old
  let sx := signedOf n (x % m)
  let xx := x % m
  match op with
  | 0 => (old + xx) % m
  | 1 => old &&& xx
  | 2 => old ||| xx
  | 3 => old ^^^ xx
  | 4 => xx
  | 5 => if so ≤ sx then old else xx
  | 6 => if so ≥ sx then old else xx
  | 7 => min old xx
  | 8 => max old xx
  | 9 => if old ≥ xx then 0 else (old + 1) % m
  | 10 => if old == 0 || old > xx then xx else old - 1
  | 11 => (BitVec.ofInt 32 (min (max (so + sx) (-2147483648)) 2147483647)).toNat
  | 12 => (fadd .fp32 .rne (fp32 (BitVec.ofNat 32 old)) (fp32 (BitVec.ofNat 32 xx))).bits
  | 13 => (fminmax false (BitVec.ofNat 32 old) (BitVec.ofNat 32 xx)).bits
  | 14 => (fminmax true (BitVec.ofNat 32 old) (BitVec.ofNat 32 xx)).bits
  | _ =>
    let h (k : Nat) : Nat :=
      (fadd .fp16 .rne (FType.fp16.decode (old / 2 ^ (16 * k) % 65536)) (FType.fp16.decode (xx / 2 ^ (16 * k) % 65536))).bits
    h 0 + 65536 * h 1

/-! ## The order of a thread's accesses (R282, R284, R299) -/

/-- Two pieces touch a common byte. -/
def Piece.overlaps (p q : Piece) : Bool := p.prv == q.prv && p.dia < q.dia + q.len && q.dia < p.dia + p.len

/-- An order code with release, with acquire (R35). -/
def isRelease (ord : Nat) : Bool := ord == 2 || ord == 3
def isAcquire (ord : Nat) : Bool := ord == 1 || ord == 3

/-- The accesses of two lanes are of one thread. -/
def LaneOp.sameThread (a b : LaneOp) : Bool := a.who.any fun x => b.who.contains x

/-- A lane of an IFR entry, by its sequence number, whose pieces have all been performed for good, or that is gone. -/
def Team.lanePerformed (t : Team) (x : Nat × Nat) : Bool :=
  t.ifr.all fun e => e.seq != x.1 || e.lanes.all fun o => o.lane != x.2 || e.settled o

/-- What the barriers that some thread of `who` has passed below a sequence number order before it has been performed (R121,
R286). -/
def Team.pastBarriers (t : Team) (who : List (Nat × Nat)) (seq : Nat) : Bool :=
  t.barriers.all fun b => seq < b.seq || !who.any b.who.contains || b.pend.all t.lanePerformed

/-- A piece of an access of order `ord` may be performed: nothing of the same thread that its order or a common byte puts before it is
outstanding, nor what its threads' barriers order before it, and no lower lane of its instruction that touches its bytes is (R121,
R263, R282, R284). -/
def Team.mayPerform (t : Team) (e : IfrEntry) (ord : Nat) (o : LaneOp) (p : Piece) : Bool :=
  (t.ifr.all fun f => f.seq ≥ e.seq || f.lanes.all fun b => !b.sameThread o || b.pieces.all fun q =>
    f.final b q || (!isRelease ord && !isAcquire f.ord && !q.overlaps p)) &&
  (e.lanes.all fun b => b.lane ≥ o.lane || b.pieces.all fun q => q.done || !q.overlaps p) &&
  t.pastBarriers o.who e.seq

/-- R293: the issue of an engine operation, by its sequence number, is a release: nothing that its threads accessed before it is
outstanding, nor what their barriers order before it. -/
def Team.released (t : Team) (seq : Nat) : Bool :=
  match t.ifr.find? (·.seq == seq) with
  | none => true
  | some e =>
    (t.ifr.all fun f => f.seq ≥ seq || f.lanes.all fun o => !e.lanes.any o.sameThread || f.settled o) &&
      e.lanes.all fun o => t.pastBarriers o.who seq

/-! ## A piece at its home -/

/-- The tag of an access (R231), which the home expects when the range checks tags and 0 otherwise (R459). -/
def Piece.tag (p : Piece) : BitVec 4 := if p.chk then BitVec.ofNat 4 (bitsOf p.va.toNat 59 56) else 0

/-- What performing a piece leaves: the state, the value answered, the virtual address of a tag mismatch (R464), and whether any byte of
the piece was performed. -/
structure Performed where
  state : State
  val : Nat := 0
  poison : Bool := false
  pt : Bool := false
  mismatch : Option (BitVec 64) := none
  performed : Bool := true

/-- The operations an access performs at its place. -/
inductive HomeOp where
  | read (ldk : Bool)
  | readTag
  | write
  | writeTag
  | rmw (op : Nat)
  | cas
  deriving DecidableEq, Repr

/-- What an IFR entry's pieces do at their home, and whether it returns nothing (RED). -/
def IfrOp.homeOp : IfrOp → HomeOp
  | .ld k => .read k
  | .ray _ _ _ => .read false
  | .tagrd => .readTag
  | .tagwr => .writeTag
  | .atom op | .red op => .rmw op
  | .acas => .cas
  | _ => .write

/-- Write access in the sense of R464: a piece whose tag differs is not performed. -/
def IfrOp.checksTag : IfrOp → Bool
  | .st | .red _ | .mxst => true
  | _ => false

/-- A piece in the controller's private memory (R522). -/
def State.performPrivate (s : State) (op : HomeOp) (p : Piece) : Performed :=
  let old := Memory.readN s.ctlMem p.dia p.len
  let put (v : Nat) : State := { s with ctlMem := Memory.writeN s.ctlMem p.dia p.len v }
  match op with
  | .read _ => { state := s, val := old }
  | .write => { state := put p.data }
  | .rmw f => { state := put (atomicFn f p.len old p.data), val := old }
  | .cas => { state := if old == p.cmp then put p.data else s, val := old }
  | .readTag | .writeTag => { state := s }

/-- The sectors of a write piece whose stored tag differs from the access's (R464). -/
def State.tagClash (s : State) (p : Piece) (dia : Nat) : Bool :=
  p.chk && s.tagOf (physOf (s.pte dia) dia / 64) != p.tag

/-- A read of a piece through a core's L1 (R258): its copy of the sector, if it holds one. What LDK has read serves LDK alone
(R270). -/
def State.l1Read (s : State) (core : Nat) (p : Piece) (ldk : Bool) : Option Nat :=
  match s.l1.find? fun x => x.core == core && x.dia == p.dia / 64 && x.ldk == ldk with
  | some x =>
    if !p.chk && (if p.dia % 64 < 32 then x.key0 else x.key1) == p.key then
      some (x.bytes / 2 ^ (8 * (p.dia % 64)) % 2 ^ (8 * p.len))
    else none
  | none => none

/-- Lines of an L1 (R258). -/
def l1Lines : Nat := 2048

/-- An L1 has room for a sector: one of its lines holds the sector's line, or a line is free; what `LDK` has read stands in lines of its
own (R13, R258, R270). -/
def State.l1Room (s : State) (core ds : Nat) (ldk : Bool) : Bool :=
  let lines := ((s.l1.filter fun x => x.core == core).map fun x => (x.dia / 4, x.ldk)).eraseDups
  lines.contains (ds / 4, ldk) || lines.length < l1Lines

/-- A sector, by DIA / 64, that a load has brought to its core may stay in the L1: the implementation's choice (R258, log 12). -/
def State.l1Fill (s : State) (core ds : Nat) (ldk : Bool) : State :=
  let s1 := { s with fresh := s.fresh + 1 }
  let idx := physOf (s.pte (64 * ds)) (64 * ds) / 64
  match s.sector? idx with
  | some x =>
    if Config.pick s.fresh 2 % 2 == 0 || x.poison || !x.err.isEmpty || x.dia != ds || !s.l1Room core ds ldk then s1
    else
      let rest := s.l1.filter fun y => !(y.core == core && y.dia == ds && y.ldk == ldk)
      { s1 with l1 := rest ++ [⟨core, ds, Memory.readN s.mem (64 * idx) 64, x.key0, x.key1, ldk⟩] }
  | none => s1

/-- R258: a store of `n` bytes at a DIA, within one sector, under a key updates the issuing core's copy of the sector; a copy under
another key is dropped. -/
def State.l1Store (s : State) (core dia n v key : Nat) : State :=
  let mine (x : L1Sector) : Bool := x.core == core && x.dia == dia / 64
  let o := dia % 64
  let agrees (x : L1Sector) : Bool := (o ≥ 32 || x.key0 == key) && (o + n ≤ 32 || x.key1 == key)
  { s with l1 := (s.l1.filter fun x => !mine x || agrees x).map fun x =>
      if mine x then { x with bytes := patch x.bytes o n v } else x }

/-- A write piece of a core, sector by sector; a sector whose tag differs is left (R464). `fuel` sectors at most. -/
def State.performWrite (s : State) (core : Nat) (p : Piece) (who : Option (BitVec 32)) : Nat → Nat → Nat → Nat → Performed
  | 0, _, _, _ => { state := s }
  | fuel + 1, dia, n, v =>
    let k := min n (64 - dia % 64)
    let r : Performed :=
      if s.tagClash p dia then
        { state := s.count .tagm (pteOwner (s.pte dia)), mismatch := some (p.va + BitVec.ofNat 64 (dia - p.dia)), performed := false }
      else { state := (s.homeWrite dia k v p.key p.tag false who).l1Store core dia k v p.key }
    if n ≤ k then r
    else
      let q := r.state.performWrite core p who fuel (dia + k) (n - k) (v / 2 ^ (8 * k))
      { q with mismatch := match r.mismatch with | some x => some x | none => q.mismatch, performed := r.performed || q.performed }

/-- R258: an atomic drops the issuing core's copy of its line. -/
def State.l1Atomic (s : State) (core : Nat) (p : Piece) : State :=
  s.dropL1 fun x => x.core == core && x.dia / 4 == p.dia / 256

/-- R280, R286, R381: a team begins to run on a core, or leaves it: its later reads, `LDK`'s too (R270), find nothing that the L1
kept. -/
def State.l1Clear (s : State) (core : Nat) : State := s.dropL1 fun x => x.core == core

/-- R274: an acquire at panel scope or wider refreshes what the core's later loads could read, but for `LDK`'s lines. -/
def State.l1Acquire (s : State) (core : Nat) : State := s.dropL1 fun x => x.core == core && !x.ldk

/-- A core has read `n` bytes at their home: no later load of it finds an older copy in the L1 (R282, R283); what `LDK` has read stays
for `LDK` (R270). -/
def State.l1Passed (s : State) (core dia n : Nat) (ldk : Bool) : State :=
  s.dropL1 fun x => x.core == core && dia / 64 ≤ x.dia && x.dia ≤ (dia + n - 1) / 64 && (ldk || !x.ldk)

/-- A piece performed at its home, whose page is valid (R262, R269-R273, R277, R464). `wide` says that it is an acquire
at panel scope or wider. -/
def State.performHome (s : State) (t : Team) (op : IfrOp) (wide : Bool) (p : Piece) : Performed :=
  let who := if t.tid == 0 then none else some t.ctx
  match op.homeOp with
  | .read ldk =>
    let s0 := if wide then s.l1Acquire t.core else s
    match (if wide || t.tid == 0 then none else s0.l1Read t.core p ldk) with
    | some v => { state := s0, val := v }
    | none =>
      let r := s0.homeReads p.key p.tag 5 p.dia p.len
      let s1 := r.1.l1Passed t.core p.dia p.len ldk
      let s2 := if r.2.poison || t.tid == 0 then s1 else s1.l1Fill t.core (p.dia / 64) ldk
      { state := s2, val := r.2.val, poison := r.2.poison, pt := r.2.pt }
  | .readTag =>
    let r := s.homeReads p.key 0 1 p.dia 64
    { state := r.1, val := (s.tagOf (physOf (s.pte p.dia) p.dia / 64)).toNat, poison := r.2.poison }
  | .write => s.performWrite t.core p who 17 p.dia p.len p.data
  | .writeTag => { state := s.homeSetTag p.dia (BitVec.ofNat 4 p.data) who }
  | .rmw f =>
    if op.checksTag && s.tagClash p p.dia then
      { state := s.count .tagm (pteOwner (s.pte p.dia)), mismatch := some p.va, performed := false }
    else
      let s0 := if wide then s.l1Acquire t.core else s
      let r := s0.homeReads p.key p.tag 2 p.dia p.len
      let s1 := r.1.l1Atomic t.core p
      if r.2.poison then { state := s1, val := r.2.val, poison := true, pt := r.2.pt }
      else { state := s1.homeWrite p.dia p.len (atomicFn f p.len r.2.val p.data) p.key p.tag false who, val := r.2.val }
  | .cas =>
    let s0 := if wide then s.l1Acquire t.core else s
    let r := s0.homeReads p.key p.tag 2 p.dia p.len
    let s1 := r.1.l1Atomic t.core p
    if r.2.poison then { state := s1, val := r.2.val, poison := true, pt := r.2.pt }
    else if r.2.val == p.cmp then
      { state := s1.homeWrite p.dia p.len p.data p.key p.tag false who, val := r.2.val }
    else { state := s1, val := r.2.val }

/-- R332: the tag of an I1 piece. -/
def dupTag (t : Team) (seq unit dia : Nat) (d : Dup) : Bool :=
  d.ctx == t.ctx && d.tid == t.tid && d.seq == seq && d.unit == unit && d.line == dia / 256

/-- Entries of a duplicate table (R336). -/
def dupCapacity : Nat := 4096

/-- Replace one lane of an entry. -/
def IfrEntry.setLane (e : IfrEntry) (o : LaneOp) : IfrEntry :=
  { e with lanes := e.lanes.map fun x => if x.lane == o.lane then o else x }

def Team.setEntry (t : Team) (e : IfrEntry) : Team :=
  { t with ifr := t.ifr.map fun x => if x.seq == e.seq then e else x }

/-- The `k`-th access of a line request that a panel refused: each lane's is an access of its own (R242, R511). -/
def Wait.nth (w : Wait) (k : Nat) : Wait :=
  match w with
  | .refused n o => .refused n (o + k)
  | .no | .merge _ _ => w

/-- R242, R511: the pieces of an entry's lanes that travel with a piece in one line request to a page that is not valid miss together, as
one access for each lane; the record is the lowest lane's. -/
def State.missPiece (s : State) (t : Team) (e : IfrEntry) (p : Piece) : State :=
  let mine (q : Piece) : Bool := !q.done && q.wait == .no && q.dia / 256 == p.dia / 256
  let lanes := (e.lanes.filter fun o => o.pieces.any mine).map (·.lane)
  let lead := (e.lanes.findSome? fun o => o.pieces.find? mine).getD p
  let r := s.missAt lead.dia lead.va t.ctx e.op.faultKind
  let s1 := match r.2 with
    | .refused n _ => r.1.updPanel n fun q => { q with refusals := q.refusals + (lanes.length - 1) }
    | .no | .merge _ _ => r.1
  s1.updTeam t.tid fun u => u.setEntry { e with lanes := e.lanes.map fun o =>
    { o with pieces := o.pieces.map fun q => if mine q then { q with wait := r.2.nth (lanes.findIdx (· == o.lane)) } else q } }

/-- The answer of a piece reaches its lane; every piece keeps what it read, and the lane is poisoned by any of them. -/
def LaneOp.answer (o : LaneOp) (k : Nat) (r : Performed) : LaneOp :=
  { o with
    pieces := o.pieces.zipIdx.map fun x => if x.2 == k then { x.1 with done := true, data := r.val } else x.1
    res := r.val, poison := o.poison || r.poison
    pt := (o.poison || r.poison) && (!o.poison || o.pt) && (!r.poison || r.pt) }

/-- A lane with nothing to write is complete once its pieces are answered (R333). -/
def LaneOp.close (op : IfrOp) (o : LaneOp) : LaneOp :=
  if (op.checksTag || op == .tagwr || o.dst == .null) && o.pieces.all (·.done) then { o with done := true } else o

/-- A piece is answered: its lane may be complete, and a tag mismatch makes its threads trap (R464). -/
def State.answer (s : State) (tid : Nat) (e : IfrEntry) (o : LaneOp) (k : Nat) (r : Performed) : State :=
  s.updTeam tid fun t =>
    let t1 := (t.setEntry (e.setLane ((o.answer k r).close e.op))).freeFinished
    match r.mismatch with
    | none => t1
    | some va => t1.pendLane e o (mkTrap .tagMismatch va.toNat)

/-- The sectors of a write piece, by the DIA of their first byte in it; `fuel` sectors at most. -/
def pieceSectors : Nat → Nat → Nat → List Nat
  | 0, _, _ => []
  | fuel + 1, dia, n => let k := 64 - dia % 64; dia :: (if n ≤ k then [] else pieceSectors fuel (dia + k) (n - k))

/-- The answer that a duplicate-table entry gives (R337): the recorded result, and what the tags at the home say of the piece (R464,
log 69). -/
def State.recorded (s : State) (op : IfrOp) (p : Piece) (d : Dup) : Performed :=
  let clash := if op.checksTag then (pieceSectors 17 p.dia p.len).find? (s.tagClash p) else none
  { state := s, val := d.old, poison := d.poison, pt := d.poison && s.tagClash p p.dia
    mismatch := clash.map fun dia => p.va + BitVec.ofNat 64 (dia - p.dia) }

/-- A piece at its valid home, which the freeze broadcast of its team has reached or not (R337); a write refused for its tag alone is
not performed and not recorded (R464). -/
def State.performAt (s : State) (t : Team) (e : IfrEntry) (o : LaneOp) (k : Nat) (p : Piece) (panel : Nat) : State :=
  let wide := isAcquire e.ord && e.scope ≥ 4
  if e.op.isWriteKind && t.frozen.contains panel then
    match (s.panel panel).dup.find? (dupTag t e.seq o.lane p.dia) with
    | some d =>
      if t.stopping && t.acks.contains panel then s
      else s.answer t.tid e o k (s.recorded e.op p d)
    | none =>
      if (s.panel panel).dup.length ≥ dupCapacity && t.stopping && t.acks.contains panel then s
      else
        let r := s.performHome t e.op wide p
        let d : Dup := ⟨t.ctx, t.tid, e.seq, o.lane, p.dia / 256, r.val, r.poison⟩
        let s1 := if (s.panel panel).dup.length ≥ dupCapacity || !r.performed then r.state
          else r.state.updPanel panel fun q => { q with dup := q.dup ++ [d] }
        if t.stopping && t.acks.contains panel then s1 else s1.answer t.tid e o k r
  else if t.stopping && t.acks.contains panel then s
  else
    let r := s.performHome t e.op wide p
    r.state.answer t.tid e o k r

/-- A home does something with a piece of a team: not where the team's stop lets it only be dropped (R337). -/
def State.homeActs (s : State) (t : Team) (e : IfrEntry) (o : LaneOp) (p : Piece) (panel : Nat) : Bool :=
  !(t.stopping && t.acks.contains panel) ||
    (e.op.isWriteKind && t.frozen.contains panel && ((s.panel panel).dup.find? (dupTag t e.seq o.lane p.dia)).isNone &&
      (s.panel panel).dup.length < dupCapacity)

/-- The order of an access: a compare-and-swap that would fail keeps only the acquire part (R273). -/
def State.orderOf (s : State) (e : IfrEntry) (p : Piece) : Nat :=
  if e.op != .acas then e.ord
  else
    let old : Rd := if p.prv then ⟨Memory.readN s.ctlMem p.dia p.len, false, false⟩ else (s.homeReads p.key p.tag 2 p.dia p.len).2
    if old.poison || old.val != p.cmp then e.ord % 2 else e.ord

/-- A piece arrives: at the controller's private memory, or at its home, where it misses, waits for the log (R468) or for its
context's gate (R383), or is performed. -/
def State.arrive (s : State) (t : Team) (e : IfrEntry) (o : LaneOp) (k : Nat) (p : Piece) : State :=
  if p.prv then
    let r := s.performPrivate e.op.homeOp p
    r.state.answer t.tid e o k r
  else match s.home p.dia with
    | none => s
    | some (n, _) =>
      if !pteValid (s.pte p.dia) then
        if t.tid == 0 then
          s.updTeam 0 fun u => ((u.pendLane e o (mkTrap .address p.va.toNat)).discardLanes e (·.lane == o.lane)).freeFinished
        else s.missPiece t e p
      else if e.op.isWriteKind && !s.logRoom (some t.ctx) (s.sectorsAt p.dia p.len) then s
      else if !s.homeActs t e o p n then s
      else
        let r := s.gatePass n t.ctx (sectorsOf p.dia p.len) (e.op.homeOp == .read false || e.op.homeOp == .read true)
          (.piece t.tid e.seq o.lane k)
        if r.2 then r.1.performAt t e o k p n else r.1

/-! ## The completion of producers (PRODUCER_COMPLETION) -/

/-- What a producer's completion writes in a lane: value, poison and PT, predicate, flags. -/
structure Landing where
  val : Nat
  poison : Bool := false
  pt : Bool := false
  pd : Nat := 7
  pred : Bool := false
  flags : FFlags := 0

/-- A lane's result lands in its destination (R81, R343), for a thread that still lives (R85); the predicate of a texture or ray
operation lands with it (log 68). -/
def Team.land (t : Team) (o : LaneOp) (width : Nat) (x : Landing) : Team :=
  match o.who.find? fun y => ((t.group y.1).thread y.2).live with
  | none => t
  | some (g, l) => t.updGroup g fun y =>
    ((writeRef y l o.dst width x.val x.poison x.pt).updThread l fun th => th.setPred x.pd x.pred).orFlags x.flags

/-- The bytes that a lane's pieces have read, in their order. -/
def LaneOp.readBytes (o : LaneOp) : Nat := o.pieces.foldr (fun p v => p.data % 2 ^ (8 * p.len) + 2 ^ (8 * p.len) * v) 0

/-- The result of a ray operation (R407-R410): operands in `a`, their poison in `b`. -/
def LaneOp.rayResult (o : LaneOp) (mode arg pd : Nat) : Landing :=
  let org := wordsOf 4 o.a
  let dir := wordsOf 4 (o.a / 2 ^ 128)
  let m := valsOf (wordsOf 24 o.readBytes)
  let r : List Nat × Bool := match mode with
    | 0 => rayBox (valsOf org) (valsOf dir) m
    | 1 => rayTri arg (valsOf org) (valsOf dir) m
    | _ => (rayXform (arg == 1) org m, true)
  let bad := o.b % 2 == 1
  { val := ofWords r.1, poison := o.poison || bad
    pt := (o.poison || bad) && (!o.poison || o.pt) && (!bad || o.b / 2 % 2 == 1), pd := pd, pred := r.2 && !o.poison }

/-- What a lane's completion brings, once it may complete. A texture lane holds its value and, above it, its predicate. -/
def IfrEntry.result (e : IfrEntry) (o : LaneOp) : Option Landing :=
  let ready (x : Landing) : Option Landing := if o.pieces.all (·.done) then some x else none
  match e.op with
  | .sfu f m =>
    let r := sfunc f m (BitVec.ofNat 32 o.a) (BitVec.ofNat 32 o.b)
    some { val := r.bits, flags := r.flags, poison := o.poison, pt := o.pt }
  | .ld _ | .tagrd | .atom _ | .acas => ready { val := o.res, poison := o.poison, pt := o.pt }
  | .tex _ _ _ pd => ready { val := o.res % 2 ^ 128, poison := o.poison, pt := o.pt, pd := pd, pred := o.res / 2 ^ 128 == 1 }
  | .ray mode arg pd => ready (o.rayResult mode arg pd)
  | .arrive => some { val := o.res }
  | _ => none

/-- The lanes that a lane of an entry lands with: those that write the same G register, which stays Pending until all have their
results (R79, R83), or itself. -/
def IfrEntry.landsWith (e : IfrEntry) (o : LaneOp) : List LaneOp :=
  match o.dst with
  | .g _ => e.lanes.filter fun b => !b.done && b.dst == o.dst
  | _ => [o]

/-- One lane of an entry has landed. -/
def Team.landLane (t : Team) (e : IfrEntry) (o : LaneOp) : Team :=
  match e.result o with
  | none => t
  | some x =>
    let t1 := t.land o e.dwords x
    t1.setEntry (((t1.ifr.find? (·.seq == e.seq)).getD e).setLane { o with done := true })

/-- Complete a lane of an entry, with those that land with it, if their results are there; a G register that none of their threads is left
to write is Void (R81, R85), and a collective may have waited for the destination (R83). -/
def Team.completeLane (t : Team) (e : IfrEntry) (o : LaneOp) : Team :=
  let ls := e.landsWith o
  if o.done || ls.any (fun b => (e.result b).isNone) then t
  else
    let t1 := ls.foldl (fun u b => u.landLane e b) t
    (if ls.all fun b => t.allDead b.who then t1.voidG e.grp o.dst e.dwords else t1).freeFinished.resumeInstances

/-- Palette accesses are named above every sequence number of 48 bits (R332). -/
def palBase : Nat := 2 ^ 48

/-- Write the destination of one palette access, for a thread that still lives (R85). -/
def Team.landPal (t : Team) (p : PalPend) : Team :=
  match p.who.find? fun y => ((t.group y.1).thread y.2).live with
  | none => t
  | some (g, l) => t.updGroup g fun y => writeEach y l p.dst p.width p.val p.bad

/-- Write the destination of a palette access (R257, R268), with those that land with it (R79, R83). -/
def Team.completePal (t : Team) (p : PalPend) : Team :=
  match t.palPend.filter p.landsWith with
  | [] => t
  | ps =>
    let t1 := ps.foldl Team.landPal { t with palPend := t.palPend.filter fun q => !p.landsWith q }
    (if ps.all fun q => t.allDead q.who then t1.voidG p.grp p.dst p.width else t1).resumeInstances

/-- PRODUCER_COMPLETION (R81, R331): the result of a lane of the entry `op`, or of a palette access, lands; what has not landed when the
IFR is snapshot stays Pending (R85, R326). -/
def execProducerCompletion (tid op lane : Nat) (s : State) : Result :=
  .next (s.updTeam tid fun t =>
    if t.snapped || (t.st != .resident && t.st != .ended) then t
    else match t.palPend.find? fun p => palBase + p.id == op with
      | some p => t.completePal p
      | none =>
        match t.ifr.find? (·.seq == op) with
        | none => t
        | some e =>
          match e.lanes.find? (·.lane == lane) with
          | none => t
          | some o => t.completeLane e o)

end Sys2Proof.Machine
end

