-- ==== Sys2Proof/Machine/Firmware.lean ====
section
/-! DEFINITION. Firmware events and the controller's threads (R502, R521, R522); what the firmware does through no register: context
descriptors (R363, R379), operating points (R17). -/

namespace Sys2Proof.Machine

/-- An event occurs: it becomes pending, or is merged with its own pending occurrence (R502). -/
def State.raiseEvent (s : State) (code arg : Nat) : State :=
  let hit (e : FwEvent) : Bool := e.code == code && e.arg == arg
  let es := s.fw.events
  { s with fw := { s.fw with events :=
      if (es.any hit) then es.map (fun e => if hit e then { e with merged := sat32 (e.merged + 1) } else e)
      else es ++ [⟨code, arg, 0⟩] } }

/-- The events that are pending for as long as their condition holds (R502, Table 13, codes 3 to 5). -/
def State.standing (s : State) : List FwEvent :=
  (s.parts.filter fun p => !p.queue.isEmpty).map (fun p => ⟨3, p.first, 0⟩) ++
  (s.parts.filter fun p => p.res.word 0 != p.res.word 4).map (fun p => ⟨4, p.first, 0⟩) ++
  (s.parts.filter fun p => p.widx != p.ridx).map (fun p => ⟨5, p.first, 0⟩)

/-- Lowest code, then lowest argument. -/
def FwEvent.before (a b : FwEvent) : Bool := a.code < b.code || (a.code == b.code && a.arg ≤ b.arg)

/-- Every pending event, in the order the controller takes them. -/
def State.pendingEvents (s : State) : List FwEvent := (s.fw.events ++ s.standing).mergeSort FwEvent.before

/-- The handler address of an event: the vector begins the image's body, after its header of 256 bytes (R491, R502). -/
def State.handlerOf (s : State) (e : FwEvent) : BitVec 64 := BitVec.ofNat 64 (Memory.readN s.ctlMem (256 + 8 * e.code) 8)

/-- No firmware thread runs, and an image has been booted. -/
def State.controllerIdle (s : State) : Bool :=
  s.ctlImage != 0 && s.ctl.groups.all fun g => g.entries.isEmpty

/-- The accesses of a controller thread that has ended go on, in its order, and answer nobody (R114, R521). -/
def Team.orphan (t : Team) (e : IfrEntry) : IfrEntry :=
  { e with lanes := e.lanes.map fun o => { o with
      dst := .null, who := o.who.map t.ghost, done := o.done || o.pieces.all (·.done) } }

/-- A controller thread at a handler, with the event in G0 to G2 (R502, R522). A PC has bits [2:0] zero (R21): those of the event
vector are ignored (log 78). -/
def State.startHandler (s : State) (e : FwEvent) (pc : BitVec 64) : State :=
  let g0 (v : Nat) : Slot := ⟨BitVec.ofNat 32 v, .full, false, false⟩
  let g : Group := { Group.empty with
    lanes := Thread.initial 1024 :: List.replicate 31 Thread.dead
    gregs := [g0 e.code, g0 e.arg, g0 e.merged] ++ List.replicate 61 Slot.zero
    allot := 1024
    entries := [Entry.at (pc &&& ~~~7#64) 0 1 false] }
  { s with ctl := Team.freeFinished { s.ctl with
      groups := [g], palPend := [], insts := [], regroup := []
      barriers := s.ctl.barriers.map fun b => { b with who := b.who.map s.ctl.ghost }
      ifr := (s.ctl.ifr.filter fun x => x.op.isWriteKind).map s.ctl.orphan } }

/-- The controller takes its events in order: one without a handler is cleared, one with a handler starts a thread. -/
def State.takeEvents (s : State) : List FwEvent → State
  | [] => s
  | e :: es =>
    let s1 : State := { s with fw := { s.fw with events := s.fw.events.filter fun x => !(x.code == e.code && x.arg == e.arg) } }
    if s.handlerOf e == 0 then s1.takeEvents es else s1.startHandler e (s.handlerOf e)

/-- FIRMWARE_EVENT_DISPATCH (R502). -/
def State.dispatch (s : State) : State := if s.controllerIdle then s.takeEvents s.pendingEvents else s

/-- The controller would take an event. -/
def State.mayDispatch (s : State) : Bool :=
  s.controllerIdle && (!s.fw.events.isEmpty || s.standing.any fun e => s.handlerOf e != 0)

/-! ## Context descriptors and operating points -/

/-- A context's table entry before its first descriptor. -/
def Ctx.blank (part : Nat) : Ctx := ⟨part, List.replicate 16 0, false, [], 0, 0, false, false, false, false, 0, false, [], [], 0, [], [], []⟩

/-- Entries of a context table (R363). -/
def contextSlots : Nat := 512

/-- A descriptor takes the place of a context's, but for dword 8; a context that comes to have a ring runs it from index 0 (R379). -/
def Ctx.rewrite (c : Ctx) (desc : List (BitVec 64)) : Ctx :=
  let x : Ctx := { c with desc := ((List.range 16).map fun k => desc.getD k 0).set 8 (c.dw 8) }
  if x.rbase == 0 then x.setRing 0
  else if c.rstate == 0 then { x.setRing 1 with ringRead := 0 }
  else x

/-- The firmware writes a descriptor into a partition's table (R363): over a valid one of the same CTX only while it is held. -/
def State.writeContext (s : State) (part : Nat) (desc : List (BitVec 64)) : State :=
  let x := (Ctx.blank part).rewrite desc
  match s.ctxs.find? fun c => c.valid && c.id == x.id with
  | some c =>
    if c.part == part && c.held then { s with ctxs := s.ctxs.map fun y => if y.valid && y.id == x.id then y.rewrite desc else y } else s
  | none =>
    let rest := s.ctxs.filter fun y => y.valid
    if (s.part? part).isNone || x.id == 0 || !x.valid || (rest.filter fun y => y.part == part).length ≥ contextSlots then s
    else { s with ctxs := rest ++ [x] }

/-- The firmware sets a core's operating point, within its range (R17). -/
def State.operate (s : State) (core volt mhz : Nat) : State :=
  if volt < 36 || 55 < volt || mhz < 800 || 2400 < mhz then s
  else { s with life := s.life.map fun x => if x.core == core then { x with volt := volt, mhz := mhz } else x }

/-- The firmware has read records of a ring up to `ridx`, none beyond those written (R404, R472, log 26). -/
def State.advance (s : State) (part : Nat) (rolls : Bool) (ridx : BitVec 32) : State :=
  let fits (w r : BitVec 32) : Bool := (ridx - r).toNat ≤ (w - r).toNat
  s.updPart part fun p =>
    if rolls then (if fits p.widx p.ridx then { p with ridx := ridx } else p)
    else if fits (p.res.word 0) (p.res.word 4) then { p with res := p.res.setWord 4 ridx } else p

/-- A memory error (log 90): beneath a dirty sector of L2 it strikes what LPDDR-6 holds. -/
def State.upset (s : State) : Upset → State
  | .symbol idx p v =>
    let hit (x : Sector) : Sector := if x.idx == idx && p < 36 then { x with err := addErr x.err p v } else x
    if s.dirty.any (·.idx == idx) then { s with dirty := s.dirty.map fun d => if d.idx == idx then { d with sector := d.sector.map hit } else d }
    else { s with sectors := s.sectors.map hit }
  | .pageTable n k => s.updPanel n fun p => { p with ptbad := p.ptbad ++ [k] }
  | .logRecord part n => s.updPart part fun p => { p with log := p.log.zipIdx.map fun r => if r.2 == n then { r.1 with bad := true } else r.1 }

/-- What follows the end of a controller thread in a step (R359, R502). -/
def thenDispatch : Result → Result
  | .next s => .next s.dispatch
  | r => r

end Sys2Proof.Machine
end

