-- ==== Sys2Proof/Machine/Digest.lean ====
section
/-! DEFINITION. The checks the spec names by their standards: CRC-32C (R228, R329, R427), CRC-64/ECMA-182 (R411), SHA-384
(R453, R491). -/

namespace Sys2Proof.Machine

/-! ## CRC-32C (polynomial 0x1EDC6F41 reflected, initial and final value all ones) -/

def crcBits : Nat → BitVec 32 → BitVec 32
  | 0, c => c
  | n + 1, c => crcBits n (if c.getLsbD 0 then (c >>> 1) ^^^ 0x82F63B78#32 else c >>> 1)

def crcByte (c : BitVec 32) (b : BitVec 8) : BitVec 32 := crcBits 8 (c ^^^ b.setWidth 32)

def crc32c (bs : List (BitVec 8)) : BitVec 32 := ~~~(bs.foldl crcByte 0xFFFFFFFF#32)

/-- The bytes of a number, lowest first. -/
def bytesOf : Nat → Nat → List (BitVec 8)
  | 0, _ => []
  | n + 1, v => BitVec.ofNat 8 v :: bytesOf n (v / 256)

/-- A number from its bytes, lowest first. -/
def ofBytes : List (BitVec 8) → Nat
  | [] => 0
  | b :: bs => b.toNat + 256 * ofBytes bs

/-! ## CRC-64/ECMA-182, a byte at a time from the top (R411) -/

def crc64Bits : Nat → BitVec 64 → BitVec 64
  | 0, c => c
  | n + 1, c => crc64Bits n (if c.getLsbD 63 then (c <<< 1) ^^^ 0x42F0E1EBA9EA3693#64 else c <<< 1)

def crc64Byte (c : BitVec 64) (b : BitVec 8) : BitVec 64 := crc64Bits 8 (c ^^^ (b.setWidth 64 <<< 56))

/-! ## SHA-384 (FIPS 180-4) -/

/-- The greatest r with r ^ k ≤ v, by bits from `n` down. -/
def rootBits (k v : Nat) : Nat → Nat → Nat
  | 0, r => r
  | n + 1, r => rootBits k v n (if (r + 2 ^ n) ^ k ≤ v then r + 2 ^ n else r)

/-- The first `n` primes from `p` on. -/
def primesFrom : Nat → Nat → Nat → List Nat
  | 0, _, _ => []
  | _, 0, _ => []
  | fuel + 1, n + 1, p =>
    if (List.range p).all fun d => d < 2 || p % d != 0 then p :: primesFrom fuel n (p + 1)
    else primesFrom fuel (n + 1) (p + 1)

/-- The first 64 bits of the fraction of the cube root of each of the first 80 primes. -/
def shaK : List (BitVec 64) := (primesFrom 512 80 2).map fun p => BitVec.ofNat 64 (rootBits 3 (p * 2 ^ 192) 68 0)

/-- The first 64 bits of the fraction of the square root of the ninth to sixteenth primes. -/
def shaH : List (BitVec 64) := (primesFrom 512 8 23).map fun p => BitVec.ofNat 64 (rootBits 2 (p * 2 ^ 128) 68 0)

def shaS0 (x : BitVec 64) : BitVec 64 := x.rotateRight 1 ^^^ x.rotateRight 8 ^^^ (x >>> 7)
def shaS1 (x : BitVec 64) : BitVec 64 := x.rotateRight 19 ^^^ x.rotateRight 61 ^^^ (x >>> 6)
def shaB0 (x : BitVec 64) : BitVec 64 := x.rotateRight 28 ^^^ x.rotateRight 34 ^^^ x.rotateRight 39
def shaB1 (x : BitVec 64) : BitVec 64 := x.rotateRight 14 ^^^ x.rotateRight 18 ^^^ x.rotateRight 41

/-- The message schedule, latest word first. -/
def shaSchedule : Nat → List (BitVec 64) → List (BitVec 64)
  | 0, ws => ws
  | n + 1, ws =>
    let w (k : Nat) : BitVec 64 := ws.getD k 0
    shaSchedule n ((shaS1 (w 1) + w 6 + shaS0 (w 14) + w 15) :: ws)

/-- One round on the eight working variables. -/
def shaRound (v : List (BitVec 64)) (kw : BitVec 64 × BitVec 64) : List (BitVec 64) :=
  match v with
  | [a, b, c, d, e, f, g, h] =>
    let t1 := h + shaB1 e + ((e &&& f) ^^^ (~~~e &&& g)) + kw.1 + kw.2
    let t2 := shaB0 a + ((a &&& b) ^^^ (a &&& c) ^^^ (b &&& c))
    [t1 + t2, a, b, c, d + t1, e, f, g]
  | _ => v

/-- Bytes as a number, first byte most significant. -/
def beNat (bs : List (BitVec 8)) : Nat := bs.foldl (fun n b => n * 256 + b.toNat) 0

/-- The words of a block, first word first. -/
def shaWords (n : Nat) (bs : List (BitVec 8)) : List (BitVec 64) :=
  (List.range n).map fun k => BitVec.ofNat 64 (beNat ((bs.drop (8 * k)).take 8))

def shaBlock (h : List (BitVec 64)) (bs : List (BitVec 8)) : List (BitVec 64) :=
  let ws := (shaSchedule 64 (shaWords 16 bs).reverse).reverse
  let v := (shaK.zip ws).foldl shaRound h
  (h.zip v).map fun x => x.1 + x.2

def shaBlocks : Nat → List (BitVec 64) → List (BitVec 8) → List (BitVec 64)
  | 0, h, _ => h
  | n + 1, h, bs => shaBlocks n (shaBlock h (bs.take 128)) (bs.drop 128)

/-- SHA-384; the digest's first byte is the lowest byte of the result, as it lies in memory. -/
def sha384 (bs : List (BitVec 8)) : BitVec 384 :=
  let n := (bs.length + 17 + 127) / 128
  let pad := List.replicate (128 * n - bs.length - 17) (0 : BitVec 8)
  let msg := bs ++ [0x80#8] ++ pad ++ (bytesOf 16 (8 * bs.length)).reverse
  let h := (shaBlocks n shaH msg).take 6
  BitVec.ofNat 384 (ofBytes (h.flatMap fun w => (bytesOf 8 w.toNat).reverse))

end Sys2Proof.Machine
end

