-- ==== Sys2Proof/Machine/Memory.lean ====
section
/-! DEFINITION. The memory access instructions (chapter 10, R264-R277): forming and checking an access, the IFR entry of an
issue, fences, prefetches and flushes. -/

namespace Sys2Proof.Machine

/-- An instruction that issues uniformly (R57) as far as its guard and register fields go: it makes one access for the
group (R263). -/
def uniform (gd : Guard) (rs : List Reg) : Bool :=
  gd.p == 7 && !gd.neg && rs.all fun r => r.isNull || (r.cls == .g && !r.ind)

/-- One memory access instruction, field by field: the operation; data T with its width; address pair A; X with its
width; the destination with its width; the displacement in bytes; whether X is an index; bytes, alignment; the
permission it needs (R237); whether it raises the mark (R450) and stores (R451); what it writes or compares, from T and
X; `at_` forms another address than R265's from A and X (R412). -/
structure MemSpec where
  op : IfrOp
  t : Reg := Reg.null
  tw : Nat := 1
  a : Reg
  x : Reg := Reg.null
  xw : Nat := 1
  dst : Reg := Reg.null
  dw : Nat := 0
  disp : Int
  index : Bool := true
  len : Nat
  align : Nat
  need : RangeEnt → Bool
  raises : Bool := false
  stores : Bool := false
  data : Nat → Nat → Nat := fun _ _ => 0
  cmp : Nat → Nat := fun _ => 0
  ord : Nat := 0
  scope : Nat := 0
  sz : Nat := 0
  aux : Nat := 0
  late : Bool := false
  at_ : Option (Nat → Nat → BitVec 64) := none

/-- The sources in field order T, A, X (R463); `late` says that T stands in a field after the others. -/
def MemSpec.srcs (m : MemSpec) : List (Reg × Nat) :=
  if m.late then [(m.a, 2), (m.x, m.xw), (m.t, m.tw)] else [(m.t, m.tw), (m.a, 2), (m.x, m.xw)]

/-- The virtual address (R265). -/
def formVa (a x : Nat) (index : Bool) (disp : Int) : BitVec 64 :=
  BitVec.ofInt 64 ((a : Int) + (if index then signedOf 32 x else 0) + disp)

/-- The lane of a memory access (R333): one piece, to be performed at its home. -/
def memLaneOp (m : MemSpec) (l : Nat) (dst : Ref) (who : List (Nat × Nat)) (va : BitVec 64) (x : Xlat) (t xv : Nat) :
    LaneOp :=
  { lane := l, dst := dst, a := 0, b := 0, done := false, fw := false, who := who
    pieces := [{ va := va, dia := x.dia, len := m.len, data := m.data t xv, cmp := m.cmp xv, key := x.key, slot := x.slot,
                 chk := x.tchk && (m.op != .tagrd && m.op != .tagwr), prv := x.prv, done := false, wait := .no }] }

/-- One thread of a memory access, up to its performance (R265). -/
def memLane (m : MemSpec) (c : Cur) (g0 : Group) (who : Nat → List (Nat × Nat)) (σ : State × List LaneOp) (l : Nat) :
    Except Fate ((State × List LaneOp) × Fate) := do
  let xs ← readAll g0 l m.srcs
  consumeAll xs
  let v (k : Nat) : Nat := (xs.getD (if m.late then (k + 2) % 3 else k) ⟨0, false, false, 0⟩).val
  let va := match m.at_ with
    | some f => f (v 1) (v 2)
    | none => formVa (v 1) (v 2) m.index m.disp
  if va.toNat % m.align != 0 then .error (.trap ⟨.align, 0, va⟩)
  let dst ← dstReady g0 l m.dst m.dw
  let r : Try (State × Xlat) := do
    let (s1, x) ← σ.1.access c.tid c.grp l va m.need
    let s2 ← s1.checks c.tid va x m.len m.raises m.stores
    .ok (s2, x)
  match r with
  | .error (s1, f) => .ok ((s1, σ.2), f)
  | .ok (s1, x) =>
    .ok ((s1.updGroup c.tid c.grp fun g => markRef g l dst m.dw .pending,
          σ.2 ++ [memLaneOp m l dst (who l) va x (v 0) (v 2)]), .next)

/-- The fates of a uniform issue: every member shares its one access (R57). -/
def shareFates (uni : Bool) (act : List Nat) (fs : List (Nat × Fate)) : List (Nat × Fate) :=
  match uni, fs with
  | true, (_, f) :: _ => act.map fun l => (l, f)
  | _, _ => fs

/-- The one access of a uniform issue waits for every member (R57, R238, R245). -/
def State.shareProbe (s : State) (uni : Bool) (c : Cur) (act : List Nat) : State :=
  if !uni then s
  else s.updGroup c.tid c.grp fun g =>
    match (g.thread (act.headD 0)).probe with
    | some p => act.foldl (fun x l => x.updThread l fun t => { t with probe := some p }) g
    | none => g

/-- The threads on whose behalf a lane of an issue acts: all that issue, when it is uniform (R57). -/
def issuers (uni : Bool) (c : Cur) (act : List Nat) (l : Nat) : List (Nat × Nat) :=
  if uni then act.map fun k => (c.grp, k) else [(c.grp, l)]

/-- The issue of a memory access: one IFR entry for the members that pass (R331). -/
def memRun (m : MemSpec) (uni : Bool) (c : Cur) (e : Entry) (act : List Nat) (s : State) : State × List (Nat × Fate) :=
  match s.team? c.tid with
  | none => (s, [])
  | some t =>
    let r := foldLanes (memLane m c (t.group c.grp) (issuers uni c act)) (if uni then act.take 1 else act) (s, [])
    let mk (idx seq : Nat) : IfrEntry :=
      { idx := idx, seq := seq, op := m.op, grp := c.grp, ord := m.ord, scope := m.scope, sz := m.sz, aux := m.aux,
        hnd := 0, dwords := m.dw, pc := e.pc, lanes := r.1.2 }
    let s1 := r.1.1.shareProbe uni c act
    (if r.1.2.isEmpty then s1 else s1.updTeam c.tid fun u => u.newEntry mk, shareFates uni act r.2)

/-- One entry for the members that issue (R331). -/
def oneEntry (act : List Nat) : Nat := if act.isEmpty then 0 else 1

/-- The issue of a memory access instruction. -/
def memIssue (s : State) (gd : Guard) (m : MemSpec) : Result :=
  issue s gd m.srcs (ifrFree oneEntry) (memRun m (uniform gd [m.t, m.a, m.x, m.dst]))

/-- Bytes of a size code (R35). -/
def bytesOfSz (sz : BitVec 3) : Nat := 2 ^ sz.toNat

/-- Registers of a size code (R264). -/
def regsOfSz (sz : BitVec 3) : Nat := if sz.toNat ≤ 2 then 1 else 2 ^ (sz.toNat - 2)

/-- OFS in bytes (R265). -/
def ofsBytes (ofs : BitVec 14) (sz : BitVec 3) : Int := ofs.toInt * (bytesOfSz sz : Int)

/-- The 9-bit offset of an atomic in bytes (R264). -/
def aofsBytes (ofs : BitVec 9) (sz : BitVec 3) : Int := ofs.toInt * (bytesOfSz sz : Int)

/-- LD (R269). -/
def execLd (gd : Guard) (t a x : Reg) (ofs : BitVec 14) (scope : BitVec 3) (ord : BitVec 2) (sz : BitVec 3) (s : State) :
    Result :=
  memIssue s gd { op := .ld false, a := a, x := x, dst := t, dw := regsOfSz sz, disp := ofsBytes ofs sz,
                  len := bytesOfSz sz, align := bytesOfSz sz, need := fun e => e.r, raises := true, ord := ord.toNat,
                  scope := scope.toNat, sz := sz.toNat }

/-- ST (R271). -/
def execSt (gd : Guard) (t a x : Reg) (ofs : BitVec 14) (scope : BitVec 3) (ord : BitVec 2) (sz : BitVec 3) (s : State) :
    Result :=
  memIssue s gd { op := .st, t := t, tw := regsOfSz sz, a := a, x := x, disp := ofsBytes ofs sz, len := bytesOfSz sz,
                  align := bytesOfSz sz, need := fun e => e.w, stores := true,
                  data := fun tv _ => tv % 2 ^ (8 * bytesOfSz sz), ord := ord.toNat, scope := scope.toNat,
                  sz := sz.toNat }

/-- LDK (R270): the range must have W = 0 and R = 1. -/
def execLdk (gd : Guard) (t a x : Reg) (ofs : BitVec 14) (sz : BitVec 3) (s : State) : Result :=
  memIssue s gd { op := .ld true, a := a, x := x, dst := t, dw := regsOfSz sz, disp := ofsBytes ofs sz,
                  len := bytesOfSz sz, align := bytesOfSz sz, need := fun e => e.r && !e.w, raises := true, sz := sz.toNat }

/-- ATOM (R272). -/
def execAtom (gd : Guard) (t a x : Reg) (aop : BitVec 5) (aofs : BitVec 9) (scope : BitVec 3) (ord : BitVec 2)
    (sz : BitVec 3) (s : State) : Result :=
  memIssue s gd { op := .atom aop.toNat, a := a, x := x, xw := regsOfSz sz, dst := t, dw := regsOfSz sz,
                  disp := aofsBytes aofs sz, index := false, len := bytesOfSz sz, align := bytesOfSz sz,
                  need := fun e => e.r && e.w, raises := true, stores := true, data := fun _ xv => xv, ord := ord.toNat,
                  scope := scope.toNat, sz := sz.toNat, aux := aop.toNat }

/-- ACAS (R273): the low half of X is compared, the high half is the new value. -/
def execAcas (gd : Guard) (t a x : Reg) (ofs : BitVec 14) (scope : BitVec 3) (ord : BitVec 2) (sz : BitVec 3)
    (s : State) : Result :=
  let w := bytesOfSz sz
  memIssue s gd { op := .acas, a := a, x := x, xw := 2 * regsOfSz sz, dst := t, dw := regsOfSz sz,
                  disp := ofsBytes ofs sz, index := false, len := w, align := w, need := fun e => e.r && e.w,
                  raises := true, stores := true, data := fun _ xv => xv / 2 ^ (8 * w),
                  cmp := fun xv => xv % 2 ^ (8 * w), ord := ord.toNat, scope := scope.toNat, sz := sz.toNat }

/-- RED (R272). -/
def execRed (gd : Guard) (a x : Reg) (aop : BitVec 5) (aofs : BitVec 9) (scope : BitVec 3) (ord : BitVec 2)
    (sz : BitVec 3) (s : State) : Result :=
  memIssue s gd { op := .red aop.toNat, a := a, x := x, xw := regsOfSz sz, disp := aofsBytes aofs sz, index := false,
                  len := bytesOfSz sz, align := bytesOfSz sz, need := fun e => e.r && e.w, stores := true,
                  data := fun _ xv => xv, ord := ord.toNat, scope := scope.toNat, sz := sz.toNat, aux := aop.toNat }

/-- TAGRD (R277). -/
def execTagrd (gd : Guard) (t a x : Reg) (ofs : BitVec 14) (sz : BitVec 3) (s : State) : Result :=
  memIssue s gd { op := .tagrd, a := a, x := x, dst := t, dw := 1, disp := ofsBytes ofs sz, len := 64, align := 64,
                  need := fun e => e.r, raises := true, sz := sz.toNat }

/-- TAGWR (R277). -/
def execTagwr (gd : Guard) (t a x : Reg) (ofs : BitVec 14) (sz : BitVec 3) (s : State) : Result :=
  memIssue s gd { op := .tagwr, t := t, a := a, x := x, disp := ofsBytes ofs sz, len := 64, align := 64,
                  need := fun e => e.w, stores := true, data := fun tv _ => tv % 16, sz := sz.toNat }

/-! ## A thread's own accesses -/

/-- The lanes of a thread's accesses in flight, with their entries. -/
def Team.lanesOfThread (t : Team) (gi l : Nat) : List (IfrEntry × LaneOp) :=
  t.ifr.flatMap fun e => (e.lanes.filter fun o => o.who.contains (gi, l)).map fun o => (e, o)

/-- Every earlier memory access of a thread, and every access that its barriers have ordered before it, has been performed
(R121, R274). -/
def Team.performed (t : Team) (gi l : Nat) : Bool :=
  ((t.lanesOfThread gi l).all fun x => x.1.settled x.2) && t.pastBarriers [(gi, l)] t.seq

/-- Every earlier memory access of the members that issue has been performed. -/
def accessesDone (s : State) (c : Cur) (act : List Nat) : Bool :=
  match s.team? c.tid with
  | some t => act.all fun l => t.performed c.grp l
  | none => true

/-- Every earlier load and atomic of a thread has made its destination Full or been discarded (R274). -/
def Team.loaded (t : Team) (gi l : Nat) : Bool :=
  ((t.lanesOfThread gi l).all fun x => x.2.done || x.2.pieces.isEmpty || x.2.dst == .null) &&
  t.palPend.all fun p => !p.who.contains (gi, l)

/-! ## Reading a structure as a load (R376, R387, R395) -/

/-- Nothing of a thread's earlier accesses holds back a read of `n` bytes at a DIA, or in the controller's private memory: neither a common
byte, nor an acquire, nor a barrier (R282, R284). -/
def Team.mayRead (t : Team) (gi l : Nat) (prv : Bool) (dia n : Nat) : Bool :=
  ((t.lanesOfThread gi l).all fun x => x.1.settled x.2 || (!isAcquire x.1.ord && x.2.pieces.all fun q =>
    x.1.final x.2 q || q.prv != prv || !(q.dia < dia + n && dia < q.dia + q.len))) && t.pastBarriers [(gi, l)] t.seq

/-- A translated read of `n` bytes by a thread, up to its answer: it waits for the thread's own earlier accesses, for its page and for
its gate (R245, R282, R383), and keeps its translation meanwhile (R444, R450). -/
def State.probeRead (s : State) (c : Cur) (l n : Nat) (t : Team) (p : Probe) (key : Nat) : Try (State × Rd) :=
  if !t.mayRead c.grp l false p.dia n then .error (s.putProbe c.tid c.grp l (some p), .stay)
  else if !pteValid (s.pte p.dia) then
    let r := s.missAt p.dia p.va t.ctx p.kind
    .error (r.1.putProbe c.tid c.grp l (some { p with wait := r.2 }), .stay)
  else match s.gateNow t.ctx [(p.dia, sectorsOf p.dia n, true)] with
    | (s1, false) => .error (s1.putProbe c.tid c.grp l (some p), .stay)
    | (s1, true) =>
      let r := (s1.putProbe c.tid c.grp l none).homeReads key p.tag 6 p.dia n
      .ok (r.1.l1Passed t.core p.dia n false, r.2)

/-- A read of `n` bytes at an aligned address, as a load of the thread: stage A and the mark once (R450), then the read. That a range
with TCHK = 1 has its tag checked is log 84. -/
def State.descRead (s : State) (c : Cur) (l : Nat) (va : BitVec 64) (n : Nat) : Try (State × Rd) :=
  match s.team? c.tid with
  | none => .error (s, .stay)
  | some t =>
    match ((t.group c.grp).thread l).probe.bind fun p => p.key.map fun k => (p, k) with
    | some (p, key) => if p.wait != .no then .error (s, .stay) else s.probeRead c l n t p key
    | none => do
      let (s1, x) ← s.access c.tid c.grp l va (fun e => e.r)
      let s2 := s1.raiseMark c.tid x.cls
      if x.prv then
        if t.mayRead c.grp l true x.dia n then .ok (s2, ⟨Memory.readN s2.ctlMem x.dia n, false, false⟩) else .error (s2, .stay)
      else
        let tag : BitVec 4 := if x.tchk then BitVec.ofNat 4 (bitsOf va.toNat 59 56) else 0
        s2.probeRead c l n t { va := va, dia := x.dia, kind := 0, wait := .no, key := some x.key, slot := x.slot, tag := tag } x.key

/-- As `descRead`, for an instruction that may wait after it has read its descriptor, and then keeps it (R386, R419). -/
def State.descOnce (s : State) (c : Cur) (l : Nat) (va : BitVec 64) (n : Nat) : Try (State × Rd) :=
  match (s.team? c.tid).bind fun t => ((t.group c.grp).thread l).probe.bind fun p => p.got.map fun v => (p.wait, v) with
  | some (w, v) => if w != .no then .error (s, .stay) else .ok (s, ⟨v, false, false⟩)
  | none => s.descRead c l va n

/-- A thread waits with the descriptor that it has read. -/
def State.keepDesc (s : State) (c : Cur) (l : Nat) (p : Probe) : State × Fate := (s.putProbe c.tid c.grp l (some p), .stay)

/-! ## FENCE -/

/-- FENCE in one thread (R274). -/
def fenceBody (scope ord : Nat) (c : Cur) (_ : Entry) (s : State) (l : Nat) : Except Fate (State × Fate) :=
  match s.team? c.tid with
  | none => .error .stay
  | some t =>
    if (isRelease ord && !t.performed c.grp l) || (isAcquire ord && !t.loaded c.grp l) then .error .stay
    else .ok (if isAcquire ord && scope ≥ 4 then s.l1Acquire t.core else s, .next)

/-- FENCE (R274). -/
def execFence (gd : Guard) (scope : BitVec 3) (ord : BitVec 2) (s : State) : Result :=
  issue s gd [] always (runS (fenceBody scope.toNat ord.toNat))

/-- The line of an address is brought into the issuing core's L1, as far as stage A lets the address through with R and stage B
holds its page (R275). -/
def State.prefetch (s : State) (t : Team) (va : BitVec 64) : State :=
  match s.xlat t va (fun e => e.r) with
  | (s1, .ok x) =>
    if x.prv || t.tid == 0 || !pteValid (s1.pte x.dia) then s1
    else (List.range 4).foldl (fun st k => st.l1Fill t.core (x.dia / 256 * 4 + k) false) s1
  | (s1, _) => s1

/-- PREF in one thread (R275): a poisoned address is a consumption, any other failure of its operands drops it. -/
def prefBody (a x : Reg) (disp : Int) (near : Bool) (c : Cur) (_ : Entry) (s : State) (l : Nat) : Except Fate (State × Fate) :=
  match s.team? c.tid with
  | none => .error .stay
  | some t =>
    match readAll (t.group c.grp) l [(a, 2), (x, 1)] with
    | .error .stay => .error .stay
    | .error _ => .ok (s, .next)
    | .ok xs => do
      consumeAll xs
      let v (k : Nat) : Nat := (xs.getD k ⟨0, false, false, 0⟩).val
      .ok (if near then s.prefetch t (formVa (v 0) (v 1) true disp) else s, .next)

/-- PREF (R275): it changes no value; a line in the home L2 has no effect of its own (R259). -/
def execPref (gd : Guard) (a x : Reg) (ofs : BitVec 14) (scope : BitVec 3) (sz : BitVec 3) (s : State) : Result :=
  issue s gd [(a, 2), (x, 1)] always (runS (prefBody a x (ofsBytes ofs sz) (scope == 3)))

/-- CFLUSH in one thread (R276): it waits for the thread's earlier stores to the line. -/
def cflushBody (a x : Reg) (disp : Int) (scope : Nat) (c : Cur) (_ : Entry) (s : State) (l : Nat) :
    Except Fate (State × Fate) :=
  match s.team? c.tid with
  | none => .error .stay
  | some t => do
    let xs ← readAll (t.group c.grp) l [(a, 2), (x, 1)]
    consumeAll xs
    let v (k : Nat) : Nat := (xs.getD k ⟨0, false, false, 0⟩).val
    let va := formVa (v 0) (v 1) true disp
    match s.access c.tid c.grp l va (fun e => e.r) with
    | .error r => .ok r
    | .ok (s1, x) =>
      let line := x.dia / 256
      if (t.lanesOfThread c.grp l).any fun y => y.1.op.isWriteKind && y.2.pieces.any fun p =>
          !p.done && !p.prv && p.dia / 256 == line then .error .stay
      else if x.prv || !pteValid (s1.pte x.dia) then .ok (s1, .next)
      else if scope == 3 then .ok (s1.dropL1 fun y => y.core == t.core && y.dia / 4 == line, .next)
      else
        let idx := physOf (s1.pte x.dia) (line * 256) / 64
        .ok ((List.range 4).foldl (fun st k => st.writeBack (idx + k)) s1, .next)

/-- CFLUSH (R276). -/
def execCflush (gd : Guard) (a x : Reg) (ofs : BitVec 14) (scope : BitVec 3) (sz : BitVec 3) (s : State) : Result :=
  issue s gd [(a, 2), (x, 1)] always (runS (cflushBody a x (ofsBytes ofs sz) scope.toNat))

end Sys2Proof.Machine
end

