-- ==== Sys2Proof/Machine/Protect.lean ====
section
/-! DEFINITION. Stage-B maintenance (R250-R252: RNGWR, RNGINV, DIRTYHV), declassification (R453, R455: DECLS), key slots
(R439-R444, R456: KSEL). -/

namespace Sys2Proof.Machine

/-- The group of the issuing team. -/
def State.grp (s : State) (c : Cur) : Group :=
  match s.team? c.tid with
  | some t => t.group c.grp
  | none => Group.empty

/-- Change the issuing group. -/
def State.onGroup (s : State) (c : Cur) (f : Group → Group) : State := s.updGroup c.tid c.grp f

/-- Write a result register, Full and not poisoned (R250, R351), and a predicate. -/
def State.result (s : State) (c : Cur) (l : Nat) (dst : Ref) (w v pd : Nat) (p : Bool) : State :=
  s.onGroup c fun g => (writeRef g l dst w v false false).updThread l fun t => t.setPred pd p

/-- Write a predicate only. -/
def State.predResult (s : State) (c : Cur) (l pd : Nat) (p : Bool) : State :=
  s.onGroup c fun g => g.updThread l fun t => t.setPred pd p

/-- Read one source whose poison is a consumption. -/
def readClean (g : Group) (l : Nat) (r : Reg) (w : Nat) : Except Fate Nat := do
  let x ← readSrc g l r w
  consumeAll [x]
  .ok x.val

/-- R251: a DIA of a page run: 48 bits, a multiple of 65,536, in a partition; TRAPA is the operand (log 36). -/
def State.pageArg (s : State) (a : Nat) : Except Fate Partition :=
  match s.part? (a / 2 ^ 44) with
  | some p => if a < 2 ^ 48 && a % 65536 == 0 then .ok p else .error (.trap (mkTrap .address a))
  | none => .error (.trap (mkTrap .address a))

/-! ## RNGWR, RNGINV, DIRTYHV -/

/-- R240: the FRAME of a valid entry lies in the panel's channel group. -/
def frameOk (n : Nat) (e : BitVec 64) : Bool := bitsOf e.toNat 39 36 == n && bitsOf e.toNat 35 16 < 0x3C000

/-- The test of R251 on a new page entry. -/
def pteOk (n : Nat) (old new : BitVec 64) : Bool :=
  new &&& 0x3FFE00000000FFFF == 0 && pteOwner new ≤ 256 && (!pteValid new || frameOk n new) &&
    (!pteValid old || !pteValid new || bitsOf new.toNat 39 16 == bitsOf old.toNat 39 16)

/-- RNGWR in one thread (R251). -/
def rngwrBody (d a : Reg) (pd : Nat) (c : Cur) (_ : Entry) (s : State) (l : Nat) : Except Fate (State × Fate) := do
  let g := s.grp c
  let v ← readClean g l a 4
  let dst ← dstReady g l d 2
  let dia := v % 2 ^ 64
  let new := BitVec.ofNat 64 (v / 2 ^ 64)
  let _ ← s.pageArg dia
  match s.home dia with
  | none => .error (.trap (mkTrap .address dia))
  | some (n, i) =>
    let p := s.panel n
    let old := p.pte i
    if i < p.ptlen && pteOk n old new then
      .ok ((s.updPanel n fun q => q.setPte i new).result c l dst 2 old.toNat pd true, .next)
    else .ok (s.predResult c l pd false, .next)

/-- RNGWR (R251). -/
def execRngwr (gd : Guard) (d a : Reg) (pd : BitVec 3) (s : State) : Result :=
  privileged (.rngwr gd d a pd) s (issue s gd [(a, 4)] always (runS (rngwrBody d a pd.toNat)))

/-- A code fetch that no IFR records: no CFETCH in flight waits for it (R318, R331). -/
def State.looseFetch (s : State) (x : Segment) : Bool :=
  !x.resident && !s.teams.any fun t => t.core == x.core && t.ctx == x.ctx && t.ifr.any fun e =>
    e.op == .cfetch && e.lanes.any fun o => o.a == x.page && !o.done

/-- An access that has been translated, has not been performed and stands in no IFR: a code fetch, a write of the device's, a read that
an instruction or a placement has under way (R251, R456). -/
def State.loose (s : State) (fetch : Segment → Bool) (write : LateWrite → Bool) (read : Team → Probe → Bool) : Bool :=
  let held (t : Team) (p : Option Probe) : Bool := p.any fun q => q.key.isSome && read t q
  (s.code.any fun x => s.looseFetch x && fetch x) || s.late.any write ||
    s.teams.any fun t => held t t.tread || t.groups.any fun g => g.lanes.any fun th => held t th.probe

/-- RNGINV.a in one thread (R251): it waits for the accesses already translated. -/
def rnginvABody (a : Reg) (c : Cur) (_ : Entry) (s : State) (l : Nat) : Except Fate (State × Fate) := do
  let v ← readClean (s.grp c) l a 1
  let s1 : State := { s with ctxs := s.ctxs.map fun x => if x.valid && x.id.toNat == v then { x with rr := [] } else x }
  .ok (s1, if s.loose (·.ctx.toNat == v) (·.ctx.toNat == v) (fun t _ => t.ctx.toNat == v) then .stay else .next)

/-- RNGINV.a (R251). -/
def execRnginvA (gd : Guard) (a : Reg) (s : State) : Result :=
  privileged (.rnginvA gd a) s (issue s gd [(a, 1)] always (runS (rnginvABody a)))

/-- The DIAs of a run of pages from `a`: page `i` is left out where it would lie beyond the partition's space (R251). -/
def pageRun (a n : Nat) : List Nat :=
  ((List.range n).map fun i => a + i * 65536).filter fun d => d / 2 ^ 44 == a / 2 ^ 44

/-- The sectors of a page's frame. -/
def pageSectors (e : BitVec 64) : List Nat := (List.range 1024).map fun k => physOf e 0 / 64 + k

/-- R251: revoke one page: VALID becomes 0, the L2 writes back or discards its dirty sectors, every L1 of the partition
drops its sectors. -/
def State.revokePage (s : State) (p : Partition) (discard : Bool) (dia : Nat) : State :=
  let e := s.pte dia
  if !pteValid e then s
  else
    let lo := physOf e 0 / 64
    let hit := (s.dirty.filter fun d => lo ≤ d.idx && d.idx < lo + 1024).map (·.idx)
    let s1 := hit.foldl (fun st i => if discard then st.dropSector i else st.writeBack i) s
    (s1.setPte dia (e &&& ~~~(1#64 <<< 63))).dropL1 fun x => p.hasCore x.core && x.dia / 1024 == dia / 65536

/-- RNGINV.b in one thread (R251). -/
def rnginvBBody (a : Reg) (discard : Bool) (n : Nat) (c : Cur) (_ : Entry) (s : State) (l : Nat) :
    Except Fate (State × Fate) := do
  let v ← readClean (s.grp c) l a 2
  let p ← s.pageArg v
  .ok ((pageRun v n).foldl (fun st d => st.revokePage p discard d) s, .next)

/-- RNGINV.b (R251). -/
def execRnginvB (gd : Guard) (a : Reg) (disc : BitVec 1) (n1 : BitVec 12) (s : State) : Result :=
  privileged (.rnginvB gd a disc n1) s (issue s gd [(a, 2)] always (runS (rnginvBBody a (disc == 1) (n1.toNat + 1))))

/-- R249, R252: DIRTY of a valid page is read and cleared. -/
def State.harvest (s : State) (dia : Nat) : State × Bool :=
  let e := s.pte dia
  if pteValid e then (s.setPte dia (e &&& ~~~(1#64 <<< 62)), e.getLsbD 62) else (s, false)

/-- R252: harvest pages `i` onwards of a run, giving the mask from bit `i` on. -/
def State.harvestRun (s : State) : Nat → List Nat → State × Nat
  | _, [] => (s, 0)
  | i, d :: ds =>
    let r := s.harvest d
    let q := r.1.harvestRun (i + 1) ds
    (q.1, (if r.2 then 2 ^ i else 0) + q.2)

/-- DIRTYHV in one thread (R252). -/
def dirtyhvBody (d a : Reg) (n : Nat) (c : Cur) (_ : Entry) (s : State) (l : Nat) : Except Fate (State × Fate) := do
  let g := s.grp c
  let v ← readClean g l a 2
  let dst ← dstReady g l d 1
  let _ ← s.pageArg v
  let r := s.harvestRun 0 (pageRun v n)
  .ok (r.1.result c l dst 1 r.2 7 false, .next)

/-- DIRTYHV (R252). -/
def execDirtyhv (gd : Guard) (d a : Reg) (n1 : BitVec 5) (s : State) : Result :=
  privileged (.dirtyhv gd d a n1) s (issue s gd [(a, 2)] always (runS (dirtyhvBody d a (n1.toNat + 1))))

/-! ## DECLS -/

/-- The segment that a team holds for an address (R317). -/
def State.segmentAt (s : State) (t : Team) (pc : BitVec 64) : Option Segment :=
  s.code.find? fun x => x.core == t.core && x.ctx == t.ctx && x.page == bitsOf pc.toNat 55 12 && x.holders.contains t.tid

/-- DECLS in one thread (R455). -/
def declsBody (gd : Guard) (a : Reg) (c : Cur) (e : Entry) (s : State) (l : Nat) : Except Fate (State × Fate) :=
  match s.team? c.tid with
  | none => .error .stay
  | some t => do
    match (if t.tid == 0 then none else s.segmentAt t e.pc) with
    | none => .error (.trap (wordTrap .privilege (.decls gd a)))
    | some x =>
      if !x.declass then .error (.trap (wordTrap .privilege (.decls gd a)))
      let v ← readClean (t.group c.grp) l a 1
      .ok (s.updTeam c.tid fun u => { u with cls := clsMeet u.cls (BitVec.ofNat 8 v) }, .next)

/-- DECLS (R455). -/
def execDecls (gd : Guard) (a : Reg) (s : State) : Result :=
  issue s gd [(a, 1)] always (runS (declsBody gd a))

/-! ## KSEL -/

/-- R439: the slot has an owner. -/
def State.slotOwned (s : State) (slot : Nat) : Bool :=
  (slot < 12 && (s.part? slot).isSome) || (16 ≤ slot && slot ≤ 271)

/-- A table of 64-bit entries that was written under another key (R442, R443); an entry of 0 is not listed. -/
def veiledTable (key who which n : Nat) : List (Nat × BitVec 64) :=
  ((List.range n).map fun i => (i, Config.veiled key who which i)).filter fun x => x.2 != 0

/-- A page table that was written under another key; an entry whose FRAME no page of the panel may have reads as VALID = 0, as no
program can address what lies there (R16, R240, log 85). -/
def veiledPages (key n len : Nat) : List (Nat × BitVec 64) :=
  (((List.range len).map fun i => (i, Config.veiled key n 0 i)).map fun x =>
    (x.1, if frameOk n x.2 then x.2 else x.2 &&& ~~~(1#64 <<< 63))).filter fun x => x.2 != 0

/-- A fault record, read under another key (R244, Table 5). -/
def FaultRec.veiled (r : FaultRec) (key first i : Nat) : FaultRec :=
  let w (j : Nat) : BitVec 64 := Config.veiled key first 2 (8 * i + j)
  let d2 := (w 2).toNat
  { r with va := w 0, dia := (w 1).toNat % 2 ^ 48, ctx := BitVec.ofNat 32 (bitsOf d2 63 32), panel := bitsOf d2 27 24
           merge := bitsOf d2 23 16, kind := bitsOf d2 3 0, time := w 3 }

/-- R442, R443: a partition's slot is filled anew, and what its page tables, tag stores, fault record queue, residency logs and context
table hold is read under the new key from then on. -/
def State.rekey (s : State) (first key : Nat) : State :=
  match s.part? first with
  | none => s
  | some p =>
    if p.tkey == 0 then s.updPart first fun q => { q with tkey := key }
    else
      let s1 := s.updPart first fun q => { q with
        tkey := key
        queue := q.queue.zipIdx.map fun x => x.1.veiled key first x.2
        res := q.res.veiled key first }
      { s1 with
        panels := s1.panels.map fun q =>
          if first ≤ q.num && q.num < first + p.size then
            { q with ptes := veiledPages key q.num q.ptlen, tags := veiledTable key q.num 1 (16 * q.ptlen) } else q
        ctxs := s1.ctxs.zipIdx.map fun x =>
          if x.1.part == first then
            { x.1 with desc := (List.range 16).map fun j => Config.veiled key first 4 (16 * x.2 + j) } else x.1 }

/-- R440: fill a slot with fresh keys. -/
def State.genKey (s : State) (slot : Nat) : State :=
  let k := s.nextKey
  let s1 : State := { s with keys := s.keys ++ [⟨slot, k, Config.keyData k, Config.keyInteg k⟩], nextKey := k + 1 }
  if slot < 12 then s1.rekey slot k else s1

/-- R440: empty a slot; its keys are overwritten. -/
def State.zeroKey (s : State) (slot : Nat) : State := { s with keys := s.keys.filter (·.slot != slot) }

/-- KSEL.gen in one thread (R456). -/
def kselGenBody (slot pd : Nat) (c : Cur) (_ : Entry) (s : State) (l : Nat) : Except Fate (State × Fate) :=
  let ok := s.slotOwned slot && (s.keyOf slot).isNone
  .ok ((if ok then s.genKey slot else s).predResult c l pd ok, .next)

/-- KSEL.gen (R456). -/
def execKselGen (gd : Guard) (slot : BitVec 9) (pd : BitVec 3) (s : State) : Result :=
  privileged (.kselGen gd slot pd) s (issue s gd [] always (runS (kselGenBody slot.toNat pd.toNat)))

/-- KSEL.zero in one thread (R456): it waits for every access translated with the slot, which uses the slot's key until then (R444); then
the slot is emptied. -/
def kselZeroBody (slot pd : Nat) (c : Cur) (_ : Entry) (s : State) (l : Nat) : Except Fate (State × Fate) :=
  match (if s.slotOwned slot then s.keyOf slot else none) with
  | none => .ok (s.predResult c l pd false, .next)
  | some k =>
    if s.loose (·.key == k) (·.key == k) (fun _ p => p.key == some k) then .ok (s, .stay)
    else .ok ((s.zeroKey slot).predResult c l pd true, .next)

/-- KSEL.zero (R456). -/
def execKselZero (gd : Guard) (slot : BitVec 9) (pd : BitVec 3) (s : State) : Result :=
  privileged (.kselZero gd slot pd) s (issue s gd [] always (runS (kselZeroBody slot.toNat pd.toNat)))

/-- `n` bytes at an address of a studio-controller thread, read as a load of it (R522); a poisoned byte is a
consumption. -/
def State.ctlRead (s : State) (va n : Nat) : Except Fate (State × Nat) :=
  match s.ctlTranslate (BitVec.ofNat 64 va), s.ctlTranslate (BitVec.ofNat 64 (va + n - 1)) with
  | .ok x, .ok y =>
    if x.prv != y.prv then .error (.trap (mkTrap .address va))
    else if x.prv then .ok (s, Memory.readN s.ctlMem x.dia n)
    else
      let r := s.homeReads x.key 0 (n / 64 + 2) x.dia n
      if r.2.poison then .error .consume else .ok (r.1, r.2.val)
  | .ok _, _ => .error (.trap (mkTrap .address (va + n - 1)))
  | _, _ => .error (.trap (mkTrap .address va))

/-- Nothing of a controller thread's earlier accesses holds back such a read (R282). -/
def State.ctlOrdered (s : State) (c : Cur) (l va n : Nat) : Bool :=
  match s.team? c.tid, s.ctlTranslate (BitVec.ofNat 64 va) with
  | some t, .ok x => t.mayRead c.grp l x.prv x.dia n
  | _, _ => true

/-- Digests a declassification list holds (R453). -/
def declCapacity : Nat := 64

/-- KSEL.dcl and KSEL.undcl in one thread (R456). -/
def kselListBody (add : Bool) (a : Reg) (slot pd : Nat) (c : Cur) (_ : Entry) (s : State) (l : Nat) :
    Except Fate (State × Fate) := do
  let va ← readClean (s.grp c) l a 2
  match (if slot < 12 then s.part? slot else none) with
  | none => .ok (s.predResult c l pd false, .next)
  | some p =>
    if !s.ctlOrdered c l va 48 then .error .stay
    let (s1, v) ← s.ctlRead va 48
    let h := BitVec.ofNat 384 v
    let has := p.decls.contains h
    let ok := if add then !has && p.decls.length < declCapacity else has
    let s2 := if !ok then s1
      else s1.updPart slot fun q => { q with decls := if add then q.decls ++ [h] else q.decls.erase h }
    .ok (s2.predResult c l pd ok, .next)

/-- KSEL.dcl (R456). -/
def execKselDcl (gd : Guard) (a : Reg) (slot : BitVec 9) (pd : BitVec 3) (s : State) : Result :=
  privileged (.kselDcl gd a slot pd) s (issue s gd [(a, 2)] always (runS (kselListBody true a slot.toNat pd.toNat)))

/-- KSEL.undcl (R456). -/
def execKselUndcl (gd : Guard) (a : Reg) (slot : BitVec 9) (pd : BitVec 3) (s : State) : Result :=
  privileged (.kselUndcl gd a slot pd) s (issue s gd [(a, 2)] always (runS (kselListBody false a slot.toNat pd.toNat)))

/-- KSEL.stat in one thread (R456). -/
def kselStatBody (d : Reg) (slot : Nat) (c : Cur) (_ : Entry) (s : State) (l : Nat) : Except Fate (State × Fate) := do
  let dst ← dstReady (s.grp c) l d 2
  .ok (s.result c l dst 2 (if (s.keyOf slot).isSome then 1 else 0) 7 false, .next)

/-- KSEL.stat (R456). -/
def execKselStat (gd : Guard) (d : Reg) (slot : BitVec 9) (s : State) : Result :=
  privileged (.kselStat gd d slot) s (issue s gd [] always (runS (kselStatBody d slot.toNat)))

end Sys2Proof.Machine
end

