-- ==== Sys2Proof/Machine/Code.lean ====
section
/-! DEFINITION. The code store (R317-R323, R453): CFETCH, CWAIT, CEVICT, JMPF, CALLF, the completion of a code fetch, and
what a verdict of refusal does to one (R319, R320). -/

namespace Sys2Proof.Machine

/-- The page of an address: bits [55:12] (R317). -/
def pageOf (v : Nat) : Nat := bitsOf v 55 12

/-- Segments of a core's code store (R317). -/
def segmentCapacity : Nat := 64

/-- The segment of a page in a core's store. -/
def State.segment? (s : State) (core : Nat) (ctx : BitVec 32) (page : Nat) : Option Segment :=
  s.code.find? fun x => x.core == core && x.ctx == ctx && x.page == page

/-- Two records are of one segment. -/
def Segment.is (x y : Segment) : Bool := x.core == y.core && x.ctx == y.ctx && x.page == y.page

def State.updSegment (s : State) (x : Segment) (f : Segment → Segment) : State :=
  { s with code := s.code.map fun y => if y.is x then f y else y }

/-- A core has a Free segment. -/
def State.segmentFree (s : State) (core : Nat) : Bool :=
  (s.code.filter fun x => x.core == core).length < segmentCapacity

/-- A team joins the holders of a segment. -/
def Segment.join (x : Segment) (tid : Nat) : Segment :=
  if x.holders.contains tid then x else { x with holders := x.holders ++ [tid] }

/-- A team leaves the holders of a page; a segment nobody holds becomes Free (Table 7). -/
def State.leavePage (s : State) (t : Team) (page : Nat) : State :=
  let leave (x : Segment) : Segment :=
    if x.core == t.core && x.ctx == t.ctx && x.page == page then { x with holders := x.holders.erase t.tid } else x
  { s with code := (s.code.map leave).filter (fun x => !x.holders.isEmpty) }

/-- The pages a team holds. -/
def State.heldPages (s : State) (tid : Nat) : List Nat :=
  (s.code.filter fun x => x.holders.contains tid).map (·.page)

/-- R320, R322: a page of a preload-all team's image that it has not lost. -/
def Team.exempt (t : Team) (page : Nat) : Bool := t.preload && !t.lost.contains page

/-- A team takes a hold on a page through its translation: it joins the page's segment, or a Free segment becomes Fetching;
false where no segment is Free (R322). -/
def State.takeHold (s : State) (t : Team) (page : Nat) (x : Xlat) : State × Bool :=
  match s.segment? t.core t.ctx page with
  | some y => (s.updSegment y fun z => z.join t.tid, true)
  | none =>
    if s.segmentFree t.core then
      ({ s with code := s.code ++ [⟨t.core, t.ctx, page, false, [t.tid], [], [], false, x.dia, x.key, .no⟩] }, true)
    else (s, false)

/-! ## CFETCH, CWAIT, CEVICT (R322) -/

/-- CFETCH in one thread; the lanes gathered are those of its IFR entry (R334, kind 15). A page that the team holds already, or that its
launch holds for it, changes nothing. -/
def cfetchLane (a : Reg) (pd : Nat) (c : Cur) (g0 : Group) (σ : State × List LaneOp) (l : Nat) :
    Except Fate ((State × List LaneOp) × Fate) := do
  let v ← readClean g0 l a 2
  let page := pageOf v
  match σ.1.team? c.tid with
  | none => .error .stay
  | some t =>
    if t.tid == 0 then .ok (σ, .next)
    else if t.exempt page || (σ.1.heldPages t.tid).contains page then .ok ((σ.1.predResult c l pd true, σ.2), .next)
    else match σ.1.access c.tid c.grp l (BitVec.ofNat 64 (page * 4096)) (fun e => e.x) with
      | .error r => .ok ((r.1, σ.2), r.2)
      | .ok (s1, x) =>
        let r := s1.takeHold t page x
        let s2 := if r.2 then r.1.raiseMark c.tid x.cls else r.1
        let busy := match s2.segment? t.core t.ctx page with
          | some y => !y.resident
          | none => false
        let o : LaneOp := { lane := l, dst := .null, a := page, b := 0, done := !busy, fw := false, who := [(c.grp, l)] }
        .ok ((s2.predResult c l pd r.2, if busy then σ.2 ++ [o] else σ.2), .next)

/-- The issue of CFETCH: one IFR entry for the lanes whose fetch is in progress (R331). -/
def cfetchRun (a : Reg) (pd : Nat) (c : Cur) (e : Entry) (act : List Nat) (s : State) : State × List (Nat × Fate) :=
  let r := foldLanes (cfetchLane a pd c (s.grp c)) act (s, [])
  let mk (idx seq : Nat) : IfrEntry :=
    { idx := idx, seq := seq, op := .cfetch, grp := c.grp, ord := 0, scope := 0, sz := 0, aux := 0, hnd := 0,
      dwords := 0, pc := e.pc, lanes := r.1.2 }
  (if r.1.2.isEmpty then r.1.1.updTeam c.tid fun u => { u with seq := u.seq + oneEntry act }
   else r.1.1.updTeam c.tid fun u => u.newEntry mk, r.2)

/-- CFETCH (R322). -/
def execCfetch (gd : Guard) (a : Reg) (pd : BitVec 3) (s : State) : Result :=
  issue s gd [(a, 2)] (ifrFree oneEntry) (cfetchRun a pd.toNat)

/-- CWAIT in one thread (R322). -/
def cwaitBody (a : Reg) (c : Cur) (_ : Entry) (s : State) (l : Nat) : Except Fate (State × Fate) := do
  let v ← readClean (s.grp c) l a 2
  match s.team? c.tid with
  | none => .error .stay
  | some t =>
    if t.tid == 0 then .ok (s, .next)
    else match s.segment? t.core t.ctx (pageOf v) with
      | some x =>
        if !x.holders.contains t.tid then .error (.trap (mkTrap .codeAbsent v))
        else
          let put (w : Option (BitVec 64)) : State := s.onGroup c fun g => g.updThread l fun th => { th with cwait := w }
          if x.resident then .ok (put none, .next) else .ok (put (some (BitVec.ofNat 64 v)), .stay)
      | none => .error (.trap (mkTrap .codeAbsent v))

/-- CWAIT (R322). -/
def execCwait (gd : Guard) (a : Reg) (s : State) : Result := issue s gd [(a, 2)] always (runS (cwaitBody a))

/-- CEVICT in one thread (R322). -/
def cevictBody (a : Reg) (c : Cur) (_ : Entry) (s : State) (l : Nat) : Except Fate (State × Fate) := do
  let v ← readClean (s.grp c) l a 2
  match s.team? c.tid with
  | none => .error .stay
  | some t => .ok (if t.tid == 0 || t.exempt (pageOf v) then s else s.leavePage t (pageOf v), .next)

/-- CEVICT (R322). -/
def execCevict (gd : Guard) (a : Reg) (s : State) : Result := issue s gd [(a, 2)] always (runS (cevictBody a))

/-! ## JMPF and CALLF (R323) -/

/-- R321: a team may issue from an address; the controller from its image (R522). -/
def State.codeAt (s : State) (t : Team) (pc : Nat) : Bool :=
  if t.tid == 0 then pc + 8 ≤ s.ctlImage
  else match s.segmentAt t (BitVec.ofNat 64 pc) with
    | some x => x.resident
    | none => false

/-- The check of a far transfer (R21, R323). -/
def State.checkFar (s : State) (t : Team) (tgt : BitVec 64) : Except Fate Unit :=
  if tgt.toNat % 8 != 0 then .error (.trap ⟨.align, 0, tgt⟩)
  else if !s.codeAt t tgt.toNat then .error (.trap ⟨.codeAbsent, 0, tgt⟩)
  else .ok ()

/-- JMPF and CALLF in one thread: `link` writes V0:V1; an indirect JMPF takes its priority from the pair. -/
def farBody (link : Bool) (a : Reg) (prio : BitVec 8) (disp : BitVec 32) (c : Cur) (e : Entry) (s : State) (l : Nat) :
    Except Fate (State × Fate) :=
  match s.team? c.tid with
  | none => .error .stay
  | some t => do
    let g := t.group c.grp
    let (tgt, pr) ← if a.isNull then .ok (directTarget e disp, prio) else do
      let x ← readTarget g l a
      .ok (x.1, if link then prio else x.2)
    s.checkFar t tgt
    let g' ← if link then writeLink e g g l else .ok g
    .ok (s.setTeam (t.setGroup c.grp g'), .go tgt pr)

/-- JMPF (R323). -/
def execJmpf (gd : Guard) (a : Reg) (pr : BitVec 8) (disp : BitVec 32) (s : State) : Result :=
  issue s gd [(a, 2)] always (runS (farBody false a pr disp))

/-- CALLF (R323). -/
def execCallf (gd : Guard) (a : Reg) (pr : BitVec 8) (disp : BitVec 32) (s : State) : Result :=
  issue s gd [(a, 2)] always (runS (farBody true a pr disp))

/-! ## Completion of a code fetch (R319) -/

/-- Read the sectors of a page: bytes, and the indices of the words that a poisoned sector holds. -/
def readPage (dia key : Nat) : Nat → Nat → State → State × Nat × List Nat
  | 0, _, s => (s, 0, [])
  | n + 1, k, s =>
    let r := s.homeRead (dia + 64 * k) 64 key 0
    let q := readPage dia key n (k + 1) r.1
    (q.1, r.2.val + 2 ^ 512 * q.2.1, (if r.2.poison then (List.range 8).map (8 * k + ·) else []) ++ q.2.2)

/-- The lanes of CFETCH entries that wait for a page are complete, and placement fetches of it are over (R320, R331). -/
def Team.fetched (core : Nat) (ctx : BitVec 32) (page : Nat) (t : Team) : Team :=
  if t.core != core || t.ctx != ctx then t
  else Team.freeFinished { t with
    awaiting := t.awaiting.filter (· != page)
    ifr := t.ifr.map fun e =>
      if e.op == .cfetch then { e with lanes := e.lanes.map fun o => if o.a == page then { o with done := true } else o }
      else e }

/-- A segment has its 512 words (R317, R453). -/
def State.landSegment (s : State) (x : Segment) : State :=
  let (s1, v, bad) := readPage x.dia x.key 64 0 s
  let decl := match s1.ctx? x.ctx with
    | some c => match s1.part? c.part with
      | some p => p.decls.contains (sha384 (bytesOf 4096 v))
      | none => false
    | none => false
  let s2 := s1.updSegment x fun y =>
    { y with resident := true, bytes := Memory.writeN [] 0 4096 v, bad := bad, declass := decl }
  { s2 with teams := s2.teams.map (Team.fetched x.core x.ctx x.page) }

/-- CODE_FETCH_COMPLETION (R317, R319): the `seg`-th segment of a core that is not Free. -/
def execCodeFetchCompletion (core seg : Nat) (s : State) : Result :=
  .next (match (s.code.filter fun x => x.core == core)[seg]? with
    | none => s
    | some x =>
      if x.resident || x.wait != .no then s
      else if pteValid (s.pte x.dia) then
        let r := s.gateAll x.ctx (.code x.core x.ctx x.page) [(x.dia, 64, true)]
        if r.2 then r.1.landSegment x else r.1
      else
        let r := s.missAt x.dia (BitVec.ofNat 64 (x.page * 4096)) x.ctx 5
        r.1.updSegment x fun y => { y with wait := r.2 })

/-- The members that wait at a CWAIT on a page take ADDRESS (R319). -/
def Team.failWaiters (t : Team) (page : Nat) : Team :=
  { t with groups := t.groups.map fun g => (List.range g.lanes.length).foldl (fun g l =>
      match g.entryOf l with
      | none => g
      | some e =>
        if !e.blocked.getLsbD l then g
        else match (g.thread l).cwait with
          | some v =>
            if pageOf v.toNat == page then (g.pend l ⟨.address, 0, v⟩ e.pc).unblock l else g
          | none => g) g }

/-- R319, R320: a refused fetch makes its segment Free. -/
def State.refuseSegment (s : State) (x : Segment) : State :=
  { s with
    code := s.code.filter fun y => !y.is x
    teams := s.teams.map fun t =>
      if x.holders.contains t.tid then
        let t1 := (t.failWaiters x.page).fetched x.core x.ctx x.page
        if t.awaiting.contains x.page then { t1 with lost := t1.lost ++ [x.page] } else t1
      else t }

/-- What waited for a saved team when it was saved is refused (R246, R319, R320): it loses the page. -/
def Team.refuseFetch (w : Wait) (t : Team) (p : Probe) : Team :=
  if p.wait != w then t
  else
    let page := bitsOf p.va.toNat 55 12
    let t1 := { t with fetches := t.fetches.filter (· != p) }
    if p.kind == 5 then
      let t2 := (t1.failWaiters page).fetched t.core t.ctx page
      { t2 with holds := t2.holds.filter (· != page), lost := if t.preload then t2.lost ++ [page] else t2.lost }
    else t1

end Sys2Proof.Machine
end

