-- ==== Sys2Proof/Machine/Fetch.lean ====
section
/-! DEFINITION. The word at a PC, and what performing it comes to (R36, R317, R321, R461). -/

namespace Sys2Proof.Machine

/-! ## The word at a PC -/

/-- The word that a team issues from an address, and whether it is poisoned (R317, R319, R461, R522). -/
def State.fetchWord (s : State) (t : Team) (pc : BitVec 64) : Option (BitVec 64 × Bool) :=
  if t.tid == 0 then
    if s.codeAt t pc.toNat then some (BitVec.ofNat 64 (Memory.readN s.ctlMem pc.toNat 8), false) else none
  else match s.segmentAt t pc with
    | some x =>
      if x.resident then
        some (BitVec.ofNat 64 (Memory.readN x.bytes (pc.toNat % 4096) 8), x.bad.contains (pc.toNat % 4096 / 8))
      else none
    | none => none

/-- CODE_ABSENT (R321): every member of the issuing entry traps with its PC. -/
def execCodeAbsent (s : State) : Result := trapAll s fun e => ⟨.codeAbsent, 0, e.pc⟩

/-- ILLEGAL_OPCODE (R22, R36): every member of the issuing entry traps with the word. -/
def execIllegalOpcode (w : BitVec 64) (s : State) : Result := trapAll s fun _ => ⟨.illegalOpcode, 0, w⟩

/-- R36 step 2: every member traps with the word. -/
def illegalEncoding (w : BitVec 64) (s : State) : Result := trapAll s fun _ => ⟨.illegalEncoding, 0, w⟩

/-- A poisoned word is consumed by every member of the entry (R461, Table 2). -/
def consumeWord (s : State) : Result :=
  match s.issuing with
  | none => .fault .noIssuingEntry
  | some (c, _, _, e) => .next (finishIssue s c e ((lanesOf e.mask).map fun l => (l, .consume)))

/-- What an issue by the current entry does: its word decoded under R36, performed by `run`. -/
def State.performWord (run : Instr → State → Result) (s : State) : Result :=
  match s.issuing with
  | none => .fault .noIssuingEntry
  | some (_, t, _, e) =>
    match s.fetchWord t e.pc with
    | none => run .codeAbsent s
    | some (w, bad) =>
      if bad then consumeWord s
      else match decode w with
        | .ok i => run i s
        | .error _ => illegalEncoding w s

end Sys2Proof.Machine
end

