-- ==== Sys2Proof/Machine/Palette.lean ====
section
/-! DEFINITION. The palette (R254-R257) and its instructions: LDP, STP, ATOMP, ACASP (R265-R273), and the barrier objects
of ARRIVE and AWAIT (R130-R133). -/

namespace Sys2Proof.Machine

/-- Read bytes of a team's allotment, with poison when a word they touch is uncorrectable (R256). -/
def Team.palRead (t : Team) (off n : Nat) : Nat × Bool :=
  (Memory.readN t.pal off n, t.palBad.any fun w => off < 4 * w + 4 && 4 * w < off + n)

/-- Write bytes of a team's allotment: a word covered whole has no error any more, one covered in part keeps its
uncorrectable error (R256). -/
def Team.palWrite (t : Team) (off n v : Nat) : Team :=
  { t with pal := Memory.writeN t.pal off n v, palBad := t.palBad.filter fun w => !(off ≤ 4 * w && 4 * w + 4 ≤ off + n) }

/-- A word is written so that it decodes as uncorrectable (R461). -/
def Team.palPoison (t : Team) (w : Nat) : Team :=
  if t.palBad.contains w then t else { t with palBad := t.palBad ++ [w] }

/-- An offset as TRAPA holds it (R266): ALIGN holds one below zero as its 32 bits, zero-extended (log 67). -/
def offTrap (c : Cause) (off : Int) : Trap :=
  ⟨c, 0, if c == .align && off < 0 then BitVec.ofNat 64 (off % 2 ^ 32).toNat else BitVec.ofInt 64 off⟩

/-- R254, R265, R296: a palette access of `n` bytes at an offset lies in the allotment and meets no lock. -/
def palCheck (s : State) (t : Team) (off : Int) (n : Nat) (store : Bool) : Except Fate Nat :=
  if off < 0 || off + n > t.palSize then .error (.trap (offTrap .paletteBounds off))
  else match s.lockHit t (some t.tid) off.toNat (off.toNat + n) store with
    | some b => .error (.trap (offTrap .rangeLock b))
    | none => .ok off.toNat

/-- The order of a palette access towards the thread's memory accesses: it follows an outstanding acquire, and a release
follows everything, what the thread's barriers have ordered before it included (R121, R271, R284). -/
def Team.palOrdered (t : Team) (gi l ord : Nat) : Bool :=
  ((t.lanesOfThread gi l).all fun x => x.2.pieces.all fun p => x.1.final x.2 p || (!isRelease ord && !isAcquire x.1.ord)) &&
    (!isRelease ord || t.pastBarriers [(gi, l)] t.seq)

/-- What a palette instruction does with the old bytes, the data and the compared value: the new bytes, if it writes. -/
structure PalSpec where
  t : Reg := Reg.null
  tw : Nat := 1
  a : Reg
  x : Reg := Reg.null
  xw : Nat := 1
  dst : Reg := Reg.null
  dw : Nat := 0
  disp : Int
  index : Bool := true
  len : Nat
  store : Bool
  ord : Nat
  cas : Bool := false
  write : Nat → Bool → Nat → Nat → Option Nat := fun _ _ _ _ => none

def PalSpec.srcs (m : PalSpec) : List (Reg × Nat) := [(m.t, m.tw), (m.a, 1), (m.x, m.xw)]

/-- A palette instruction in one thread (R265), for the threads `who`: performed at once; a destination is Pending until it is
written. A compare-and-swap that fails keeps only the acquire part of its order (R273). -/
def palLane (m : PalSpec) (c : Cur) (g0 : Group) (who : Nat → List (Nat × Nat)) (s : State) (l : Nat) : Except Fate (State × Fate) :=
  match s.team? c.tid with
  | none => .error .stay
  | some t => do
    let xs ← readAll g0 l m.srcs
    consumeAll xs
    let v (k : Nat) : Nat := (xs.getD k ⟨0, false, false, 0⟩).val
    let off : Int := v 1 + (if m.index then (v 2 : Int) else 0) + m.disp
    if off % m.len != 0 then .error (.trap (offTrap .align off))
    let o ← palCheck s t off m.len m.store
    let dst ← dstReady g0 l m.dst m.dw
    let (old, bad) := t.palRead o m.len
    let new := m.write old bad (v 0) (v 2)
    if !t.palOrdered c.grp l (if m.cas && new.isNone then m.ord % 2 else m.ord) then .error .stay
    let t1 := match new with
      | some n => t.palWrite o m.len n
      | none => t
    if dst == .null then .ok (s.setTeam t1, .next)
    else
      let t2 := t1.updGroup c.grp fun g => markRef g l dst m.dw .pending
      let p : PalPend := ⟨s.fresh, who l, dst, m.dw, old, List.replicate m.dw bad⟩
      .ok ({ s.setTeam { t2 with palPend := t2.palPend ++ [p] } with fresh := s.fresh + 1 }, .next)

/-- The issue of a palette instruction; a uniform one makes one access (R263). -/
def palRun (m : PalSpec) (uni : Bool) (c : Cur) (_ : Entry) (act : List Nat) (s : State) : State × List (Nat × Fate) :=
  match s.team? c.tid with
  | none => (s, [])
  | some t =>
    let r := foldLanes (palLane m c (t.group c.grp) (issuers uni c act)) (if uni then act.take 1 else act) s
    (r.1, shareFates uni act r.2)

def palIssue (s : State) (gd : Guard) (m : PalSpec) : Result :=
  issue s gd m.srcs always (palRun m (uniform gd [m.t, m.a, m.x, m.dst]))

/-- LDP (R269). -/
def execLdp (gd : Guard) (t a x : Reg) (ofs : BitVec 14) (_scope : BitVec 3) (ord : BitVec 2) (sz : BitVec 3)
    (s : State) : Result :=
  palIssue s gd { a := a, x := x, dst := t, dw := regsOfSz sz, disp := ofsBytes ofs sz, len := bytesOfSz sz,
                  store := false, ord := ord.toNat }

/-- STP (R271). -/
def execStp (gd : Guard) (t a x : Reg) (ofs : BitVec 14) (_scope : BitVec 3) (ord : BitVec 2) (sz : BitVec 3)
    (s : State) : Result :=
  palIssue s gd { t := t, tw := regsOfSz sz, a := a, x := x, disp := ofsBytes ofs sz, len := bytesOfSz sz, store := true,
                  ord := ord.toNat, write := fun _ _ tv _ => some (tv % 2 ^ (8 * bytesOfSz sz)) }

/-- ATOMP (R272): an uncorrectable word is not written. -/
def execAtomp (gd : Guard) (t a x : Reg) (aop : BitVec 5) (aofs : BitVec 9) (_scope : BitVec 3) (ord : BitVec 2)
    (sz : BitVec 3) (s : State) : Result :=
  palIssue s gd { a := a, x := x, xw := regsOfSz sz, dst := t, dw := regsOfSz sz, disp := aofsBytes aofs sz,
                  index := false, len := bytesOfSz sz, store := true, ord := ord.toNat,
                  write := fun old bad _ xv => if bad then none else some (atomicFn aop.toNat (bytesOfSz sz) old xv) }

/-- ACASP (R273). -/
def execAcasp (gd : Guard) (t a x : Reg) (ofs : BitVec 14) (_scope : BitVec 3) (ord : BitVec 2) (sz : BitVec 3)
    (s : State) : Result :=
  let w := bytesOfSz sz
  palIssue s gd { a := a, x := x, xw := 2 * regsOfSz sz, dst := t, dw := regsOfSz sz, disp := ofsBytes ofs sz,
                  index := false, len := w, store := true, ord := ord.toNat, cas := true,
                  write := fun old bad _ xv =>
                    if !bad && old == xv % 2 ^ (8 * w) then some (xv / 2 ^ (8 * w)) else none }

/-! ## Barrier objects (R130-R133) -/

/-- The fields of a barrier object (R130, Table 5). -/
def objPhase (v : Nat) : Nat := v / 2 ^ 63
def objExpect (v : Nat) : Nat := bitsOf v 47 32
def objRemain (v : Nat) : Nat := bitsOf v 15 0

/-- A malformed object (R130). -/
def objMalformed (v : Nat) : Bool :=
  bitsOf v 62 48 != 0 || bitsOf v 31 16 != 0 || objExpect v == 0 || objRemain v == 0 || objRemain v > objExpect v

/-- The object at an offset, after the checks of R130 up to its malformation. -/
def readObject (s : State) (t : Team) (off : Nat) (store : Bool) (xs : List Opnd) : Except Fate Nat := do
  if off + 8 > t.palSize then .error (.trap (offTrap .paletteBounds (max off t.palSize : Nat)))
  let o ← palCheck s t off 8 store
  consumeAll xs
  let (v, bad) := t.palRead o 8
  if bad then .error .consume
  if objMalformed v then .error (.trap (mkTrap .syncMask 0))
  .ok v

/-- The object after `n` arrivals (R131). -/
def objArrive (v n : Nat) : Nat :=
  if n == 0 then v
  else if objRemain v == n then (1 - objPhase v) * 2 ^ 63 + objExpect v * 2 ^ 32 + objExpect v
  else v - n

/-- ARRIVE in one thread (R131): a release, ordered after the thread's earlier accesses. It is performed on the object at once; its
destination is Pending until the token lands (R81, R137, log 83). -/
def arriveBody (d a : Reg) (off : Nat) (c : Cur) (g0 : Group) (σ : State × List LaneOp) (l : Nat) :
    Except Fate ((State × List LaneOp) × Fate) :=
  let s := σ.1
  match s.team? c.tid with
  | none => .error .stay
  | some t => do
    let x ← readSrc g0 l a 1
    let v ← readObject s t off true [x]
    let n := if a.isNull then 1 else x.val
    if n > objRemain v then .error (.trap (mkTrap .syncMask 0))
    let dst ← dstReady g0 l d 1
    if !t.palOrdered c.grp l 2 then .error .stay
    let t1 := t.palWrite off 8 (objArrive v n)
    let lane : LaneOp := { lane := l, dst := dst, a := 0, b := 0, done := dst == .null, fw := false, res := objPhase v, who := [(c.grp, l)] }
    .ok ((s.setTeam (t1.updGroup c.grp fun g => markRef g l dst 1 .pending), σ.2 ++ [lane]), .next)

/-- The issue of ARRIVE: an IFR entry of kind 17 holds the tokens until they are written (R257, R331). -/
def arriveRun (d a : Reg) (off : Nat) (c : Cur) (e : Entry) (act : List Nat) (s : State) : State × List (Nat × Fate) :=
  match s.team? c.tid with
  | none => (s, [])
  | some t =>
    let r := foldLanes (arriveBody d a off c (t.group c.grp)) act (s, [])
    let mk (idx seq : Nat) : IfrEntry :=
      { idx := idx, seq := seq, op := .arrive, grp := c.grp, ord := 2, scope := 0, sz := 0, aux := 0, hnd := 0, dwords := 1,
        pc := e.pc, lanes := r.1.2 }
    (if r.1.2.isEmpty then r.1.1 else r.1.1.updTeam c.tid fun u => (u.newEntry mk).freeFinished, r.2)

/-- ARRIVE (R131). -/
def execArrive (gd : Guard) (d a : Reg) (ofs : BitVec 16) (s : State) : Result :=
  issue s gd [(a, 1)] (ifrFree oneEntry) (arriveRun d a (8 * ofs.toNat))

/-- AWAIT in one thread (R132). -/
def awaitBody (a : Reg) (test : Bool) (pd off : Nat) (c : Cur) (_ : Entry) (s : State) (l : Nat) :
    Except Fate (State × Fate) :=
  match s.team? c.tid with
  | none => .error .stay
  | some t => do
    let x ← readSrc (t.group c.grp) l a 1
    let v ← readObject s t off false [x]
    let flipped := objPhase v != x.val % 2
    if test then .ok (s.updGroup c.tid c.grp fun g => g.updThread l fun th => th.setPred pd flipped, .next)
    else if flipped then .ok (s, .next) else .error .stay

/-- AWAIT (R132). -/
def execAwait (gd : Guard) (a : Reg) (test : BitVec 1) (pd : BitVec 3) (ofs : BitVec 16) (s : State) : Result :=
  issue s gd [(a, 1)] always (runS (awaitBody a (test == 1) pd.toNat (8 * ofs.toNat)))

end Sys2Proof.Machine
end

