-- ==== Sys2Proof/Machine/RegStore.lean ====
section
/-! DEFINITION. The register store (chapter 04): moves, selects, predicates, the window and index registers, special
registers, EMPTY, TFULL and ALLOT. -/

namespace Sys2Proof.Machine

/-- The value of the k-th operand. -/
def opv (xs : List Opnd) (k : Nat) : Nat := (xs.getD k ⟨0, false, false, 0⟩).val

/-- The k-th operand as a 32-bit word. -/
def opw (xs : List Opnd) (k : Nat) : BitVec 32 := BitVec.ofNat 32 (opv xs k)

/-- Registers of a size code of MOV and EMPTY (R95). -/
def sizeRegs (n : Nat) : Nat := 1 <<< n

/-- MOV (R95). -/
def execMov (gd : Guard) (d a : Reg) (size : BitVec 2) (s : State) : Result :=
  alu s gd d (sizeRegs size.toNat) [(a, sizeRegs size.toNat)] 7 fun xs => { val := opv xs 0 }

/-- MOVI (R96). -/
def execMovi (gd : Guard) (d : Reg) (imm : BitVec 32) (s : State) : Result :=
  alu s gd d 1 [] 7 fun _ => { val := imm.toNat }

/-- MOVG (R97): only the thread of the source lane reads `a`; a source lane that does not issue makes d Void. The other
members continue with the one result. Where no member issues, d stays as it is (R56, log 80). -/
def movgRun (d a : Reg) (first : Bool) (lane : Nat) (c : Cur) (_ : Entry) (act : List Nat) (s : State) :
    State × List (Nat × Fate) :=
  match s.team? c.tid with
  | none => (s, [])
  | some t =>
    let g := t.group c.grp
    let src := if first then act.headD lane else lane
    let put (g' : Group) : State := s.setTeam (t.setGroup c.grp g')
    match dstReady g src d 1 with
    | .error f => (s, act.map fun l => (l, f))
    | .ok dst =>
      if !act.contains src then
        (if act.isEmpty then s else put (markRef g src dst 1 .void), act.map fun l => (l, .next))
      else match readSrc g src a 1 with
        | .error .stay => (s, act.map fun l => (l, .stay))
        | .error f => (s, act.map fun l => (l, if l == src then f else .next))
        | .ok x => (put (writeRef g src dst 1 x.val x.poison x.pt), act.map fun l => (l, .next))

/-- Whether the source lane of MOVG has its source Pending with W = 0 (R61). -/
def movgReady (a : Reg) (first : Bool) (lane : Nat) (s : State) (c : Cur) (act : List Nat) : Bool :=
  match s.team? c.tid with
  | none => true
  | some t =>
    let src := if first then act.headD lane else lane
    !(act.contains src && srcPending (t.group c.grp) src a 1)

/-- MOVG (R97). -/
def execMovg (gd : Guard) (d a : Reg) (first : BitVec 1) (lane : BitVec 5) (s : State) : Result :=
  issue s gd [] (movgReady a (first == 1) lane.toNat) (movgRun d a (first == 1) lane.toNat)

/-- SEL in one thread (R98): both sources are read; the result and its poison are those of the one selected. -/
def selBody (d a b : Reg) (w : Nat) (neg : Bool) (pc : Nat) (_ : Entry) (g0 g : Group) (l : Nat) :
    Except Fate (Group × Fate) := do
  let x ← readSrc g0 l a w
  let y ← readSrc g0 l b w
  let dst ← dstReady g0 l d w
  let r := if (g.thread l).pred pc != neg then x else y
  .ok (writeRef g l dst w r.val r.poison r.pt, .next)

/-- SEL (R98). -/
def execSel (gd : Guard) (d a b : Reg) (size : BitVec 1) (neg : BitVec 1) (pc : BitVec 3) (s : State) : Result :=
  let w := sizeRegs size.toNat
  issue s gd [(a, w), (b, w)] always (runG (selBody d a b w (neg == 1) pc.toNat))

/-- PSET (R99). -/
def execPset (gd : Guard) (a b : Reg) (test : BitVec 2) (pd : BitVec 3) (s : State) : Result :=
  alu s gd Reg.null 1 [(a, 1), (b, 1)] pd.toNat fun xs =>
    { val := 0, pred := match test.toNat with
        | 0 => opv xs 0 != 0
        | 1 => opv xs 0 == 0
        | _ => (opv xs 0).testBit (opv xs 1 % 32) }

/-- The operations of R100. -/
def plopOf (op : Nat) (a b : Bool) : Bool :=
  match op with
  | 0 => a && b
  | 1 => a || b
  | 2 => a != b
  | 3 => a && !b
  | 4 => a || !b
  | _ => a == b

/-- PLOP (R100). -/
def execPlop (gd : Guard) (op : BitVec 3) (pd pa pb : BitVec 3) (s : State) : Result :=
  issue s gd [] always (runG fun _ _ g l =>
    .ok (g.updThread l fun t => t.setPred pd.toNat (plopOf op.toNat (t.pred pa.toNat) (t.pred pb.toNat)), .next))

/-- P2V in one thread (R101). -/
def p2vBody (d : Reg) (_ : Entry) (g0 g : Group) (l : Nat) : Except Fate (Group × Fate) := do
  let dst ← dstReady g0 l d 1
  .ok (writeRef g l dst 1 ((g.thread l).preds.toNat + 128) false false, .next)

/-- P2V (R101). -/
def execP2v (gd : Guard) (d : Reg) (s : State) : Result := issue s gd [] always (runG (p2vBody d))

/-- V2P in one thread (R101): a mask of 0 consumes nothing. -/
def v2pBody (a : Reg) (mask : BitVec 7) (_ : Entry) (g0 g : Group) (l : Nat) : Except Fate (Group × Fate) := do
  let x ← readSrc g0 l a 1
  if mask != 0 then consumeAll [x]
  .ok (g.updThread l fun t =>
    { t with preds := (t.preds &&& ~~~mask) ||| (BitVec.ofNat 7 x.val &&& mask) }, .next)

/-- V2P (R101). -/
def execV2p (gd : Guard) (a : Reg) (mask : BitVec 7) (s : State) : Result :=
  issue s gd [(a, 1)] always (runG (v2pBody a mask))

/-- WBASE in one thread (R102). -/
def wbaseBody (a : Reg) (rel : Bool) (delta : BitVec 16) (_ : Entry) (g0 g : Group) (l : Nat) :
    Except Fate (Group × Fate) := do
  let x ← readSrc g0 l a 1
  consumeAll [x]
  let t := g.thread l
  let base : Int := if rel then t.wb else 0
  let new := base + (BitVec.ofNat 32 x.val).toInt + delta.toInt
  if new % 8 != 0 || new < 0 || new > (g.allot : Int) - 8 then
    .error (.trap ⟨.regBounds, 0, BitVec.ofInt 64 new⟩)
  else .ok (g.setThread l { t with wb := new.toNat }, .next)

/-- WBASE (R102). -/
def execWbase (gd : Guard) (a : Reg) (rel : BitVec 1) (delta : BitVec 16) (s : State) : Result :=
  issue s gd [(a, 1)] always (runG (wbaseBody a (rel == 1) delta))

/-- IXSET and IXADD in one thread (R103). -/
def ixBody (add : Bool) (a : Reg) (imm : BitVec 32) (_ : Entry) (g0 g : Group) (l : Nat) :
    Except Fate (Group × Fate) := do
  let x ← readSrc g0 l a 1
  consumeAll [x]
  .ok (g.updThread l fun t =>
    { t with ix := BitVec.ofNat 10 ((if add then t.ix.toNat else 0) + x.val + imm.toNat) }, .next)

/-- IXSET (R103). -/
def execIxset (gd : Guard) (a : Reg) (imm : BitVec 32) (s : State) : Result :=
  issue s gd [(a, 1)] always (runG (ixBody false a imm))

/-- IXADD (R103). -/
def execIxadd (gd : Guard) (a : Reg) (imm : BitVec 32) (s : State) : Result :=
  issue s gd [(a, 1)] always (runG (ixBody true a imm))

/-! ## Special registers (R86, R104, R105) -/

/-- MODE as a register (R204, Table 3). -/
def Thread.modeWord (t : Thread) : Nat :=
  (if t.mx then 1 else 0) + (if t.mt then 2 else 0) + (if t.scaled then 2 ^ 9 else 0) + t.shape.toNat * 2 ^ 10 +
    t.mtype.toNat * 2 ^ 12

/-- The wait is in an entry of a merge table. -/
def Wait.inTable : Wait → Bool
  | .merge _ _ => true
  | .no | .refused _ _ => false

/-- FW of an entry: a lane waits in a merge table, or was refused and awaits its trap (R333, Table 3). -/
def Team.fwBit (t : Team) (e : IfrEntry) : Bool :=
  e.lanes.any fun o => o.pieces.any (·.wait.inTable) ||
    (o.fw && o.who.any fun x => ((t.group x.1).thread x.2).live && ((t.group x.1).thread x.2).ptrap.isSome)

/-- IFRS (R335, Table 5). -/
def Team.ifrsWord (t : Team) : Nat :=
  (if t.ft then 2 ^ 31 else 0) + (if t.rp then 2 ^ 30 else 0) + (ifrCapacity - t.ifr.length) * 2 ^ 16 +
    (t.ifr.filter t.fwBit).length

/-- What a special register reads in a thread; a value the spec states for no studio-controller thread is free
(log 23). -/
def sregRead (s : State) (t : Team) (gi l : Nat) (sel : Nat) : Nat :=
  let g := t.group gi
  let th := g.thread l
  let place (v : Nat) : Nat := if t.tid == 0 then (Config.freeWord s.fresh sel).toNat else v
  match sel with
  | 0x00 => l
  | 0x01 => gi
  | 0x02 => place t.team
  | 0x03 => place t.grid.toNat
  | 0x04 => t.groups.length
  | 0x05 => g.role
  | 0x06 => place t.quad
  | 0x07 => place t.core
  | 0x08 => place (t.core / 4)
  | 0x09 => th.wb
  | 0x0A => g.allot
  | 0x0B => th.ix.toNat
  | 0x0C => th.aw.toNat * 64
  | 0x0D => th.modeWord
  | 0x0E => g.flags.toNat
  | 0x0F => g.fctl.toNat
  | 0x10 => th.amax.toNat
  | 0x11 => s.time.toNat % 2 ^ 32
  | 0x12 => s.time.toNat / 2 ^ 32
  | 0x13 => place t.cls.toNat
  | 0x14 => match s.ctx? t.ctx with
    | some c => c.wear
    | none => place 0
  | 0x15 => th.trapc.toNat
  | 0x16 => th.trappc.toNat
  | 0x17 => th.trapa.toNat
  | 0x18 => t.ifrsWord
  | 0x19 => place t.ctx.toNat
  | _ => 0x100 + (match s.ctx? t.ctx with
    | some c => c.minor
    | none => 0)

/-- SRD in one thread (R104). -/
def srdBody (s : State) (t : Team) (gi : Nat) (d : Reg) (sel : BitVec 16) (_ : Entry) (g0 g : Group) (l : Nat) :
    Except Fate (Group × Fate) := do
  let w := SReg.regs sel
  let dst ← dstReady g0 l d w
  .ok (writeRef g l dst w (sregRead s t gi l sel.toNat) false false, .next)

/-- SRD (R104). -/
def srdRun (d : Reg) (sel : BitVec 16) (c : Cur) (e : Entry) (act : List Nat) (s : State) : State × List (Nat × Fate) :=
  match s.team? c.tid with
  | none => (s, [])
  | some t => runG (srdBody s t c.grp d sel) c e act { s with fresh := s.fresh + 1 }

/-- SRD (R104). -/
def execSrd (gd : Guard) (d : Reg) (sr : BitVec 16) (s : State) : Result := issue s gd [] always (srdRun d sr)

/-- What an SWR does to each writable register (R105, R152, R159, R205, R347). -/
def swrWrite (g : Group) (l : Nat) (sel : Nat) (v : Nat) : Except Fate Group :=
  let th := g.thread l
  let w := BitVec.ofNat 32 v
  match sel with
  | 0x0B => .ok (g.setThread l { th with ix := BitVec.ofNat 10 v })
  | 0x0C =>
    if th.mx then .error (.trap (mkTrap .modeAlias 0))
    else .ok (g.setThread l { th with aw := BitVec.ofNat 4 (v / 64) })
  | 0x0D => .ok (g.setThread l { th with mt := v.testBit 1 })
  | 0x0E => .ok { g with flags := BitVec.ofNat 5 v }
  | 0x0F => .ok { g with fctl := BitVec.ofNat 5 v }
  | 0x10 => .ok (g.setThread l { th with amax := amaxWrite w })
  | _ => .ok (g.setThread l { th with trappc := BitVec.ofNat 64 (v % 2 ^ 56 / 8 * 8) })

/-- SWR in one thread (R105): PRIVILEGE for a read-only register comes before the source is read. -/
def swrBody (i : Instr) (a : Reg) (sel : BitVec 16) (_ : Entry) (g0 g : Group) (l : Nat) : Except Fate (Group × Fate) :=
  if !SReg.writable sel then .error (.trap (wordTrap .privilege i))
  else do
    let x ← readSrc g0 l a (SReg.regs sel)
    consumeAll [x]
    let g' ← swrWrite g l sel.toNat x.val
    .ok (g', .next)

/-- SWR (R105). -/
def execSwr (gd : Guard) (a : Reg) (sr : BitVec 16) (s : State) : Result :=
  issue s gd (if SReg.writable sr then [(a, SReg.regs sr)] else []) always (runG (swrBody (.swr gd a sr) a sr))

/-- EMPTY in one thread (R106). -/
def emptyBody (d : Reg) (w : Nat) (_ : Entry) (g0 g : Group) (l : Nat) : Except Fate (Group × Fate) := do
  let dst ← dstReady g0 l d w
  .ok (markRef g l dst w .void, .next)

/-- EMPTY (R106). -/
def execEmpty (gd : Guard) (d : Reg) (size : BitVec 2) (s : State) : Result :=
  issue s gd [] always (runG (emptyBody d (sizeRegs size.toNat)))

/-- TFULL in one thread (R107). -/
def tfullBody (a : Reg) (test pd : Nat) (_ : Entry) (g0 g : Group) (l : Nat) : Except Fate (Group × Fate) := do
  let ref ← resolve g0 l a 1
  let st := ((slotsOf g0 l ref 1).headD Slot.zero).st
  let r := match test with
    | 0 => st == .full
    | 1 => st == .pending
    | _ => st == .void
  .ok (g.updThread l fun t => t.setPred pd r, .next)

/-- TFULL (R107): it never waits. -/
def execTfull (gd : Guard) (a : Reg) (test : BitVec 2) (pd : BitVec 3) (s : State) : Result :=
  issue s gd [] always (runG (tfullBody a test.toNat pd.toNat))

/-! ## ALLOT (R108) -/

/-- Bytes of a quad's register store (R74, R92). -/
def quadStoreBytes : Nat := 2 ^ 21

/-- The row area of a thread (R208). -/
def Thread.rowBytes (t : Thread) : Nat := if t.mx && t.live then 8 * t.columns else 0

/-- The store a group holds: its share (R74) and its threads' row areas (R208). -/
def Group.storeBytes (g : Group) : Nat := 128 * g.allot + (g.lanes.map Thread.rowBytes).sum

/-- The resident teams of a quad. -/
def State.residents (s : State) (core quad : Nat) : List Team :=
  s.teams.filter fun t => t.st == .resident && t.core == core && t.quad == quad

/-- Free store of a quad in bytes (R74). -/
def State.freeStore (s : State) (core quad : Nat) : Nat :=
  quadStoreBytes - ((s.residents core quad).map fun t => (t.groups.map Group.storeBytes).sum).sum

/-- Whether the allotment may shrink to `n` (R108). -/
def mayShrink (g : Group) (n : Nat) : Bool :=
  g.liveLanes.all fun l =>
    let t := g.thread l
    t.wb + 8 ≤ n && (t.regs.drop n).all (·.st != .pending) && !(t.mx && n < t.aw.toNat * 64 + t.columns)

/-- Resize every thread's registers: the discarded slots go, the new ones are Full, zero and not poisoned. -/
def resizeGroup (g : Group) (n : Nat) : Group :=
  { g with allot := n
           lanes := g.lanes.map fun t => { t with regs := t.regs.take n ++ List.replicate (n - t.regs.length) Slot.zero } }

/-- ALLOT (R108); the controller's thread, which has no quad's store, is always granted (log 79). An issue that a stop request cuts holds the
threads of the whole entry (R66). -/
def allotRun (n : Nat) (pd : Nat) (c : Cur) (e : Entry) (act : List Nat) (s : State) : State × List (Nat × Fate) :=
  match s.team? c.tid with
  | none => (s, [])
  | some t =>
    let g := t.group c.grp
    if !(g.liveLanes.all fun l => (s.wholeMask c e).getLsbD l) then (s, act.map fun l => (l, .trap (mkTrap .syncMask 0)))
    else
      let ok := if n == g.allot then true
        else if n < g.allot then mayShrink g n
        else t.tid == 0 || s.freeStore t.core t.quad ≥ 128 * (n - g.allot)
      let g1 := if ok && n != g.allot then resizeGroup g n else g
      let g2 := act.foldl (fun x l => x.updThread l fun th => th.setPred pd ok) g1
      (s.setTeam (t.setGroup c.grp g2), act.map fun l => (l, .next))

/-- ALLOT (R108). -/
def execAllot (gd : Guard) (n : BitVec 8) (pd : BitVec 3) (s : State) : Result :=
  issue s gd [] always (allotRun (8 * n.toNat) pd.toNat)

end Sys2Proof.Machine
end

