-- ==== Sys2Proof/Machine/Grid.lean ====
section
/-! DEFINITION. The matrix grid (chapter 08): binding and switching, planes, streams with the exact partial sums of R161,
the ten instructions of opcodes 0x90 to 0x99 and the grid's event rows. -/

namespace Sys2Proof.Machine

/-! ## Shapes and types (R203, R209) -/

/-- Width in bits of an element (R138). -/
def mxWidth (ty : Nat) : Nat := if ty == 12 then 8 else (FType.ofCode ty).width

/-- Cells per pipeline (R203, Table 2). -/
def mxCells (ty : Nat) : Nat :=
  match ty with
  | 1 | 2 => 8
  | 12 => 16
  | 7 => 64
  | _ => 32

/-- N of a shape code. -/
def mxColumns (shape : BitVec 2) : Nat := 128 * 2 ^ shape.toNat

/-- K = 64 × cells per pipeline ÷ N. -/
def mxSteps (shape : BitVec 2) (ty : Nat) : Nat := 64 * mxCells ty / mxColumns shape

/-- Registers of one A operand (R203, Table 2). -/
def mxRegs (shape : BitVec 2) (ty : Nat) : Nat := max 1 ((mxSteps shape ty * mxWidth ty + 31) / 32)

/-- Bytes of a plane (R209). -/
def mxPlaneBytes (shape : BitVec 2) (ty : Nat) (scaled : Bool) : Nat :=
  mxSteps shape ty * mxColumns shape * mxWidth ty / 8 + (if scaled then 2 * mxColumns shape else 0)

/-- Elements per fold (R161, Table 7). -/
def mxFoldLength (scaled : Bool) : Nat := if scaled then 48 else 16

/-! ## Exact partial sums (R161) -/

/-- A decoded element: an integer for INT8, otherwise a value. -/
inductive MxElem where
  | int (v : Int)
  | val (v : FVal)

def mxElem (ty code : Nat) : MxElem :=
  if ty == 12 then .int (signedOf 8 code) else .val ((FType.ofCode ty).decode code)

/-- The product of two elements, exact: a multiple of 2^-266. -/
def mxProduct (a b : MxElem) : Part :=
  match a, b with
  | .int x, .int y => .fin (x * y) false
  | .val x, .val y =>
    match x, y with
    | .nan _ _ _, _ | _, .nan _ _ _ => .nan
    | .inf m, .inf n => .inf (m != n)
    | .inf m, .fin n k _ => if k == 0 then .nan else .inf (m != n)
    | .fin m k _, .inf n => if k == 0 then .nan else .inf (m != n)
    | .fin m j e, .fin n k f =>
      .fin (signedAt (m != n) (j * k) (e + f) (-266)) (j * k == 0 && m != n)
  | _, _ => .nan

/-- ExactAdd of R161. -/
def exactAdd (p q : Part) : Part :=
  match p, q with
  | .nan, _ | _, .nan => .nan
  | .inf m, .inf n => if m == n then .inf m else .nan
  | .inf m, _ => .inf m
  | _, .inf n => .inf n
  | .fin x m, .fin y n => .fin (x + y) (m && n)

/-- A partial sum before its first product. -/
def Part.zero : Part := .fin 0 true

/-- Accumulate of R161: the accumulator after a fold, and the flags it raises. -/
def accumulate (ty : Nat) (scaled : Bool) (acc : BitVec 32) (p : Part) (sa sb : Nat) : BitVec 32 × FFlags :=
  if ty == 12 then
    match p with
    | .fin v _ => (acc + BitVec.ofInt 32 v, 0)
    | _ => (acc, 0)
  else if scaled && (sa == 0xFF || sb == 0xFF) then (0x7FC00000, 0)
  else match fp32 acc, p with
    | .nan _ _ _, _ => (0x7FC00000, 0)
    | _, .nan => (0x7FC00000, 0)
    | .inf m, .inf n => if m == n then (acc, 0) else (0x7FC00000, fNV)
    | .inf _, .fin _ _ => (acc, 0)
    | .fin _ _ _, .inf n => (BitVec.ofNat 32 (FType.fp32.signBit n + FType.fp32.infBits), 0)
    | .fin n1 m1 e1, .fin v z =>
      let k : Int := (if scaled then (sa : Int) + sb - 254 else 0) - 266
      let r := addFin .fp32 .rne n1 m1 e1 (if v == 0 then z else v < 0) v.natAbs k
      (BitVec.ofNat 32 r.bits, r.flags)

/-! ## Rows -/

/-- A fresh row area. -/
def MxRow.fresh (gi l n : Nat) : MxRow :=
  ⟨gi, l, List.replicate n Part.zero, 0, 127, List.replicate n 127, 0, false, []⟩

/-- Part and count back to 0. -/
def MxRow.clear (r : MxRow) : MxRow := { r with part := r.part.map fun _ => Part.zero, cnt := 0 }

/-- Fold of R161 on the accumulators of a window. -/
def MxRow.fold (r : MxRow) (ty : Nat) (scaled : Bool) (acc : List (BitVec 32)) : MxRow × List (BitVec 32) :=
  if r.cnt == 0 then (r, acc)
  else
    let out := (acc.zip (r.part.zip r.sb)).map fun x => accumulate ty scaled x.1 x.2.1 r.sa x.2.2
    ({ r.clear with flags := out.foldl (fun f x => f ||| x.2) r.flags }, out.map (·.1))

/-- The element of a plane at row `k`, column `c`. -/
def Plane.code (p : Plane) (n w k c : Nat) : Nat := p.bytes / 2 ^ (w * (k * n + c)) % 2 ^ w

/-- The scale of column `c` in array 0 or 1 of a plane (R209). -/
def Plane.scale (p : Plane) (n steps w arr c : Nat) : Nat := p.bytes / 2 ^ (w * steps * n + 8 * (arr * n + c)) % 256

/-- One element of a step (R161): element `k` of `a`, against row `k` of the front plane. -/
def mxElement (shape : BitVec 2) (ty : Nat) (scaled : Bool) (p : Plane) (a sc k : Nat)
    (x : MxRow × List (BitVec 32)) : MxRow × List (BitVec 32) :=
  let n := mxColumns shape
  let w := mxWidth ty
  let steps := mxSteps shape ty
  let r := x.1
  let arr := if k == 0 then 0 else 1
  let r1 := if r.cnt == 0 && scaled then
      { r with sa := sc / 2 ^ (8 * arr) % 256, sb := (List.range n).map fun c => p.scale n steps w arr c }
    else r
  let e := mxElem ty (a / 2 ^ (w * k) % 2 ^ w)
  let part := r1.part.zipIdx.map fun y => exactAdd y.1 (mxProduct e (mxElem ty (p.code n w k y.2)))
  let r2 := { r1 with part := part, cnt := r1.cnt + 1 }
  if r2.cnt == mxFoldLength scaled then r2.fold ty scaled x.2 else (r2, x.2)

/-- One step of a row (R161, R222). -/
def mxStep (shape : BitVec 2) (ty : Nat) (scaled : Bool) (p : Plane) (a sc : Nat) (r : MxRow)
    (acc : List (BitVec 32)) : MxRow × List (BitVec 32) :=
  (List.range (mxSteps shape ty)).foldl (fun x k => mxElement shape ty scaled p a sc k x) (r, acc)

/-! ## The window of a thread (R206) -/

def Thread.windowBase (t : Thread) : Nat := t.aw.toNat * 64

/-- The slots of the window. -/
def Thread.window (t : Thread) : List Slot := (t.regs.drop t.windowBase).take t.columns

/-- Replace the slots of the window. -/
def Thread.setWindow (t : Thread) (ss : List Slot) : Thread := { t with regs := setRange t.regs t.windowBase ss }

/-- New accumulator values, keeping states and poison. -/
def Thread.setAccs (t : Thread) (vs : List (BitVec 32)) : Thread :=
  t.setWindow ((t.window.zip vs).map fun x => { x.1 with val := x.2 })

/-- Every slot of the window takes a state, keeping values and poison (R212). -/
def Thread.setWindowState (t : Thread) (st : RState) : Thread := t.setWindow (t.window.map fun x => { x with st := st })

/-- The row of a thread. -/
def Grid.row? (g : Grid) (gi l : Nat) : Option MxRow := g.rows.find? fun r => r.grp == gi && r.lane == l

def Grid.setRow (g : Grid) (r : MxRow) : Grid :=
  { g with rows := g.rows.map fun x => if x.grp == r.grp && x.lane == r.lane then r else x }

/-- The grid that a team has bound, if it has one (R199); one whose last row has ended counts as bound until its STLD in flight has
arrived (log 76). -/
def State.boundGrid (s : State) (t : Team) : Option Grid :=
  match (if t.tid == 0 then none else s.grid? t.core t.quad) with
  | some g => if g.tid == t.tid && (g.st == .bound || g.st == .switchingIn) then some g else none
  | none => none

/-- Fold a thread's row into its window. -/
def foldRow (ty : Nat) (scaled : Bool) (th : Thread) (r : MxRow) : Thread × MxRow :=
  let q := r.fold ty scaled (th.window.map (·.val))
  (th.setAccs q.2, q.1)

/-! ## MXON and MXOFF -/

/-- The groups of the streaming set (R199). -/
def Grid.streamGroups (g : Grid) : List Nat := (g.rows.map (·.grp)).eraseDups

/-- The MXON of R216 must wait. -/
def mxonBlocked (s : State) (t : Team) (gi l n aw : Nat) : Bool :=
  let th := (t.group gi).thread l
  let pending := ((th.regs.drop aw).take n).any (·.st == .pending)
  let store := s.freeStore t.core t.quad < 8 * n
  match s.grid? t.core t.quad with
  | none => store || pending
  | some g =>
    g.tid != t.tid || g.st != .bound || g.rows.isEmpty ||
      (!g.streamGroups.contains gi && g.streamGroups.length ≥ 4) || store || pending

/-- A Void slot of a window, by number. -/
def voidSlot (th : Thread) (aw n : Nat) : Option Nat :=
  let ss := (th.regs.drop aw).take n
  if ss.any (·.st == .void) then some (aw + ss.findIdx (·.st == .void)) else none

/-- A thread enters the grid (R216): MODE, its row, and the grid's binding if it is Unbound. -/
def mxonEnter (s : State) (t : Team) (gi l : Nat) (shape : BitVec 2) (scaled : Bool) (ty : BitVec 4) (pd : Nat) : State :=
  let n := mxColumns shape
  let s1 := s.updGroup t.tid gi fun g => g.updThread l fun th =>
    { th with mx := true, shape := shape, scaled := scaled, mtype := ty }.setPred pd true
  match s1.grid? t.core t.quad with
  | some g => s1.setGrid { g with rows := g.rows ++ [MxRow.fresh gi l n] }
  | none => s1.setGrid ⟨t.core, t.quad, .switchingIn, t.tid, shape, ty, scaled, none, .empty, 0, [MxRow.fresh gi l n]⟩

/-- MXON in one thread (R216); the controller has no quad and no grid, so its MXON only waits. -/
def mxonBody (shape : BitVec 2) (scaled : Bool) (ty : BitVec 4) (tryIt : Bool) (pd : Nat) (c : Cur) (_ : Entry)
    (s : State) (l : Nat) : Except Fate (State × Fate) :=
  match s.team? c.tid with
  | none => .error .stay
  | some t =>
    let g := t.group c.grp
    let th := g.thread l
    let n := mxColumns shape
    let aw := th.windowBase
    if th.mx then .error (.trap (mkTrap .modeAlias 0))
    else if aw + n > g.allot then .error (.trap (mkTrap .regBounds (max aw g.allot)))
    else
      let other := match s.boundGrid t with
        | some x => !x.rows.isEmpty && (x.shape != shape || x.mtype != ty || x.scaled != scaled)
        | none => false
      if other then .error (.trap (mkTrap .modeAlias 0))
      else match voidSlot th aw n with
        | some v => .error (.trap (mkTrap .emptyNoProducer v))
        | none =>
          if t.tid == 0 || mxonBlocked s t c.grp l n aw then
            if tryIt then .ok (s.onGroup c fun g => g.updThread l fun x => x.setPred pd false, .next)
            else .error .stay
          else .ok (mxonEnter s t c.grp l shape scaled ty pd, .next)

/-- MXON (R216). -/
def execMxon (gd : Guard) (shape : BitVec 2) (scaled : BitVec 1) (ty : BitVec 4) (try_ : BitVec 1) (pd : BitVec 3)
    (s : State) : Result :=
  issue s gd [] always (runS (mxonBody shape (scaled == 1) ty (try_ == 1) pd.toNat))

/-- Set a thread of a bound team and its row. -/
def State.setStream (s : State) (c : Cur) (l : Nat) (g : Grid) (th : Thread) (r : MxRow) : State :=
  (s.onGroup c fun x => x.setThread l th).setGrid (g.setRow r)

/-- The flags of a row go to FLAGS (R214). -/
def State.giveFlags (s : State) (c : Cur) (f : FFlags) : State := s.onGroup c fun x => x.orFlags f

/-- MXOFF in one thread (R217). -/
def mxoffBody (c : Cur) (_ : Entry) (s : State) (l : Nat) : Except Fate (State × Fate) :=
  match s.team? c.tid with
  | none => .error .stay
  | some t =>
    let th := (t.group c.grp).thread l
    if !th.mx then .ok (s, .next)
    else match s.boundGrid t with
      | none => .ok (s, .next)
      | some g =>
        match g.row? c.grp l with
        | none => .ok (s, .next)
        | some r =>
          if !r.queue.isEmpty then .error .stay
          else
            let (th1, r1) := if r.opened then foldRow g.mtype.toNat g.scaled th r else (th, r)
            let th2 := if r.opened then th1.setWindowState .full else th1
            if th2.window.any (·.st == .pending) then .error .stay
            else
              let th3 := { th2 with mx := false, scaled := false, shape := 0, mtype := 0 }
              let s1 := (s.onGroup c fun x => x.setThread l th3).giveFlags c r1.flags
              .ok (s1.setGrid { g with rows := g.rows.filter fun x => !(x.grp == c.grp && x.lane == l) }, .next)

/-- MXOFF (R217). -/
def execMxoff (gd : Guard) (s : State) : Result := issue s gd [] always (runS mxoffBody)

/-! ## MXSYNC and MXCLR -/

/-- MXSYNC in one thread (R218): its fold takes its place in the stream at once, and completes with MXSYNC_FOLD. -/
def mxsyncBody (c : Cur) (_ : Entry) (s : State) (l : Nat) : Except Fate (State × Fate) :=
  match s.team? c.tid with
  | none => .error .stay
  | some t =>
    let th := (t.group c.grp).thread l
    match (if th.mx then s.boundGrid t else none) with
    | none => .ok (s, .next)
    | some g =>
      match g.row? c.grp l with
      | none => .ok (s, .next)
      | some r =>
        if !r.opened then .ok (s, .next)
        else
          let (th1, r1) := foldRow g.mtype.toNat g.scaled th r
          .ok (s.setStream c l g th1 { r1 with opened := false, flags := 0, queue := r1.queue ++ [.sync r1.flags] }, .next)

/-- MXSYNC (R218). -/
def execMxsync (gd : Guard) (s : State) : Result := issue s gd [] always (runS mxsyncBody)

/-- MXCLR in one thread (R219). -/
def mxclrBody (c : Cur) (_ : Entry) (s : State) (l : Nat) : Except Fate (State × Fate) :=
  match s.team? c.tid with
  | none => .error .stay
  | some t =>
    let th := (t.group c.grp).thread l
    match (if th.mx then s.boundGrid t else none) with
    | none => .error (.trap (mkTrap .modeAlias 0))
    | some g =>
      match g.row? c.grp l with
      | none => .error (.trap (mkTrap .modeAlias 0))
      | some r =>
        if !r.queue.isEmpty then .error .stay
        else
          let th1 := th.setWindow (List.replicate th.columns Slot.zero)
          .ok ((s.setStream c l g th1 { r.clear with opened := false, flags := 0 }).giveFlags c r.flags, .next)

/-- MXCLR (R219). -/
def execMxclr (gd : Guard) (s : State) : Result := issue s gd [] always (runS mxclrBody)

/-! ## Planes -/

/-- Entries of a panel's range-lock table (R294). -/
def lockCapacity : Nat := 64

/-- Two ranges of one place overlap. -/
def Lock.overlaps (a b : Lock) : Bool := a.pal == b.pal && a.lo < b.hi && b.lo < a.hi

/-- Register the ranges of an engine operation, each at its panel, all or none (R294, R295). -/
def State.register (s : State) (ls : List (Nat × Lock)) : Option State :=
  let clash := ls.any fun x => s.panels.any fun p => p.locks.any fun k => k.overlaps x.2 && (k.dst || x.2.dst)
  let full := s.panels.any fun p => p.locks.length + (ls.filter (·.1 == p.num)).length > lockCapacity
  if clash || full then none
  else some { s with panels := s.panels.map fun p =>
    { p with locks := p.locks ++ (ls.filter (·.1 == p.num)).map (·.2) } }

/-- Release the locks of an operation (R297). -/
def State.unlock (s : State) (owner : Nat) : State :=
  { s with panels := s.panels.map fun p => { p with locks := p.locks.filter (·.owner != owner) } }

/-- Round a range out to whole sectors (R294). -/
def Lock.rounded (owner : Nat) (pal : Option Nat) (lo hi : Nat) (dst : Bool) : Lock :=
  ⟨owner, pal, lo / 64 * 64, (hi + 63) / 64 * 64, dst⟩

/-- The IFR entry of an STLD (R334, kind 13). -/
def stldEntry (gi : Nat) (e : Entry) (act : List Nat) (off idx seq : Nat) : IfrEntry :=
  { idx := idx, seq := seq, op := .stld, grp := gi, ord := 0, scope := 0, sz := 0, aux := 0, hnd := 0, dwords := 0,
    pc := e.pc
    lanes := act.map fun l => { lane := l, dst := .null, a := off, b := 0, done := false, fw := false, who := [(gi, l)] } }

/-- STLD begins to load (R220): its range is locked and the back plane is Loading; none while it cannot be registered. -/
def State.stldStart (s : State) (t : Team) (g : Grid) (off seq : Nat) : Option State :=
  let p := mxPlaneBytes g.shape g.mtype.toNat g.scaled
  let owner := s.fresh + 1
  (State.register { s with fresh := s.fresh + 1 }
    [(t.core / 4, Lock.rounded owner (some t.tid) off (off + p) false)]).map fun s1 =>
      s1.setGrid { g with back := .loading off seq owner }

/-- STLD for its entry (R215, R220): one action, and one fate for every member. -/
def stldOnce (a : Reg) (ofs : Nat) (c : Cur) (e : Entry) (act : List Nat) (s : State) : Except Fate (State × Fate) :=
  match s.team? c.tid, act with
  | some t, l :: _ =>
    if t.tid == 0 then .error (.trap (mkTrap .paletteBounds 0))
    else match s.boundGrid t with
      | none => .error (.trap (mkTrap .modeAlias 0))
      | some g => do
        let x ← readSrc (t.group c.grp) l a 1
        consumeAll [x]
        let off := x.val + 256 * ofs
        let p := mxPlaneBytes g.shape g.mtype.toNat g.scaled
        if off + p > t.palSize then .error (.trap (mkTrap .paletteBounds (max off t.palSize)))
        if off % 256 != 0 then .error (.trap (mkTrap .paletteBounds off))
        if g.back != .empty || g.st != .bound then .error .stay
        match s.stldStart t g off t.seq with
        | none => .error .stay
        | some s1 => .ok (s1.updTeam c.tid fun u => u.newEntry (stldEntry c.grp e act off), .next)
  | _, _ => .error .stay

/-- Perform an action once for an entry whose every member shares its fate (R57, R215). -/
def runOnce (f : Cur → Entry → List Nat → State → Except Fate (State × Fate)) (c : Cur) (e : Entry) (act : List Nat)
    (s : State) : State × List (Nat × Fate) :=
  match f c e act s with
  | .ok (s1, ft) => (s1, act.map fun l => (l, ft))
  | .error ft => (s, act.map fun l => (l, ft))

/-- STLD (R220). -/
def execStld (gd : Guard) (a : Reg) (ofs : BitVec 12) (s : State) : Result :=
  issue s gd [(a, 1)] (ifrFree oneEntry) (runOnce (stldOnce a ofs.toNat))

/-- PLANE_READY (R210, R220): the bytes of an STLD whose range is locked have arrived, once what its issue releases has been performed
(R293). -/
def execPlaneReady (core quad : Nat) (s : State) : Result :=
  .next (match s.grid? core quad with
    | none => s
    | some g =>
      match g.back, s.team? g.tid with
      | .loading off seq lock, some t =>
        if !t.running || g.st != .bound || lock == 0 || !t.released seq then s
        else
          let r := t.palRead off (mxPlaneBytes g.shape g.mtype.toNat g.scaled)
          let s1 := (s.unlock lock).setGrid { g with back := .ready ⟨r.1, r.2⟩ }
          let s2 := s1.updTeam t.tid fun u => Team.freeFinished { u with ifr := u.ifr.map fun e =>
            if e.seq == seq then { e with lanes := e.lanes.map fun o => { o with done := true } } else e }
          s2.gridSettle t.tid
      | _, _ => s)

/-- STSWAP for its entry (R221): it takes its place among the swaps of the team. -/
def stswapOnce (c : Cur) (_ : Entry) (_ : List Nat) (s : State) : Except Fate (State × Fate) :=
  match s.team? c.tid with
  | none => .error .stay
  | some t =>
    match s.boundGrid t with
    | none => .error (.trap (mkTrap .modeAlias 0))
    | some g => .ok (s.setGrid { g with swaps := g.swaps + 1 }, .next)

/-- STSWAP (R211, R221). -/
def execStswap (gd : Guard) (s : State) : Result := issue s gd [] always (runOnce stswapOnce)

/-- No step is on its way through the grid: the steps of the team that entered before a waiting swap have passed, as the
later ones wait for the swap (R211). -/
def Grid.quiet (g : Grid) : Bool := g.rows.all fun r => !r.queue.contains .step

/-- STSWAP_COMPLETION (R221). -/
def execStswapCompletion (core quad : Nat) (s : State) : Result :=
  .next (match s.grid? core quad with
    | none => s
    | some g =>
      match g.back with
      | .ready p =>
        if g.swaps > 0 && g.st == .bound && g.quiet then
          s.setGrid { g with front := some p, back := .empty, swaps := g.swaps - 1 }
        else s
      | _ => s)

/-- GRID_SWITCH_END (R197, R200). -/
def execGridSwitchEnd (core quad : Nat) (s : State) : Result :=
  .next (match s.grid? core quad with
    | none => s
    | some g =>
      match g.st with
      | .switchingIn => s.setGrid { g with st := .bound }
      | .switchingOut => s.dropGrid core quad
      | _ => s)

/-! ## Steps -/

/-- Resolve the A operand of a step, its window apart: the alignment of R222, then R77, with an operand of three registers at a multiple of
four and within the allotment (log 86). -/
def resolveStep (g : Group) (l : Nat) (a : Reg) (r : Nat) : Except Fate Nat :=
  let t := g.thread l
  let al := if r ≥ 3 then 4 else r
  let n := a.num.toNat + (if a.ind then t.ix.toNat else 0)
  let slot := t.wb + n
  if a.num.toNat % al != 0 || (a.ind && n % al != 0) then .error (.trap (mkTrap .regBounds slot))
  else if slot + r > g.allot then .error (.trap (mkTrap .regBounds (max slot g.allot)))
  else .ok slot

/-- A sticky poison joined with another: PT only where everything poisoned is tag-poisoned (R461, R462). -/
def Slot.taint (x : Slot) (p pt : Bool) : Slot :=
  if p then { x with poison := true, pt := pt && (!x.poison || x.pt) } else x

/-- MMA and MMAS in one thread (R222). -/
def mmaBody (scaled : Bool) (a b : Reg) (c : Cur) (_ : Entry) (s : State) (l : Nat) : Except Fate (State × Fate) :=
  match s.team? c.tid with
  | none => .error .stay
  | some t => do
    let g := t.group c.grp
    let th := g.thread l
    match (if th.mx && scaled == th.scaled then s.boundGrid t else none) with
    | none => .error (.trap (mkTrap .modeAlias 0))
    | some gr =>
      match gr.row? c.grp l with
      | none => .error (.trap (mkTrap .modeAlias 0))
      | some row =>
        let r := mxRegs gr.shape gr.mtype.toNat
        let sa ← resolveStep g l a r
        let _ ← resolveAt true g l b 1
        match th.aliases sa r with
        | some k => .error (.trap (mkTrap .modeAlias k))
        | none =>
          let sb ← resolve g l b 1
          let x ← readRef g l (.v sa) a.w r
          let y ← readRef g l sb b.w 1
          if gr.st != .bound then .error .stay
          match gr.front with
          | none => if gr.swaps > 0 then .error .stay else .error (.trap (mkTrap .modeAlias 0))
          | some p =>
            let q := mxStep gr.shape gr.mtype.toNat gr.scaled p x.val y.val row (th.window.map (·.val))
            let (pz, pt) := joinPoison [x, y, ⟨0, p.poison, false, 0⟩]
            let th1 := (th.setAccs q.2).setWindowState .pending
            let th2 := th1.setWindow (th1.window.map fun z => z.taint pz pt)
            .ok (s.setStream c l gr th2 { q.1 with opened := true, queue := q.1.queue ++ [.step] }, .next)

/-- The A operand of a step is Pending in a member that would wait for it (R61). -/
def stepPending (g : Group) (a b : Reg) (l : Nat) : Bool :=
  let th := g.thread l
  th.mx && match resolveStep g l a (mxRegs th.shape th.mtype.toNat) with
    | .ok slot =>
      let ss := slotsOf g l (.v slot) (mxRegs th.shape th.mtype.toNat)
      (th.aliases slot (mxRegs th.shape th.mtype.toNat)).isNone && !a.w && !ss.any (·.st == .void) &&
        ss.any (·.st == .pending) || srcPending g l b 1
    | .error _ => false

/-- A step may issue: no STSWAP of the team waits (R211), and no member's source is Pending. -/
def mmaReady (a b : Reg) (s : State) (c : Cur) (act : List Nat) : Bool :=
  match s.team? c.tid with
  | none => true
  | some t =>
    (match s.boundGrid t with
      | some g => g.swaps == 0
      | none => true) && !act.any fun l => stepPending (t.group c.grp) a b l

/-- MMA (R222). -/
def execMma (gd : Guard) (a : Reg) (s : State) : Result :=
  issue s gd [] (mmaReady a Reg.null) (runS (mmaBody false a Reg.null))

/-- MMAS (R222). -/
def execMmas (gd : Guard) (a b : Reg) (s : State) : Result := issue s gd [] (mmaReady a b) (runS (mmaBody true a b))

/-- GRID_STEP_PASS (R215, Table 8): the oldest step of a thread's row has passed the grid. -/
def execGridStepPass (tid grp lane : Nat) (s : State) : Result :=
  .next (match s.team? tid with
    | none => s
    | some t =>
      match s.boundGrid t with
      | none => s
      | some g =>
        match g.row? grp lane with
        | some r =>
          match r.queue with
          | .step :: rest => s.setGrid (g.setRow { r with queue := rest })
          | _ => s
        | none => s)

/-- MXSYNC_FOLD (R218): an MXSYNC completes: its flags go to FLAGS, and the window becomes Full unless the stream has been
opened again (R212). -/
def execMxsyncFold (tid grp lane : Nat) (s : State) : Result :=
  .next (match s.team? tid with
    | none => s
    | some t =>
      match s.boundGrid t with
      | none => s
      | some g =>
        match g.row? grp lane with
        | some r =>
          match r.queue with
          | .sync f :: rest =>
            let s1 := s.setGrid (g.setRow { r with queue := rest })
            let more := rest.any fun x => x != .step
            s1.updGroup tid grp fun x =>
              let y := x.orFlags f
              if r.opened || more then y else y.updThread lane fun th => th.setWindowState .full
          | _ => s
        | none => s)

/-! ## MXRD and MXST -/

/-- The stream of a thread is open (R212). -/
def State.streamOpen (s : State) (t : Team) (gi l : Nat) : Bool :=
  match s.boundGrid t with
  | some g => match g.row? gi l with
    | some r => r.opened
    | none => false
  | none => false

/-- Read slots of a thread's own window (R213): an open stream traps whatever W is. -/
def State.readWindow (s : State) (t : Team) (gi l slot n : Nat) (w : Bool) : Except Fate Opnd :=
  if s.streamOpen t gi l then .error (.trap (mkTrap .emptyRead slot))
  else readRef (t.group gi) l (.v slot) w n

/-- Window slots whose MXSYNC is outstanding make an entry wait when W = 0 (R61, R213). -/
def windowReady (a : Reg) (count : Thread → Nat → Nat) (s : State) (c : Cur) (act : List Nat) : Bool :=
  match s.team? c.tid with
  | none => true
  | some t =>
    !act.any fun l =>
      let g := t.group c.grp
      let th := g.thread l
      th.mx && !a.w && !s.streamOpen t c.grp l && match resolveAt true g l a 1 with
        | .ok (.v slot) =>
          let ss := slotsOf g l (.v slot) (count th slot)
          !ss.any (·.st == .void) && ss.any (·.st == .pending)
        | _ => false

/-- MXRD in one thread (R223). -/
def mxrdBody (d a : Reg) (w : Nat) (c : Cur) (_ : Entry) (s : State) (l : Nat) : Except Fate (State × Fate) :=
  match s.team? c.tid with
  | none => .error .stay
  | some t => do
    let g := t.group c.grp
    let th := g.thread l
    if !th.mx then .error (.trap (mkTrap .modeAlias 0))
    let ra ← resolveAt true g l a w
    let _ ← resolveAt true g l d w
    match ra with
    | .v slot =>
      if slot < th.windowBase || slot + w > th.windowBase + th.columns then .error (.trap (mkTrap .modeAlias 0))
      let _ ← resolve g l d w
      let _ ← s.readWindow t c.grp l slot w a.w
      let dst ← dstReady g l d w
      let ss := slotsOf g l ra w
      .ok (s.onGroup c fun y => putSlots y l dst (ss.map fun z => { z with st := .full }), .next)
    | _ => .error (.trap (mkTrap .modeAlias 0))

/-- MXRD (R223). -/
def execMxrd (gd : Guard) (d a : Reg) (size : BitVec 2) (s : State) : Result :=
  issue s gd [] (windowReady a fun _ _ => sizeRegs size.toNat) (runS (mxrdBody d a (sizeRegs size.toNat)))

/-- The pieces of an MXST to memory: one for each 256-byte line (R332, R334). -/
def linePieces (va : BitVec 64) : Nat → Nat → Nat → List (BitVec 64 × Nat × Nat)
  | 0, _, _ => []
  | fuel + 1, len, v =>
    if len == 0 then []
    else
      let k := min len (256 - va.toNat % 256)
      (va, k, v % 2 ^ (8 * k)) :: linePieces (va + BitVec.ofNat 64 k) fuel (len - k) (v / 2 ^ (8 * k))

/-- Translate the pieces of an access in ascending order (R237). -/
def State.accessAll (s : State) (tid gi l : Nat) (need : RangeEnt → Bool) :
    List (BitVec 64 × Nat × Nat) → Try (State × List (Xlat × BitVec 64 × Nat × Nat))
  | [] => .ok (s, [])
  | p :: ps => do
    let (s1, x) ← s.access tid gi l p.1 need
    let (s2, xs) ← s1.accessAll tid gi l need ps
    .ok (s2, (x, p) :: xs)

/-- The class rules of the pieces, then their range locks (R265). -/
def State.checksAll (s : State) (t : Team) (xs : List (Xlat × BitVec 64 × Nat × Nat)) : Option Trap :=
  if t.tid == 0 then none
  else match xs.find? fun x => !clsDominates x.1.cls t.cls with
    | some x => some ⟨.classStore, 0, x.2.1⟩
    | none => xs.findSome? fun x => (s.lockHit t none x.1.dia (x.1.dia + x.2.2.1) true).map fun d =>
        ⟨.rangeLock, 0, x.2.1 + BitVec.ofNat 64 (d - x.1.dia)⟩

/-- MXST to memory in one thread: one I1 entry of kind 7 (R224). -/
def mxstMemory (c : Cur) (e : Entry) (ord scope : Nat) (s : State) (t : Team) (l : Nat) (va : BitVec 64) (n v : Nat) :
    Except Fate (State × Fate) :=
  if va.toNat % 16 != 0 then .error (.trap ⟨.align, 0, va⟩)
  else match s.accessAll c.tid c.grp l (fun x => x.w) (linePieces va 10 n v) with
    | .error r => .ok r
    | .ok (s1, xs) =>
      match s1.checksAll t xs with
      | some tr => .error (.trap tr)
      | none =>
        let piece (x : Xlat × BitVec 64 × Nat × Nat) : Piece :=
          { va := x.2.1, dia := x.1.dia, len := x.2.2.1, data := x.2.2.2, cmp := 0, key := x.1.key, slot := x.1.slot,
            chk := x.1.tchk, prv := x.1.prv, done := false, wait := .no }
        let o : LaneOp := { lane := l, dst := .null, a := 0, b := 0, done := false, fw := false, pieces := xs.map piece,
                            who := [(c.grp, l)] }
        let mk (idx seq : Nat) : IfrEntry :=
          { idx := idx, seq := seq, op := .mxst, grp := c.grp, ord := ord, scope := scope, sz := 4, aux := 0, hnd := 0,
            dwords := 0, pc := e.pc, lanes := [o] }
        .ok (s1.updTeam c.tid fun u => u.newEntry mk, .next)

/-- MXST to the palette in one thread (R224, R266). -/
def mxstPalette (c : Cur) (ord : Nat) (s : State) (t : Team) (l : Nat) (off : Int) (n v : Nat) :
    Except Fate (State × Fate) := do
  if off % 16 != 0 then .error (.trap (offTrap .align off))
  let o ← palCheck s t off n true
  if !t.palOrdered c.grp l ord then .error .stay
  .ok (s.setTeam (t.palWrite o n v), .next)

/-- MXST in one thread (R224), its checks in the order of R215; T names one window slot, the first of the columns (log 65). -/
def mxstBody (tr a x : Reg) (ofs : BitVec 14) (scope ord : Nat) (c : Cur) (e : Entry) (s : State) (l : Nat) :
    Except Fate (State × Fate) :=
  match s.team? c.tid with
  | none => .error .stay
  | some t => do
    let g := t.group c.grp
    let th := g.thread l
    if !th.mx then .error (.trap (mkTrap .modeAlias 0))
    let rt ← resolveAt true g l tr 1
    match rt with
    | .v slot =>
      let lo := th.windowBase
      if slot < lo || slot ≥ lo + th.columns || (slot - lo) % 4 != 0 then .error (.trap (mkTrap .modeAlias 0))
      let n := lo + th.columns - slot
      let _ ← resolveAt true g l a 2
      let _ ← resolveAt true g l x 1
      let ra ← resolve g l a 2
      let rx ← resolve g l x 1
      let v ← s.readWindow t c.grp l slot n tr.w
      let av ← readRef g l ra a.w 2
      let xv ← readRef g l rx x.w 1
      consumeAll [v, av, xv]
      if a.isNull then mxstPalette c ord s t l ((xv.val : Int) + 16 * ofs.toInt) (4 * n) v.val
      else mxstMemory c e ord scope s t l (formVa av.val xv.val true (16 * ofs.toInt)) (4 * n) v.val
    | _ => .error (.trap (mkTrap .modeAlias 0))

/-- MXST may issue: its window columns, and an IFR entry for each thread when it stores to memory (R331). -/
def mxstReady (tr a : Reg) (s : State) (c : Cur) (act : List Nat) : Bool :=
  windowReady tr (fun th slot => th.windowBase + th.columns - slot) s c act && (a.isNull || ifrFree List.length s c act)

/-- MXST (R224). -/
def execMxst (gd : Guard) (t a x : Reg) (ofs : BitVec 14) (scope : BitVec 3) (ord : BitVec 2) (_sz : BitVec 3)
    (s : State) : Result :=
  issue s gd [(a, 2), (x, 1)] (mxstReady t a) (runS (mxstBody t a x ofs scope.toNat ord.toNat))

end Sys2Proof.Machine
end

