-- ==== Sys2Proof/Machine/Template.lean ====
section
/-! DEFINITION. Copy templates and boxes (R305-R307), buffer handles (R308, R309, R315). -/

namespace Sys2Proof.Machine

/-! ## Templates (R305, Table 1) -/

abbrev Tmpl := BitVec 512

/-- Bits `hi` down to `lo` of dword `k`. -/
def Tmpl.bits (t : Tmpl) (k hi lo : Nat) : Nat := bitsOf t.toNat (64 * k + hi) (64 * k + lo)

def Tmpl.scope (t : Tmpl) : Nat := t.bits 0 60 58
def Tmpl.dims (t : Tmpl) : Nat := t.bits 0 57 56 + 1
def Tmpl.esize (t : Tmpl) : Nat := t.bits 0 55 53
def Tmpl.src (t : Tmpl) : Nat := t.bits 0 52 51
def Tmpl.dst (t : Tmpl) : Nat := t.bits 0 50 49
def Tmpl.vmode (t : Tmpl) : Bool := t.bits 0 48 48 == 1
def Tmpl.ver (t : Tmpl) : Nat := t.bits 0 31 0
def Tmpl.varr (t : Tmpl) : Nat := t.bits 5 63 0

/-- Element size in bytes. -/
def Tmpl.w (t : Tmpl) : Nat := 2 ^ t.esize

/-- E0 to E3. -/
def Tmpl.ext (t : Tmpl) (k : Nat) : Nat := t.bits 1 (16 * k + 15) (16 * k)

/-- Source stride of a dimension. -/
def Tmpl.ss (t : Tmpl) (k : Nat) : Int :=
  match k with
  | 1 => signedOf 32 (t.bits 2 31 0)
  | 2 => signedOf 32 (t.bits 2 63 32)
  | 3 => signedOf 32 (t.bits 3 31 0)
  | _ => 0

/-- Destination stride of a dimension. -/
def Tmpl.ds (t : Tmpl) (k : Nat) : Int :=
  match k with
  | 1 => signedOf 32 (t.bits 3 63 32)
  | 2 => signedOf 32 (t.bits 4 31 0)
  | 3 => signedOf 32 (t.bits 4 63 32)
  | _ => 0

/-- B of R306: the bytes of the box. -/
def Tmpl.bytes (t : Tmpl) : Nat := t.w * (t.ext 0 + 1) * (t.ext 1 + 1) * (t.ext 2 + 1) * (t.ext 3 + 1)

/-- R306, but for a failed read. -/
def Tmpl.malformed (t : Tmpl) : Bool :=
  t.bits 0 63 61 != 0 || t.bits 0 47 32 != 0 || t.bits 6 63 0 != 0 || t.bits 7 63 0 != 0 ||
  t.scope < 2 || t.esize > 4 || t.src > 1 || t.dst > 2 ||
  (if t.vmode then t.ver != 0 || t.varr % 4 != 0 else t.varr != 0) ||
  ([1, 2, 3].any fun k => k ≥ t.dims && (t.ext k != 0 || t.ss k != 0 || t.ds k != 0)) ||
  ([1, 2, 3].any fun k => t.ss k % (t.w : Int) != 0 || t.ds k % (t.w : Int) != 0) ||
  t.bytes > 16777216 || (t.dst == 2 && (t.bytes % 128 != 0 || t.src == 1))

/-- The template a copy of a team names, if it is not malformed (R306). -/
def Team.template (t : Team) (k : Nat) : Option Tmpl :=
  match t.templates.getD k none with
  | some x => if Tmpl.malformed x then none else some x
  | none => none

/-! ## The box (R307) -/

/-- Bytes of a row: dimension 0 is contiguous. -/
def Tmpl.rowBytes (t : Tmpl) : Nat := t.w * (t.ext 0 + 1)

/-- Rows of the box. -/
def Tmpl.rows (t : Tmpl) : Nat := (t.ext 1 + 1) * (t.ext 2 + 1) * (t.ext 3 + 1)

/-- Offset of a row from a base under three strides. -/
def Tmpl.rowOfs (t : Tmpl) (stride : Nat → Int) (r : Nat) : Int :=
  let n1 := t.ext 1 + 1
  let n2 := t.ext 2 + 1
  ((r % n1 : Nat) : Int) * stride 1 + ((r / n1 % n2 : Nat) : Int) * stride 2 + ((r / (n1 * n2) : Nat) : Int) * stride 3

/-- Where a row begins in a memory of 2^64 bytes. -/
def rowVa (base : BitVec 64) (ofs : Int) : Nat := (base + BitVec.ofInt 64 ofs).toNat

/-- Where the rows of a box begin: `mem` for addresses, otherwise palette offsets. -/
def Tmpl.starts (t : Tmpl) (mem : Bool) (base : BitVec 64) (stride : Nat → Int) : List Int :=
  (List.range t.rows).map fun r =>
    if mem then (rowVa base (t.rowOfs stride r) : Int) else (base.toNat : Int) + t.rowOfs stride r

/-- The first palette offset outside an allotment, in box order (R523). -/
def firstOutside (size n : Nat) (starts : List Int) : Option Int :=
  (starts.find? fun (o : Int) => o < 0 || o + n > size).map fun (o : Int) => if o < 0 then o else max o size

/-- The pieces of `n` bytes from `a` that aligned blocks of `g` bytes hold: first byte, length. -/
def cutAt (g : Nat) : Nat → Nat → Nat → List (Nat × Nat)
  | 0, _, _ => []
  | fuel + 1, a, n =>
    if n == 0 then []
    else let k := min n (g - a % g); (a, k) :: cutAt g fuel ((a + k) % 2 ^ 64) (n - k)

/-- The pieces that pages of 4 KiB hold of a list of rows. -/
def rowPieces (n : Nat) (starts : List Int) : List (Nat × Nat) :=
  starts.flatMap fun a => cutAt 4096 (n / 4096 + 2) a.toNat n

/-- Keep the lowest address that touches each page. -/
def lowestTouch (acc : List (Nat × Nat)) (p : Nat × Nat) : List (Nat × Nat) :=
  match acc.find? fun x => x.1 == p.1 / 4096 with
  | some _ => acc.map fun x => if x.1 == p.1 / 4096 then (x.1, min x.2 p.1) else x
  | none => acc ++ [(p.1 / 4096, p.1)]

/-- The pages that pieces touch, in ascending order, each with the lowest byte touched. -/
def touched (ps : List (Nat × Nat)) : List (Nat × Nat) := (ps.foldl lowestTouch []).mergeSort fun a b => a.1 ≤ b.1

/-! ## Beats (R304) -/

/-- The elements of a row cut at destination lines of 256 bytes: line, first element, elements. -/
def cutRow (w : Nat) : Nat → Int → Nat → Nat → List (Int × Nat × Nat)
  | 0, _, _, _ => []
  | fuel + 1, pos, first, n =>
    if n == 0 then []
    else
      let k := min n ((256 - pos % 256).toNat / w)
      (pos / 256, first, k) :: cutRow w fuel (pos + k * w) (first + k) (n - k)

/-- A run joins the beat before it when both lie in one line. -/
def joinRun (acc : List (Int × Beat)) (x : Int × Nat × Nat) : List (Int × Beat) :=
  match acc with
  | (l, b) :: rest =>
    if l == x.1 then (l, { b with count := b.count + x.2.2 }) :: rest
    else (x.1, ⟨x.2.1, x.2.2, false, none⟩) :: acc
  | [] => [(x.1, ⟨x.2.1, x.2.2, false, none⟩)]

/-- The beats of a box, in box order; a register destination is a line of box bytes. -/
def Tmpl.beats (t : Tmpl) (starts : List Int) : List Beat :=
  let n := t.ext 0 + 1
  let runs := starts.zipIdx.flatMap fun x =>
    cutRow t.w (t.rowBytes / 256 + 2) (if t.dst == 2 then ((x.2 * t.rowBytes : Nat) : Int) else x.1) (x.2 * n) n
  (runs.foldl joinRun []).reverse.map (·.2)

/-! ## Handles (R308, R309) -/

/-- A Free handle. -/
def Handle.free : Handle := ⟨.free, 0, 0, 0, false, false⟩

def Team.handle (t : Team) (h : Nat) : Handle := t.handles.getD h Handle.free

def Team.setHandle (t : Team) (h : Nat) (x : Handle) : Team := { t with handles := t.handles.set h x }

def Team.updHandle (t : Team) (h : Nat) (f : Handle → Handle) : Team := t.setHandle h (f (t.handle h))

/-- Entries of a core's handle table (R308). -/
def handleCapacity : Nat := 256

/-- Handle entries of a core that its teams hold: a team holds a core while it is Resident. -/
def State.handlesUsed (s : State) (core : Nat) : Nat :=
  ((s.teams.filter fun t => t.core == core && t.st == .resident).map fun t =>
    (t.handles.filter fun h => h.st != .free).length).sum

/-- R309, R310: `n` bytes more can be posted to a handle now. -/
def State.canPost (s : State) (t : Team) (h n : Nat) : Bool :=
  let x := t.handle h
  match x.st with
  | .free => s.handlesUsed t.core < handleCapacity
  | .filling => x.exp + n ≤ 2 ^ 31 - 1
  | .full | .draining => false

/-- A handle whose bytes have all arrived is Full (R309). -/
def Handle.fill (x : Handle) : Handle := if x.st == .filling && x.rcv == x.exp then { x with st := .full } else x

/-- Post `n` bytes at a scope (R309). -/
def Handle.post (x : Handle) (n scope : Nat) : Handle :=
  match x.st with
  | .filling => { x with exp := x.exp + n, sc := max x.sc scope }
  | _ => ⟨.filling, n, 0, scope, false, false⟩

/-- A posting of 0 bytes with REF 1 (R313, R395). -/
def Handle.postNothing (x : Handle) : Handle :=
  match x.st with
  | .filling => { x with ref := true }
  | _ => ⟨.full, 0, 0, 2, false, true⟩

/-- `n` bytes have arrived (R309). -/
def Handle.receive (x : Handle) (n : Nat) : Handle := Handle.fill { x with rcv := x.rcv + n }

/-- HWAIT in one thread (R315). -/
def hwaitBody (hnd pd : Nat) (c : Cur) (_ : Entry) (s : State) (l : Nat) : Except Fate (State × Fate) :=
  match s.team? c.tid with
  | none => .error .stay
  | some t =>
    let h := t.handle hnd
    match h.st with
    | .filling | .draining => .error .stay
    | .free => .ok (s.predResult c l pd false, .next)
    | .full => .ok ((if h.sc ≥ 4 then s.l1Acquire t.core else s).predResult c l pd (!h.int && !h.ref), .next)

/-- HWAIT (R315). -/
def execHwait (gd : Guard) (hnd : BitVec 5) (pd : BitVec 3) (s : State) : Result :=
  issue s gd [] always (runS (hwaitBody hnd.toNat pd.toNat))

/-- HREL in one thread (R315): the release of a Full handle waits for the thread's earlier accesses. -/
def hrelBody (hnd : Nat) (c : Cur) (_ : Entry) (s : State) (l : Nat) : Except Fate (State × Fate) :=
  match s.team? c.tid with
  | none => .error .stay
  | some t =>
    match (t.handle hnd).st with
    | .filling => .error .stay
    | .free | .draining => .ok (s, .next)
    | .full =>
      if !t.performed c.grp l then .error .stay
      else .ok (s.setTeam (t.updHandle hnd fun h => { h with st := .draining }), .next)

/-- HREL (R315). -/
def execHrel (gd : Guard) (hnd : BitVec 5) (s : State) : Result := issue s gd [] always (runS (hrelBody hnd.toNat))

/-- The code of a handle's state in HSTAT. -/
def HState.code : HState → Nat
  | .free => 0 | .filling => 1 | .full => 2 | .draining => 3

/-- The value of HSTAT (R315, Table 5). -/
def Handle.stat (h : Handle) : Nat :=
  if h.st == .free then 0
  else h.st.code + (if h.int then 4 else 0) + (if h.ref then 8 else 0) + (h.exp - h.rcv) % 2 ^ 32 * 2 ^ 32

/-- HSTAT in one thread (R315). -/
def hstatBody (d : Reg) (hnd : Nat) (c : Cur) (_ : Entry) (s : State) (l : Nat) : Except Fate (State × Fate) :=
  match s.team? c.tid with
  | none => .error .stay
  | some t => do
    let dst ← dstReady (t.group c.grp) l d 2
    .ok (s.result c l dst 2 (t.handle hnd).stat 7 false, .next)

/-- HSTAT (R315). -/
def execHstat (gd : Guard) (d : Reg) (hnd : BitVec 5) (s : State) : Result :=
  issue s gd [] always (runS (hstatBody d hnd.toNat))

/-- HANDLE_DRAIN_END (R308): the earlier palette accesses to the handle's bytes have been performed, as palette accesses
are at issue, and the handle is Free. -/
def execHandleDrainEnd (tid hnd : Nat) (s : State) : Result :=
  .next (s.updTeam tid fun t =>
    if t.st == .resident && (t.handle hnd).st == .draining then t.setHandle hnd Handle.free else t)

end Sys2Proof.Machine
end

