-- ==== Sys2Proof/Machine/Tile.lean ====
section
/-! DEFINITION. The raster descriptor and the rasteriser's queue (R390, R391, R395), and how a halted command comes back to it
(R396). -/

namespace Sys2Proof.Machine

/-! ## The raster descriptor (R390, Table 3) -/

abbrev RDesc := BitVec 512

def RDesc.bits (d : RDesc) (k hi lo : Nat) : Nat := bitsOf d.toNat (64 * k + hi) (64 * k + lo)

def RDesc.pos (d : RDesc) : Nat := RDesc.bits d 0 55 0
def RDesc.idx (d : RDesc) : Nat := RDesc.bits d 1 55 0
def RDesc.draw (d : RDesc) : Nat := RDesc.bits d 2 63 44
def RDesc.inst (d : RDesc) : Nat := RDesc.bits d 2 43 28
def RDesc.first (d : RDesc) : Nat := RDesc.bits d 2 27 0
def RDesc.nprim (d : RDesc) : Nat := RDesc.bits d 3 55 32
def RDesc.ty (d : RDesc) : Nat := RDesc.bits d 3 31 16
def RDesc.tx (d : RDesc) : Nat := RDesc.bits d 3 15 0
def RDesc.clearz (d : RDesc) : Nat := RDesc.bits d 4 63 32
def RDesc.zfunc (d : RDesc) : Nat := RDesc.bits d 4 19 17
def RDesc.zw (d : RDesc) : Bool := RDesc.bits d 4 16 16 == 1
def RDesc.cull (d : RDesc) : Nat := RDesc.bits d 4 15 14
def RDesc.ff (d : RDesc) : Bool := RDesc.bits d 4 13 13 == 1
def RDesc.clear (d : RDesc) : Bool := RDesc.bits d 4 12 12 == 1
def RDesc.scode (d : RDesc) : Nat := RDesc.bits d 4 11 10
def RDesc.scope (d : RDesc) : Nat := RDesc.bits d 4 9 7

/-- A malformed descriptor (R390). -/
def RDesc.malformed (d : RDesc) : Bool :=
  RDesc.bits d 0 63 56 != 0 || RDesc.bits d 1 63 56 != 0 || RDesc.bits d 3 63 56 != 0 || RDesc.bits d 4 31 20 != 0 ||
  RDesc.bits d 4 6 0 != 0 || ([5, 6, 7].any fun k => RDesc.bits d k 63 0 != 0) ||
  RDesc.pos d % 16 != 0 || RDesc.idx d % 4 != 0 || RDesc.draw d == 0xFFFFF ||
  RDesc.first d + RDesc.nprim d + 1 > 2 ^ 28 || RDesc.tx d % 32 != 0 || RDesc.tx d > 32736 ||
  RDesc.ty d % 32 != 0 || RDesc.ty d > 32736 || RDesc.cull d == 3 || RDesc.scope d < 2

/-- Bytes of a visibility tile (R391). -/
def tileBytes (scode : Nat) : Nat := 256 + 12288 * 2 ^ scode

/-! ## The rasteriser's queue (R395, R396) -/

/-- Commands in a rasteriser's queue (R395). -/
def rasterQueue : Nat := 16

/-- The commands in a panel's queue, in order. -/
def State.rasterQueueOf (s : State) (panel : Nat) : List Raster := s.rasters.filter fun r => r.panel == panel && r.queued

/-- The tile of a command, locked as a destination (R294, Table 3). -/
def State.rasterLock (s : State) (r : Raster) (t : Team) : Option State :=
  s.register [(t.core / 4, Lock.rounded r.id (some r.tid) r.off (r.off + tileBytes (RDesc.scode r.desc)) true)]

/-- A command of a restored team takes its place in a queue again and registers again; it waits for a free place in the queue without
keeping the team's groups (R396). -/
def State.resumeRaster (s : State) (r : Raster) (t : Team) : Option State :=
  let panel := t.core / 4
  if (s.rasterQueueOf panel).length ≥ rasterQueue then some s
  else (s.rasterLock r t).map fun s1 =>
    { s1 with rasters := s1.rasters.filter (fun x => x.id != r.id) ++ [{ r with queued := true, panel := panel }] }

end Sys2Proof.Machine
end

