-- ==== Sys2Proof/Machine/Copy.lean ====
section
/-! DEFINITION. The copy engines (R302-R304, R307, R309-R313): COPY and COPYM, the beats of a command, tile integrity (R312,
R445-R447), operations halted by a stop and receivers filled later (R297, R340, R344). -/

namespace Sys2Proof.Machine

/-! ## A command's box -/

/-- Where the rows of a command's source begin. -/
def Copy.from (c : Copy) : List Int := Tmpl.starts c.tmpl (Tmpl.src c.tmpl == 0) c.sbase (Tmpl.ss c.tmpl)

/-- Where the rows of its destination begin. -/
def Copy.dests (c : Copy) : List Int := Tmpl.starts c.tmpl (Tmpl.dst c.tmpl == 0) c.dbase (Tmpl.ds c.tmpl)

/-- The DIA of a virtual address in a list of translated pages. -/
def pageDia (ps : List PageX) (va : Nat) : Option (Nat × PageX) :=
  (ps.find? (·.page == va / 4096)).map fun p => (p.dia + va % 4096, p)

/-- Lowest byte and end of a set of ranges. -/
def spanOf (rs : List (Nat × Nat)) : Nat × Nat :=
  match rs with
  | [] => (0, 0)
  | r :: rest => rest.foldl (fun a x => (min a.1 x.1, max a.2 (x.1 + x.2))) (r.1, r.1 + r.2)

/-- The span of DIAs of a box in memory. -/
def diaSpan (n : Nat) (starts : List Int) (ps : List PageX) : Nat × Nat :=
  spanOf ((rowPieces n starts).filterMap fun x => (pageDia ps x.1).map fun d => (d.1, x.2))

/-- The span of offsets of a box in a palette. -/
def palSpan (n : Nat) (starts : List Int) : Nat × Nat := spanOf (starts.map fun o => (o.toNat, n))

/-- The panels that home a range of DIAs: homes repeat after as many pages as a partition has panels. -/
def State.homesOf (s : State) (lo hi : Nat) : List Nat :=
  ((List.range (min (hi / 65536 + 1 - lo / 65536) 12)).filterMap fun k =>
    (s.home ((lo / 65536 + k) * 65536)).map (·.1)).eraseDups

/-- A range of memory, at each panel that homes a page of it (R294). -/
def State.memLocks (s : State) (owner : Nat) (r : Nat × Nat) (dst : Bool) : List (Nat × Lock) :=
  if r.1 == r.2 then [] else (s.homesOf r.1 (r.2 - 1)).map fun p => (p, Lock.rounded owner none r.1 r.2 dst)

/-- The ranges that a command registers (R294, Table 3); a copy into registers registers nothing. -/
def State.copyLocks (s : State) (c : Copy) : List (Nat × Lock) :=
  let n := Tmpl.rowBytes c.tmpl
  let pal (tid : Nat) (starts : List Int) (dst : Bool) : List (Nat × Lock) :=
    match s.team? tid with
    | some t => let r := palSpan n starts; [(t.core / 4, Lock.rounded c.id (some tid) r.1 r.2 dst)]
    | none => []
  let src := if Tmpl.src c.tmpl == 0 then s.memLocks c.id (diaSpan n c.from c.src) false else pal c.tid c.from false
  match Tmpl.dst c.tmpl with
  | 0 => src ++ s.memLocks c.id (diaSpan n c.dests c.dst) true
  | 1 => src ++ (c.recvs.filter (!·.stopped)).flatMap fun r => pal r.tid c.dests true
  | _ => []

/-! ## Engines (R302, R303) -/

/-- Commands an engine's queue holds (R303). -/
def queueLength : Nat := 32

/-- The engine that takes a command of a partition: the fewest queued commands, the lowest number. -/
def State.chooseEngine (s : State) (part : Nat) : Option Nat :=
  ((s.engines.filter fun e => e.part == some part && e.cmds.length < queueLength).foldl
    (fun (b : Option Engine) e => match b with
      | none => some e
      | some x => if e.cmds.length < x.cmds.length then some e else b) none).map (·.num)

def State.updEngine (s : State) (n : Nat) (f : Engine → Engine) : State :=
  { s with engines := s.engines.map fun e => if e.num == n then f e else e }

/-- Change the command of a name, in an engine or halted. -/
def State.updCopy (s : State) (id : Nat) (f : Copy → Copy) : State :=
  let g (c : Copy) : Copy := if c.id == id then f c else c
  { s with engines := s.engines.map (fun e => { e with cmds := e.cmds.map g }), parked := s.parked.map g }

/-! ## Issue (R310) -/

/-- A base field suits a pair operand (R314). -/
def baseFits (r : Reg) (pair : Bool) : Bool := !pair || (!r.isNull && r.num.toNat % 2 == 0)

/-- The widths of the operands of a copy whose template is not malformed. -/
def copySrcs (t : Team) (k : Nat) (d a b : Reg) : List (Reg × Nat) :=
  match t.template k with
  | some x => [(d, if Tmpl.dst x == 0 then 2 else 1), (a, if Tmpl.src x == 0 then 2 else 1), (b, 1)]
  | none => []

/-- No issuing member waits for an operand (R61). -/
def copyReady (k : Nat) (d a b : Reg) (s : State) (c : Cur) (act : List Nat) : Bool :=
  match s.team? c.tid with
  | none => true
  | some t => !act.any fun l => (copySrcs t k d a b).any fun x => srcPending (t.group c.grp) l x.1 x.2

/-- Translate the pages that a box touches, lowest page first, each at its lowest byte touched (R310, R237). -/
def State.xlatPages (s : State) (c : Cur) (l : Nat) (need : RangeEnt → Bool) :
    List (Nat × Nat) → Try (State × List (PageX × Xlat × Nat))
  | [] => .ok (s, [])
  | p :: ps => do
    let (s1, x) ← s.access c.tid c.grp l (BitVec.ofNat 64 p.2) need
    let (s2, xs) ← s1.xlatPages c l need ps
    .ok (s2, (⟨p.1, x.dia - p.2 % 4096, x.key, x.slot, x.prot⟩, x, p.2) :: xs)

/-- The DIAs of the protected tiles of a list of pages, in ascending order. -/
def protTiles (ps : List PageX) : List Nat :=
  (((ps.filter (·.prot)).map (·.dia)).eraseDups).mergeSort fun a b => a ≤ b

/-- The threads a copy into registers writes, lane by lane, and its checks (R310): slots S to S + n - 1 of group G. -/
def regDest (t : Team) (gi slot n : Nat) : Except Fate (List (Nat × Nat)) :=
  if gi ≥ t.groups.length then .error (.trap (mkTrap .regBounds 0))
  else
    let g := t.group gi
    let live := g.liveLanes
    if slot + n > g.allot then .error (.trap (mkTrap .regBounds (max slot g.allot)))
    else if live.any fun k => ((g.thread k).aliases slot n).isSome then .error (.trap (mkTrap .modeAlias 0))
    else if live.any fun k => (slotsOf g k (.v slot) n).any (·.st == .pending) then .error .stay
    else .ok ((List.range 32).map fun k => (gi, k))

/-- The receivers of a COPYM (R313): those Resident on the issuing panel, and those recorded for later. -/
def State.receivers (s : State) (t : Team) (mask : Nat) : List Nat × List Nat :=
  let t0 := t.team / 16 * 16
  let grid := (s.launches.find? (·.lid == t.lid)).map fun x => (x.teams, x.next, x.abandoned)
  (List.range 16).foldl (fun acc i =>
    let tid := t.tid - t.team + t0 + i
    if !mask.testBit i then acc
    else match s.team? tid with
      | some r =>
        if r.st == .ended || r.lid != t.lid then acc
        else if r.st == .resident && !r.stopping && r.core / 4 == t.core / 4 then (acc.1 ++ [tid], acc.2)
        else (acc.1, acc.2 ++ [tid])
      | none => match grid with
        | some (n, next, gone) => if next ≤ t0 + i && t0 + i < n && !gone then (acc.1, acc.2 ++ [tid]) else acc
        | none => acc) ([], [])

/-- Every palette byte of a box lies in a team's allotment (R310). -/
def palBounds (t : Team) (n : Nat) (starts : List Int) : Except Fate Unit :=
  match firstOutside t.palSize n starts with
  | some o => .error (.trap (offTrap .paletteBounds o))
  | none => .ok ()

/-- The operands of a copy, read and checked: template, destination base, source base, B (R310); a handle named with DST = 2 raises TEMPLATE
before the fields are read (log 87). -/
def copyOperands (multi : Bool) (d a b : Reg) (k hnd l : Nat) (s : State) (t : Team) (g0 : Group) :
    Except Fate (Tmpl × Nat × Nat × Nat) := do
  let part ← match (if t.tid == 0 then none else s.ctx? t.ctx) with
    | some x => .ok x.part
    | none => .error (.trap (mkTrap .noEngine 0))
  if !s.engines.any (·.part == some part) then .error (.trap (mkTrap .noEngine 0))
  let bad : Fate := .trap (mkTrap .template k)
  let tm ← match t.template k with
    | some x => .ok x
    | none => .error bad
  if multi && (Tmpl.src tm != 0 || Tmpl.dst tm != 1) then .error bad
  if !baseFits d (Tmpl.dst tm == 0) || !baseFits a (Tmpl.src tm == 0) then .error bad
  if !multi && Tmpl.dst tm == 2 && hnd != 0 then .error bad
  let xs ← readAll g0 l (copySrcs t k d a b)
  consumeAll xs
  let v (i : Nat) : Nat := (xs.getD i ⟨0, false, false, 0⟩).val
  if Tmpl.dst tm != 2 && v 0 % Tmpl.w tm != 0 then .error (.trap (mkTrap .align (v 0)))
  if v 1 % Tmpl.w tm != 0 then .error (.trap (mkTrap .align (v 1)))
  .ok (tm, v 0, v 1, v 2)

/-- A refusal of one member with the state as a try reached it. -/
def orElse {α : Type} (s : State) (r : Except Fate α) : Try α :=
  match r with
  | .ok x => .ok x
  | .error f => .error (s, f)

/-- Source, version and destination pages of a command (R310). -/
structure CopyPages where
  src : List (PageX × Xlat × Nat)
  vers : List PageX
  dst : List (PageX × Xlat × Nat)

/-- Translate a box (R310); the version array counts among the pages read (R312). -/
def State.copyPages (s : State) (c : Cur) (l : Nat) (x : Copy) : Try (State × CopyPages) := do
  let n := Tmpl.rowBytes x.tmpl
  let pages (on : Bool) (starts : List Int) := if on then touched (rowPieces n starts) else []
  let (s1, src) ← s.xlatPages c l (fun e => e.r) (pages (Tmpl.src x.tmpl == 0) x.from)
  let (s2, dst) ← s1.xlatPages c l (fun e => e.w) (pages (Tmpl.dst x.tmpl == 0) x.dests)
  let tiles := max (protTiles (src.map (·.1))).length (protTiles (dst.map (·.1))).length
  let vp := if Tmpl.vmode x.tmpl && tiles > 0 then touched (cutAt 4096 (tiles / 1024 + 2) (Tmpl.varr x.tmpl) (4 * tiles)) else []
  let (s3, vers) ← s2.xlatPages c l (fun e => e.r) vp
  .ok (s3, ⟨src, vers.map (·.1), dst⟩)

/-- The IFR entry of a command (R331, R333, R334). -/
def copyEntry (multi : Bool) (gi l k hnd : Nat) (pc : BitVec 64) (idx seq : Nat) : IfrEntry :=
  { idx := idx, seq := seq, op := .copy multi, grp := gi, ord := 0, scope := 0, sz := 0, aux := k, hnd := hnd,
    dwords := 0, pc := pc,
    lanes := [{ lane := l, dst := .null, a := 0, b := 0, done := false, fw := false, who := [(gi, l)] }] }

/-- Post a command's bytes to a handle of a team, and raise its mark (R309, R450). -/
def Team.postCopy (t : Team) (c : Copy) : Team :=
  { t.updHandle c.hnd fun h => h.post (Tmpl.bytes c.tmpl) (Tmpl.scope c.tmpl) with cls := clsJoin t.cls c.cls }

/-- Post a command to each of its receivers in turn, if every handle can take it beside those before it (R310, R313, R324). -/
def State.postAll (s : State) (x : Copy) : Option State :=
  x.recvs.foldl (fun o r => o.bind fun st => match st.team? r.tid with
    | some u => if st.canPost u x.hnd (Tmpl.bytes x.tmpl) then some (st.setTeam (u.postCopy x)) else none
    | none => some st) (some s)

/-- The destination slots of a command become Pending (R81, R310). -/
def Team.pendSlots (t : Team) (c : Copy) : Team :=
  c.dsts.foldl (fun u x =>
    if ((u.group x.1).thread x.2).live then
      u.updGroup x.1 fun g => markRef g x.2 (.v c.slot) (Tmpl.bytes c.tmpl / 128) .pending
    else u) t

/-- The last steps of R310: the waits for handle, engine and registration, then the posting. -/
def State.enqueueCopy (s : State) (c : Cur) (x : Copy) (mk : Nat → Nat → IfrEntry) (later : List Nat) : Option State :=
  match s.team? c.tid, (s.ctx? x.ctx).bind fun k => s.chooseEngine k.part with
  | some t, some e =>
    if t.ifr.length ≥ ifrCapacity then none
    else do
      let s1 ← s.register (s.copyLocks x)
      let y := { x with seq := t.seq, registered := true }
      let s2 ← s1.postAll y
      let s3 := s2.updTeam c.tid fun u => (u.newEntry mk).pendSlots y
      let s4 := s3.updEngine e fun g => { g with cmds := g.cmds ++ [y] }
      some { s4 with posts := s4.posts ++ later.map fun tid => ⟨tid, { y with recvs := [] }, false, false⟩ }
  | _, _ => none

/-- One member of a COPY or COPYM, from its translation on (R310, R313); of two palette boxes the source's bounds are checked first
(log 87). -/
def copyGo (multi : Bool) (k hnd : Nat) (c : Cur) (e : Entry) (l : Nat) (t : Team) (s : State)
    (op : Tmpl × Nat × Nat × Nat) : Try State := do
  let (tm, dv, av, bv) := op
  let n := Tmpl.rowBytes tm
  let x0 : Copy :=
    { id := s.fresh + 1, tid := c.tid, ctx := t.ctx, seq := 0, multi := multi, refill := false, tmpl := tm,
      sbase := BitVec.ofNat 64 av, dbase := BitVec.ofNat 64 dv, hnd := hnd, dsts := [], slot := dv, src := [], vers := [],
      dst := [], cls := 0, beats := [], tiles := [], recvs := [], registered := false }
  if Tmpl.src tm == 1 then orElse s (palBounds t n x0.from)
  if Tmpl.dst tm == 1 then orElse s (palBounds t n x0.dests)
  let (s1, p) ← s.copyPages c l x0
  if p.src.any (fun x => x.1.prot) && Tmpl.dst tm != 1 then .error (s1, .trap (mkTrap .template k))
  let dsts ← orElse s1 (if Tmpl.dst tm == 2 then regDest t (bv % 16) dv (Tmpl.bytes tm / 128) else .ok [])
  let cls := p.src.foldl (fun a x => clsJoin a x.2.1.cls) 0
  let s2 := s1.updTeam c.tid fun u => { u with cls := clsJoin u.cls cls }
  let mark := clsJoin t.cls cls
  match p.dst.find? fun x => !clsDominates x.2.1.cls mark with
  | some x => .error (s2, .trap (mkTrap .classStore x.2.2))
  | none =>
    let (now, later) := if multi then s2.receivers t bv else (if Tmpl.dst tm == 2 then [] else [c.tid], [])
    for tid in now do
      match s2.team? tid with
      | some r => if Tmpl.dst tm == 1 then orElse s2 (palBounds r n x0.dests) else pure ()
      | none => pure ()
    let x : Copy := { x0 with
      dsts := dsts, src := p.src.map (·.1), vers := p.vers, dst := p.dst.map (·.1), cls := cls
      beats := Tmpl.beats tm x0.dests
      recvs := now.map fun tid => ⟨tid, [], false⟩ }
    match ({ s2 with fresh := s2.fresh + 1 } : State).enqueueCopy c x (copyEntry multi c.grp l k hnd e.pc) later with
    | some s3 => .ok s3
    | none => .error (s, .stay)

/-- COPY and COPYM in one thread (R310). -/
def copyBody (multi : Bool) (d a b : Reg) (k hnd : Nat) (g0 : Group) (c : Cur) (e : Entry) (s : State) (l : Nat) :
    Except Fate (State × Fate) :=
  match s.team? c.tid with
  | none => .error .stay
  | some t =>
    match copyOperands multi d a b k hnd l s t g0 with
    | .error f => .error f
    | .ok op => .ok (settle ((copyGo multi k hnd c e l t s op).map fun s1 => (s1, .next)))

/-- The issue of COPY and COPYM. -/
def copyRun (multi : Bool) (d a b : Reg) (k hnd : Nat) (c : Cur) (e : Entry) (act : List Nat) (s : State) :
    State × List (Nat × Fate) :=
  holdEntry s c e act (s.engines.any fun g => !g.cmds.isEmpty) (runS (copyBody multi d a b k hnd (s.grp c)) c e act s)

/-- COPY (R310). -/
def execCopy (gd : Guard) (d a b : Reg) (tmpl : BitVec 6) (hnd : BitVec 5) (s : State) : Result :=
  issue s gd [] (copyReady tmpl.toNat d a b) (copyRun false d a b tmpl.toNat hnd.toNat)

/-- COPYM (R310, R313). -/
def execCopym (gd : Guard) (d a b : Reg) (tmpl : BitVec 6) (hnd : BitVec 5) (s : State) : Result :=
  issue s gd [] (copyReady tmpl.toNat d a b) (copyRun true d a b tmpl.toNat hnd.toNat)

/-! ## The bytes of a beat -/

/-- A byte that a beat moves: where it goes (an address, a palette offset, or a byte of the box), its value, whether
it is poisoned, and, in memory, the key it is written under. -/
structure MovedByte where
  pos : Nat
  val : BitVec 8
  bad : Bool
  key : Nat := 0

/-- A run of a beat within one row: source, destination or byte of the box, bytes. -/
structure BeatRun where
  src : Nat
  dst : Nat
  n : Nat

/-- The rows of a run of elements. -/
def Copy.cutRows (c : Copy) : Nat → Nat → Nat → List BeatRun
  | 0, _, _ => []
  | fuel + 1, first, count =>
    if count == 0 then []
    else
      let w := Tmpl.w c.tmpl
      let row := Tmpl.ext c.tmpl 0 + 1
      let k := min count (row - first % row)
      let at_ (mem : Bool) (base : BitVec 64) (stride : Nat → Int) : Nat :=
        let o := Tmpl.rowOfs c.tmpl stride (first / row) + (first % row * w : Nat)
        if mem then rowVa base o else (base.toNat + o).toNat
      let dst := if Tmpl.dst c.tmpl == 2 then first * w else at_ (Tmpl.dst c.tmpl == 0) c.dbase (Tmpl.ds c.tmpl)
      ⟨at_ (Tmpl.src c.tmpl == 0) c.sbase (Tmpl.ss c.tmpl), dst, k * w⟩ :: c.cutRows fuel (first + k) (count - k)

/-- The runs of a beat, in box order. -/
def Copy.runs (c : Copy) (b : Beat) : List BeatRun := c.cutRows b.count b.first b.count

/-- The bytes of a beat. -/
def Copy.beatBytes (c : Copy) (b : Beat) : Nat := b.count * Tmpl.w c.tmpl

/-- An access that a beat makes in memory: its DIA, its address, and its kind in a fault record (R311). -/
structure Touch where
  dia : Nat
  va : Nat
  kind : Nat

/-- Accesses at the first bytes of the sectors that ranges of addresses touch. -/
def touchesOf (ps : List PageX) (kind : Nat) (rs : List (Nat × Nat)) : List Touch :=
  rs.flatMap fun r => (cutAt 64 (r.2 / 64 + 2) r.1 r.2).filterMap fun x =>
    (pageDia ps x.1).map fun d => ⟨d.1, x.1, kind⟩

/-- The address of the version word of the `k`-th tile (R312). -/
def Copy.versionVa (c : Copy) (k : Nat) : Nat := (Tmpl.varr c.tmpl + 4 * k) % 2 ^ 64

/-- The tiles among `all` that need their version read for this beat. -/
def Copy.versionTouches (c : Copy) (all now : List Nat) : List Touch :=
  if Tmpl.vmode c.tmpl then
    (all.zipIdx.filter fun x => now.contains x.1).flatMap fun x => touchesOf c.vers 3 [(c.versionVa x.2, 4)]
  else []

/-- The version of the `k`-th tile; none where its word carries poison (R312). -/
def State.version (s : State) (c : Copy) (k : Nat) : State × Option Nat :=
  if !Tmpl.vmode c.tmpl then (s, some (Tmpl.ver c.tmpl))
  else match pageDia c.vers (c.versionVa k) with
    | none => (s, none)
    | some (d, p) =>
      let r := s.homeRead d 4 p.key 0
      (r.1, if r.2.poison then none else some r.2.val)

/-- The four blocks of a sector's ciphertext, as its home reads them. -/
def State.sectorBlocks (s : State) (idx ds : Nat) : List (BitVec 128) :=
  let x := (s.probeSector idx ds (s.tagOf idx)).2
  [0, 1].flatMap fun h => let u := s.cells x idx h; [u.extractLsb' 0 128, u.extractLsb' 128 128]

/-- The tag of a tile as it stands, under a version (R445): the first 8 bytes of the AES-CMAC of its DIA, the version and its
ciphertext. -/
def State.computeTag (s : State) (key dia ver : Nat) : BitVec 64 :=
  let idx := physOf (s.pte dia) dia / 64
  let head := BitVec.ofNat 128 (dia % 2 ^ 64 + 2 ^ 64 * (ver % 2 ^ 32))
  (aesCmac (s.keyInteg key) (head :: (List.range 64).flatMap fun k => s.sectorBlocks (idx + k) (dia / 64 + k))).setWidth 64

/-- The number of a tile's tag in its panel's tag store (R446). -/
def tagIndex (page dia : Nat) : Nat := 16 * page + dia % 65536 / 4096

/-- The stored tag of a tile. -/
def State.storedTag (s : State) (dia : Nat) : BitVec 64 :=
  match s.home dia with
  | some (n, i) => (((s.panel n).tags.find? (·.1 == tagIndex i dia)).map (·.2)).getD 0
  | none => 0

/-- Write a tile's tag. -/
def State.setTag (s : State) (dia : Nat) (v : BitVec 64) : State :=
  match s.home dia with
  | some (n, i) => s.updPanel n fun p => { p with tags := putEntry p.tags (tagIndex i dia) v }
  | none => s

/-! ## Reading a beat -/

/-- The protected source tiles of a beat that have not been checked. -/
def Copy.uncheckedTiles (c : Copy) (b : Beat) : List Nat :=
  if Tmpl.src c.tmpl != 0 then []
  else
    let mine := (c.runs b).flatMap fun r => cutAt 4096 (r.n / 4096 + 2) r.src r.n
    (mine.filterMap fun x => (pageDia c.src x.1).bind fun d =>
      if d.2.prot && !c.tiles.any (·.1 == d.2.dia) then some d.2.dia else none).eraseDups

/-- Check one tile (R312). -/
def State.checkTile (s : State) (c : Copy) (tile : Nat) : State × Bool :=
  let k := (protTiles c.src).findIdx (· == tile)
  let key := ((c.src.find? (·.dia == tile)).map (·.key)).getD 0
  let r := s.version c k
  (r.1, match r.2 with
    | some v => r.1.computeTag key tile v == r.1.storedTag tile
    | none => false)

/-- Check the tiles of a beat, recording each outcome in the command. -/
def State.checkTiles (s : State) (c : Copy) (b : Beat) : State × List (Nat × Bool) :=
  (c.uncheckedTiles b).foldl (fun a t => let r := a.1.checkTile c t; (r.1, a.2 ++ [(t, r.2)])) (s, c.tiles)

/-- Read one piece of a beat's source from its home or from the issuing team's palette, giving its bytes at `dst`; bytes
of a tile that failed its check are zero. -/
def State.readPiece (s : State) (c : Copy) (tiles : List (Nat × Bool)) (src dst n : Nat) : State × List MovedByte :=
  let out (v : Nat) (bad : Bool) : List MovedByte := (bytesOf n v).zipIdx.map fun x => { pos := dst + x.2, val := x.1, bad := bad }
  if Tmpl.src c.tmpl != 0 then
    match s.team? c.tid with
    | some t => let r := t.palRead src n; (s, out r.1 r.2)
    | none => (s, [])
  else match pageDia c.src src with
    | none => (s, [])
    | some (d, p) =>
      if p.prot && tiles.any (fun x => x.1 == p.dia && !x.2) then (s, out 0 false)
      else let r := s.homeRead d n p.key 0; (r.1, out r.2.val r.2.poison)

/-- Read a beat: the pieces are sectors of memory or words of a palette, as poison is theirs (R248, R461). -/
def State.readBeat (s : State) (c : Copy) (tiles : List (Nat × Bool)) (b : Beat) : State × List MovedByte :=
  let g := if Tmpl.src c.tmpl == 0 then 64 else 4
  ((c.runs b).flatMap fun r => (cutAt g (r.n / g + 2) r.src r.n).map fun x => (x.1, r.dst + (x.1 - r.src), x.2)).foldl
    (fun a x => let r := a.1.readPiece c tiles x.1 x.2.1 x.2.2; (r.1, a.2 ++ r.2)) (s, [])

/-! ## Writing a beat -/

/-- A palette takes bytes in order; a word with a poisoned byte is written so that it decodes as uncorrectable (R461). -/
def Team.palMoved (t : Team) (bs : List MovedByte) : Team :=
  let t1 := bs.foldl (fun u b => { u with pal := Memory.write u.pal b.pos b.val }) t
  let words := (bs.map fun b => b.pos / 4).eraseDups
  words.foldl (fun u w =>
    let mine := bs.filter fun b => b.pos / 4 == w
    if mine.any (·.bad) then u.palPoison w
    else if (mine.map (·.pos)).eraseDups.length == 4 then { u with palBad := u.palBad.filter (· != w) }
    else u) t1

/-- Registers take the words of a box (R307): word i goes to slot S + i div 32 of lane i mod 32; `void` says that the beat
was refused (R311). A collective may have waited for one of them (R83). -/
def Team.regMoved (t : Team) (c : Copy) (void : Bool) (bs : List MovedByte) : Team :=
  Team.resumeInstances <| ((bs.map fun b => b.pos / 4).eraseDups).foldl (fun u i =>
    let mine := bs.filter fun b => b.pos / 4 == i
    match c.dsts[i % 32]? with
    | none => u
    | some (g, l) =>
      if !((u.group g).thread l).live then u
      else u.updGroup g fun x =>
        if void then markRef x l (.v (c.slot + i / 32)) 1 .void
        else writeRef x l (.v (c.slot + i / 32)) 1 (ofBytes (mine.map (·.val))) (mine.any (·.bad)) false) t

/-- Bytes in order of place, the last of each place standing (R307). -/
def lastWins (bs : List MovedByte) : List MovedByte :=
  (bs.foldl (fun acc b => acc.filter (fun x => x.pos != b.pos) ++ [b]) []).mergeSort fun a b => a.pos ≤ b.pos

/-- Maximal runs of neighbouring bytes. -/
def neighbours (bs : List MovedByte) : List (List MovedByte) :=
  bs.foldr (fun b acc => match acc with
    | (x :: xs) :: rest => if x.pos == b.pos + 1 then (b :: x :: xs) :: rest else [b] :: (x :: xs) :: rest
    | _ => [b] :: acc) []

/-- Memory takes bytes, sector by sector, placed by their DIAs; a sector with a poisoned byte is written with the poison pattern (R461).
The issuing core's L1 keeps no copy of what is written, so that the completion is seen at team scope too (R281, R293). -/
def State.memMoved (s : State) (c : Copy) (bs0 : List MovedByte) : State :=
  let core := ((s.team? c.tid).map (·.core)).getD 0
  let bs := lastWins (bs0.filterMap fun b => (pageDia c.dst b.pos).map fun d => { b with pos := d.1, key := d.2.key })
  ((bs.map fun b => (b.pos / 64, b.key)).eraseDups).foldl (fun st k =>
    let mine := bs.filter fun b => (b.pos / 64, b.key) == k
    ((neighbours mine).foldl (fun st run =>
      match run with
      | [] => st
      | b :: _ => st.homeWrite b.pos run.length (ofBytes (run.map (·.val))) k.2 0 (mine.any (·.bad)) (some c.ctx)) st).dropL1
        fun x => x.core == core && x.dia == k.1) s

/-- The bytes of a beat reach their destination. -/
def State.writeBeat (s : State) (c : Copy) (bs : List MovedByte) : State :=
  match Tmpl.dst c.tmpl with
  | 0 => s.memMoved c bs
  | 1 => (c.recvs.filter (!·.stopped)).foldl (fun st r => st.updTeam r.tid fun t => t.palMoved bs) s
  | _ => s.updTeam c.tid fun t => t.regMoved c false bs

/-! ## Completion of a beat -/

/-- Every receiver's handle. -/
def State.updHandles (s : State) (c : Copy) (f : Handle → Handle) : State :=
  (c.recvs.filter (!·.stopped)).foldl (fun st r => st.updTeam r.tid fun t => t.updHandle c.hnd f) s

/-- The ranges of a tile's bytes that a list of pieces covers. -/
def coverOf (ps : List PageX) (tile : Nat) (pieces : List (Nat × Nat)) : List (Nat × Nat) :=
  pieces.filterMap fun x => (pageDia ps x.1).bind fun d =>
    if d.2.dia == tile then some (x.1 % 4096, x.1 % 4096 + x.2) else none

/-- Ranges in rising order cover every byte of a tile. -/
def coversTile (rs : List (Nat × Nat)) : Bool :=
  ((rs.mergeSort fun a b => a.1 ≤ b.1).foldl (fun e r => if r.1 ≤ e then max e r.2 else e) 0) ≥ 4096

/-- A beat writes into a tile of the destination. -/
def Copy.beatIn (c : Copy) (tile : Nat) (b : Beat) : Bool :=
  (c.runs b).any fun r => match pageDia c.dst r.dst with
    | some d => d.2.dia == tile
    | none => false

/-- The destination tiles that a beat completes, with their numbers (R447). -/
def Copy.tilesCompleted (c : Copy) (k : Nat) : List (Nat × Nat) :=
  match c.beats[k]? with
  | none => []
  | some b =>
    if Tmpl.dst c.tmpl != 0 then []
    else (protTiles c.dst).zipIdx.filter fun x =>
      c.beatIn x.1 b && coversTile (coverOf c.dst x.1 (rowPieces (Tmpl.rowBytes c.tmpl) c.dests)) &&
        c.beats.zipIdx.all fun y => y.2 == k || y.1.done || !c.beatIn x.1 y.1

/-- R447: tag a tile; the tag under a version that carries poison is a free value (log 24). -/
def State.tagTile (s : State) (c : Copy) (x : Nat × Nat) : State :=
  let key := ((c.dst.find? (·.dia == x.1)).map (·.key)).getD 0
  let r := s.version c x.2
  match r.2 with
  | some v => r.1.setTag x.1 (r.1.computeTag key x.1 v)
  | none => { r.1.setTag x.1 (r.1.computeTag key x.1 (Config.freeWord r.1.fresh 40).toNat) with fresh := r.1.fresh + 1 }

/-- A command has performed its last beat: its locks go, its IFR entry is complete, its engine is free of it (R297). -/
def State.finishCopy (s : State) (c : Copy) : State :=
  let s1 := s.unlock c.id
  let s2 : State := { s1 with
    engines := s1.engines.map (fun e => { e with cmds := e.cmds.filter (fun x => x.id != c.id) })
    parked := s1.parked.filter (fun x => x.id != c.id) }
  s2.updTeam c.tid fun t => Team.freeFinished { t with ifr := t.ifr.map fun e =>
    if e.seq == c.seq then { e with lanes := e.lanes.map fun o => { o with done := true } } else e }

/-- Performing beat `k` tags the tiles that it completes (R447). -/
def State.tagTiles (s : State) (c : Copy) (k : Nat) : State := (c.tilesCompleted k).foldl (fun st x => st.tagTile c x) s

/-- Beat `k` of a command is over: the command's end, then the handles (R297, R309). -/
def State.beatDone (s : State) (c0 : Copy) (k : Nat) : State :=
  let mark (c : Copy) : Copy := { c with
    beats := c.beats.zipIdx.map fun x => if x.2 == k then { x.1 with done := true, miss := none } else x.1
    recvs := c.recvs.map fun r => if r.stopped then r else { r with got := r.got ++ [k] } }
  let c := mark c0
  let s1 := s.updCopy c.id mark
  let s2 := if c.beats.all (·.done) then s1.finishCopy c else s1
  match c.beats[k]? with
  | some b => s2.updHandles c fun h => h.receive (c.beatBytes b)
  | none => s2

/-- The runs of bytes that a beat writes: of DIAs, or of a palette's offsets. -/
def Copy.writes (c : Copy) (b : Beat) : List (Nat × Nat) :=
  (c.runs b).flatMap fun r =>
    if Tmpl.dst c.tmpl == 0 then
      (cutAt 4096 (r.n / 4096 + 2) r.dst r.n).filterMap fun x => (pageDia c.dst x.1).map fun d => (d.1, x.2)
    else [(r.dst, r.n)]

/-- Beats are performed in box order; a beat overtakes only those that have met a miss (R311) and write no byte of its own destination
(R307). -/
def Copy.inOrder (c : Copy) (k : Nat) (b : Beat) : Bool :=
  (c.beats.take k).all fun x => x.done || (x.miss.isSome && (Tmpl.dst c.tmpl == 2 ||
    (c.writes x).all fun q => (c.writes b).all fun r => q.1 + q.2 ≤ r.1 || r.1 + r.2 ≤ q.1))

/-- What a beat reads and writes in memory (R311). -/
def Copy.touches (c : Copy) (k : Nat) (b : Beat) : List Touch :=
  let rs := c.runs b
  (if Tmpl.src c.tmpl == 0 then touchesOf c.src 3 (rs.map fun r => (r.src, r.n)) else []) ++
  c.versionTouches (protTiles c.src) (c.uncheckedTiles b) ++
  c.versionTouches (protTiles c.dst) ((c.tilesCompleted k).map (·.1)) ++
  (if Tmpl.dst c.tmpl == 0 then touchesOf c.dst 4 (rs.map fun r => (r.dst, r.n)) else [])

/-- Perform beat `k` of a command (R307, R311, R312). -/
def State.performBeat (s : State) (c : Copy) (k : Nat) (b : Beat) : State :=
  let ts := c.touches k b
  match ts.find? fun x => !pteValid (s.pte x.dia) with
  | some x =>
    let r := s.missAt x.dia (BitVec.ofNat 64 x.va) c.ctx x.kind
    r.1.updCopy c.id fun y => { y with beats := y.beats.zipIdx.map fun z =>
      if z.2 == k then { z.1 with miss := some { va := BitVec.ofNat 64 x.va, dia := x.dia, kind := x.kind, wait := r.2 } } else z.1 }
  | none =>
    if !s.logRoom (some c.ctx) ((ts.filter fun x => x.kind == 4).map fun x => physOf (s.pte x.dia) x.dia / 64) then s
    else match s.gateAll c.ctx (.beat c.id k) (ts.map fun x => (x.dia, 1, x.kind == 3)) with
    | (s0, false) => s0
    | (s0, true) =>
      let (s1, tiles) := s0.checkTiles c b
      let (s2, bs) := s1.readBeat c tiles b
      let c1 := { c with tiles := tiles }
      let s3 := s2.updCopy c.id fun y => { y with tiles := tiles }
      let hit := c1.runs b |>.any fun r => (cutAt 4096 (r.n / 4096 + 2) r.src r.n).any fun x =>
        Tmpl.src c.tmpl == 0 && match pageDia c.src x.1 with
          | some d => tiles.any fun y => y.1 == d.2.dia && !y.2
          | none => false
      let s4 := if hit then s3.updHandles c1 fun h => { h with int := true } else s3
      ((s4.writeBeat c1 bs).tagTiles c1 k).beatDone c1 k

/-- A verdict of refusal meets beat `k` (R311): its bytes of a palette are zero, its slots Void, memory unchanged. -/
def State.refuseBeat (s : State) (c : Copy) (k : Nat) : State :=
  match c.beats[k]? with
  | none => s
  | some b =>
    let zeros : List MovedByte := (c.runs b).flatMap fun r => (List.range r.n).map fun i => { pos := r.dst + i, val := 0, bad := false }
    let s1 := s.updHandles c fun h => { h with ref := true }
    let s2 := match Tmpl.dst c.tmpl with
      | 0 => s1
      | 1 => s1.writeBeat c zeros
      | _ => s1.updTeam c.tid fun t => t.regMoved c true zeros
    s2.beatDone c k

/-! ## Receivers and halted commands (R297, R313, R344) -/

/-- The first beat of a command that a receiver has not received. -/
def Recv.firstMissing (r : Recv) (c : Copy) : Nat :=
  ((List.range c.beats.length).find? fun k => !r.got.contains k).getD c.beats.length

/-- A receiver stops (R344): its handle counts the bytes before the first beat it lacks, and the rest is recorded for it. -/
def State.stopReceiver (s : State) (c : Copy) (tid : Nat) : State :=
  match c.recvs.find? fun r => r.tid == tid && !r.stopped with
  | none => s
  | some r =>
    let k := r.firstMissing c
    let extra := ((r.got.filter fun j => j > k).map fun j => ((c.beats[j]?).map c.beatBytes).getD 0).sum
    let rest : Copy := { c with beats := c.beats.zipIdx.map (fun x => { x.1 with done := x.2 < k, miss := none }), recvs := [] }
    let s1 := s.updTeam tid fun t => t.updHandle c.hnd fun h => { h with rcv := h.rcv - extra }
    let s2 := s1.updCopy c.id fun y => { y with recvs := y.recvs.map fun q => if q.tid == tid then { q with stopped := true } else q }
    { s2 with posts := s2.posts ++ [⟨tid, rest, true, true⟩] }

/-- Every command there is. -/
def State.copies (s : State) : List Copy := (s.engines.flatMap (·.cmds)) ++ s.parked

/-- R297, R344: a team's stop halts its commands, releases their locks, and stops it as a receiver. -/
def State.haltCopies (s : State) (tid : Nat) : State :=
  let mine := (s.engines.flatMap (·.cmds)).filter (·.tid == tid)
  let s1 := mine.foldl (fun st c => st.unlock c.id) s
  let s2 : State := { s1 with
    engines := s1.engines.map (fun e => { e with cmds := e.cmds.filter (fun c => c.tid != tid) })
    parked := s1.parked ++ mine.map (fun c => { c with registered := false }) }
  (s2.copies.filter fun c => c.tid != tid && c.multi).foldl (fun st c => st.stopReceiver c tid) s2

/-- A halted command is registered again and takes its place in an engine, or has to wait (R297, R340, R344). -/
def State.resumeCopy (s : State) (c0 : Copy) : Option State :=
  let gone := c0.recvs.filter fun r => !r.stopped && r.tid != c0.tid && !((s.team? r.tid).any Team.running)
  let s1 := gone.foldl (fun st r => st.stopReceiver c0 r.tid) s
  match s1.parked.find? (·.id == c0.id) with
  | none => some s1
  | some c => do
    let e ← (s1.ctx? c.ctx).bind fun k => s1.chooseEngine k.part
    let s2 ← s1.register (s1.copyLocks c)
    some { s2.updEngine e fun g => { g with cmds := g.cmds ++ [{ c with registered := true }] } with
      parked := s2.parked.filter fun x => x.id != c.id }

/-- An STLD that a stop halted registers its range again (R227, R297). -/
def State.resumeStld (s : State) (t : Team) : Option State :=
  match s.grid? t.core t.quad with
  | none => some s
  | some g => match g.back with
    | .loading off seq _ => s.stldStart t g off seq
    | _ => some s

/-- The halted engine operations of a team, by the sequence numbers of their entries, each with how it takes its place again: none
where it has to wait. A refill keeps nothing waiting (R344). -/
def State.halted (s : State) (t : Team) : List (Nat × (State → Option State)) :=
  ((s.parked.filter fun c => c.tid == t.tid).map fun c =>
    (c.seq, fun st => if c.refill then some ((st.resumeCopy c).getD st) else st.resumeCopy c)) ++
  ((s.rasters.filter fun r => r.tid == t.tid && !r.queued).map fun r => (r.seq, fun st => st.resumeRaster r t)) ++
  (match s.grid? t.core t.quad with
    | some g => match g.back with
      | .loading _ seq 0 => if g.tid == t.tid && g.st == .bound then [(seq, fun st => st.resumeStld t)] else []
      | _ => []
    | none => [])

/-- The halted operations of a running team take their places again in their order of issue, as far as they can (R299, R340). -/
def State.resumeTeam (s : State) (t : Team) : State :=
  if !t.running then s
  else (((s.halted t).mergeSort fun a b => a.1 ≤ b.1).foldl (fun (a : State × Bool) x =>
    if a.2 then a
    else match x.2 a.1 with
      | some st => (st, false)
      | none => (a.1, true)) (s, false)).1

/-- A replay of a team has still to take its place: no group of the team issues before it (R299, R340), but for a RAST that waits for
its queue (R396). -/
def State.replaysWait (s : State) (t : Team) : Bool :=
  (s.parked.any fun c => c.tid == t.tid && !c.refill) ||
  (s.rasters.any fun r => r.tid == t.tid && !r.queued && (s.rasterQueueOf (t.core / 4)).length < rasterQueue) ||
  (match s.grid? t.core t.quad with
    | some g => g.tid == t.tid && match g.back with
      | .loading _ _ lock => lock == 0
      | _ => false
    | none => false)

/-- The IFR entry of a receiver's refill (R334, kind 19). -/
def refillEntry (c : Copy) (idx seq : Nat) : IfrEntry :=
  { copyEntry true 0 0 0 c.hnd 0 idx seq with op := .refill }

/-- What awaits a receiver goes on once it has been placed or restored and runs (R313, R344). -/
def State.admitPost (s : State) (p : Posting) : State :=
  match s.team? p.tid with
  | none => s
  | some t =>
    if !t.running || !p.ready then s
    else
      let drop (st : State) : State := { st with posts := st.posts.erase p }
      let c := p.copy
      if !p.posted then
        let fits := (firstOutside t.palSize (Tmpl.rowBytes c.tmpl) c.dests).isNone
        if !s.canPost t c.hnd (if fits then Tmpl.bytes c.tmpl else 0) then s
        else if fits then
          let s1 := (drop s).setTeam (t.postCopy c)
          { s1 with posts := s1.posts ++ [⟨p.tid, { c with beats := c.beats.map fun b => { b with done := false, miss := none } }, true, true⟩] }
        else (drop s).setTeam { t.updHandle c.hnd Handle.postNothing with cls := clsJoin t.cls c.cls }
      else if t.ifr.length ≥ ifrCapacity then s
      else
        let got := (List.range c.beats.length).filter fun k => ((c.beats[k]?).map (·.done)).getD false
        let y : Copy := { c with id := s.fresh + 1, tid := p.tid, seq := t.seq, refill := true, registered := false
                                 recvs := [⟨p.tid, got, false⟩] }
        let s1 := (drop s).setTeam (t.newEntry (refillEntry y))
        { s1 with parked := s1.parked ++ [y], fresh := s1.fresh + 1 }

/-- Everything that waits for a receiver, an engine or a registration goes as far as it can. -/
def State.admitCopies (s : State) : State :=
  let s1 := s.posts.foldl State.admitPost s
  let s2 := s1.posts.foldl State.admitPost s1
  s2.teams.foldl State.resumeTeam s2

/-- A team has been placed or restored: its cores' L1 keeps nothing for it (R280, R286, R381), and what it missed as a receiver may be
posted (R313); its context uses the core from now on (R473). -/
def State.arrived (s : State) (t : Team) : State :=
  { s.l1Clear t.core with
    life := s.life.map fun x => if x.core == t.core && !x.users.contains t.ctx then { x with users := x.users ++ [t.ctx] } else x
    posts := s.posts.map fun p => if p.tid == t.tid then { p with ready := true } else p }

/-- The commands of a team that has ended or been discarded go, with what awaited it (R313). -/
def State.dropCopies (s : State) (tid : Nat) : State :=
  let mine := s.copies.filter (·.tid == tid)
  let s1 := mine.foldl (fun st c => st.unlock c.id) s
  let keep (c : Copy) : Copy := { c with recvs := c.recvs.map fun r => if r.tid == tid then { r with stopped := true } else r }
  { s1 with
    engines := s1.engines.map (fun e => { e with cmds := (e.cmds.filter (fun c => c.tid != tid)).map keep })
    parked := (s1.parked.filter (fun c => c.tid != tid)).map keep
    posts := s1.posts.filter fun p => p.tid != tid }

/-- COPY_BEAT (R304, R307): halted commands and postings go on where they can; then beat `beat` of the command that an engine
is performing. -/
def execCopyBeat (eng beat : Nat) (s0 : State) : Result :=
  let s := s0.admitCopies
  .next (match (s.engines.find? (·.num == eng)).bind fun e => e.cmds.head? with
    | none => s
    | some c =>
      match s.team? c.tid, c.beats[beat]? with
      | some t, some b =>
        let waits := match b.miss with
          | some p => p.wait != .no
          | none => false
        if t.running && !b.done && !waits && c.inOrder beat b && t.released c.seq then (s.performBeat c beat b).closeReady else s
      | _, _ => s)

end Sys2Proof.Machine
end

