-- ==== Sys2Proof/Machine/Sequencer.lean ====
section
/-! DEFINITION. The sequencer: which contexts a core runs (R369-R373), where a team fits (R67, R202, R308, R318, R380), the
order and the choice of placement (R68, R69), and making room (R70). -/

namespace Sys2Proof.Machine

/-! ## Ruling sittings (R369) -/

/-- The open sittings of the highest priority that cover a core. -/
def State.rulers (s : State) (core : Nat) : List Sitting :=
  let xs := s.sits.now.filter fun x => x.cores.contains core
  xs.filter fun x => xs.all fun y => y.prio ≤ x.prio

/-- A sitting runs teams of its context: poll or fixed, of a usable descriptor (R364, R371). -/
def State.sittingRuns (s : State) (x : Sitting) : Bool :=
  match s.ctx? x.ctx with
  | some c => c.usable && c.part == x.part && x.kind ≤ 1
  | none => false

/-- A ruling sitting of a context covers a core: its teams may stay there. -/
def State.ruled (s : State) (core : Nat) (ctx : BitVec 32) : Bool :=
  (s.rulers core).any fun x => x.ctx == ctx && s.sittingRuns x

/-- A sitting keeps teams of its context from being placed on a core: a poll sitting whose ring is bad idles wherever it covers (R379),
an extended one keeps its cores for the teams that hold them (R373, Table 4). -/
def State.sittingBars (s : State) (core : Nat) (x : Sitting) : Bool :=
  (x.kind == 0 && (s.ctx? x.ctx).any fun c => c.rstate == 2) || (x.extended.isSome && x.cores.contains core)

/-- Teams of a context may be placed on a core (R67, R371, R373, R379). -/
def State.placesOn (s : State) (core : Nat) (ctx : BitVec 32) : Bool :=
  let rs := s.rulers core
  !(rs.any fun x => x.kind ≥ 2 || !s.sittingRuns x) && rs.any (·.ctx == ctx) &&
    !(s.sits.now.any fun x => x.ctx == ctx && s.sittingBars core x)

/-! ## Cores and quads -/

/-- A core's entry of the lifetime record. -/
def State.lifeOf (s : State) (core : Nat) : Life := (s.life.find? (·.core == core)).getD (Life.initial core)

/-- A core that takes teams: in service or derated, on a panel that is not removed (R67, R426, R476). -/
def State.coreServes (s : State) (core : Nat) : Bool :=
  let l := s.lifeOf core
  (l.st == .inService || l.st == .derated) &&
    match s.phealth.find? (·.num == core / 4) with
    | some p => p.st == .inService || p.st == .suspect
    | none => true

/-- Issue slots of a pipeline (R55). -/
def pipeSlots : Nat := 4

/-- The issue slots in use on a quad, as (pipeline, slot). -/
def State.slotsUsed (s : State) (core quad : Nat) : List (Nat × Nat) :=
  (s.residents core quad).flatMap fun t => t.groups.filterMap (·.pipe)

/-- Free issue slots of a quad (R55). -/
def State.freeSlots (s : State) (core quad : Nat) : Nat := 256 - (s.slotsUsed core quad).length

/-- Bytes of palette in a core (R254). -/
def paletteBytes : Nat := 1048576

/-- Free palette of a core. -/
def State.freePalette (s : State) (core : Nat) : Nat :=
  paletteBytes - ((s.teams.filter fun t => t.st == .resident && t.core == core).map (·.palSize)).sum

/-! ## What a team needs (R67, R202, R308, R318) -/

/-- A team to be placed or restored: its name, launch and index, level, its place in the order, when it became pending; its
context and partition; groups that need a slot, bytes of store and palette, the pages it must hold, its handles, and whether it
brings a grid image. -/
structure Need where
  tid : Nat
  lid : Nat
  team : Nat
  level : Nat
  order : Nat
  since : BitVec 64
  ctx : BitVec 32
  groups : Nat
  store : Nat
  pal : Nat
  pages : List Nat
  handles : Nat
  image : Bool

/-- Handles that await a posting (R308, R313). -/
def State.awaited (s : State) (tid : Nat) (t : Option Team) : Nat :=
  ((s.posts.filter fun p => p.tid == tid && !p.posted && (match t with
    | some u => (u.handle p.copy.hnd).st == .free
    | none => true)).map fun p => p.copy.hnd).eraseDups.length

/-- The name of a launched team. -/
def teamName (lid team : Nat) : Nat := lid * 2 ^ 24 + team

/-- A page of an image's code. -/
def codePage (code k : Nat) : Nat := (code + k) % 2 ^ 44

/-- The pages a launch's teams hold from placement (R318). -/
def Launch.pages (l : Launch) : List Nat :=
  if l.preload then (List.range l.nseg).map (codePage l.code)
  else (l.roles.map fun r => codePage l.code r.seg).eraseDups

/-- The next team of a launch (R68). -/
def State.needNew (s : State) (l : Launch) : Need :=
  { tid := teamName l.lid l.next, lid := l.lid, team := l.next, level := l.level, order := l.lid, since := l.since, ctx := l.ctx,
    groups := (l.roles.map (·.groups)).sum, store := (l.roles.map fun r => r.groups * 128 * r.allot).sum, pal := l.pal * 4096,
    pages := l.pages, handles := s.awaited (teamName l.lid l.next) none, image := false }

/-- A saved team (R72, R74, R202, R308). -/
def State.needSaved (s : State) (t : Team) : Need :=
  { tid := t.tid, lid := t.lid, team := t.team, level := t.level, order := t.order, since := t.since, ctx := t.ctx,
    groups := (t.groups.filter fun g => !g.entries.isEmpty).length, store := (t.groups.map Group.storeBytes).sum,
    pal := t.palSize, pages := t.holds,
    handles := (t.handles.filter fun h => h.st != .free).length + s.awaited t.tid (some t), image := t.gridImage.isSome }

/-- An access of a team waits in a merge table or for a retry (R246). -/
def State.teamWaits (s : State) (t : Team) : Bool :=
  (t.waiting ++ (s.parked.filter fun c => c.tid == t.tid).flatMap Copy.waiting ++
    (s.rasters.filter fun r => r.tid == t.tid).filterMap fun r => r.miss.map (Probe.waiting r.ctx)).any fun w => w.wait != .no

/-- R71, R246: an evicted team of which nothing waits any more becomes pending, at the tail of its level's order. -/
def State.wakeEvicted (s : State) : State :=
  (s.teams.filter fun t => t.st == .evicted && !s.teamWaits t).foldl (fun st t =>
    { st.setTeam { t with st := .pending, order := st.nextLid, since := st.time } with nextLid := st.nextLid + 1 }) s

/-- The teams that may be placed or restored (R68, R71, R246, R354, R443). -/
def State.pending (s : State) : List Need :=
  let free (ctx : BitVec 32) : Bool := match s.ctx? ctx with
    | some c => c.usable && !c.held && !c.ckpt && (s.keyOf c.part).isSome
    | none => false
  (s.launches.filter fun l => l.next < l.teams && !l.abandoned && free l.ctx).map s.needNew ++
  (s.teams.filter fun t => free t.ctx && (t.st == .saved || t.st == .pending)).map s.needSaved

/-- R68: level, then order, then index. -/
def Need.before (a b : Need) : Bool :=
  b.level < a.level || (a.level == b.level && (a.order < b.order || (a.order == b.order && a.team < b.team)))

/-- A core holds the pages or can take them (R318). -/
def State.codeFits (s : State) (n : Need) (core : Nat) : Bool :=
  let absent := n.pages.filter fun p => !s.code.any fun x => x.core == core && x.ctx == n.ctx && x.page == p && x.resident
  (s.code.filter fun x => x.core == core).length + absent.length ≤ segmentCapacity

/-- A quad is eligible for a team (R67, R202, R308, R318). -/
def State.quadFits (s : State) (n : Need) (core quad : Nat) : Bool :=
  (match (s.ctx? n.ctx).bind fun c => s.part? c.part with
    | some p => p.hasCore core
    | none => false) &&
  s.coreServes core && s.placesOn core n.ctx && n.groups ≤ s.freeSlots core quad &&
  n.store ≤ s.freeStore core quad && n.pal ≤ s.freePalette core && (s.residents core quad).length < 64 &&
  s.codeFits n core && s.handlesUsed core + n.handles ≤ handleCapacity &&
  (!n.image || (s.grid? core quad).isNone)

/-- The quads of the device. -/
def allQuads : List (Nat × Nat) := (List.range 48).flatMap fun c => (List.range 4).map fun q => (c, q)

/-- R69: the preference among eligible quads. -/
def State.prefers (s : State) (a b : Nat × Nat) : Bool :=
  let ua := (s.lifeOf a.1).use
  let ub := (s.lifeOf b.1).use
  let fa := s.freeSlots a.1 a.2
  let fb := s.freeSlots b.1 b.2
  ua < ub || (ua == ub && (fb < fa || (fa == fb && (a.1 < b.1 || (a.1 == b.1 && a.2 ≤ b.2)))))

/-- The preferred quad of a list. -/
def State.bestQuad (s : State) : List (Nat × Nat) → Option (Nat × Nat)
  | [] => none
  | q :: qs => some (qs.foldl (fun b x => if s.prefers b x then b else x) q)

/-! ## Rooms (R68, R70) -/

/-- A millisecond of device time. -/
def msNs : Nat := 1000000

/-- A room's stops are complete. -/
def State.roomReady (s : State) (r : Room) : Bool :=
  r.stops.all fun tid => match s.team? tid with
    | some t => t.st != .resident || t.core != r.core || t.quad != r.quad
    | none => true

/-- A quad is kept for a waiting team of this level or higher (R68), or for this team until its millisecond is over (R70). -/
def State.quadKept (s : State) (n : Need) (core quad : Nat) : Bool :=
  s.rooms.any fun r => r.core == core && r.quad == quad &&
    if r.tid == n.tid then
      !s.roomReady r || (r.peer && s.time.toNat < n.since.toNat + msNs)
    else match s.pending.find? (·.tid == r.tid) with
      | some m => n.level ≤ m.level
      | none => false

/-- The quads on which a team may be placed now. -/
def State.quadsFor (s : State) (n : Need) : List (Nat × Nat) :=
  allQuads.filter fun q => s.quadFits n q.1 q.2 && !s.quadKept n q.1 q.2

/-- A team's frame has its place, or the pool has room for it (R380). -/
def State.frameFits (s : State) (n : Need) : Bool :=
  match s.team? n.tid with
  | some _ => true
  | none => match s.launches.find? (·.lid == n.lid), s.ctx? n.ctx with
    | some l, some c => (s.framePlace c (frameNeed l.ngroup (l.pal * 4096))).isSome
    | _, _ => false

/-- A team can be placed now, those of its own grid before it apart. -/
def State.placeable (s : State) (n : Need) : Bool := s.frameFits n && !(s.quadsFor n).isEmpty

/-- The state as it would be with some teams saved. -/
def State.without (s : State) (tids : List Nat) : State :=
  let s1 := { s with teams := s.teams.map fun t => if tids.contains t.tid then { t with st := .saved } else t
                     grids := s.grids.filter fun g => !tids.contains g.tid }
  tids.foldl State.dropHolds s1

/-- The teams of a quad that may be stopped for a team (R70), in the order of their stops: lower level first, lowest first;
then those of its level, longest resident first. -/
def State.stoppable (s : State) (n : Need) (core quad : Nat) : List Team :=
  let may := (s.residents core quad).filter fun t =>
    t.level < n.level || (t.level == n.level && t.since.toNat + msNs ≤ s.time.toNat)
  may.mergeSort fun a b => a.level < b.level || (a.level == b.level && a.since.toNat ≤ b.since.toNat)

/-- The sets of `k` elements of a list, in its order. -/
def choose {α : Type} : Nat → List α → List (List α)
  | 0, _ => [[]]
  | _ + 1, [] => []
  | k + 1, x :: xs => (choose k xs).map (x :: ·) ++ choose (k + 1) xs

/-- The smallest sets of teams whose saves would make a quad eligible (R70). -/
def State.smallestStops (s : State) (n : Need) (core quad : Nat) : List (List Team) :=
  let may := s.stoppable n core quad
  (((List.range (may.length + 1)).map fun k =>
    (choose k may).filter fun set => (s.without (set.map (·.tid))).quadFits n core quad).find? fun xs => !xs.isEmpty).getD []

/-- Teams of the pending team's own level in a set. -/
def peersIn (n : Need) (set : List Team) : Nat := (set.filter fun t => t.level == n.level).length

/-- The best set of a quad: fewest peers; of several, the one whose teams go first in the order of the stops (log 72). -/
def State.bestStops (s : State) (n : Need) (q : Nat × Nat) : Option (List Team) :=
  match s.smallestStops n q.1 q.2 with
  | [] => none
  | x :: xs => some (xs.foldl (fun b y => if peersIn n y < peersIn n b then y else b) x)

/-- The room that the sequencer would make for a team (R70): the fewest stops, the fewest peers, the quad R69 prefers as things stand before
the stops (log 72). -/
def State.roomFor (s : State) (n : Need) : Option Room :=
  let free := allQuads.filter fun q => !s.rooms.any fun r => r.core == q.1 && r.quad == q.2
  let cand := free.filterMap fun q => (s.bestStops n q).map fun set => (q, set)
  match cand with
  | [] => none
  | x :: xs =>
    let b := xs.foldl (fun b y =>
      let kb := (b.2.length, peersIn n b.2)
      let ky := (y.2.length, peersIn n y.2)
      if ky.1 < kb.1 || (ky.1 == kb.1 && (ky.2 < kb.2 || (ky.2 == kb.2 && !s.prefers b.1 y.1))) then y else b) x
    if b.2.isEmpty then none else some ⟨n.tid, b.1.1, b.1.2, b.2.map (·.tid), peersIn n b.2 > 0⟩

/-- A stop of a team becomes due (R325). -/
def State.ask (s : State) (tids : List Nat) : State :=
  { s with teams := s.teams.map fun t => if tids.contains t.tid && t.st == .resident then { t with asked := true } else t }

/-- The order of a room's stops: a team's request goes out after those before it (R70). -/
def State.stopTurn (s : State) (tid : Nat) : Bool :=
  s.rooms.all fun r => (r.stops.takeWhile (· != tid)).all fun x =>
    !r.stops.contains tid || match s.team? x with
      | some t => t.stopping || t.st != .resident
      | none => true

/-- Every team on a core that no sitting of its context rules any more, or that is out of service, must stop (R369, R370,
R426, R476). -/
def State.askUnruled (s : State) : State :=
  s.ask ((s.teams.filter fun t => t.st == .resident && !s.ruled t.core t.ctx).map (·.tid))

/-! ## Discarding a team (R330, R338, R373, R469, R485) -/

/-- The tags of a team are released at every home (R338). -/
def State.releaseTags (s : State) (tid : Nat) : State :=
  { s with panels := s.panels.map fun p => { p with dup := p.dup.filter fun d => d.tid != tid } }

/-- A team is discarded: it enters Ended, and its IFR entries, tags, holds, frame and commands go. -/
def State.discardTeam (s : State) (tid : Nat) : State :=
  match s.team? tid with
  | none => s
  | some t =>
    if tid == 0 || t.st == .ended then s
    else
      let dead : Team := { t with
        st := .ended, groups := [], ifr := [], palPend := [], barriers := [], insts := [], regroup := [], handles := [], pal := [], palBad := []
        frame := none, tread := none, fetches := [], gridImage := none, awaiting := [], asked := false, stopping := false, rp := false }
      let s0 := (s.rasters.filter fun r => r.tid == tid).foldl (fun st r => st.unlock r.id) (s.setTeam dead)
      let s1 := (((s0.dropCopies tid).releaseTags tid).dropHolds tid)
      let s2 : State := { s1 with
        grids := s1.grids.filter (fun g => g.tid != tid)
        rooms := s1.rooms.filter (fun r => r.tid != tid)
        rasters := s1.rasters.filter (fun r => r.tid != tid)
        consumptions := s1.consumptions.filter (· != tid) }
      ((s2.updLaunch t.lid fun l => { l with ended := l.ended + 1 }).shrinkExtended).settleFp

end Sys2Proof.Machine
end

