-- ==== Sys2Proof/Machine/Frame.lean ====
section
/-! DEFINITION. Context frames (R328-R330, R354, R380) and the header of a grid image (R228, R229): where a frame lies, what
the device writes into it, and what it checks when it reads it again. -/

namespace Sys2Proof.Machine

/-! ## Headers -/

/-- The sizes of the six sections that follow a frame's header (R328, Table 1), in order. -/
def Team.sections (t : Team) : List Nat :=
  [8192 * t.groups.length, (t.groups.map fun g => 144 * g.allot).sum, t.palSize,
   (match t.gridImage with
    | some g => 65536 + (g.rows.map fun _ => 8 * mxColumns g.shape).sum
    | none => 0), 32768, 1024 * t.ifr.length]

/-- Where a section begins. -/
def Team.sectionAt (t : Team) (k : Nat) : Nat := 256 + (t.sections.take k).sum

/-- SIZE: the bytes of the frame in use. -/
def Team.frameSize (t : Team) : Nat := t.sectionAt 6

/-- FLAGS of a frame (R329). -/
def Team.frameFlags (t : Team) (hold : Bool) : Nat :=
  (if hold then 1 else 0) + (if t.gridImage.isSome then 2 else 0) + (if t.ft then 4 else 0)

/-- The header of a team's frame (R329, Table 2). -/
def Team.header (t : Team) (hold : Bool) (crc : Nat) (time : BitVec 64) : List (BitVec 8) :=
  [0x43, 0x54, 0x46, 0x4D] ++ bytesOf 2 1 ++ bytesOf 2 (t.frameFlags hold) ++ bytesOf 4 t.frameSize ++ bytesOf 4 crc ++
  bytesOf 4 t.ctx.toNat ++ bytesOf 4 t.grid.toNat ++ bytesOf 4 t.team ++ bytesOf 1 t.level ++ bytesOf 1 0 ++
  bytesOf 1 t.groups.length ++ bytesOf 1 0 ++ bytesOf 8 time.toNat ++ bytesOf 8 t.seq ++ bytesOf 4 t.ifr.length ++
  bytesOf 12 0 ++
  ((List.range 6).flatMap fun k => bytesOf 4 (if k == 3 && t.gridImage.isNone then 0 else t.sectionAt k)) ++ bytesOf 168 0

/-- The header of a grid image (R228, Table 10). -/
def Grid.header (g : Grid) (crc : Nat) : List (BitVec 8) :=
  [0x4D, 0x58, 0x49, 0x4D] ++ bytesOf 2 1 ++ bytesOf 2 0 ++ bytesOf 4 65536 ++ bytesOf 4 crc ++ bytesOf 1 g.shape.toNat ++
  bytesOf 1 (g.mtype.toNat + (if g.scaled then 16 else 0)) ++
  bytesOf 2 (g.streamGroups.map fun k => 2 ^ k).sum ++ bytesOf 44 0

/-! ## Writing a frame -/

/-- The first DIA of a team's frame. -/
def Team.frameDia (t : Team) (c : Ctx) : Nat := c.fpbase + (t.frame.getD (0, 0)).1

/-- The sectors of a frame, by DIA. -/
def Team.frameSectors (t : Team) (c : Ctx) : List Nat := (List.range (t.frameSize / 64)).map fun k => t.frameDia c + 64 * k

/-- The bytes of sector `k` of a frame, as the device writes them: headers, and free values where the contents are opaque (R328). -/
def Team.frameSector (t : Team) (k : Nat) : List (BitVec 8) :=
  if k < 4 then (t.frameBytes.drop (64 * k)).take 64
  else if t.gridImage.isSome && 64 * k == t.sectionAt 3 then (t.frameBytes.drop 256).take 64
  else bytesOf 64 (Config.frameBody t.frameKey k).toNat

/-- The bytes of a frame's sectors from `a` on, up to but not including `b`. -/
def Team.frameRange (t : Team) (a b : Nat) : List (BitVec 8) := (List.range (b - a)).flatMap fun k => t.frameSector (a + k)

/-- The pages of a frame are valid, and the log has room for its sectors (R248, R468). -/
def State.frameFitsNow (s : State) (c : Ctx) (t : Team) (logged : Bool) : Bool :=
  ((t.frameSectors c).all fun d => pteValid (s.pte d)) &&
    (!logged || s.logRoom (some t.ctx) ((t.frameSectors c).map fun d => physOf (s.pte d) d / 64))

/-- Write a frame, sector by sector, under the context's key (R443). -/
def State.writeFrame (s : State) (c : Ctx) (t : Team) (logged : Bool) : State :=
  let key := (s.keyOf c.slot).getD 0
  (t.frameSectors c).zipIdx.foldl (fun st x =>
    st.homeWrite x.1 64 (ofBytes (t.frameSector x.2)) key 0 false (if logged then some t.ctx else none)) s

/-- The grid image's header, with the CRC of what follows it in its section (R228). -/
def Team.imageHeader (t : Team) : List (BitVec 8) :=
  match t.gridImage with
  | none => []
  | some g => g.header (crc32c ((g.header 0).drop 16 ++ t.frameRange (t.sectionAt 3 / 64 + 1) (t.sectionAt 4 / 64))).toNat

/-- A saved team's frame and its image get their headers, with their CRCs, and the frame a number for its opaque sections (R228, R329,
log 25). -/
def State.frameTeam (s : State) (t : Team) (hold : Bool) : State × Team :=
  let t1 := { t with frameKey := s.nextKey, holdFlag := hold, frameBytes := [] }
  let head := t.header hold 0 s.time
  let t2 := { t1 with frameBytes := head ++ t1.imageHeader }
  let crc := crc32c (head.drop 16 ++ t2.frameRange 4 (t.frameSize / 64))
  ({ s with nextKey := s.nextKey + 1 }, { t2 with frameBytes := t.header hold crc.toNat s.time ++ t1.imageHeader })

/-- The traffic of a frame goes on through the gates of its homes, sector by sector from the `n`-th, as far as they admit it (R383). -/
def State.gateFrame (s : State) (c : Ctx) (t : Team) (read : Bool) : State × Nat :=
  let r := ((t.frameSectors c).drop t.moved).foldl (fun (a : State × Nat × Bool) d =>
    if !a.2.2 then a
    else match a.1.gateAll t.ctx (.frame t.tid) [(d, 1, read)] with
      | (st, true) => (st, a.2.1 + 1, true)
      | (st, false) => (st, a.2.1, false)) (s, t.moved, true)
  (r.1, r.2.1)

/-- Every sector of a frame has passed. -/
def Team.frameMoved (t : Team) (n : Nat) : Bool := n ≥ t.frameSize / 64

/-- HOLD of a saved frame changes (R354, R355). -/
def State.writeHold (s : State) (c : Ctx) (t : Team) (hold : Bool) : State :=
  let d := t.frameDia c + 6
  let s1 := s.updTeam t.tid fun u => { u with holdFlag := hold }
  s1.deviceWrite ⟨t.ctx, d, 2, t.frameFlags hold, (s.keyOf c.slot).getD 0⟩

/-! ## Reading a frame (R330) -/

/-- What the check of a frame has read: its bytes, the uncorrectable sectors of the register store and the palette, and whether another
was uncorrectable. -/
structure FrameCheck where
  got : List (BitVec 8)
  lost : List Nat
  bad : Bool

/-- Reserved bytes of a frame header (R329). -/
def headReserved (k : Nat) : Bool := k == 31 || (52 ≤ k && k < 64) || 88 ≤ k

/-- `n` bytes at an offset, as a number. -/
def fieldAt (bs : List (BitVec 8)) (o n : Nat) : Nat := ofBytes ((bs.drop o).take n)

/-- The header of a frame of `size` bytes is what the device writes (R329, R330): magic, version, reserved bits, SIZE, CRC. -/
def headOk (bs : List (BitVec 8)) (size : Nat) : Bool :=
  bs.take 4 == [0x43, 0x54, 0x46, 0x4D] && fieldAt bs 4 2 == 1 && fieldAt bs 6 2 < 8 && fieldAt bs 8 4 == size &&
    ((bs.take 256).zipIdx.all fun x => !headReserved x.2 || x.1 == 0) && (crc32c (bs.drop 16)).toNat == fieldAt bs 12 4

/-- Read one sector of a frame; of an uncorrectable one of the register store or the palette the check takes what was written (log
25). -/
def State.checkSector (c : Ctx) (t : Team) (x : State × FrameCheck) (d : Nat × Nat) : State × FrameCheck :=
  let r := x.1.homeReads ((x.1.keyOf c.slot).getD 0) 0 1 d.1 64
  let f := x.2
  let soft := t.sectionAt 1 ≤ 64 * d.2 && 64 * d.2 < t.sectionAt 3
  if !r.2.poison then (r.1, { f with got := f.got ++ bytesOf 64 r.2.val })
  else (r.1, { got := f.got ++ t.frameSector d.2, lost := if soft then f.lost ++ [64 * d.2] else f.lost, bad := f.bad || !soft })

/-- The check of a saved team's frame: read every sector, then decide (R330). -/
def State.checkFrame (s : State) (c : Ctx) (t : Team) : State × Option FrameCheck :=
  let r := (t.frameSectors c).zipIdx.foldl (State.checkSector c t) (s, ⟨[], [], false⟩)
  (r.1, if r.2.bad || !headOk r.2.got t.frameSize then none else some r.2)

/-- The frame's pages can be read. -/
def State.frameReadable (s : State) (c : Ctx) (t : Team) : Bool := (t.frameSectors c).all fun d => pteValid (s.pte d)

/-- The register slots of a group of `a` slots a thread of which the sector at byte `o` of the group's part of the register store holds
the value or the state and poison bits (R328, log 25), each by thread and slot. -/
def storeSlots (a o : Nat) : List (Nat × Nat) :=
  let ws := if o < 128 * a then (List.range 16).map fun k => o / 4 + k
    else (List.range 128).map fun k => (o - 128 * a) * 2 + k
  (ws.filter (· < 32 * a)).map fun w => (w / a, w % a)

/-- R330: register slots and palette words that an uncorrectable sector of the frame held; the store's section runs group
by group, thread by thread, slot by slot (log 25). -/
def Team.loseSector (t : Team) (o : Nat) : Team :=
  if t.sectionAt 2 ≤ o then
    let w := (o - t.sectionAt 2) / 4
    (List.range 16).foldl (fun u k => u.palPoison (w + k)) t
  else
    let r := (List.range t.groups.length).foldl (fun (acc : Nat × Team) gi =>
      let base := acc.1
      let a := (t.group gi).allot
      let hit := if base ≤ o && o < base + 144 * a then storeSlots a (o - base) else []
      let u := hit.foldl (fun u x => u.updGroup gi fun g => g.updThread x.1 fun th =>
        { th with regs := th.regs.modify x.2 fun y => { y with poison := true, pt := false } }) acc.2
      (base + 144 * a, u)) (t.sectionAt 1, t)
    r.2

/-- The bytes of the grid section of a frame, as read. -/
def FrameCheck.image (f : FrameCheck) (t : Team) : List (BitVec 8) := (f.got.drop (t.sectionAt 3)).take (t.sectionAt 4 - t.sectionAt 3)

/-- R229: the device accepts a grid image with its row records: magic, version, SIZE, CRC and reserved bytes are right. -/
def imageOk (bs : List (BitVec 8)) : Bool :=
  bs.take 4 == [0x4D, 0x58, 0x49, 0x4D] && fieldAt bs 4 2 == 1 && fieldAt bs 6 2 == 0 && fieldAt bs 8 4 == 65536 &&
    (crc32c (bs.drop 16)).toNat == fieldAt bs 12 4 && fieldAt bs 17 1 < 32 && ((bs.drop 20).take 44).all (· == 0)

/-- R229: a refused image: the streaming threads take IMAGE_VERSION before they issue. -/
def Team.refuseImage (t : Team) (g : Grid) (version : Nat) : Team :=
  let t1 := { t with
    gridImage := none
    ifr := t.ifr.filter fun e => e.op != .stld }
  (List.range t.groups.length).foldl (fun u gi => u.updGroup gi fun gr =>
    (List.range gr.lanes.length).foldl (fun x l =>
      let th := x.thread l
      if !(th.live && th.mx) then x
      else
        let busy : Bool := match g.row? gi l with
          | some r => r.opened || (r.queue.any fun o => o != .step)
          | none => false
        let th1 := if busy then th.setWindowState .void else th
        let pc := match x.entryOf l with | some e => e.pc | none => 0
        (x.setThread l { th1 with mx := false, scaled := false, shape := 0, mtype := 0 }).pend l
          (mkTrap .imageVersion version) pc) gr) t1

end Sys2Proof.Machine
end

