-- ==== Sys2Proof/Machine/Stop.lean ====
section
/-! DEFINITION. Stopping, saving, placing and restoring a team (R53, R66-R72, R246, R305, R318-R320, R325-R345): the event
rows STOP_REQUEST to REPLAY_END and TEAM_PLACEMENT. -/

namespace Sys2Proof.Machine

/-! ## STOP_REQUEST (R66, R326 steps 1 to 3) -/

/-- A team that holds the grid: its STLD in flight releases its lock (R297). -/
def State.haltGrid (s : State) (t : Team) : State :=
  match s.grid? t.core t.quad with
  | some g =>
    if g.tid != t.tid then s
    else match g.back with
      | .loading off seq lock => (s.unlock lock).setGrid { g with back := .loading off seq 0 }
      | _ => s
  | none => s

/-- The raster commands of a team leave their queue and release their locks (R297, R326, R396). -/
def State.haltRasters (s : State) (tid : Nat) : State :=
  let s1 := (s.rasters.filter fun r => r.tid == tid).foldl (fun st r => st.unlock r.id) s
  let halt (r : Raster) : Raster :=
    { r with queued := false, got := [], miss := (r.miss.filter (·.wait != .no)).map fun p => { p with key := none, got := none } }
  { s1 with rasters := s1.rasters.map fun r => if r.tid == tid then halt r else r }

/-- The request has reached the team's core: no instruction begins, every palette access that has been performed is written,
its engine operations halt and release their locks. -/
def State.beginStop (s : State) (t : Team) : State :=
  let t1 := { t.palPend.foldl Team.completePal t with stopping := true, acks := [], asked := true }
  (((s.setTeam t1).haltRasters t.tid).haltGrid t1).haltCopies t.tid

/-- The word at an entry that some member waits in. -/
def State.waitingWord (s : State) (t : Team) (e : Entry) : Option Instr :=
  if e.blocked == 0 then none
  else match s.fetchWord t e.pc with
    | some (w, false) => match decode w with
      | .ok i => some i
      | .error _ => none
    | _ => none

/-- R201: an MXON of a team of higher level waits because the quad's grid is bound to this one. -/
def State.mxonWaits (s : State) (t : Team) : Bool :=
  match s.grid? t.core t.quad with
  | none => false
  | some g => g.tid == t.tid && g.st == .bound &&
    (s.residents t.core t.quad).any fun u => t.level < u.level && u.groups.any fun gr => gr.entries.any fun e =>
      match s.waitingWord u e with
      | some (.mxon _ _ _ _ try_ _) => try_ == 0
      | _ => false

/-- A team's stop is due (R70, R201, R325). -/
def State.stopDue (s : State) (t : Team) : Bool :=
  t.tid != 0 && t.st == .resident && !t.stopping && ((t.asked && s.stopTurn t.tid) || s.mxonWaits t)

/-- STOP_REQUEST (R66, R325, R326): a stop that is due begins. -/
def execStopRequest (tid : Nat) (s : State) : Result :=
  .next (match s.team? tid with
    | none => s
    | some t => if s.stopDue t then s.beginStop t else s)

/-! ## FREEZE_BROADCAST, IFR_SNAPSHOT (R326 steps 4 to 6) -/

/-- The panels of a team's partition. -/
def State.panelsOf (s : State) (t : Team) : List Nat :=
  match (s.ctx? t.ctx).bind fun c => s.part? c.part with
  | some p => (List.range p.size).map (p.first + ·)
  | none => []

/-- FREEZE_BROADCAST (R326, R337): the broadcast reaches a home, which records and suppresses from then on. -/
def execFreezeBroadcast (tid panel : Nat) (s : State) : Result :=
  .next (match s.team? tid with
    | none => s
    | some t =>
      if tid != 0 && t.st == .resident && t.stopping && (s.panelsOf t).contains panel && !t.acks.contains panel then
        s.setTeam { t with acks := t.acks ++ [panel]
                           frozen := if t.frozen.contains panel then t.frozen else t.frozen ++ [panel] }
      else s)

/-- Every reply that has reached the core is in its destination: it came before the acknowledgement (R326). A special
function in flight stays (R85), and so does the token of an ARRIVE (R137). -/
def Team.landAll (t : Team) : Team :=
  t.ifr.foldl (fun u e => match e.op with
    | .sfu _ _ | .arrive => u
    | _ => e.lanes.foldl (fun u o => u.completeLane ((u.ifr.find? (·.seq == e.seq)).getD e) o) u) t

/-- R342: the pieces that wait in a merge table, or to be retried, are sent again only by their replay. -/
def Team.holdWaiting (t : Team) : Team :=
  let hold (p : Piece) : Piece := if p.wait == .no then p else { p with held := true }
  { t with ifr := t.ifr.map fun e => { e with lanes := e.lanes.map fun o => { o with pieces := o.pieces.map hold } } }

/-- IFR_SNAPSHOT (R326, R226): every acknowledgement has arrived; the team is stopped, and the grid it holds is Frozen. -/
def execIfrSnapshot (tid : Nat) (s : State) : Result :=
  .next (match s.team? tid with
    | none => s
    | some t =>
      if tid != 0 && t.st == .resident && t.stopping && !t.snapped && (s.panelsOf t).all t.acks.contains then
        let s1 := s.setTeam { t.landAll.holdWaiting with snapped := true }
        match s1.grid? t.core t.quad with
        | some g => if g.tid == tid && (g.st == .bound || g.st == .switchingIn) then s1.setGrid { g with st := .frozen } else s1
        | none => s1
      else s)

/-! ## SAVE_COMPLETE (R66, R71, R72, R226, R318, R329) -/

/-- The grid whose image a team's frame takes: the one it holds Frozen (R200, R226). -/
def State.imageOf (s : State) (t : Team) : Option Grid :=
  (s.grid? t.core t.quad).filter fun g => g.tid == t.tid && g.st == .frozen

/-- What waits for stage B of a team's code fetches and of its read of the template table, as its save leaves it listed (R246, R320). -/
def State.waitingFetches (s : State) (t : Team) : List Probe :=
  ((s.code.filter fun x => x.holders.contains t.tid && !x.resident).map fun x =>
    ({ va := BitVec.ofNat 64 (x.page * 4096), dia := x.dia, kind := 5, wait := x.wait } : Probe)).filter (·.wait != .no) ++
  (t.tread.toList.filter (·.wait != .no))

/-- An access of its own that an instruction has under way, at a save: only what waits for stage B stays listed, to be made again
(R246, R419). -/
def Thread.saveProbe (th : Thread) : Thread :=
  { th with probe := (th.probe.filter (·.wait != .no)).map fun p => { p with key := none, got := none } }

/-- The save of a team is complete. It goes behind the other pending teams of its level, those of its own grid included (R70, log 70). -/
def State.saveTeam (s : State) (c : Ctx) (t : Team) : State :=
  let g := s.imageOf t
  let t1 : Team := { t with
    gridImage := g
    holds := (s.heldPages t.tid ++ t.awaiting).eraseDups
    awaiting := [], tread := none, fetches := s.waitingFetches t
    groups := t.groups.map fun x => { x with pipe := none, lanes := x.lanes.map Thread.saveProbe }
    st := if t.evicting then .evicted else .saved
    asked := false, since := s.time, order := s.nextLid }
  let r := State.frameTeam { s with nextLid := s.nextLid + 1 } t1 c.held
  let s1 := (r.1.setTeam r.2).writeFrame c r.2 (!c.ckpt)
  let s2 := (if g.isSome then s1.dropGrid t.core t.quad else s1).dropHolds t.tid
  (((s2.shrinkExtended).closeCheckpoint t.ctx).drainLate.wakeEvicted).settleFp

/-- SAVE_COMPLETE (R328, R329): the frame is written once its pages are valid, the log has room but in a checkpoint, and the gates have
let it pass (R383). -/
def execSaveComplete (tid : Nat) (s : State) : Result :=
  .next (match s.team? tid with
    | none => s
    | some t =>
      match s.ctx? t.ctx with
      | none => s
      | some c =>
        let u : Team := { t with gridImage := s.imageOf t }
        if tid != 0 && t.st == .resident && t.snapped && s.frameFitsNow c u (!c.ckpt) then
          let r := s.gateFrame c u false
          if u.frameMoved r.2 then r.1.saveTeam c { t with moved := 0 } else r.1.updTeam tid fun x => { x with moved := r.2 }
        else s)

/-! ## TEAM_EVICTION (R246, R305, R311, R320) -/

/-- A fetch that a placement or restore awaits waits for stage B. -/
def State.placeWaits (s : State) (t : Team) : Bool :=
  (match t.tread with
    | some p => p.wait != .no
    | none => false) ||
  t.awaiting.any fun pg => match s.segment? t.core t.ctx pg with
    | some x => x.wait != .no
    | none => false

/-- A thread waits in HWAIT on a handle to which a beat that waits for stage B brings bytes (R311). -/
def State.handleWaits (s : State) (t : Team) (gi l : Nat) : Bool :=
  match (t.group gi).entryOf l with
  | none => false
  | some e =>
    e.blocked.getLsbD l && match s.waitingWord t e with
      | some (.hwait _ h _) =>
        (s.copies.any fun c => c.hnd == h.toNat &&
          (c.recvs.any fun r => r.tid == t.tid && !r.stopped) && c.waiting.any fun w => w.wait != .no) ||
        s.rasters.any fun r => r.tid == t.tid && r.hnd == h.toNat && (r.miss.any fun p => p.wait != .no)
      | _ => false

/-- Every live thread of the team is in fault-wait. -/
def State.allFaultWait (s : State) (t : Team) : Bool :=
  s.placeWaits t ||
    (List.range t.groups.length).all fun gi => (t.group gi).liveLanes.all fun l =>
      t.faultWait gi l || s.handleWaits t gi l

/-- TEAM_EVICTION (R246): the sequencer stops a team whose live threads are all in fault-wait. -/
def execTeamEviction (tid : Nat) (s : State) : Result :=
  .next (match s.team? tid with
    | none => s
    | some t =>
      if tid != 0 && t.st == .resident && !t.stopping && !t.allEnded && s.allFaultWait t then
        s.beginStop { t with evicting := true }
      else s)

/-! ## What a placement and a restore fetch (R305, R318, R320) -/

/-- A team loses a page whose fetch was refused (R320). -/
def Team.losePage (t : Team) (page : Nat) : Team :=
  { t with lost := t.lost ++ [page], awaiting := t.awaiting.filter (· != page) }

/-- Fetch one of the pages that a team must hold: it holds the segment, loses the page, or waits for a walk. -/
def State.settlePage (s : State) (tid : Nat) (page : Nat) : State :=
  match s.team? tid with
  | none => s
  | some t =>
    if t.tread.isSome || !t.awaiting.contains page || (s.heldPages tid).contains page then s
    else match s.ctx? t.ctx with
      | none => s
      | some c =>
        match s.translate c (BitVec.ofNat 64 (page * 4096)) (fun e => e.x) with
        | (s1, .bad) => s1.updTeam tid fun u => (u.fetched u.core u.ctx page).losePage page
        | (s1, .gated) => s1
        | (s1, .miss d) =>
          let r := s1.missAt d (BitVec.ofNat 64 (page * 4096)) t.ctx 6
          r.1.updTeam tid fun u => { u with tread := some { va := BitVec.ofNat 64 (page * 4096), dia := d, kind := 6, wait := r.2 } }
        | (s1, .ok x) =>
          let r := s1.takeHold t page x
          if !r.2 then s1
          else
            let s2 := r.1.raiseMark tid x.cls
            match s2.segment? t.core t.ctx page with
            | some y => if y.resident then s2.updTeam tid fun u => u.fetched u.core u.ctx page else s2
            | none => s2

/-- The template table at a DIA is read, once its page is valid and its gate admits the read (R305, R383). -/
def State.templatesAt (s : State) (t : Team) (p : Probe) (key : Nat) : State :=
  let keep (st : State) (w : Wait) : State := st.updTeam t.tid fun u => { u with tread := some { p with wait := w } }
  if !pteValid (s.pte p.dia) then
    let r := s.missAt p.dia p.va t.ctx 3
    keep r.1 r.2
  else match s.gateNow t.ctx [(p.dia, sectorsOf p.dia 4096, true)] with
    | (s1, false) => keep s1 .no
    | (s1, true) =>
      let r := (List.range 64).foldl (fun (a : State × List (Option (BitVec 512))) k =>
        let q := a.1.homeReads key 0 1 (p.dia + 64 * k) 64
        (q.1, a.2 ++ [if q.2.poison then none else some (BitVec.ofNat 512 q.2.val)])) (s1, [])
      r.1.updTeam t.tid fun u => { u with templates := r.2, tread := none }

/-- Read the template table (R305), once every page has been asked for; it raises no mark (R450). -/
def State.readTemplates (s : State) (tid : Nat) : State :=
  match s.team? tid with
  | none => s
  | some t =>
    if !t.templates.isEmpty then s
    else match t.tread with
      | some p => match p.key with
        | some key => if p.wait == .no then s.templatesAt t p key else s
        | none => s
      | none => match s.ctx? t.ctx with
        | none => s
        | some c =>
          let va := BitVec.ofNat 64 c.ttbase
          match s.translate c va (fun e => e.r) with
          | (s1, .bad) => s1.updTeam tid fun u => { u with templates := List.replicate 64 none }
          | (s1, .gated) => s1
          | (s1, .miss d) =>
            let r := s1.missAt d va t.ctx 6
            r.1.updTeam tid fun u => { u with tread := some { va := va, dia := d, kind := 6, wait := r.2 } }
          | (s1, .ok x) => s1.templatesAt t { va := va, dia := x.dia, kind := 3, wait := .no, key := some x.key, slot := x.slot } x.key

/-- The fetches of a placement or a restore go as far as they can; a walk that was released is made again. -/
def State.settleIn (s : State) (tid : Nat) : State :=
  let s1 := s.updTeam tid fun t => match t.tread with
    | some p => if p.wait == .no && p.key.isNone then { t with tread := none } else t
    | none => t
  match s1.team? tid with
  | none => s1
  | some t => (t.awaiting.foldl (fun st pg => st.settlePage tid pg) s1).readTemplates tid

/-! ## A quad for a team (R55, R69) -/

/-- The pipelines of a quad, 64 of 4 slots: the slot that the next group takes (R69). -/
def nextSlot (used : List (Nat × Nat)) : Option (Nat × Nat) :=
  let load (p : Nat) : Nat := (used.filter (·.1 == p)).length
  let p := (List.range 64).foldl (fun b p => if load p < load b then p else b) 0
  ((List.range pipeSlots).find? fun k => !used.contains (p, k)).map fun k => (p, k)

/-- Every group with a live thread takes a slot, in ascending order. -/
def Team.takeSlots (t : Team) (used : List (Nat × Nat)) : Team :=
  let r := t.groups.foldl (fun (a : List (Nat × Nat) × List Group) g =>
    if g.entries.isEmpty then (a.1, a.2 ++ [{ g with pipe := none }])
    else match nextSlot a.1 with
      | some x => (a.1 ++ [x], a.2 ++ [{ g with pipe := some x }])
      | none => (a.1, a.2 ++ [g])) (used, [])
  { t with groups := r.2 }

/-! ## A first placement (R53, R54, R69, R74, R76) -/

/-- The groups of a role at placement (R53). -/
def Role.newGroups (r : Role) (code k : Nat) : List Group :=
  let pc := BitVec.ofNat 64 (codePage code r.seg * 4096 + r.word * 8)
  List.replicate r.groups { Group.empty with
    lanes := List.replicate 32 (Thread.initial r.allot)
    gregs := List.replicate 64 Slot.zero
    allot := r.allot
    role := k
    entries := [Entry.at pc r.prio 0xFFFFFFFF false] }

/-- The next team of a launch, on a quad; its mark joins CLASS0 as it stands now (R449). -/
def State.newTeam (s : State) (l : Launch) (c : Ctx) (frame : Nat × Nat) (core quad : Nat) : Team :=
  { Team.controller with
    tid := teamName l.lid l.next, ctx := l.ctx, grid := l.grid, team := l.next, level := l.level, lid := l.lid, cls := clsJoin c.class0 l.cls
    groups := l.roles.zipIdx.flatMap fun x => x.1.newGroups l.code x.2
    core := core, quad := quad, palSize := l.pal * 4096, handles := List.replicate 32 Handle.free
    image := (l.code, l.nseg), preload := l.preload, awaiting := l.pages, frame := some frame, since := s.time }

/-- Place a launch's next team. -/
def State.placeNew (s : State) (l : Launch) (c : Ctx) (q : Nat × Nat) : State :=
  match s.framePlace c (frameNeed l.ngroup (l.pal * 4096)) with
  | none => s
  | some o =>
    let t := (s.newTeam l c (o, frameNeed l.ngroup (l.pal * 4096)) q.1 q.2).takeSlots (s.slotsUsed q.1 q.2)
    let s1 := { s with teams := s.teams ++ [t] }.updLaunch l.lid fun x => { x with next := x.next + 1 }
    (((s1.arrived t).settleIn t.tid).admitCopies).settleFp

/-! ## A restore (R330, R339, R340) -/

/-- Entries that a restore replays: classes I0, I1 and by part (R334, R340). -/
def IfrOp.replayed : IfrOp → Bool
  | .arrival | .arrive => false
  | _ => true

/-- R345: nothing of a replay is left: every entry that was replayed has been answered, as its entry is gone. -/
def Team.replayed (t : Team) : Bool := t.ifr.all fun e => e.seq ≥ t.replay || !e.op.replayed

/-- The grid image of a restored team is loaded, or refused (R229). -/
def State.loadImage (s : State) (t : Team) (f : FrameCheck) (q : Nat × Nat) : State × Team :=
  match t.gridImage with
  | none => (s, t)
  | some g =>
    if imageOk (f.image t) then (s.setGrid { g with core := q.1, quad := q.2, st := .bound }, { t with gridImage := none })
    else (s, t.refuseImage g (fieldAt (f.image t) 4 2))

/-- What a replay sends afresh: the pieces that were held (R342), and every read of a lane that has not written its destination (R300,
R343). -/
def IfrEntry.again (e : IfrEntry) : IfrEntry :=
  { e with lanes := e.lanes.map fun o =>
      let ps := o.pieces.map fun p => { p with held := false, done := p.done && (o.done || !e.op.isRead) }
      if o.done || !e.op.isRead || o.pieces.isEmpty then { o with pieces := ps } else { o with poison := false, pt := false, pieces := ps } }

/-- A lane that would replay under a slot that is Empty now (R444): of an access, or of a copy, whose pages stand in its command. -/
def State.keyless (s : State) (t : Team) (e : IfrEntry) (o : LaneOp) : Bool :=
  !o.done && ((o.pieces.any fun p => !p.done && !p.prv && (s.keyOf p.slot).isNone) ||
    s.parked.any fun c => c.tid == t.tid && c.seq == e.seq && (c.src ++ c.vers ++ c.dst).any fun p => (s.keyOf p.slot).isNone)

/-- The beats that a halted copy of a lost key has left are refused (R311, R444, log 73). -/
def State.refuseKeyless (s : State) (t : Team) (seq : Nat) : State :=
  match s.parked.find? fun c => c.tid == t.tid && c.seq == seq with
  | none => s
  | some c => (List.range c.beats.length).foldl (fun st k => match st.copies.find? (·.id == c.id) with
      | some y => if (y.beats[k]?).any (!·.done) then st.refuseBeat y k else st
      | none => st) s

/-- The lanes of a restored team whose key is gone are not performed: their threads take ADDRESS (R245, R444). -/
def State.voidKeyless (s : State) (t : Team) : Team :=
  let hit := t.ifr.flatMap fun e => (e.lanes.filter (s.keyless t e)).map fun o => (e, o)
  let t1 := hit.foldl (fun u x =>
    let src := ((s.parked.find? fun c => c.tid == t.tid && c.seq == x.1.seq).map (·.sbase)).getD 0
    let va := ((x.2.pieces.find? fun p => !p.done).map (·.va)).getD src
    u.pendLane x.1 x.2 (mkTrap .address va.toNat)) t
  (t.ifr.foldl (fun u e => u.discardLanes e (s.keyless t e)) t1).freeFinished

/-- A restored team takes its place without the operations of a lost key. -/
def State.dropKeyless (s : State) (t : Team) : State :=
  let lost := t.ifr.filter fun e => e.lanes.any (s.keyless t e)
  lost.foldl (fun st e => st.refuseKeyless t e.seq) (s.setTeam (s.voidKeyless t))

/-- Restore a saved team to a quad: the frame, the grid image, then its replay. -/
def State.restoreTeam (s : State) (c : Ctx) (t : Team) (q : Nat × Nat) : State :=
  match s.checkFrame c t with
  | (s1, none) => (s1.discardTeam t.tid).updLaunch t.lid fun l => { l with lost := true }
  | (s1, some f) =>
    let t1 := f.lost.foldl Team.loseSector t
    let (s2, t2) := s1.loadImage t1 f q
    let t3 : Team := (Team.takeSlots { t2 with
      core := q.1, quad := q.2, st := .resident, stopping := false, snapped := false, evicting := false, acks := []
      asked := false, awaiting := t.holds, holds := [], fetches := [], templates := [], rp := true, replay := t.seq, since := s.time
      ifr := t2.ifr.map IfrEntry.again }
      (s2.slotsUsed q.1 q.2))
    ((((s2.dropKeyless t3).arrived t3).settleIn t.tid).admitCopies).settleFp

/-! ## TEAM_PLACEMENT, TEAM_RESTORE (R67-R70) -/

/-- The partition whose sequencer places a team. -/
def State.needPart (s : State) (n : Need) : Option Nat := (s.ctx? n.ctx).map (·.part)

/-- The pending teams that the same sequencer considers before this one (R68). -/
def State.ahead (s : State) (n : Need) : List Need := s.pending.filter fun m => m.before n && s.needPart m == s.needPart n

/-- A team could be placed now but for the order: its frame has a place, or reads. -/
def State.frameThere (s : State) (n : Need) : Bool :=
  s.frameFits n && match s.team? n.tid, s.ctx? n.ctx with
    | some t, some c => s.frameReadable c t
    | _, _ => true

/-- No team of its own grid goes before this one (R68). -/
def State.leads (s : State) (n : Need) : Bool := (s.ahead n).all (·.lid != n.lid)

/-- No team that goes before this one is to be placed, and none of its own grid goes before it: a team that cannot be placed holds
back only its own grid (R68). -/
def State.turnOf (s : State) (n : Need) : Bool :=
  s.leads n && (s.ahead n).all fun m => !s.leads m || !s.frameThere m || !s.placeable m

/-- A room whose stops are complete and on whose quad the team still does not fit is given up: room is made for the team anew (R70). -/
def State.dropRoom (s : State) (n : Need) : State :=
  { s with rooms := s.rooms.filter fun r => r.tid != n.tid || !s.roomReady r || s.quadFits n r.core r.quad }

/-- MAKE_ROOM (R70), for a team that cannot be placed and for which no room is being made, once it has been seen that no room can be
made for those before it. -/
def State.makeRoom (s0 : State) (n : Need) : State :=
  let s := s0.dropRoom n
  let has (m : Need) : Bool := s.rooms.any fun r => r.tid == m.tid
  if has n || (s.ahead n).any (fun m => s.leads m && s.frameThere m && !has m && (s.roomFor m).isSome) then s
  else match s.roomFor n with
    | some r => { s with rooms := s.rooms ++ [r] }.ask r.stops
    | none => s

/-- A pending team in its turn takes the quad that R69 prefers, or room is made for it (R70). -/
def State.placeTeam (s : State) (n : Need) : State :=
  if !s.turnOf n then s
  else match (if s.frameFits n then s.bestQuad (s.quadsFor n) else none), s.ctx? n.ctx with
    | some q, some c =>
      let s1 : State := { s with rooms := s.rooms.filter fun r => r.tid != n.tid }
      match s.team? n.tid with
      | some t =>
        if !s.frameReadable c t then s
        else
          let r := s1.gateFrame c t true
          if t.frameMoved r.2 then State.restoreTeam { r.1 with rooms := s1.rooms } c { t with moved := 0 } q
          else r.1.updTeam t.tid fun x => { x with moved := r.2 }
      | none => match s.launches.find? (·.lid == n.lid) with
        | some l => s1.placeNew l c q
        | none => s
    | _, _ => if s.frameThere n then s.makeRoom n else s

/-- A row of the sequencer for a team: `saved` says that it takes saved teams only. A Resident team goes on with what its
placement fetches. -/
def State.sequence (s : State) (tid : Nat) (saved : Bool) : State :=
  if tid == 0 then s
  else match s.pending.find? fun n => n.tid == tid with
    | some n => if saved && (s.team? tid).isNone then s else s.placeTeam n
    | none => match s.team? tid with
      | some t => if t.st == .resident && !t.stopping then s.settleIn tid else s
      | none => s

/-- TEAM_PLACEMENT (R53, R67-R70, R74, R76, R313, R318, R320): a launch's next team is placed, or a saved one restored. -/
def execTeamPlacement (tid : Nat) (s : State) : Result := .next (s.sequence tid false)

/-- TEAM_RESTORE (R85, R202, R330, R339-R344): the restore of a saved team. -/
def execTeamRestore (tid : Nat) (s : State) : Result := .next (s.sequence tid true)

/-- REPLAY_END (R338, R345): every entry that a restore replays has been answered; the team's tags are released. -/
def execReplayEnd (tid : Nat) (s : State) : Result :=
  .next (match s.team? tid with
    | none => s
    | some t =>
      if t.rp && t.st == .resident && !t.stopping && t.replayed then
        (s.setTeam { t with rp := false, frozen := [] }).releaseTags tid
      else s)

end Sys2Proof.Machine
end

