-- ==== Sys2Proof/Machine/Raster.lean ====
section
/-! DEFINITION. The rasteriser and visibility tiles (R390-R399): RAST, the raster commands of a panel, VISLD, BARY. -/

namespace Sys2Proof.Machine

/-! ## RAST (R395) -/

/-- The IFR entry of a raster command (R334, kind 14). -/
def rasterEntry (c : Cur) (e : Entry) (l hnd idx seq : Nat) : IfrEntry :=
  { idx := idx, seq := seq, op := .rast, grp := c.grp, ord := 0, scope := 0, sz := 0, aux := 0, hnd := hnd, dwords := 0,
    pc := e.pc, lanes := [{ lane := l, dst := .null, a := 0, b := 0, done := false, fw := false, who := [(c.grp, l)] }] }

/-- A well-formed command is posted, once its queue, its lock and an IFR entry are to be had. -/
def State.postRaster (s : State) (t : Team) (c : Cur) (e : Entry) (l hnd off : Nat) (d : RDesc) : State × Fate :=
  let r : Raster := ⟨s.fresh + 1, t.tid, t.ctx, t.seq, t.core / 4, hnd, off, d, 0, false, true, none, []⟩
  if (s.rasterQueueOf r.panel).length ≥ rasterQueue || t.ifr.length ≥ ifrCapacity then (s, .stay)
  else match State.rasterLock { s with fresh := s.fresh + 1 } r t with
    | none => (s, .stay)
    | some s1 =>
      let t1 := (t.updHandle hnd fun h => h.post (tileBytes (RDesc.scode d)) (RDesc.scope d)).newEntry (rasterEntry c e l hnd)
      ({ s1.setTeam t1 with rasters := s1.rasters ++ [r] }, .next)

/-- RAST in one thread up to its descriptor (R395): the tile's offset, the descriptor and its poison; the controller has no palette
(R522). -/
def rastRead (d a : Reg) (c : Cur) (s : State) (l : Nat) : Try (State × Nat × Rd) := do
  match s.team? c.tid with
  | none => .error (s, .stay)
  | some t =>
    let xs ← (readAll (t.group c.grp) l [(d, 1), (a, 2)]).mapError (s, ·)
    (consumeAll xs).mapError (s, ·)
    let off := (xs.getD 0 ⟨0, false, false, 0⟩).val
    let va := BitVec.ofNat 64 (xs.getD 1 ⟨0, false, false, 0⟩).val
    if t.tid == 0 then .error (s, .trap (mkTrap .paletteBounds off))
    if va.toNat % 64 != 0 then .error (s, .trap ⟨.align, 0, va⟩)
    let (s1, x) ← s.descRead c l va 64
    .ok (s1, off, x)

/-- RAST in one thread once its descriptor has been read (R395). -/
def rastPost (hnd : Nat) (c : Cur) (e : Entry) (s : State) (l off : Nat) (x : Rd) : State × Fate :=
  let desc := BitVec.ofNat 512 x.val
  let bad := x.poison || RDesc.malformed desc
  let size := tileBytes (RDesc.scode desc)
  match s.team? c.tid with
  | none => (s, .stay)
  | some t =>
    if !bad && off % 256 != 0 then (s, .trap (mkTrap .align off))
    else if !bad && off + size > t.palSize then (s, .trap (mkTrap .paletteBounds (max off t.palSize)))
    else if !s.canPost t hnd (if bad then 0 else size) then (s, .stay)
    else if bad then (s.setTeam (t.updHandle hnd Handle.postNothing), .next)
    else s.postRaster t c e l hnd off desc

/-- The descriptors of the members of a RAST, each read in its turn. -/
def rastReads (d a : Reg) (c : Cur) (s : State) : List Nat → State × List (Nat × Except Fate (Nat × Rd))
  | [] => (s, [])
  | l :: ls =>
    let r : State × Except Fate (Nat × Rd) := match rastRead d a c s l with
      | .ok (s1, x) => (s1, .ok x)
      | .error (s1, f) => (s1, .error f)
    let q := rastReads d a c r.1 ls
    (q.1, (l, r.2) :: q.2)

/-- The commands of the members of a RAST are posted, each in its turn. -/
def rastPosts (hnd : Nat) (c : Cur) (e : Entry) (s : State) : List (Nat × Except Fate (Nat × Rd)) → State × List (Nat × Fate)
  | [] => (s, [])
  | (l, x) :: xs =>
    let r := match x with
      | .ok (off, y) => rastPost hnd c e s l off y
      | .error f => (s, f)
    let q := rastPosts hnd c e r.1 xs
    (q.1, (l, r.2) :: q.2)

/-- The issue of RAST (R395): while a member's descriptor is still to be read, or a command to be posted must wait (R414), the whole
entry waits at the issue (R56, R61). -/
def rastRun (d a : Reg) (hnd : Nat) (c : Cur) (e : Entry) (act : List Nat) (s : State) : State × List (Nat × Fate) :=
  let r := rastReads d a c s act
  let waits (x : Nat × Except Fate (Nat × Rd)) : Bool := match x.2 with
    | .error f => f == .stay
    | .ok _ => false
  if r.2.any waits then (r.1, (lanesOf e.mask).map fun l => (l, .stay))
  else
    let busy := match s.team? c.tid with
      | some t => !(s.rasterQueueOf (t.core / 4)).isEmpty
      | none => false
    holdEntry r.1 c e act busy (rastPosts hnd c e r.1 r.2)

/-- RAST (R395). -/
def execRast (gd : Guard) (d a : Reg) (hnd : BitVec 5) (s : State) : Result :=
  issue s gd [(d, 1), (a, 2)] accessesDone (rastRun d a hnd.toNat)

/-! ## RASTER_COMMAND (R392-R394, R396) -/

/-- Reads of a command: what it has read, a primitive to discard, or a wait, for stage B or for its gate, with the read as translated. -/
inductive RasterRead where
  | ok (v : Nat)
  | bad
  | wait (p : Option Probe)

/-- A translated read of an index or a position, once its page is valid and its gate admits it (R383, R392). -/
def State.rasterAt (s : State) (r : Raster) (n : Nat) (p : Probe) (key : Nat) : State × RasterRead :=
  if !pteValid (s.pte p.dia) then let q := s.missAt p.dia p.va r.ctx 3; (q.1, .wait (some { p with wait := q.2 }))
  else match s.gateAll r.ctx (.raster r.id) [(p.dia, sectorsOf p.dia n, true)] with
    | (s1, false) => (s1, .wait (some { p with wait := .no }))
    | (s1, true) =>
      let q := s1.homeReads key 0 2 p.dia n
      (q.1, if q.2.poison then .bad else .ok q.2.val)

/-- A relaxed read of an index or a position (R392): it is translated, and raises the mark, once (R444, R450). -/
def State.rasterRead (s : State) (r : Raster) (va n : Nat) : State × RasterRead :=
  match r.miss.bind fun p => p.key.map fun k => (p, k) with
  | some (p, key) => s.rasterAt r n p key
  | none => match s.ctx? r.ctx with
    | none => (s, .bad)
    | some c =>
      let a := BitVec.ofNat 64 va
      match s.translate c a (fun e => e.r) with
      | (s1, .bad) => (s1, .bad)
      | (s1, .gated) => (s1, .wait none)
      | (s1, .miss d) => let q := s1.missAt d a r.ctx 6; (q.1, .wait (some { va := a, dia := d, kind := 6, wait := q.2 }))
      | (s1, .ok x) => (s1.raiseMark r.tid x.cls).rasterAt r n
          { va := a, dia := x.dia, kind := 3, wait := .no, key := some x.key, slot := x.slot } x.key

/-- The reads that the next primitive needs before its positions: its vertex numbers, where an index array gives them. -/
def Raster.indexReads (r : Raster) : Nat := if RDesc.idx r.desc == 0 then 0 else 3

/-- The address and the length of the read that follows those a command has made for its next primitive: vertex numbers, then positions
(R392). -/
def Raster.nextRead (r : Raster) : Nat × Nat :=
  let k := r.got.length
  let m := r.indexReads
  if k < m then (RDesc.idx r.desc + 4 * (3 * r.next + k), 4)
  else (RDesc.pos r.desc + 16 * (if m == 0 then 3 * r.next + k else r.got.getD (k - m) 0), 16)

/-- ZFUNC as a comparison of FSETP (R185, R394). -/
def zcmp (zfunc : Nat) : Nat :=
  match zfunc with
  | 1 => 2 | 2 => 0 | 3 => 3 | 4 => 4 | 5 => 1 | _ => 5

/-- The depth test (R394); against a depth that the palette holds with an uncorrectable error it is a free value (log 12). -/
def depthPasses (zfunc z old : Nat) (bad free : Bool) : Bool :=
  if zfunc == 0 then false
  else if zfunc == 7 then true
  else if bad then free
  else
    let a := BitVec.ofNat 32 z
    let b := BitVec.ofNat 32 old
    !(fp32 a).isNan && !(fp32 b).isNan && (fsetp (zcmp zfunc) a b).1

/-- `DepthAndWrite` of R394 at sample `i`. -/
def Team.depthAndWrite (t : Team) (r : Raster) (v : List (List Int)) (fresh i : Nat) : Team :=
  let d := r.desc
  let q := samplePoint (RDesc.scode d) (RDesc.tx d) (RDesc.ty d) i
  let z := baryDepth (nthV 0) (nthV 1) (nthV 2) (q.1 * 2 ^ 141) (q.2 * 2 ^ 141)
  let zo := r.off + 256 + 8192 * 2 ^ RDesc.scode d + 4 * i
  let (old, bad) := t.palRead zo 4
  if depthPasses (RDesc.zfunc d) z old bad (Config.pick fresh (16 + i) % 2 == 0) then
    let t1 := t.palWrite (r.off + 256 + 8 * i) 8 (RDesc.draw d * 2 ^ 44 + RDesc.inst d * 2 ^ 28 + RDesc.first d + r.next)
    if RDesc.zw d then t1.palWrite zo 4 z else t1
  else t
where
  nthV (k : Nat) : List Int := v.getD k []

/-- A primitive drawn into the tile (R392). -/
def Team.drawPrimitive (t : Team) (r : Raster) (fresh : Nat) (raw : List Nat) : Team :=
  let ws := raw.map fun p => valsOf (wordsOf 4 p)
  if ws.any fun v => v.any fun x => x.isNan || x.isInf then t
  else
    let d := r.desc
    let v := ws.map fun x => x.map fx
    (fans (RDesc.ff d) (RDesc.cull d) v).foldl (fun u f =>
      (List.range (1024 * 2 ^ RDesc.scode d)).foldl (fun u i =>
        let q := samplePoint (RDesc.scode d) (RDesc.tx d) (RDesc.ty d) i
        if covers f q.1 q.2 then u.depthAndWrite r v fresh i else u) u) t

/-- The tile's header, and its clearing (R391, R392). -/
def Team.beginTile (t : Team) (r : Raster) : Team :=
  let d := r.desc
  let n := 1024 * 2 ^ RDesc.scode d
  let t1 := t.palWrite r.off 256 (RDesc.scode d * 2 ^ 32 + RDesc.ty d * 2 ^ 16 + RDesc.tx d)
  if RDesc.clear d then
    (List.range n).foldl (fun u i => (u.palWrite (r.off + 256 + 8 * i) 8 (2 ^ 64 - 1)).palWrite (r.off + 256 + 8 * n + 4 * i) 4
      (RDesc.clearz d)) t1
  else t1

def State.updRaster (s : State) (id : Nat) (f : Raster → Raster) : State :=
  { s with rasters := s.rasters.map fun r => if r.id == id then f r else r }

/-- The command moves past its primitive. -/
def State.rasterAdvance (s : State) (r : Raster) : State := s.updRaster r.id fun x => { x with next := x.next + 1, miss := none, got := [] }

/-- The next primitive's reads, one by one: its positions, or why the command stops at it; `fuel` reads at most. -/
def State.rasterFetch (s : State) : Nat → Raster → State × Except (Option RasterRead) (List Nat)
  | 0, _ => (s, .error none)
  | fuel + 1, r =>
    if r.got.length == r.indexReads + 3 then (s, .ok (r.got.drop r.indexReads))
    else
      let a := r.nextRead
      match s.rasterRead r a.1 a.2 with
      | (s1, .ok v) =>
        let q := { r with got := r.got ++ [v], miss := none }
        State.rasterFetch (s1.updRaster r.id fun x => { x with got := q.got, miss := none }) fuel q
      | (s1, .wait p) => (s1.updRaster r.id fun x => { x with miss := p }, .error (some (.wait p)))
      | (s1, .bad) => (s1, .error (some .bad))

/-- A primitive that could not be read is discarded, and REF set (R392). -/
def State.rasterSkip (s : State) (r : Raster) : State :=
  (s.updTeam r.tid fun t => t.updHandle r.hnd fun h => { h with ref := true }).rasterAdvance r

/-- The command is complete: its lock goes, its IFR entry and its handle's bytes are complete (R297, R395). -/
def State.finishRaster (s : State) (r : Raster) : State :=
  let s1 := s.unlock r.id
  let s2 : State := { s1 with rasters := s1.rasters.filter (fun x => x.id != r.id) }
  s2.updTeam r.tid fun t =>
    let t1 := Team.freeFinished { t with ifr := t.ifr.map fun e =>
      if e.seq == r.seq then { e with lanes := e.lanes.map fun o => { o with done := true } } else e }
    t1.updHandle r.hnd fun h => h.receive (tileBytes (RDesc.scode r.desc))

/-- The head of a rasteriser's queue goes on by one primitive, or completes. -/
def State.rasterStep (s : State) (r : Raster) (t : Team) : State :=
  if !t.running || !t.released r.seq || r.miss.any (fun p => p.wait != .no) then s
  else
    let s1 := if r.started then s else (s.setTeam (t.beginTile r)).updRaster r.id fun x => { x with started := true }
    if r.next > RDesc.nprim r.desc then s1.finishRaster r
    else match s1.rasterFetch 7 r with
      | (s2, .ok raw) =>
        (State.updTeam { s2 with fresh := s2.fresh + 1 } r.tid fun u => u.drawPrimitive r s2.fresh raw).rasterAdvance r
      | (s2, .error (some .bad)) => s2.rasterSkip r
      | (s2, .error _) => s2

/-- RASTER_COMMAND (R392, R395, R396): halted operations resume where they can; then the head of the panel's queue goes on. -/
def execRasterCommand (panel : Nat) (s0 : State) : Result :=
  let s := s0.admitCopies
  .next (match s.rasterQueueOf panel with
    | [] => s
    | r :: _ => match s.team? r.tid with
      | some t => s.rasterStep r t
      | none => s)

/-! ## VISLD (R397) -/

/-- Where a lock covers a list of pieces of the team's palette, if one does (R296). -/
def State.palLocked (s : State) (t : Team) (ps : List (Nat × Nat)) : Option Nat :=
  (ps.filterMap fun p => s.lockHit t (some t.tid) p.1 (p.1 + p.2) false).min?

/-- VISLD in one thread: a lock on the header is met before anything is read from it (R296, R397); each register takes the poison of
the bytes it comes from (R256). -/
def visldBody (d a b : Reg) (pos : Bool) (c : Cur) (_ : Entry) (s : State) (l : Nat) : Except Fate (State × Fate) :=
  match s.team? c.tid with
  | none => .error .stay
  | some t => do
    let g := t.group c.grp
    let w := if pos then 2 else 4
    let xs ← readAll g l [(a, 1), (b, 1)]
    consumeAll xs
    let off := (xs.getD 0 ⟨0, false, false, 0⟩).val
    let i := (xs.getD 1 ⟨0, false, false, 0⟩).val
    if off % 256 != 0 then .error (.trap (mkTrap .align off))
    let ido := off + 256 + 8 * i
    if off + 8 > t.palSize then .error (.trap (mkTrap .paletteBounds ido))
    if let some x := s.palLocked t [(off, 8)] then .error (.trap (mkTrap .rangeLock x))
    let (hdr, _) := t.palRead off 8
    let lowBad := (t.palRead off 4).2
    let scodeBad := (t.palRead (off + 4) 4).2
    let scode := bitsOf hdr 33 32
    let zo := off + 256 + 8192 * 2 ^ scode + 4 * i
    if i ≥ 1024 * 2 ^ scode || zo + 4 > t.palSize then .error (.trap (mkTrap .paletteBounds ido))
    match s.palLocked t [(ido, 8), (zo, 4)] with
    | some x => .error (.trap (mkTrap .rangeLock x))
    | none =>
      let dst ← dstReady g l d w
      if !t.palOrdered c.grp l 0 then .error .stay
      let (ident, _) := t.palRead ido 8
      let (depth, zbad) := t.palRead zo 4
      let (x, y, k) := samplePlace scode i
      let o := (sampleOffsets scode).getD k (0, 0)
      let v := if pos then
          ofWords [roundQ .rne ((16 * (bitsOf hdr 15 0 + x) + o.1 : Nat) : Int) 16,
                   roundQ .rne ((16 * (bitsOf hdr 31 16 + y) + o.2 : Nat) : Int) 16]
        else ident + 2 ^ 64 * (depth + 2 ^ 32 * (x + 32 * y + 1024 * k))
      let bad := if pos then [lowBad || scodeBad, lowBad || scodeBad]
        else [(t.palRead ido 4).2, (t.palRead (ido + 4) 4).2, scodeBad || zbad, scodeBad]
      if dst == .null then .ok (s, .next)
      else
        let t1 := t.updGroup c.grp fun g => markRef g l dst w .pending
        let p : PalPend := ⟨s.fresh, [(c.grp, l)], dst, w, v, bad⟩
        .ok ({ s.setTeam { t1 with palPend := t1.palPend ++ [p] } with fresh := s.fresh + 1 }, .next)

/-- VISLD (R397). -/
def execVisld (gd : Guard) (d a b : Reg) (pos : BitVec 1) (s : State) : Result :=
  issue s gd [(a, 1), (b, 1)] always (runS (visldBody d a b (pos == 1)))

/-! ## BARY (R399) -/

/-- BARY (R399): it reads its destination and needs a multiplier (R198). -/
def execBary (gd : Guard) (d a b c : Reg) (s : State) : Result :=
  issueMul s gd [(d, 4), (a, 4), (b, 4), (c, 4)] (alu s gd d 4 [(d, 4), (a, 4), (b, 4), (c, 4)] 7 fun xs =>
    let q (k : Nat) : List (BitVec 32) := wordsOf 4 (xs.getD k ⟨0, false, false, 0⟩).val
    { val := ofWords (bary (q 0) (q 1) (q 2) (q 3)) })

end Sys2Proof.Machine
end

