-- ==== Sys2Proof/Machine/Texture.lean ====
section
/-! DEFINITION. The sampler (R400-R406), marks and residency requests (R403, R404), ray tests (R407-R410) and tile signatures
(R411, R412). -/

namespace Sys2Proof.Machine

/-! ## Texture descriptors (R400, Table 6) -/

abbrev TexDesc := BitVec 256

def TexDesc.bits (d : TexDesc) (k hi lo : Nat) : Nat := bitsOf d.toNat (64 * k + hi) (64 * k + lo)

def TexDesc.base (d : TexDesc) : Nat := TexDesc.bits d 0 55 0
def TexDesc.wrapv (d : TexDesc) : Nat := TexDesc.bits d 1 43 42
def TexDesc.wrapu (d : TexDesc) : Nat := TexDesc.bits d 1 41 40
def TexDesc.fmt (d : TexDesc) : Nat := TexDesc.bits d 1 39 36
def TexDesc.levels (d : TexDesc) : Nat := TexDesc.bits d 1 35 32
def TexDesc.height (d : TexDesc) : Nat := TexDesc.bits d 1 31 16 + 1
def TexDesc.width (d : TexDesc) : Nat := TexDesc.bits d 1 15 0 + 1
def TexDesc.border (d : TexDesc) : Nat := TexDesc.bits d 2 63 0

/-- A malformed descriptor (R400). -/
def TexDesc.malformed (d : TexDesc) : Bool :=
  TexDesc.bits d 0 63 56 != 0 || TexDesc.bits d 1 63 44 != 0 || TexDesc.bits d 3 63 0 != 0 || TexDesc.base d % 256 != 0 ||
  TexDesc.fmt d ≥ 4

/-- Bytes of a texel. -/
def TexDesc.size (d : TexDesc) : Nat :=
  match TexDesc.fmt d with
  | 0 => 4 | 1 => 8 | 2 => 4 | _ => 1

/-- Width, height and pitch of a level (R400). -/
def TexDesc.wAt (d : TexDesc) (l : Nat) : Nat := max 1 (TexDesc.width d / 2 ^ l)
def TexDesc.hAt (d : TexDesc) (l : Nat) : Nat := max 1 (TexDesc.height d / 2 ^ l)
def TexDesc.pitch (d : TexDesc) (l : Nat) : Nat := (TexDesc.wAt d l * TexDesc.size d + 255) / 256 * 256

/-- Where a level begins. -/
def TexDesc.start (d : TexDesc) (l : Nat) : Nat :=
  TexDesc.base d + ((List.range l).map fun k => TexDesc.pitch d k * TexDesc.hAt d k).sum

/-- A coordinate wrapped into 0 to n - 1; none for a border texel (R400). -/
def wrapCoord (mode n : Nat) (i : Int) : Option Nat :=
  let len : Int := n
  if 0 ≤ i && i < len then some i.toNat
  else match mode with
    | 0 => some (i % len).toNat
    | 1 => some (min (max i 0) (len - 1)).toNat
    | 2 => none
    | _ => let m := i % (2 * len); some (if m < len then m else 2 * len - 1 - m).toNat

/-- The address of texel (i, j) of a level; none for a border texel. -/
def TexDesc.texel (d : TexDesc) (l : Nat) (i j : Int) : Option Nat :=
  match wrapCoord (TexDesc.wrapu d) (TexDesc.wAt d l) i, wrapCoord (TexDesc.wrapv d) (TexDesc.hAt d l) j with
  | some x, some y => some (TexDesc.start d l + y * TexDesc.pitch d l + x * TexDesc.size d)
  | _, _ => none

/-- The level of a level of detail (R401). -/
def TexDesc.level (d : TexDesc) (lod : FVal) : Nat :=
  match lod with
  | .nan .. => 0
  | .inf n => if n then 0 else TexDesc.levels d
  | v => (min (max (roundQInt (fx v) fxOne) 0) (TexDesc.levels d : Int)).toNat

/-- The footprint (R401): texels in order with their weights of 65,536ths. `mode` 0 is nearest. -/
def TexDesc.footprint (d : TexDesc) (mode l : Nat) (u v : FVal) : List (Nat × Option Nat) :=
  let w := TexDesc.wAt d l
  let h := TexDesc.hAt d l
  if mode == 0 then [(65536, TexDesc.texel d l (fx u * w / fxOne) (fx v * h / fxOne))]
  else
    let sx := roundQInt (256 * fx u * w - 128 * fxOne) fxOne
    let sy := roundQInt (256 * fx v * h - 128 * fxOne) fxOne
    let i := sx / 256
    let j := sy / 256
    let fa := (sx - 256 * i).toNat
    let fb := (sy - 256 * j).toNat
    [((256 - fa) * (256 - fb), TexDesc.texel d l i j), (fa * (256 - fb), TexDesc.texel d l (i + 1) j),
     ((256 - fa) * fb, TexDesc.texel d l i (j + 1)), (fa * fb, TexDesc.texel d l (i + 1) (j + 1))]

/-! ## Marks (R403) -/

/-- The word and the bit of a mark reference. -/
def markWord (ref : Nat) : Nat := 4 * (ref % 2 ^ 18) + 4 * (ref / 2 ^ 18 / 32)
def markBit (ref : Nat) : Nat := ref / 2 ^ 18 % 32

/-- The check of a mark (R403, R266). -/
def markCheck (s : State) (t : Team) (ref : Nat) : Except Fate Unit :=
  let off := markWord ref
  if off + 4 > t.palSize then .error (.trap (mkTrap .paletteBounds (max off t.palSize)))
  else match s.lockHit t (some t.tid) off (off + 4) true with
    | some b => .error (.trap (mkTrap .rangeLock b))
    | none => .ok ()

/-- A tile is marked; an uncorrectable word is left, as an atomic leaves it (R272). -/
def Team.mark (t : Team) (ref : Nat) : Team :=
  let off := markWord ref
  let (old, bad) := t.palRead off 4
  if bad || off + 4 > t.palSize then t else t.palWrite off 4 (old ||| 2 ^ markBit ref)

/-- RSMARK in one thread (R403). -/
def rsmarkBody (a : Reg) (c : Cur) (_ : Entry) (s : State) (l : Nat) : Except Fate (State × Fate) :=
  match s.team? c.tid with
  | none => .error .stay
  | some t => do
    let x ← readSrc (t.group c.grp) l a 1
    consumeAll [x]
    markCheck s t x.val
    if !t.palOrdered c.grp l 0 then .error .stay
    .ok (s.setTeam (t.mark x.val), .next)

/-- RSMARK (R403). -/
def execRsmark (gd : Guard) (a : Reg) (s : State) : Result := issue s gd [(a, 1)] always (runS (rsmarkBody a))

/-! ## Residency requests (R404) -/

/-- Records of a residency log (R404). -/
def resCapacity : Nat := 1024

/-- A request reaches its home: no record where the page had one less than 1,000 µs ago; dropped and counted where every record is
unread; else record WIDX is written and WIDX advances (R404, Table 7). -/
def ResLog.take (r : ResLog) (page : Nat) (ctx : BitVec 32) (time : BitVec 64) : ResLog :=
  if r.last.any fun x => x.1 == page && time.toNat < x.2.toNat + 1000000 then r
  else
    let w := r.word 0
    if (w - r.word 4).toNat ≥ resCapacity then r.setWord 8 (BitVec.ofNat 32 (sat32 ((r.word 8).toNat + 1)))
    else
      let slot := 64 + 16 * (w.toNat % resCapacity)
      let r1 : ResLog := { region := Memory.writeN r.region slot 16 (page * 65536 % 2 ^ 48 + 2 ^ 64 * (ctx.toNat * 2 ^ 32))
                           last := r.last.filter (fun x => x.1 != page) ++ [(page, time)] }
      r1.setWord 0 (w + 1)

/-- RESIDENCY_REQUEST (R404): the `k`-th request on its way reaches the page's home. -/
def execResidencyRequest (k : Nat) (s : State) : Result :=
  .next (match s.resReqs[k]? with
    | none => s
    | some (page, ctx) =>
      State.updPart { s with resReqs := s.resReqs.eraseIdx k } (page * 65536 / 2 ^ 44) fun p =>
        { p with res := p.res.take page ctx s.time })

/-! ## Sampling (R401, R402) -/

/-- Operands of a texture lane: descriptor, u, v, level of detail or level, mark reference. -/
def texPack (va : BitVec 64) (uv c : Nat) : Nat := va.toNat + 2 ^ 64 * (uv % 2 ^ 64) + 2 ^ 128 * (c % 2 ^ 64)

/-- What sampling comes to: the components with the predicate above them, poison, and, where texels are still to be read at their
homes, the descriptor as read and those reads. -/
structure TexOut where
  res : Nat
  poison : Bool := false
  pt : Bool := false
  pieces : List Piece := []

/-- Four components and a predicate, as a lane holds them. -/
def texRes (ws : List Nat) (p : Bool) : Nat := ofWords ws + (if p then 2 ^ 128 else 0)

/-- A piece of a texture read (tags are never checked, R461). -/
def texPiece (va : BitVec 64) (n : Nat) (x : Xlat) : Piece :=
  { va := va, dia := x.dia, len := n, data := 0, cmp := 0, key := x.key, slot := x.slot, chk := false, prv := x.prv,
    done := false, wait := .no }

/-- Perform a read of the sampler, through the L1 as a load does. -/
def State.texRead (s : State) (t : Team) (p : Piece) : Performed :=
  if p.prv then s.performPrivate (.read false) p else s.performHome t (.ld false) false p

/-- A translated piece whose page is valid. -/
def State.texValid (s : State) (p : Piece) : Bool := p.prv || pteValid (s.pte p.dia)

/-- What a step of the sampler comes to: a result, a failed read, or a read that its gate does not admit yet (R383). -/
inductive TexTry (α : Type) where
  | ok (x : α)
  | bad
  | gated

/-- Translate a list of reads. A walk that misses counts as a failure, as the sampler never waits for a page (R402). -/
def State.texXlat (s : State) (t : Team) (n : Nat) : List Nat → State × TexTry (List (Piece × Xlat))
  | [] => (s, .ok [])
  | va :: vas =>
    match s.xlat t (BitVec.ofNat 64 va) (fun e => e.r) with
    | (s1, .ok x) =>
      match s1.texXlat t n vas with
      | (s2, .ok ps) => (s2, .ok ((texPiece (BitVec.ofNat 64 va) n x, x) :: ps))
      | (s2, .bad) => (s2, .bad)
      | (s2, .gated) => (s2, .gated)
    | (s1, .gated) => (s1, .gated)
    | (s1, _) => (s1, .bad)

/-- The marks of a texture's reads rise where the reads are issued, and not again where they are performed (R450, R455). -/
def State.texRaise (s : State) (t : Team) (read : Bool) (xs : List (Piece × Xlat)) : State :=
  if read then s else xs.foldl (fun st p => st.raiseMark t.tid p.2.cls) s

/-- The descriptor of a texture read, with the piece that read it: case 1 of R402 is a failure. -/
def State.texDesc (s : State) (t : Team) (read : Bool) (va : BitVec 64) : State × TexTry (TexDesc × Piece) :=
  match s.texXlat t 32 [va.toNat] with
  | (s1, .ok [(p, x)]) =>
    if !(s1.texRaise t read [(p, x)]).texValid p then (s1.texRaise t read [(p, x)], .bad)
    else match (if p.prv then (s1, true) else s1.gateNow t.ctx [(p.dia, sectorsOf p.dia 32, true)]) with
      | (s2, false) => (s2, .gated)
      | (s2, true) =>
        let r := (s2.texRaise t read [(p, x)]).texRead t p
        let d := BitVec.ofNat 256 r.val
        (r.state, if r.poison || TexDesc.malformed d then .bad else .ok (d, { p with done := true, data := r.val }))
  | (s1, .gated) => (s1, .gated)
  | (s1, _) => (s1, .bad)

/-- Components of the texels of a footprint, border texels included. -/
def texComps (d : TexDesc) (fp : List (Nat × Option Nat)) (vals : List Nat) : List (Nat × List Comp) :=
  let vs := fp.foldl (fun (acc : List Nat × List (Nat × List Comp)) x => match x.2 with
    | none => (acc.1, acc.2 ++ [(x.1, borderComps (TexDesc.border d))])
    | some _ => (acc.1.drop 1, acc.2 ++ [(x.1, texelComps (TexDesc.fmt d) (acc.1.headD 0))])) (vals, [])
  vs.2

/-- Component `k` of a texel. -/
def compAt (cs : List Comp) (k : Nat) : Comp := cs.getD k (.frac 0 1)

/-- The filtered result (R401): `mode` 0 nearest, 1 bilinear, 2 gather of component `comp`. -/
def texFilter (mode comp : Nat) (ts : List (Nat × List Comp)) : List Nat :=
  match mode with
  | 0 => (List.range 4).map fun k => (compAt ((ts.headD (0, [])).2) k).single
  | 1 => (List.range 4).map fun k => blend (ts.map fun x => (x.1, compAt x.2 k))
  | _ => ts.map fun x => (compAt x.2 comp).single

/-- TEXQ's result (R405). -/
def texQuery (d : TexDesc) (level : Nat) : List Nat :=
  let big := level > TexDesc.levels d
  [if big then 0 else TexDesc.wAt d level, if big then 0 else TexDesc.hAt d level, TexDesc.levels d + 1, TexDesc.fmt d]

/-- The reads of several texels, in order, and their poison. -/
def State.texReads (s : State) (t : Team) (ps : List Piece) : State × List Nat × Bool :=
  ps.foldl (fun a p => let r := a.1.texRead t p; (r.state, a.2.1 ++ [r.val], a.2.2 || r.poison)) (s, [], false)

/-- The footprint of a lane's sample (R401). -/
def TexDesc.sampled (d : TexDesc) (mode a : Nat) : List (Nat × Option Nat) :=
  TexDesc.footprint d mode (TexDesc.level d (FType.fp32.decode (bitsOf a 159 128))) (FType.fp32.decode (bitsOf a 95 64))
    (FType.fp32.decode (bitsOf a 127 96))

/-- The border as a result. -/
def TexDesc.borderRes (d : TexDesc) : Nat := texRes ((borderComps (TexDesc.border d)).map Comp.single) false

/-- Cases 3 and 4 of R402, once the texels have been translated: the mark and the requests, the texels left to be read at their homes, or
the filtered texels, as where all of them are border texels. -/
def State.texFinish (s : State) (t : Team) (mode comp : Nat) (mark read : Bool) (a : Nat) (d : TexDesc × Piece) (ps : List Piece) :
    State × TexOut :=
  let absent := ((ps.filter fun p => !s.texValid p).map fun p => p.dia / 65536).eraseDups
  if !absent.isEmpty then
    let s1 := if mark then s.updTeam t.tid fun w => w.mark (bitsOf a 191 160) else s
    ({ s1 with resReqs := s1.resReqs ++ absent.map fun pg => (pg, t.ctx) }, { res := TexDesc.borderRes d.1 })
  else if !read && !ps.isEmpty then (s, { res := 0, pieces := d.2 :: ps })
  else
    let (s1, vals, bad) := s.texReads t ps
    (s1, { res := texRes (texFilter mode comp (texComps d.1 (TexDesc.sampled d.1 mode a) vals)) true, poison := bad })

/-- Sample (R402): the first case that applies; none while a gate holds it. With `read` false the texels of case 4 are left to be read at
their homes. -/
def State.sample (s : State) (t : Team) (mode comp : Nat) (mark read : Bool) (a : Nat) : State × Option TexOut :=
  match s.texDesc t read (BitVec.ofNat 64 a) with
  | (s1, .gated) => (s1, none)
  | (s1, .bad) => (s1, some { res := 0 })
  | (s1, .ok (d, q)) =>
    if mode == 3 then (s1, some { res := ofWords (texQuery d (bitsOf a 159 128)) })
    else
      let u := FType.fp32.decode (bitsOf a 95 64)
      let v := FType.fp32.decode (bitsOf a 127 96)
      if u.isNan || u.isInf || v.isNan || v.isInf then (s1, some { res := texRes (List.replicate 4 0x7FC00000) true })
      else match s1.texXlat t (TexDesc.size d) ((TexDesc.sampled d mode a).filterMap (·.2)) with
        | (s2, .gated) => (s2, none)
        | (s2, .bad) => (s2, some { res := TexDesc.borderRes d })
        | (s2, .ok ps) =>
          let r := (s2.texRaise t read ps).texFinish t mode comp mark read a (d, q) (ps.map (·.1))
          (r.1, some r.2)

/-- TEX, TEXG and TEXQ in one thread, up to the reads of their texels. -/
def texLane (mode comp : Nat) (nm : Bool) (pd : Nat) (d a b cc : Reg) (c : Cur) (g0 : Group) (σ : State × List LaneOp)
    (l : Nat) : Except Fate ((State × List LaneOp) × Fate) := do
  let xs ← readAll g0 l [(a, 2), (b, 2), (cc, if mode == 3 then 1 else 2)]
  let x (k : Nat) : Opnd := xs.getD k ⟨0, false, false, 0⟩
  let mark := mode != 3 && !nm && !cc.isNull
  consumeAll (if pd != 7 then xs else if mark then [x 0, x 2] else [x 0])
  let va := BitVec.ofNat 64 (x 0).val
  if va.toNat % 32 != 0 then .error (.trap ⟨.align, 0, va⟩)
  let dst ← dstReady g0 l d 4
  match σ.1.team? c.tid with
  | none => .error .stay
  | some t =>
    let ops := texPack va (x 1).val (x 2).val
    if mark then markCheck σ.1 t (bitsOf ops 191 160)
    match σ.1.sample t mode comp mark false ops with
    | (_, none) => .error .stay
    | (s1, some o) =>
      let (p, pt) := joinPoison xs
      let lane : LaneOp :=
        { lane := l, dst := dst, a := ops, b := (if p then 1 else 0) + (if pt then 2 else 0), done := false, fw := false
          res := o.res, poison := p || o.poison, pt := pt && !o.poison, who := [(c.grp, l)], pieces := o.pieces }
      .ok ((s1.updGroup c.tid c.grp fun g => markRef g l dst 4 .pending, σ.2 ++ [lane]), .next)

/-- One IFR entry for the lanes that issue. -/
def laneRun (op : IfrOp) (lane : Cur → Group → State × List LaneOp → Nat → Except Fate ((State × List LaneOp) × Fate))
    (c : Cur) (e : Entry) (act : List Nat) (s : State) : State × List (Nat × Fate) :=
  let r := foldLanes (lane c (s.grp c)) act (s, [])
  let mk (idx seq : Nat) : IfrEntry :=
    { idx := idx, seq := seq, op := op, grp := c.grp, ord := 0, scope := 0, sz := 0, aux := 0, hnd := 0, dwords := 4,
      pc := e.pc, lanes := r.1.2 }
  (if r.1.2.isEmpty then r.1.1 else r.1.1.updTeam c.tid fun u => u.newEntry mk, r.2)

/-- An IFR entry is free, and the members' earlier accesses have been performed. -/
def texReady (s : State) (c : Cur) (act : List Nat) : Bool := ifrFree oneEntry s c act && accessesDone s c act

/-- The issue of a texture instruction. -/
def texIssue (s : State) (gd : Guard) (mode comp : Nat) (nm : Bool) (pd : Nat) (d a b c : Reg) : Result :=
  issue s gd [(a, 2), (b, 2), (c, if mode == 3 then 1 else 2)] texReady
    (laneRun (.tex mode comp (mode != 3 && !nm && !c.isNull) pd) (texLane mode comp nm pd d a b c))

/-- TEX (R401). -/
def execTex (gd : Guard) (d a b c : Reg) (nm lin : BitVec 1) (pd : BitVec 3) (s : State) : Result :=
  texIssue s gd lin.toNat 0 (nm == 1) pd.toNat d a b c

/-- TEXG (R401). -/
def execTexg (gd : Guard) (d a b c : Reg) (comp : BitVec 2) (nm : BitVec 1) (pd : BitVec 3) (s : State) : Result :=
  texIssue s gd 2 comp.toNat (nm == 1) pd.toNat d a b c

/-- TEXQ (R405). -/
def execTexq (gd : Guard) (d a c : Reg) (s : State) : Result := texIssue s gd 3 0 true 7 d a Reg.null c

/-- The texels of a lane are read, as they were translated at issue (R402, R444); a replay decides its case afresh (R406). -/
def State.resample (s : State) (t : Team) (e : IfrEntry) (o : LaneOp) (mode comp : Nat) (mark : Bool) : State × Option TexOut :=
  match o.pieces with
  | d :: ps =>
    if t.rp && e.seq < t.replay then s.sample t mode comp mark true o.a
    else
      let r := s.texFinish t mode comp mark true o.a (BitVec.ofNat 256 d.data, d) ps
      (r.1, some r.2)
  | [] => (s, some { res := o.res, poison := o.poison })

/-- The texels of a lane are read together, once their channel groups admit the reads (R383). -/
def State.sampleLane (s0 : State) (t : Team) (e : IfrEntry) (o : LaneOp) (mode comp : Nat) (mark : Bool) : State :=
  match s0.gateAll t.ctx (.texels t.tid e.seq o.lane) ((o.pieces.drop 1).map fun p => (p.dia, sectorsOf p.dia p.len, true)) with
  | (s, false) => s
  | (s, true) => match s.resample t e o mode comp mark with
    | (_, none) => s0
    | (s1, some x) =>
      let bad := o.b % 2 == 1
      let o1 : LaneOp := { o with
        res := x.res, poison := x.poison || bad, pt := bad && !x.poison && o.b / 2 == 1
        pieces := o.pieces.map fun p => { p with done := true } }
      s1.updTeam t.tid fun u => u.setEntry (e.setLane o1)

/-! ## ACCESS_AT_HOME -/

/-- ACCESS_AT_HOME (R242, R248, R262): piece `piece` of a lane of the IFR entry with sequence number `op` reaches its
home; the texels of a texture lane are read together. -/
def execAccessAtHome (tid op lane piece : Nat) (s : State) : Result :=
  .next (match s.team? tid with
    | none => s
    | some t =>
      match t.ifr.find? (·.seq == op) with
      | none => s
      | some e =>
        match e.lanes.find? (·.lane == lane) with
        | none => s
        | some o =>
          match o.pieces[piece]? with
          | none => s
          | some p =>
            if o.done || p.done || p.wait != .no || p.held || !t.mayPerform e (s.orderOf e p) o p then s
            else match e.op with
              | .tex mode comp mark _ =>
                if t.st == .resident && !t.stopping && o.pieces.all (t.mayPerform e e.ord o) then s.sampleLane t e o mode comp mark else s
              | _ =>
                if t.st == .resident || t.st == .ended || (e.op.isWriteKind && t.stopping) then (s.arrive t e o piece p).closeReady
                else s)

/-! ## Ray tests (R407) -/

/-- The 16-byte units of a memory operand. -/
def rayUnits (va : BitVec 64) (n : Nat) : List (BitVec 64 × Nat × Nat) :=
  (List.range (n / 16)).map fun k => (va + BitVec.ofNat 64 (16 * k), 16, 0)

/-- RTBOX, RTTRI and RTXF in one thread, up to the reads of their memory operand. -/
def rayLane (n align pd : Nat) (d a b m : Reg) (c : Cur) (g0 : Group) (σ : State × List LaneOp) (l : Nat) :
    Except Fate ((State × List LaneOp) × Fate) := do
  let xs ← readAll g0 l [(a, 4), (b, 4), (m, 2)]
  let x (k : Nat) : Opnd := xs.getD k ⟨0, false, false, 0⟩
  consumeAll (if pd != 7 then xs else [x 2])
  let va := BitVec.ofNat 64 (x 2).val
  if va.toNat % align != 0 then .error (.trap ⟨.align, 0, va⟩)
  let dst ← dstReady g0 l d 4
  match σ.1.accessAll c.tid c.grp l (fun e => e.r) (rayUnits va n) with
  | .error (s1, f) => .ok ((s1, σ.2), f)
  | .ok (s1, us) =>
    let s2 := us.foldl (fun st u => st.raiseMark c.tid u.1.cls) s1
    let (p, pt) := joinPoison [x 0, x 1]
    let lane : LaneOp :=
      { lane := l, dst := dst, a := (x 0).val + 2 ^ 128 * (x 1).val, b := (if p then 1 else 0) + (if pt then 2 else 0)
        done := false, fw := false, who := [(c.grp, l)], pieces := us.map fun u => texPiece u.2.1 16 u.1 }
    .ok ((s2.updGroup c.tid c.grp fun g => markRef g l dst 4 .pending, σ.2 ++ [lane]), .next)

/-- The issue of a ray instruction: `mode` 0 box, 1 triangle, 2 transform. -/
def rayIssue (s : State) (gd : Guard) (mode arg pd n align : Nat) (d a b m : Reg) : Result :=
  issue s gd [(a, 4), (b, 4), (m, 2)] (ifrFree oneEntry) (laneRun (.ray mode arg pd) (rayLane n align pd d a b m))

/-- RTBOX (R408). -/
def execRtbox (gd : Guard) (d a b c : Reg) (pd : BitVec 3) (s : State) : Result := rayIssue s gd 0 0 pd.toNat 96 128 d a b c

/-- RTTRI (R409). -/
def execRttri (gd : Guard) (d a b c : Reg) (cull : BitVec 2) (pd : BitVec 3) (s : State) : Result :=
  rayIssue s gd 1 cull.toNat pd.toNat 48 16 d a b c

/-- RTXF (R410). -/
def execRtxf (gd : Guard) (d a c : Reg) (dir : BitVec 1) (s : State) : Result := rayIssue s gd 2 dir.toNat 7 48 16 d a Reg.null c

/-! ## SIG and SIGEND -/

/-- A pixel word folded into a CRC, byte 0 first (R411). -/
def crc64Word (crc : BitVec 64) (w : Nat) : BitVec 64 := (bytesOf 4 w).foldl crc64Byte crc

/-- SIG (R411): the fold over the lanes, when every thread of the group issues and every member completes. Where a stop request cuts the issue,
the threads of the whole entry are tested, those that have entered complete, and the fold, which is every member's, is not performed
(R66). -/
def sigRun (d a : Reg) (c : Cur) (e : Entry) (act : List Nat) (s : State) : State × List (Nat × Fate) :=
  let g := s.grp c
  let all (f : Fate) : List (Nat × Fate) := act.map fun l => (l, f)
  let whole := act ++ (lanesOf (s.wholeMask c e)).filter fun l => !e.mask.getLsbD l
  if !(s.wholeMask c e == 0xFFFFFFFF && whole.length == 32 && g.liveLanes.length == 32) then (s, all (.trap (mkTrap .syncMask 0)))
  else
    let rs : List (Nat × Except Fate (Opnd × Opnd)) := whole.map fun l => (l, do
      let x ← readSrc g l d 2
      let y ← readSrc g l a 1
      .ok (x, y))
    let bad := rs.filterMap fun r => match r.2 with
      | .error f => some (r.1, f)
      | .ok _ => none
    if !bad.isEmpty then
      let waits := bad.any fun x => x.2 == .stay
      (s, act.map fun l => match bad.find? (·.1 == l) with
        | some x => x
        | none => (l, if waits then .stay else .trap (mkTrap .syncMask 0)))
    else
      let ops := rs.filterMap fun r => match r.2 with
        | .ok x => some x
        | .error _ => none
      match (if act.length == 32 then ops else []) with
      | [] => (s, all .next)
      | (x, _) :: _ =>
        let crc := ops.foldl (fun k o => crc64Word k o.2.val) (BitVec.ofNat 64 x.val)
        let (p, pt) := joinPoison (x :: ops.map (·.2))
        (s.onGroup c fun g => writeRef g 0 (.g d.num.toNat) 2 crc.toNat p pt, all .next)

/-- SIG (R411). -/
def execSig (gd : Guard) (d a : Reg) (s : State) : Result := issue s gd [(d, 2), (a, 1)] always (sigRun d a)

/-- SIGEND (R412, Table 8): the table entry is stored as `ST.b128.release.device` stores it. -/
def execSigend (gd : Guard) (a b c : Reg) (s : State) : Result :=
  memIssue s gd { op := .st, t := c, tw := 2, a := a, x := b, disp := 0, len := 16, align := 16, need := fun e => e.w
                  stores := true, ord := 2, scope := 6, sz := 4, late := true
                  at_ := some fun base ti => BitVec.ofNat 64 (base + 16 * (ti % 65536))
                  data := fun crc ti => crc % 2 ^ 64 + 2 ^ 64 * (2 ^ 63 + ti / 65536 % 65536 * 2 ^ 32 + ti % 65536) }

end Sys2Proof.Machine
end

