-- ==== Sys2Proof/Machine/Record.lean ====
section
/-! DEFINITION. The instructions of chapter 13 (R351-R359): TRAP and RTE; the controller's CTXSV, CTXLD, IFRRD, FRQPOP,
FRQACK and HALT. -/

namespace Sys2Proof.Machine

/-! ## TRAP and RTE (R352, R353) -/

/-- TRAP in one thread. -/
def trapBody (a : Reg) (w code : Nat) (_ : Entry) (g0 _ : Group) (l : Nat) : Except Fate (Group × Fate) := do
  let v ← readClean g0 l a w
  .error (.trap ⟨.user, BitVec.ofNat 16 code, BitVec.ofNat 64 v⟩)

/-- TRAP (R352). -/
def execTrap (gd : Guard) (a : Reg) (w64 : BitVec 1) (code : BitVec 16) (s : State) : Result :=
  let w := if w64 == 1 then 2 else 1
  issue s gd [(a, w)] always (runG (trapBody a w code.toNat))

/-- The word address that TRAPPC holds (R347). -/
def Thread.returnPc (t : Thread) : BitVec 64 := t.trappc &&& 0x00FFFFFFFFFFFFF8

/-- RTE in one thread: only from a solitary entry. -/
def rteBody (i : Instr) (e : Entry) (_ g : Group) (l : Nat) : Except Fate (Group × Fate) :=
  if !e.solitary then .error (.trap (wordTrap .privilege i))
  else .ok (g.updThread l fun t => { t with trapc := 0 }, .ret (g.thread l).returnPc)

/-- RTE (R353). -/
def execRte (gd : Guard) (s : State) : Result := issue s gd [] always (runG (rteBody (.rte gd)))

/-! ## CTXSV and CTXLD (R354, R355) -/

/-- Change a context. -/
def State.updCtx (s : State) (id : BitVec 32) (f : Ctx → Ctx) : State :=
  { s with ctxs := s.ctxs.map fun c => if c.valid && c.id == id then f c else c }

/-- The teams of a context that have a frame; a malformed descriptor names no pool for one (R364). -/
def State.framed (s : State) (ctx : BitVec 32) : List Team :=
  if (s.ctx? ctx).isNone then [] else s.teams.filter fun t => t.ctx == ctx && (t.st == .saved || t.st == .evicted || t.st == .pending)

/-- A team of the context is still on its way to its frame. -/
def State.saving (s : State) (ctx : BitVec 32) : Bool :=
  s.teams.any fun t => t.ctx == ctx && t.st == .resident && (t.asked || t.stopping)

/-- What CTXSV begins: the stops of the context's teams, and its hold. -/
def State.beginSave (s : State) (c : Ctx) (hold : Bool) : State :=
  let s1 := s.ask ((s.teams.filter fun t => t.ctx == c.id).map (·.tid))
  if !hold then s1
  else (s1.framed c.id).foldl (fun st t => st.writeHold c t true) (s1.updCtx c.id fun x => { x with held := true })

/-- CTXSV in one thread: it begins once, and waits for the saves. -/
def ctxsvBody (a : Reg) (hold : Bool) (pd : Nat) (c : Cur) (e : Entry) (s : State) (l : Nat) : Except Fate (State × Fate) := do
  let v ← readClean (s.grp c) l a 1
  match s.ctxs.find? fun k => k.valid && k.id == BitVec.ofNat 32 v with
  | none => .ok (s.predResult c l pd false, .next)
  | some x =>
    let s1 := if e.blocked.getLsbD l then s else s.beginSave x hold
    if s1.saving x.id then .ok (s1, .stay) else .ok (s1.predResult c l pd true, .next)

/-- CTXSV (R354). -/
def execCtxsv (gd : Guard) (a : Reg) (hold : BitVec 1) (pd : BitVec 3) (s : State) : Result :=
  privileged (.ctxsv gd a hold pd) s (issue s gd [(a, 1)] always (runS (ctxsvBody a (hold == 1) pd.toNat)))

/-- A team is lost, its frame having been refused (R330). -/
def State.loseTeam (s : State) (t : Team) : State :=
  (s.discardTeam t.tid).updLaunch t.lid fun l => { l with lost := true }

/-- The check of every frame of a context: whether all were accepted. -/
def State.checkFrames (s : State) (c : Ctx) : State × Bool :=
  (s.framed c.id).foldl (fun (r : State × Bool) t => match r.1.checkFrame c t with
    | (s1, none) => (s1.loseTeam t, false)
    | (s1, some _) => (s1, r.2)) (s, true)

/-- The hold of a context ends, in its descriptor's state and in its frames; its launches may fit its pool again (R380). -/
def State.unhold (s : State) (c : Ctx) : State :=
  ((s.framed c.id).foldl (fun st t => st.writeHold c t false) (s.updCtx c.id fun x => { x with held := false })).settleFp

/-- The frames of a context go through the gates, one after the other (R383). -/
def State.gateFrames (s : State) (c : Ctx) : State × Bool :=
  (s.framed c.id).foldl (fun a t =>
    if !a.2 then a
    else
      let r := a.1.gateFrame c t true
      (r.1.updTeam t.tid fun x => { x with moved := r.2 }, t.frameMoved r.2)) (s, true)

/-- CTXLD in one thread: it waits while a page of a frame is invalid, and for the gates. -/
def ctxldBody (a : Reg) (pd : Nat) (c : Cur) (_ : Entry) (s : State) (l : Nat) : Except Fate (State × Fate) := do
  let v ← readClean (s.grp c) l a 1
  match s.ctxs.find? fun k => k.valid && k.id == BitVec.ofNat 32 v with
  | none => .ok (s.predResult c l pd false, .next)
  | some x =>
    if (s.framed x.id).any fun t => !s.frameReadable x t then .error .stay
    else match s.gateFrames x with
    | (s0, false) => .ok (s0, .stay)
    | (s0, true) =>
      let r := State.checkFrames { s0 with teams := s0.teams.map fun t => if t.ctx == x.id then { t with moved := 0 } else t } x
      let s1 := if x.held then r.1.unhold x else r.1
      .ok (s1.predResult c l pd r.2, .next)

/-- CTXLD (R355). -/
def execCtxld (gd : Guard) (a : Reg) (pd : BitVec 3) (s : State) : Result :=
  privileged (.ctxld gd a pd) s (issue s gd [(a, 1)] always (runS (ctxldBody a pd.toNat)))

/-! ## IFRRD (R333, R334, R356) -/

/-- KIND (R334, Table 4). -/
def IfrOp.kind : IfrOp → Nat
  | .ld _ => 1 | .tagrd => 2 | .st => 3 | .tagwr => 4 | .atom _ | .acas => 5 | .red _ => 6 | .mxst => 7 | .sfu _ _ => 8
  | .tex _ _ _ _ => 9 | .ray _ _ _ => 10 | .copy false => 11 | .copy true => 12 | .stld => 13 | .rast => 14 | .cfetch => 15
  | .arrival => 16 | .arrive => 17 | .refill => 19

/-- CLASS (R333, Table 3). -/
def IfrOp.cls : IfrOp → Nat
  | .st | .tagwr | .atom _ | .acas | .red _ | .mxst => 1
  | .arrival | .arrive => 2
  | .copy _ => 3
  | .ld _ | .tagrd | .sfu _ _ | .tex _ _ _ _ | .ray _ _ _ | .stld | .rast | .cfetch | .refill => 0

/-- The lanes of a lane's members. -/
def LaneOp.members (o : LaneOp) : BitVec 32 := if o.who.isEmpty then laneBit o.lane else maskOf (o.who.map (·.2))

/-- Lanes of an entry that a test selects. -/
def IfrEntry.mask (e : IfrEntry) (p : LaneOp → Bool) : Nat :=
  ((e.lanes.filter p).foldl (fun m o => m ||| o.members) 0#32).toNat

/-- Dword 3: the destination as resolved at issue. -/
def IfrEntry.dest (e : IfrEntry) : Nat :=
  let dw := if e.dwords == 4 then 3 else e.dwords
  match ((e.lanes.map (·.dst)).find? (· != Ref.null)).getD Ref.null with
  | .v n => dw * 2 ^ 14 + n % 1024
  | .g n => dw * 2 ^ 14 + 2 ^ 13 + n % 1024
  | .null => 0

/-- A dword of an IFR entry (R333, Table 3); where its operand block lies is free (log 12). -/
def Team.ifrDword (t : Team) (e : IfrEntry) (k : Nat) : Nat :=
  match k with
  | 0 => e.op.kind * 2 ^ 56 + e.op.cls * 2 ^ 54 + e.grp * 2 ^ 50 + e.ord * 2 ^ 48 + e.scope * 2 ^ 45 + e.sz * 2 ^ 42 +
      e.aux * 2 ^ 36 + e.hnd * 2 ^ 31 + (if t.fwBit e then 2 ^ 30 else 0)
  | 1 => e.seq % 2 ^ 48
  | 2 => e.mask (fun o => o.done && !o.fw) * 2 ^ 32 + e.mask fun _ => true
  | 3 => e.dest
  | 4 => e.pc.toNat % 2 ^ 56
  | 5 =>
    let w (n : Nat) : Nat := (Config.freeWord (t.tid * 2 ^ 48 + e.seq) n).toNat % 2 ^ 20
    w 60 * 2 ^ 20 + w 61
  | _ => 0

/-- The team that a reference names: of the launch accepted first (R356). -/
def State.named (s : State) (v : Nat) : Option Team :=
  let xs := s.teams.filter fun t => t.st != .ended &&
    t.ctx.toNat == bitsOf v 31 0 && t.grid.toNat == bitsOf v 63 32 && t.team == bitsOf v 95 64
  if v / 2 ^ 96 != 0 then none
  else match xs with
    | [] => none
    | t :: ts => some (ts.foldl (fun b x => if x.lid < b.lid then x else b) t)

/-- IFRRD in one thread. -/
def ifrrdBody (d a : Reg) (dw ent : Nat) (c : Cur) (_ : Entry) (s : State) (l : Nat) : Except Fate (State × Fate) := do
  let v ← readClean (s.grp c) l a 4
  let dst ← dstReady (s.grp c) l d 2
  let r := match s.named v with
    | none => 0
    | some t => match t.ifr.find? (·.idx == ent) with
      | some e => t.ifrDword e dw
      | none => 0
  .ok (s.result c l dst 2 r 7 false, .next)

/-- IFRRD (R356). -/
def execIfrrd (gd : Guard) (d a : Reg) (dw : BitVec 3) (ent : BitVec 9) (s : State) : Result :=
  privileged (.ifrrd gd d a dw ent) s (issue s gd [(a, 4)] always (runS (ifrrdBody d a dw.toNat ent.toNat)))

/-! ## FRQPOP and FRQACK (R243-R245, R357, R358) -/

/-- A record of the queue, dword 0 lowest (R244, Table 5). -/
def FaultRec.value (r : FaultRec) : Nat :=
  r.va.toNat + 2 ^ 64 * r.dia + 2 ^ 128 * (r.ctx.toNat * 2 ^ 32 + r.panel * 2 ^ 24 + r.merge * 2 ^ 16 + r.kind) +
    2 ^ 192 * r.time.toNat

/-- A slot of a partition's queue is free: the Held entry that has waited longest becomes Posted (R243). -/
def State.postHeld (s : State) (p : Partition) : State :=
  let held := (s.panels.filter fun q => p.first ≤ q.num && q.num < p.first + p.size).flatMap fun q =>
    (q.merges.filter fun m => !m.posted).map fun m => (q.num, m)
  match held with
  | [] => s
  | x :: xs =>
    let b := xs.foldl (fun b y => if y.2.ord < b.2.ord then y else b) x
    s.post b.1 b.2

/-- FRQPOP in one thread. -/
def frqpopBody (d : Reg) (panel pd : Nat) (c : Cur) (_ : Entry) (s : State) (l : Nat) : Except Fate (State × Fate) := do
  let dst ← dstReady (s.grp c) l d 8
  match s.part? panel with
  | none => .ok (s.predResult c l pd false, .next)
  | some p => match p.queue with
    | [] => .ok (s.predResult c l pd false, .next)
    | r :: rest =>
      let s1 := (s.result c l dst 8 r.value pd true).updPart panel fun q => { q with queue := rest }
      .ok (s1.postHeld p, .next)

/-- FRQPOP (R357). -/
def execFrqpop (gd : Guard) (d : Reg) (panel : BitVec 4) (pd : BitVec 3) (s : State) : Result :=
  privileged (.frqpop gd d panel pd) s (issue s gd [] always (runS (frqpopBody d panel.toNat pd.toNat)))

/-- What a placement or a restore reads itself, refused: the page whose walk it was, or the template table (R305, R320). -/
def Team.refuseRead (held : List Nat) (w : Wait) (t : Team) : Team :=
  match t.tread with
  | none => t
  | some p =>
    if p.wait != w then t
    else
      let t1 := { t with tread := none }
      let page := bitsOf p.va.toNat 55 12
      if t.awaiting.contains page && !held.contains page then t1.losePage page
      else { t1 with templates := List.replicate 64 none }

/-- A beat of a command that waits in an entry is refused (R311). -/
def State.refuseCopy (s : State) (w : Wait) (id : Nat) : State :=
  match s.copies.find? (·.id == id) with
  | none => s
  | some c => (List.range c.beats.length).foldl (fun st k =>
      match (st.copies.find? (·.id == id)) with
      | none => st
      | some y => match y.beats[k]? with
        | some b => if (b.miss.map (·.wait)) == some w then st.refuseBeat y k else st
        | none => st) s

/-- A verdict of refusal binds everything that waits in an entry (R243, R245, R311, R319, R376, R392). -/
def State.refuseMerge (s : State) (panel idx : Nat) : State :=
  let w : Wait := .merge panel idx
  let s1 := (s.code.filter (·.wait == w)).foldl State.refuseSegment s
  let s2 : State := { s1 with
    teams := s1.teams.map fun t => t.fetches.foldl (Team.refuseFetch w) ((t.refuse w).refuseRead (s1.heldPages t.tid) w)
    launches := s1.launches.map fun l => if l.miss.map (·.wait) == some w then { l with crec := BitVec.allOnes 64, miss := none } else l }
  let s3 := (s2.copies.map (·.id)).foldl (fun st id => st.refuseCopy w id) s2
  let s4 := (s3.rasters.filter fun r => r.miss.map (·.wait) == some w).foldl State.rasterSkip s3
  (s4.freeMerge panel idx).wakeEvicted

/-- A verdict for a Posted entry (R243). -/
def State.verdict (s : State) (panel : Nat) (m : Merge) (refuse : Bool) : State :=
  if refuse then s.refuseMerge panel m.idx
  else if pteValid (s.pte (m.page * 65536)) then (s.releaseMerge panel m.idx).wakeEvicted
  else s.emit panel m

/-- FRQACK in one thread. -/
def frqackBody (a : Reg) (refuse : Bool) (pd : Nat) (c : Cur) (_ : Entry) (s : State) (l : Nat) : Except Fate (State × Fate) := do
  let v ← readClean (s.grp c) l a 2
  if v ≥ 2 ^ 48 || (s.part? (v / 2 ^ 44)).isNone then .error (.trap (mkTrap .address v))
  else match s.home v with
    | none => .error (.trap (mkTrap .address v))
    | some (n, _) => match (s.panel n).merges.find? fun m => m.page == v / 65536 && m.posted with
      | none => .ok (s.predResult c l pd false, .next)
      | some m => .ok ((s.verdict n m refuse).predResult c l pd true, .next)

/-- FRQACK (R358). -/
def execFrqack (gd : Guard) (a : Reg) (refuse : BitVec 1) (pd : BitVec 3) (s : State) : Result :=
  privileged (.frqack gd a refuse pd) s (issue s gd [(a, 2)] always (runS (frqackBody a (refuse == 1) pd.toNat)))

/-! ## HALT (R359) -/

/-- HALT in one thread: the task ends once the thread's accesses have been performed. -/
def haltBody (c : Cur) (_ : Entry) (s : State) (l : Nat) : Except Fate (State × Fate) :=
  match s.team? c.tid with
  | none => .error .stay
  | some t => if t.performed c.grp l then .ok (s, .exit) else .error .stay

/-- HALT (R359): the controller then takes its next event. -/
def execHalt (gd : Guard) (s : State) : Result :=
  privileged (.halt gd) s (thenDispatch (issue s gd [] always (runS haltBody)))

end Sys2Proof.Machine
end

