-- ==== Sys2Proof/Machine/Launch.lean ====
section
/-! DEFINITION. Launches (R374-R381, R385-R387): TIME, LAUNCH, LAUNCHW, LWAIT, the rings, the completion of a launch; the
records of the rollback ring and the fault summaries of the functions (R472, R481, R484). -/

namespace Sys2Proof.Machine

/-! ## What a function is told (R472, R481) -/

/-- The function that owns a context. -/
def State.ownerOf (s : State) (ctx : BitVec 32) : Nat :=
  match s.ctx? ctx with
  | some c => c.vf
  | none => 0

/-- An event is recorded in the fault summaries of the physical function and of the owner (R481, R484). -/
def State.tellBoth (s : State) (fn : Nat) (ctx : BitVec 32) (bit : Nat) : State :=
  let s1 := s.updFn 0 fun f => f.raise bit ctx
  if fn == 0 then s1 else s1.updFn fn fun f => f.raise bit ctx

/-- A context's event is recorded, in its owner too. -/
def State.tellOwner (s : State) (ctx : BitVec 32) (bit : Nat) : State := s.tellBoth (s.ownerOf ctx) ctx bit

/-- The fault-summary bit of a rollback record's kind (R481). -/
def rollBit (kind : Nat) : Nat := if kind == 2 then 4 else if kind == 3 then 5 else 3

/-- A rollback record is written, or dropped when 256 are unread (R472). -/
def State.rollRecord (s : State) (part : Nat) (ctx : BitVec 32) (kind dia : Nat) (istart : BitVec 64) : State :=
  match s.part? part with
  | none => s
  | some p =>
    if (p.widx - p.ridx).toNat ≥ 256 then s.updPart part fun q => { q with drop := sat32 (q.drop + 1) }
    else
      let s1 := s.updPart part fun q => { q with
        widx := q.widx + 1
        rolls := (q.rolls ++ [(RollRec.mk s.time ctx kind dia istart)]).drop (q.rolls.length - 255) }
      (s1.count .rbrec (s.ownerOf ctx)).tellOwner ctx (rollBit kind)

/-! ## TIME (R385) -/

/-- TIME (R385). -/
def execTime (gd : Guard) (d : Reg) (s : State) : Result := alu s gd d 2 [] 7 fun _ => { val := s.time.toNat }

/-! ## The launch descriptor (R374, R375) -/

abbrev LDesc := BitVec 512

def LDesc.bits (d : LDesc) (k hi lo : Nat) : Nat := bitsOf d.toNat (64 * k + hi) (64 * k + lo)

def LDesc.code (d : LDesc) : Nat := LDesc.bits d 0 55 12
def LDesc.grid (d : LDesc) : BitVec 32 := BitVec.ofNat 32 (LDesc.bits d 1 63 32)
def LDesc.teams (d : LDesc) : Nat := LDesc.bits d 1 23 0 + 1
def LDesc.level (d : LDesc) : Nat := LDesc.bits d 2 63 62
def LDesc.scope (d : LDesc) : Nat := LDesc.bits d 2 61 59
def LDesc.preload (d : LDesc) : Bool := LDesc.bits d 2 58 58 == 1
def LDesc.nseg (d : LDesc) : Nat := LDesc.bits d 2 56 50
def LDesc.pal (d : LDesc) : Nat := LDesc.bits d 2 49 41
def LDesc.ngroup (d : LDesc) : Nat := LDesc.bits d 2 36 32
def LDesc.crec (d : LDesc) : BitVec 64 := BitVec.ofNat 64 (LDesc.bits d 5 63 4 * 16)

/-- Role record `k` and its entry priority. -/
def LDesc.roleWord (d : LDesc) (k : Nat) : Nat := LDesc.bits d (3 + k / 2) (32 * (k % 2) + 31) (32 * (k % 2))

def LDesc.role (d : LDesc) (k : Nat) : Role :=
  let w := LDesc.roleWord d k
  ⟨bitsOf w 31 26, bitsOf w 25 17, bitsOf w 16 12, 8 * bitsOf w 11 4, BitVec.ofNat 8 (LDesc.bits d 6 (8 * k + 7) (8 * k))⟩

/-- The four roles. -/
def LDesc.allRoles (d : LDesc) : List Role := (List.range 4).map (LDesc.role d)

/-- A used role follows an unused one. -/
def gapIn : List Role → Bool
  | a :: b :: rs => (a.groups == 0 && b.groups != 0) || gapIn (b :: rs)
  | _ => false

/-- A role that breaks R375. -/
def LDesc.roleBad (d : LDesc) (r : Role) : Bool :=
  if r.groups == 0 then r.prio != 0 else r.allot < 64 || r.allot > 1024 || r.seg ≥ LDesc.nseg d

/-- A reserved bit is set. -/
def LDesc.reserved (d : LDesc) : Bool :=
  LDesc.bits d 0 63 56 != 0 || LDesc.bits d 0 11 0 != 0 || LDesc.bits d 1 31 24 != 0 || LDesc.bits d 2 57 57 != 0 ||
  LDesc.bits d 2 40 37 != 0 || LDesc.bits d 2 31 0 != 0 || ((List.range 4).any fun k => LDesc.roleWord d k % 16 != 0) ||
  LDesc.bits d 5 3 0 != 0 || LDesc.bits d 6 63 32 != 0 || LDesc.bits d 7 63 0 != 0

/-- A malformed descriptor (R375), for a context. -/
def LDesc.malformed (d : LDesc) (c : Ctx) : Bool :=
  let rs := LDesc.allRoles d
  LDesc.reserved d || LDesc.scope d < 2 || LDesc.nseg d == 0 || LDesc.nseg d > 64 || LDesc.pal d > 256 || LDesc.level d > c.levcap ||
  ((rs.head?).map (·.groups)) == some 0 || gapIn rs || (rs.map (·.groups)).sum != LDesc.ngroup d || LDesc.ngroup d == 0 ||
  LDesc.ngroup d > 16 || rs.any (LDesc.roleBad d)

/-! ## Acceptance (R376, R377, R449) -/

/-- Entries of a partition's launch queue (R377). -/
def launchQueue : Nat := 64

/-- A context may take an entry of its partition's queue. -/
def State.queueRoom (s : State) (c : Ctx) (fixed : Bool) : Bool :=
  let free := launchQueue - (s.launches.filter fun l => l.part == c.part).length
  if fixed || c.levcap == 3 then free ≥ 1 else free ≥ 9

/-- Where a device access of a context goes: translated with a permission, on a page that is valid (R376, R378). -/
inductive Place where
  | at (x : Xlat)
  | bad
  | miss (dia kind : Nat)
  | gated

/-- Stage A and stage B for a device access, its walk gated for a context or not. -/
def State.placeFor (s : State) (gate : Option (BitVec 32)) (c : Ctx) (va : BitVec 64) (need : RangeEnt → Bool) (kind : Nat) : State × Place :=
  match s.translateFor gate c va need with
  | (s1, .bad) => (s1, .bad)
  | (s1, .gated) => (s1, .gated)
  | (s1, .miss d) => (s1, .miss d 6)
  | (s1, .ok x) => (s1, if pteValid (s1.pte x.dia) then .at x else .miss x.dia kind)

/-- An access on a context's behalf, whose walk passes the context's gates (R383). -/
def State.placeOf (s : State) (c : Ctx) (va : BitVec 64) (need : RangeEnt → Bool) (kind : Nat) : State × Place :=
  s.placeFor (some c.id) c va need kind

/-- An access of the display's or the vehicle's own, which no gate holds (log 57). -/
def State.placeFree (s : State) (c : Ctx) (va : BitVec 64) (need : RangeEnt → Bool) : State × Place := s.placeFor none c va need 0

/-- Write the 16 bytes of a completion record (R376). -/
def State.writeRecord (s : State) (c : Ctx) (x : Xlat) (v : Nat) : State := s.deviceWrite ⟨c.id, x.dia, 16, v, x.key⟩

/-- REJ rises (R363). -/
def State.reject (s : State) (c : Ctx) : State := s.updCtx c.id fun x => x.addRej 1

/-- A launch is accepted: its record is zeroed, and it takes its entry. -/
def State.accept (s : State) (c : Ctx) (d : LDesc) (x : Xlat) (cls : BitVec 8) (fixd : Option Nat) : State :=
  let s1 := s.writeRecord c x 0
  let l : Launch :=
    { lid := s.nextLid, ctx := c.id, part := c.part, grid := LDesc.grid d, teams := LDesc.teams d, level := LDesc.level d,
      scope := LDesc.scope d, preload := LDesc.preload d, nseg := LDesc.nseg d, pal := LDesc.pal d, ngroup := LDesc.ngroup d,
      roles := (LDesc.allRoles d).filter fun r => r.groups != 0, code := LDesc.code d, crec := LDesc.crec d, cls := cls, fixd := fixd,
      next := 0, ended := 0, fatal := none, lost := false, abandoned := false, since := s.time, miss := none }
  State.settleFp { s1 with launches := s1.launches ++ [l], nextLid := s.nextLid + 1 }

/-! ## LAUNCH and LAUNCHW (R386) -/

/-- A thread's launch once its descriptor `v` has been read; what waits then keeps it. -/
def State.launchRead (s : State) (c : Cur) (l : Nat) (va : BitVec 64) (t : Team) (k : Ctx) (v : Nat) (wait : Bool) (pd : Nat) :
    State × Fate :=
  let d : LDesc := BitVec.ofNat 512 v
  let fault : Fate := .trap ⟨.launchFault, 0, va⟩
  let keep (st : State) (dia kind : Nat) (w : Wait) : State × Fate :=
    st.keepDesc c l { va := LDesc.crec d, dia := dia, kind := kind, wait := w, got := some v }
  let s0 := s.putProbe c.tid c.grp l none
  if LDesc.malformed d k then (s0.reject k, fault)
  else match s0.placeOf k (LDesc.crec d) (fun e => e.w) 1 with
    | (s1, .bad) => (s1.reject k, fault)
    | (s1, .gated) => keep s1 0 1 .no
    | (s1, .miss dia kind) => let r := s1.missAt dia (LDesc.crec d) k.id kind; keep r.1 dia kind r.2
    | (s1, .at y) =>
      if !s1.queueRoom k false then (if wait then keep s1 y.dia 1 .no else (s1.predResult c l pd false, .next))
      else if !s1.deviceReady k.id y.dia 16 then keep s1 y.dia 1 .no
      else
        let mark := ((s1.team? c.tid).map (·.cls)).getD t.cls
        let s2 := s1.accept k d y mark none
        (if wait then s2 else s2.predResult c l pd true, .next)

/-- LAUNCH and LAUNCHW in one thread; the controller has no context to launch for (log 27). -/
def launchBody (a : Reg) (wait : Bool) (pd : Nat) (c : Cur) (_ : Entry) (s : State) (l : Nat) : Except Fate (State × Fate) :=
  match s.team? c.tid with
  | none => .error .stay
  | some t => do
    let v ← readClean (t.group c.grp) l a 2
    let va := BitVec.ofNat 64 v
    if v % 64 != 0 then .error (.trap ⟨.align, 0, va⟩)
    match s.ctx? t.ctx with
    | none => .error (.trap ⟨.launchFault, 0, va⟩)
    | some k =>
      .ok (settle (do
        let (s1, x) ← s.descOnce c l va 64
        .ok (if x.poison then (s1.reject k, .trap ⟨.launchFault, 0, va⟩) else s1.launchRead c l va t k x.val wait pd)))

/-- LAUNCH (R386). -/
def execLaunch (gd : Guard) (a : Reg) (pd : BitVec 3) (s : State) : Result :=
  issue s gd [(a, 2)] accessesDone (runS (launchBody a false pd.toNat))

/-- LAUNCHW (R386). -/
def execLaunchw (gd : Guard) (a : Reg) (s : State) : Result := issue s gd [(a, 2)] accessesDone (runS (launchBody a true 7))

/-! ## LWAIT (R387) -/

/-- LWAIT in one thread: an acquire at system scope. -/
def lwaitBody (d a : Reg) (test : Bool) (pd : Nat) (c : Cur) (_ : Entry) (s : State) (l : Nat) : Except Fate (State × Fate) :=
  match s.team? c.tid with
  | none => .error .stay
  | some t => do
    let v ← readClean (t.group c.grp) l a 2
    let va := BitVec.ofNat 64 v
    if v % 16 != 0 then .error (.trap ⟨.align, 0, va⟩)
    let dst ← dstReady (t.group c.grp) l d 2
    .ok (settle (do
      let (s1, x) ← s.descRead c l va 16
      let s2 := s1.l1Acquire t.core
      match consumeAll [⟨x.val, x.poison, x.pt, v⟩] with
      | .error f => .error (s2, f)
      | .ok _ =>
        let done := x.val.testBit 63
        if !test && !done then .error (s2, .stay)
        else .ok (s2.result c l dst 2 (x.val % 2 ^ 64) (if test then pd else 7) done, .next)))

/-- LWAIT (R387). -/
def execLwait (gd : Guard) (d a : Reg) (test : BitVec 1) (pd : BitVec 3) (s : State) : Result :=
  issue s gd [(a, 2)] accessesDone (runS (lwaitBody d a (test == 1) pd.toNat))

/-! ## Rings and fixed launches (R371, R378, R379) -/

/-- A ring's state changes and its owner is told (R379, R481). -/
def State.ringEvent (s : State) (c : Ctx) (st bit : Nat) : State := (s.updCtx c.id fun x => x.setRing st).tellOwner c.id bit

/-- The first byte of each page that the slots of a ring touch. -/
def Ctx.ringPages (c : Ctx) : List Nat :=
  let first := c.rbase / 4096
  (List.range ((c.rbase + 64 * 2 ^ c.rlog - 1) / 4096 + 1 - first)).map fun k => max c.rbase (4096 * (first + k))

/-- Slots translate, on valid pages (R378), up to the first whose walk a gate holds: whether they do, and those left to check. -/
def State.checkSlots (c : Ctx) : List Nat → State → State × Bool × List Nat
  | [], s => (s, true, [])
  | va :: vs, s =>
    match s.placeOf c (BitVec.ofNat 64 va) (fun e => e.r) 0 with
    | (s1, .at _) => State.checkSlots c vs s1
    | (s1, .gated) => (s1, true, va :: vs)
    | (s1, _) => (s1, false, [])

/-- The device's read index is stored to the index block (R378), once its walk passes the gates. -/
def State.storeRead (s : State) (c : Ctx) (read : BitVec 32) : State × Bool :=
  match s.placeOf c (BitVec.ofNat 64 (c.idxa + 4)) (fun e => e.r && e.w) 0 with
  | (s1, .at x) => (s1.deviceWrite ⟨c.id, x.dia, 4, read.toNat, x.key⟩, true)
  | (s1, .gated) => (s1, false)
  | (s1, _) => (s1, true)

/-- A ring or a fixed sitting skips a malformed launch: its record says DONE and no team (R378). False: a gate holds the walk. -/
def State.skipLaunch (s : State) (c : Ctx) (d : LDesc) : State × Bool :=
  match s.placeOf c (LDesc.crec d) (fun e => e.w) 1 with
  | (s1, .at x) => ((s1.writeRecord c x (2 ^ 63 + 2 ^ 64 * s1.time.toNat)).reject c, true)
  | (s1, .gated) => (s1, false)
  | (s1, _) => (s1.reject c, true)

/-- A ring take or a fixed sitting's take of a descriptor (R371, R376, R378). False: it waits for a gate or for the log, so that the
record's first write precedes the acceptance. -/
def State.takeLaunch (s : State) (c : Ctx) (x : Rd) (fixd : Option Nat) : State × Bool :=
  let d : LDesc := BitVec.ofNat 512 x.val
  if x.poison then (s.reject c, true)
  else if LDesc.malformed d c then s.skipLaunch c d
  else match s.placeOf c (LDesc.crec d) (fun e => e.w) 1 with
    | (s1, .at y) =>
      if !s1.queueRoom c fixd.isSome then (s1.reject c, true)
      else if !s1.deviceReady c.id y.dia 16 then (s1, false)
      else (s1.accept c d y 0 fixd, true)
    | (s1, .gated) => (s1, false)
    | (s1, _) => (s1.reject c, true)

/-- The launch descriptor at a translated place is read, where the gate admits the read. -/
def State.readLaunch (s : State) (c : Ctx) (x : Xlat) : State × Option Rd :=
  match s.gateNow c.id [(x.dia, sectorsOf x.dia 64, true)] with
  | (s1, true) => let r := s1.homeReads x.key 0 1 x.dia 64; (r.1, some r.2)
  | (s1, false) => (s1, none)

/-- The slots of a ring from `read` up to `w`, as far as the queue has room; `fuel` slots at most. False: the slot at the answered index
waits. -/
def State.takeSlots (c : Ctx) (w : BitVec 32) : Nat → State → BitVec 32 → State × BitVec 32 × Bool
  | 0, s, read => (s, read, true)
  | fuel + 1, s, read =>
    if read == w || !s.queueRoom c false then (s, read, true)
    else match s.placeOf c (BitVec.ofNat 64 (c.rbase + 64 * (read.toNat % 2 ^ c.rlog))) (fun e => e.r) 0 with
      | (s1, .at x) =>
        match s1.readLaunch c x with
        | (s2, none) => (s2, read, false)
        | (s2, some r) =>
          match s2.takeLaunch c r none with
          | (s3, false) => (s3, read, false)
          | (s3, true) => State.takeSlots c w fuel s3 (read + 1)
      | (s1, .gated) => (s1, read, false)
      | (s1, _) => (s1, read, true)

/-- A poll that has read its write index takes the slots (R378). -/
def State.takeRing (s : State) (c : Ctx) (p : Poll) (w : BitVec 32) : State × Option Poll :=
  let again : Option Poll := some { p with write := some w }
  match State.takeSlots c w (2 ^ c.rlog) s c.ringRead with
  | (s1, read, ok) =>
    let s2 := s1.updCtx c.id fun x => { x with ringRead := read }
    if !ok then (s2, again)
    else match s2.storeRead c read with
      | (s3, true) => (s3, none)
      | (s3, false) => (s3, again)

/-- A poll finds its ring bad (R378, R379). -/
def State.ringBad (s : State) (c : Ctx) : State := (s.updCtx c.id fun x => { x with ringReset := false }).ringEvent c 2 1

/-- The write index of a ring that has passed its checks: a requested reset is performed, a lap is told, or the slots are taken
(R378, R379). -/
def State.ringIndex (s : State) (c : Ctx) (p : Poll) (w : BitVec 32) : State × Option Poll :=
  if c.ringReset then
    match (s.updCtx c.id fun x => { (x.setRing 1) with ringReset := false, ringRead := w }).storeRead c w with
    | (s1, true) => (s1, none)
    | (s1, false) => (s1, some { p with write := some w })
  else if (w - c.ringRead).toNat > 2 ^ c.rlog then (s.ringEvent c 3 2, none)
  else s.takeRing c p w

/-- A poll checks its ring and reads the write index, as far as the gates let it (R378). -/
def State.checkRing (s : State) (c : Ctx) (p : Poll) : State × Option Poll :=
  let pages := c.ringPages
  match State.checkSlots c (pages.drop p.pages) s with
  | (s1, false, _) => (s1.ringBad c, none)
  | (s1, true, v :: vs) => (s1, some { p with pages := pages.length - (v :: vs).length })
  | (s1, true, []) =>
    let here : Option Poll := some { p with pages := pages.length }
    match s1.placeOf c (BitVec.ofNat 64 c.idxa) (fun e => e.r && e.w) 0 with
    | (s2, .gated) => (s2, here)
    | (s2, .at x) => match s2.gateNow c.id [(x.dia, 1, true)] with
      | (s3, false) => (s3, here)
      | (s3, true) =>
        let r := s3.homeReads x.key 0 1 x.dia 4
        if r.2.poison then (r.1.ringBad c, none) else r.1.ringIndex c p (BitVec.ofNat 32 r.2.val)
    | (s2, _) => (s2.ringBad c, none)

/-- RING_POLL (R378, R379, R443), from where it stands. -/
def State.pollOnce (s : State) (c : Ctx) (p : Poll) : State × Option Poll :=
  if c.rbase == 0 || (s.keyOf c.part).isNone || (!c.ringReset && (c.rstate == 2 || c.rstate == 3)) then (s, none)
  else match p.write with
    | some w => s.takeRing c p w
    | none => s.checkRing c p

/-- The launch of a fixed sitting (R371). -/
def State.fixedOnce (s : State) (c : Ctx) (p : Poll) (fixd : Nat) : State × Option Poll :=
  if (s.keyOf c.part).isNone then (s, none)
  else if s.launches.any fun l => l.ctx == c.id && l.fixd == some fixd then (s.reject c, none)
  else match s.placeOf c (BitVec.ofNat 64 fixd) (fun e => e.r) 0 with
    | (s1, .at x) =>
      match s1.readLaunch c x with
      | (s2, none) => (s2, some p)
      | (s2, some r) => match s2.takeLaunch c r (some fixd) with
        | (s3, true) => (s3, none)
        | (s3, false) => (s3, some p)
    | (s1, .gated) => (s1, some p)
    | (s1, _) => (s1.reject c, none)

/-- The polls and takes that have begun go on, those of one context in turn. -/
def State.runPolls (s : State) : State :=
  s.polls.foldl (fun st p =>
    if st.polls.any (·.ctx == p.ctx) then { st with polls := st.polls ++ [p] }
    else match st.ctx? p.ctx with
      | none => st
      | some c =>
        let r := match p.fixd with
          | some f => st.fixedOnce c p f
          | none => st.pollOnce c p
        { r.1 with polls := r.1.polls ++ r.2.toList }) { s with polls := [] }

/-- A poll begins (R371, R378). -/
def State.pollRing (s : State) (ctx : BitVec 32) : State := ({ s with polls := s.polls ++ [(⟨ctx, none, 0, none⟩ : Poll)] }).runPolls

/-- A fixed sitting takes its launch (R371). -/
def State.fixedLaunch (s : State) (ctx : BitVec 32) (fixd : Nat) : State :=
  ({ s with polls := s.polls ++ [(⟨ctx, some fixd, 0, none⟩ : Poll)] }).runPolls

/-! ## The end of a launch (R373, R376) -/

/-- A launch is abandoned: its teams are discarded, its record is to be written (R373). -/
def State.abandon (s : State) (lid : Nat) : State :=
  match s.launches.find? (·.lid == lid) with
  | none => s
  | some l =>
    if l.abandoned then s
    else
      let s1 := ((s.teams.filter fun t => t.lid == lid).map (·.tid)).foldl State.discardTeam s
      let s2 := s1.updLaunch lid fun x => { x with abandoned := true, next := x.teams, ended := x.teams }
      (s2.updCtx l.ctx fun c => c.addAbn 1).settleFp

/-- Nothing of a launch goes on (R114, R376). -/
def State.launchOver (s : State) (l : Launch) : Bool :=
  l.next ≥ l.teams && (s.teams.filter fun t => t.lid == l.lid).all fun t =>
    t.st == .ended && t.ifr.isEmpty && !(s.copies.any fun c => c.tid == t.tid) && !(s.rasters.any fun r => r.tid == t.tid)

/-- The completion record (R376, Table 6). -/
def Launch.record (l : Launch) (time : BitVec 64) : Nat :=
  2 ^ 63 + (if l.fatal.isSome then 2 ^ 62 else 0) + (if l.lost then 2 ^ 61 else 0) + (if l.abandoned then 2 ^ 60 else 0) +
    l.fatal.getD 0 * 2 ^ 32 + l.ended + 2 ^ 64 * time.toNat

/-- A queue entry of a partition has been freed: the rings of its open poll sittings are polled, but for sittings that act as idle ones
(R364, R378). -/
def State.pollOpen (s : State) (part : Nat) : State :=
  let polls := (s.sits.now.filter fun x => x.part == part && x.kind == 0 && (s.ctx? x.ctx).any fun c => c.usable && c.part == part).map (·.ctx)
  polls.eraseDups.foldl State.pollRing s

/-- A launch's entry is freed. -/
def State.freeLaunch (s : State) (l : Launch) : State :=
  State.pollOpen { s with
    launches := s.launches.filter (fun x => x.lid != l.lid)
    teams := s.teams.filter fun t => t.lid != l.lid } l.part

/-- LAUNCH_COMPLETION (R376): the record is written once its page is valid and the log has room. -/
def execLaunchCompletion (lid : Nat) (s : State) : Result :=
  .next (match s.launches.find? (·.lid == lid) with
    | none => s
    | some l =>
      if !s.launchOver l || l.miss.any (fun p => p.wait != .no) then s
      else match s.ctx? l.ctx with
        | none => s.freeLaunch l
        | some c => match s.placeOf c l.crec (fun e => e.w) 1 with
          | (s1, .bad) => s1.freeLaunch l
          | (s1, .gated) => s1
          | (s1, .miss dia kind) =>
            let r := s1.missAt dia l.crec l.ctx kind
            r.1.updLaunch lid fun x => { x with miss := some { va := l.crec, dia := dia, kind := kind, wait := r.2 } }
          | (s1, .at x) =>
            if !s1.deviceReady l.ctx x.dia 16 then s
            else (s1.writeRecord c x (l.record s1.time)).freeLaunch l)

end Sys2Proof.Machine
end

