-- ==== Sys2Proof/Machine/Sitting.lean ====
section
/-! DEFINITION. The sitting table and its sittings (R366-R373, R466, R467), the gates of channel groups (R383): the rows
STCTL_SWITCH, BANK_SWITCH, SITTING_OPENING, SITTING_END, GRACE_EXPIRY, GATE_WINDOW_END, ADMISSION_INTERVAL. -/

namespace Sys2Proof.Machine

/-! ## Sitting entries (R367, R368) -/

abbrev SitEnt := BitVec 256

def SitEnt.bits (e : SitEnt) (k hi lo : Nat) : Nat := bitsOf e.toNat (64 * k + hi) (64 * k + lo)

def SitEnt.valid (e : SitEnt) : Bool := SitEnt.bits e 0 63 63 == 1
def SitEnt.start (e : SitEnt) : Nat := SitEnt.bits e 0 59 40
def SitEnt.len (e : SitEnt) : Nat := SitEnt.bits e 0 39 20
def SitEnt.part (e : SitEnt) : Nat := SitEnt.bits e 0 19 16
def SitEnt.kind (e : SitEnt) : Nat := SitEnt.bits e 0 15 14
def SitEnt.policy (e : SitEnt) : Nat := SitEnt.bits e 0 13 12
def SitEnt.grace (e : SitEnt) : Nat := SitEnt.bits e 0 11 0
def SitEnt.cmask (e : SitEnt) : Nat := SitEnt.bits e 1 47 0
def SitEnt.prio (e : SitEnt) : Nat := SitEnt.bits e 2 63 56
def SitEnt.ctx (e : SitEnt) : BitVec 32 := BitVec.ofNat 32 (SitEnt.bits e 2 31 0)
def SitEnt.fixd (e : SitEnt) : Nat := SitEnt.bits e 3 55 0

/-- The cores an entry covers. -/
def SitEnt.cores (e : SitEnt) : List Nat :=
  ((List.range 48).filter fun i => (SitEnt.cmask e).testBit i).map (4 * SitEnt.part e + ·)

/-- A malformed entry (R368). -/
def SitEnt.malformed (s : State) (cycle : Nat) (e : SitEnt) : Bool :=
  SitEnt.bits e 0 62 60 != 0 || SitEnt.bits e 1 63 48 != 0 || SitEnt.bits e 2 55 32 != 0 || SitEnt.bits e 3 63 56 != 0 ||
  SitEnt.policy e == 3 || SitEnt.start e + SitEnt.len e > cycle ||
  (match s.part? (SitEnt.part e) with
    | some p => SitEnt.cmask e ≥ 2 ^ (4 * p.size)
    | none => true) ||
  ((SitEnt.kind e == 3) != (SitEnt.ctx e == 0)) || (SitEnt.kind e != 1 && SitEnt.fixd e != 0) ||
  (SitEnt.kind e == 1 && (SitEnt.fixd e == 0 || SitEnt.fixd e % 64 != 0)) ||
  (SitEnt.policy e != 1 && SitEnt.grace e != 0) || SitEnt.len e == 0

/-! ## The banks (R366, R368) -/

/-- The entries of a bank. -/
def Sittings.bank (x : Sittings) (b : Bool) : List (Nat × SitEnt) := if b then x.bank1 else x.bank0

/-- The cycle of a bank, in µs. -/
def Sittings.cycle (x : Sittings) (b : Bool) : Nat := if b then x.cycle1 else x.cycle0

/-- The cycle of the active bank, in ns. -/
def Sittings.cycleNs (x : Sittings) : Nat := 1000 * x.cycle x.abank

/-- An entry of the active bank. -/
def Sittings.entry (x : Sittings) (k : Nat) : SitEnt := (((x.bank x.abank).find? (·.1 == k)).map (·.2)).getD 0

def State.setSits (s : State) (f : Sittings → Sittings) : State := { s with sits := f s.sits }

/-- The contexts that a bank's checkpoint sittings name (R466). -/
def Sittings.ckptCtxs (x : Sittings) : List (BitVec 32) :=
  ((x.bank x.abank).filter fun e => SitEnt.valid e.2 && SitEnt.kind e.2 == 2).map fun e => SitEnt.ctx e.2

/-- A context is no longer armed, and its log records are released (R466). -/
def State.disarm (s : State) (c : Ctx) : State :=
  (s.updPart c.part fun p => { p with log := p.log.filter fun r => r.ctx != c.id }).updCtx c.id fun x =>
    { x with armed := false, ckDone := false, rolled := false, ckpt := false }

/-- The switch of the banks at an instant, or its refusal (R368, R466). -/
def State.switchBanks (s : State) (at_ : BitVec 64) : State :=
  let x := s.sits
  let shadow := !x.abank
  let cyc := x.cycle shadow
  let bad := (x.bank shadow).filter fun e => SitEnt.valid e.2 && SitEnt.malformed s cyc e.2
  let refuse (k : Nat) : State :=
    s.setSits fun x => { x with
      want := false, refused := true, badent := BitVec.ofNat 8 k
      boundary := if x.begun then at_ + BitVec.ofNat 64 x.cycleNs else x.boundary }
  if cyc < 1000 || 1000000 < cyc then refuse 0
  else match bad with
    | e :: _ => refuse e.1
    | [] =>
      let s1 := s.setSits fun x => { x with
        abank := shadow, want := false, refused := false, begun := true
        boundary := at_ + BitVec.ofNat 64 (1000 * cyc)
        opens := ((x.bank shadow).filter fun e => SitEnt.valid e.2).map fun e =>
          (e.1, at_ + BitVec.ofNat 64 (1000 * SitEnt.start e.2)) }
      ((s1.ctxs.filter fun c => c.valid && c.armed && !s1.sits.ckptCtxs.contains c.id).foldl State.disarm s1).drainLate

/-- The first cycle boundary after an instant (R368). -/
def Sittings.nextBoundary (x : Sittings) (now : BitVec 64) : BitVec 64 :=
  if now.toNat < x.boundary.toNat || x.cycleNs == 0 then x.boundary
  else BitVec.ofNat 64 (x.boundary.toNat + x.cycleNs * ((now.toNat - x.boundary.toNat) / x.cycleNs + 1))

/-- A write of STCTL (R9, R366, Table 2). -/
def State.writeStctl (s : State) (v : BitVec 32) : State :=
  let s1 := s.setSits fun x =>
    let y := { x with ctxbad := x.ctxbad && !v.getLsbD 28 }
    let c := bitsOf v.toNat 19 0
    if x.abank then { y with cycle0 := c } else { y with cycle1 := c }
  if !v.getLsbD 31 || s1.sits.want then s1
  else if s1.sits.begun then
    s1.setSits fun x => { x with want := true, boundary := x.nextBoundary s.time }
  else s1.switchBanks s.time

/-- STCTL as it reads (R366, Table 2). -/
def Sittings.stctl (x : Sittings) : Nat :=
  (if x.want then 2 ^ 31 else 0) + (if x.refused then 2 ^ 30 else 0) + (if x.abank then 2 ^ 29 else 0) +
    (if x.ctxbad then 2 ^ 28 else 0) + x.badent.toNat * 2 ^ 20 + x.cycle (!x.abank)

/-- STCTL_SWITCH (R366, R368): a write of STCTL with SWITCH. -/
def execStctlSwitch (v : BitVec 32) (s : State) : Result := .next (if v.getLsbD 31 then s.writeStctl v else s)

/-- BANK_SWITCH (R368): the boundary at which a requested switch is made has come. -/
def execBankSwitch (s : State) : Result :=
  .next (if s.sits.want && s.sits.begun && s.sits.boundary.toNat ≤ s.time.toNat then s.switchBanks s.sits.boundary else s)

/-! ## Openings and ends (R369-R373) -/

/-- When a sitting ends next. -/
def Sitting.due (x : Sitting) : BitVec 64 := x.extended.getD x.stop

/-- The instant of the earliest opening or end. -/
def Sittings.instant (x : Sittings) : Option Nat :=
  ((x.opens.map fun o => o.2.toNat) ++ (x.now.map fun y => y.due.toNat)).min?

/-- A sitting that an entry opens. -/
def Sittings.opening (x : Sittings) (k at_ : Nat) : Sitting :=
  let e := x.entry k
  ⟨k, SitEnt.part e, SitEnt.kind e, SitEnt.policy e, SitEnt.grace e, SitEnt.prio e, SitEnt.ctx e, SitEnt.cores e,
   BitVec.ofNat 64 (at_ + 1000 * SitEnt.len e), none⟩

/-- The sitting's context has a descriptor it can act on (R364). -/
def State.sittingUsable (s : State) (x : Sitting) : Bool :=
  match s.ctx? x.ctx with
  | some c => c.usable && c.part == x.part
  | none => false

/-- The teams of a sitting's context on its cores that no sitting of the context rules any more (R370). -/
def State.overrun (s : State) (x : Sitting) : List Team :=
  s.teams.filter fun t => t.st == .resident && t.ctx == x.ctx && x.cores.contains t.core && !s.ruled t.core t.ctx

/-- A sitting that has ended over Resident teams (R373, Table 4). -/
def State.endSitting (s0 s : State) (x : Sitting) : State :=
  match s0.overrun x with
  | [] => s
  | t :: ts =>
    let s1 := s.updCtx x.ctx fun c => c.addOvr 1
    match x.policy with
    | 1 => s1.setSits fun y => { y with
        now := y.now ++ [{ x with cores := x.cores.filter fun k => (t :: ts).any fun u => u.core == k
                                  extended := some (x.stop + BitVec.ofNat 64 (1000 * x.grace)) }] }
    | 2 => (((t :: ts).map (·.lid)).eraseDups).foldl State.abandon s1
    | _ => s1

/-- A checkpoint sitting opens (R371, R466, R467): its context is armed, and its teams are to be saved. -/
def State.openCheckpoint (s : State) (x : Sitting) : State :=
  match s.ctx? x.ctx with
  | none => s
  | some c =>
    if !c.armed && (s.ctxs.filter fun y => y.valid && y.part == c.part && y.armed).length ≥ 16 then
      (s.rollRecord c.part c.id 3 0 0).ask ((s.teams.filter fun t => t.ctx == c.id).map (·.tid))
    else
      (s.updCtx c.id fun y => { y with armed := true, ckpt := true }).ask ((s.teams.filter fun t => t.ctx == c.id).map (·.tid))

/-- What a sitting does at its opening, after the stops (R371, R372). -/
def State.openSitting (s : State) (x : Sitting) : State :=
  if !s.sittingUsable x then s
  else match x.kind with
    | 0 => s.pollRing x.ctx
    | 1 => s.fixedLaunch x.ctx (SitEnt.fixd (s.sits.entry x.idx))
    | 2 => s.openCheckpoint x
    | _ => s

/-- STCTL.CTXBAD is set where an open sitting has no usable descriptor (R364). -/
def State.flagCtx (s : State) : State :=
  s.setSits fun x => { x with ctxbad := x.ctxbad || x.now.any fun y => y.kind != 3 && !s.sittingUsable y }

/-- All openings and ends of one instant, as one change (R370, R372). -/
def State.applyInstant (s : State) (at_ : Nat) : State :=
  let x := s.sits
  let due := if s.fw.sleep.power == .awake then (x.opens.filter fun o => o.2.toNat == at_).map (·.1) else []
  let news := (due.mergeSort fun a b => a ≤ b).map fun k => x.opening k at_
  let ends := x.now.filter fun y => y.due.toNat == at_
  let bad := news.any fun y => y.kind != 3 && !s.sittingUsable y
  let s1 := s.setSits fun x => { x with
    now := (x.now.filter fun y => y.due.toNat != at_) ++ news
    opens := x.opens.map fun o => if o.2.toNat == at_ then (o.1, o.2 + BitVec.ofNat 64 x.cycleNs) else o
    ctxbad := x.ctxbad || bad }
  let s2 := (ends.filter fun y => y.extended.isNone).foldl (State.endSitting s1) s1
  (news.foldl State.openSitting s2.askUnruled).closeReady

/-- The instant that is due now: no switch of the banks goes before it. -/
def State.dueInstant (s : State) : Option Nat :=
  match s.sits.instant with
  | none => none
  | some n =>
    if n ≤ s.time.toNat && !(s.sits.want && s.sits.begun && s.sits.boundary.toNat ≤ n) then some n else none

/-- SITTING_OPENING (R369-R372, R378): entry `k` opens at the earliest instant that is due. -/
def execSittingOpening (k : Nat) (s : State) : Result :=
  .next (match s.dueInstant with
    | none => s
    | some n => if s.sits.opens.any fun o => o.1 == k && o.2.toNat == n then s.applyInstant n else s)

/-- SITTING_END (R369, R370, R373): a sitting of entry `k` ends at the earliest instant that is due. -/
def execSittingEnd (k : Nat) (s : State) : Result :=
  .next (match s.dueInstant with
    | none => s
    | some n =>
      if s.sits.now.any fun x => x.idx == k && x.extended.isNone && x.stop.toNat == n then s.applyInstant n else s)

/-- GRACE_EXPIRY (R373): the extension of a sitting of entry `k` runs out. -/
def execGraceExpiry (k : Nat) (s : State) : Result :=
  .next (match s.dueInstant with
    | none => s
    | some n =>
      if s.sits.now.any fun x => x.idx == k && x.extended == some (BitVec.ofNat 64 n) then s.applyInstant n else s)

/-! ## Gates (R383) -/

/-- A window of the gates, in ns. -/
def gateWindow : Nat := 50000

/-- A channel group's gate for a context after a window. -/
def Gate.turn (g : Gate) (miss : Bool) : Gate := { g with g := if miss then max 1 (g.g / 2) else min 16 (g.g + 1), reads := 0 }

/-- The gates of a channel group after a window: whether a critical context missed its target is a free value, as the model
has no latencies (log 15). -/
def State.turnGates (s : State) (p : Partition) (panel : Nat) : State :=
  let crit := s.ctxs.filter fun c => c.usable && c.part == p.first && c.crit
  let served := crit.any fun c => (s.gate panel c.id).reads > 0
  let miss := served && Config.pick s.fresh (100 + panel) % 2 == 1
  let s1 : State := { s with fresh := s.fresh + 1 }
  (s1.ctxs.filter fun c => c.usable && c.part == p.first).foldl (fun st c =>
    st.setGate (if c.crit then { st.gate panel c.id with reads := 0 } else (st.gate panel c.id).turn miss)) s1

/-- GATE_WINDOW_END (R383). -/
def execGateWindowEnd (s : State) : Result :=
  .next (if s.time.toNat < s.windowEnd.toNat then s
    else
      let s1 := s.parts.foldl (fun st p => (List.range p.size).foldl (fun st k => st.turnGates p (p.first + k)) st) s
      { s1 with windowEnd := s1.windowEnd + BitVec.ofNat 64 gateWindow })

/-- ADMISSION_INTERVAL (R383): the allowances of a microsecond are renewed. -/
def execAdmissionInterval (s : State) : Result :=
  .next (if s.time.toNat < s.admitEnd.toNat then s
    else State.runPolls { s with
      gates := s.gates.map fun g => { g with used := 0 }
      admitEnd := s.admitEnd + BitVec.ofNat 64 (1000 * ((s.time.toNat - s.admitEnd.toNat) / 1000 + 1)) })

end Sys2Proof.Machine
end

