-- ==== Sys2Proof/Machine/Health.lean ====
section
/-! DEFINITION. Rollback (R466-R472), scrub (R459), operating points and wear (R17, R18, R465, R473-R476), panel health (R426):
the rows ROLLBACK, MEMORY_SCRUB, MILLISECOND, SECOND, THERMAL, SCRUB_COMPLETION, DEBUG_FREEZE. -/

namespace Sys2Proof.Machine

/-! ## ROLLBACK (R463, R469, R470) -/

/-- The DIAs of a context's SHARED ranges, entry by entry. -/
def State.sharedRanges (s : State) (c : Ctx) : List (Nat × Nat) :=
  (List.range c.rtcount).filterMap fun k =>
    let dia := c.rtbase + 32 * k
    if !pteValid (s.pte dia) then none
    else
      let r := (s.homeReads ((s.keyOf c.slot).getD 0) 0 2 dia 32).2
      match (if r.poison then none else rangeOf c.part r.val) with
      | some e => if e.shared then some (e.dia, e.dia + (e.vlimit + 1 - e.vbase) * 4096) else none
      | none => none

/-- The 64 KiB pages of SHARED ranges that a context wrote in its interval (R469). -/
def State.sharedPages (s : State) (c : Ctx) (log : List LogRec) : List Nat :=
  let rs := s.sharedRanges c
  let pages := log.filterMap fun r => match s.sector? r.idx with
    | some x => if rs.any fun q => q.1 ≤ 64 * x.dia && 64 * x.dia < q.2 then some (x.dia / 1024 * 65536) else none
    | none => none
  pages.eraseDups.mergeSort fun a b => a ≤ b

/-- A log record is applied: the sector's bytes, check bits and tag are as they were, and its copies in L1 and L2 go. -/
def State.applyRecord (s : State) (r : LogRec) : State :=
  let s1 : State := { s with
    sectors := match r.sector with
      | some x => putSector s.sectors x
      | none => s.sectors.filter fun x => x.idx != r.idx
    mem := Memory.writeN s.mem (64 * r.idx) 64 r.bytes }
  (s1.writeBack r.idx).dropL1 fun y => physOf (s.pte (64 * y.dia)) (64 * y.dia) / 64 == r.idx

/-- The log records of a context are applied, the latest first, up to one that reads as uncorrectable, if one does (R469, R470). -/
def State.applyLog : List LogRec → State → State × Bool
  | [], s => (s, true)
  | r :: rs, s => if r.bad then (s, false) else State.applyLog rs (s.applyRecord r)

/-- A team of a checkpoint as it is reinstated: Saved, nothing of it waiting or recorded (R469 step 5). -/
def Team.reinstate (t : Team) : Team :=
  let t1 := t.mapWaits fun _ => Wait.no
  { t1 with st := if t.st == .evicted then .saved else t.st, frozen := [] }

/-- What the checkpoint recorded stands again (R469 steps 4 and 5). -/
def State.reinstate (s : State) (c : Ctx) : State :=
  let s1 := s.updPart c.part fun p => { p with log := p.log.filter fun r => r.ctx != c.id }
  let s2 : State := { s1 with
    teams := s1.teams.filter (fun t => t.ctx != c.id) ++ c.ckTeams.map Team.reinstate
    launches := s1.launches.filter (fun l => l.ctx != c.id) ++ c.ckLaunches.map (fun l => { l with miss := none })
    parked := s1.parked ++ c.ckParked.map (Copy.mapWaits fun _ => Wait.no)
    posts := s1.posts ++ c.ckPosts
    rasters := s1.rasters ++ c.ckRasters.map fun r => { r with miss := none } }
  (s2.updCtx c.id fun x => { x with ringRead := c.ckRead, held := false, ckpt := false, rolled := true }).settleFp

/-- The rollback of an armed context (R469); a record that reads as uncorrectable stops it there, and its launches are abandoned (R470,
log 42). -/
def State.rollback (s : State) (c : Ctx) (lids : List Nat) : State :=
  let s1 := ((s.teams.filter fun t => t.ctx == c.id).map (·.tid)).foldl State.discardTeam
    { s with late := s.late.filter fun w => w.ctx != c.id }
  let log := ((s1.part? c.part).map fun p => p.log.filter fun r => r.ctx == c.id).getD []
  let pages := s1.sharedPages c log
  match State.applyLog log.reverse s1 with
  | (s2, true) =>
    let s3 := (s2.reinstate c).rollRecord c.part c.id 0 0 c.istart
    let s4 := (pages.foldl (fun st pg => st.rollRecord c.part c.id 1 pg c.istart) s3).drainLate
    if s4.launches.length < s.launches.length then s4.pollOpen c.part else s4
  | (s2, false) =>
    let s3 := s2.updCtx c.id fun x => { x with held := true }
    (lids.foldl State.abandon s3).rollRecord c.part c.id 2 0 c.istart

/-- ROLLBACK (R469, R470): a thread of the context has consumed poison. A context whose first checkpoint has not been taken has nothing
to go back to (log 42). -/
def execRollback (ctx : Nat) (s : State) : Result :=
  let id := BitVec.ofNat 32 ctx
  let who := s.teams.filter fun t => t.ctx == id && s.consumptions.contains t.tid
  let lids := (who.map (·.lid)).eraseDups
  let s0 : State := { s with consumptions := s.consumptions.filter fun tid => !(who.any fun t => t.tid == tid) }
  .next (if who.isEmpty then s
    else match s.ctx? id with
      | none => s0
      | some c =>
        if c.armed && c.ckDone && !c.rolled then s0.rollback c lids
        else
          let s1 := lids.foldl State.abandon s0
          if c.armed && c.ckDone then s1.rollRecord c.part c.id 2 0 c.istart else s1)

/-! ## MEMORY_SCRUB (R459) -/

/-- The DIA of the valid page that a physical sector of a panel lies in (R239). -/
def State.diaOf (s : State) (panel idx : Nat) : Option Nat :=
  (s.partOf panel).bind fun p =>
    ((s.panel panel).ptes.find? fun e => pteValid e.2 && bitsOf e.2.toNat 39 16 == idx / 1024).map fun e =>
      p.first * 2 ^ 44 + (e.1 * p.size + (panel - p.first)) * 65536 + idx % 1024 * 64

/-- The period in which a channel group scrubs each of its sectors, in ns. -/
def scrubPeriod : Nat := 86400000000000

/-- A period is over once it has run its time and every group has scrubbed every sector; the next one begins (log 74). -/
def State.turnScrub (s : State) : State :=
  if s.time.toNat < s.scrubEnd.toNat || s.panels.any fun p => p.scrubAt < groupSectors then s
  else { s with panels := s.panels.map fun p => { p with scrubAt := 0 }
                scrubEnd := s.scrubEnd + BitVec.ofNat 64 scrubPeriod }

/-- MEMORY_SCRUB (R459): a channel group reads and decodes one of its sectors with expected tag 0; the scrub of the period goes on from
the sector it has reached. -/
def execMemoryScrub (panel sector : Nat) (s0 : State) : Result :=
  let idx := panel * 2 ^ 30 + sector
  let s := s0.turnScrub.updPanel panel fun p => if p.scrubAt == sector && sector < groupSectors then { p with scrubAt := sector + 1 } else p
  .next (if panel ≥ 12 || sector ≥ groupSectors then s0
    else match s.diaOf panel idx with
      | some dia => (s.homeRead dia 64 0 0).1
      | none => match s.sector? idx with
        | none => s
        | some x =>
          let r := s.probeSector idx x.dia 0
          let s1 := s.countClass r.1 0 0
          match r with
          | (.corrected _, some y) => { s1 with sectors := putSector s1.sectors y }
          | _ => s1)

/-! ## Operating points and wear -/

def State.updLife (s : State) (core : Nat) (f : Life → Life) : State :=
  { s with life := s.life.map fun x => if x.core == core then f x else x }

/-- The supply in force, in 10 mV: the firmware's setting and the steps of the detectors, up to 0.55 V (R17, R465). -/
def Life.supply (x : Life) : Nat := min 55 (x.volt + x.vstep)

/-- The clock in force, in MHz (R17, R465, R476); the cap of a Derated core is not that of a Drained one (log 77). -/
def Life.clock (x : Life) : Nat :=
  match x.st with
  | .retired => 0
  | .derated => min 1600 (min x.cap x.mhz)
  | .inService | .drained => min x.cap x.mhz

/-- The rules of R465 for a millisecond with `n` shadow-latch events. -/
def Life.detect (x : Life) (n : Nat) : Life :=
  let y := { x with slevt := min n 0xFFFF, quiet := if n ≤ 8 then x.quiet + 1 else 0
                    loud := if n > 64 && x.supply == 55 then x.loud + 1 else 0 }
  if n > 64 && x.supply < 55 then { y with vstep := y.vstep + 1 }
  else if y.loud ≥ 100 then { y with cap := max 800 (y.cap - 100), loud := 0 }
  else if y.quiet ≥ 1000 then
    if y.cap < 2400 then { y with cap := y.cap + 100, quiet := 0 }
    else { y with vstep := y.vstep - 1, quiet := 0 }
  else y

/-- 2 ^ (n / d) to 16 fraction bits, rounded down, as a multiple of 2^-16. -/
def pow2Frac (n : Int) (d : Nat) : Nat :=
  let e := (n + 40 * d).toNat
  rootBits d (2 ^ (16 * d + e)) 128 0 / 2 ^ 40

/-- Parts of 2^-16 wear unit in which the wear of a millisecond is exact (R473). -/
def wearUnit : Nat := 2 ^ 32 * 10 * 1000

/-- The wear of a millisecond in those parts, activity aside and by activity (R473): supply in 10 mV, temperature in °C, activity in
units of 2^-16. -/
def wearParts (volt : Nat) (tj : Int) (a : Nat) : Nat × Nat :=
  let p := pow2Frac (2 * ((volt : Int) - 40)) 5 * pow2Frac (tj - 85) 10
  (p * 2 ^ 16, p * 9 * a)

/-- Each context's part of a core's charge, rounded down to 2^-16 unit: the contexts that had a team there in the millisecond share it as
they used its cycles, which is a free value (log 15). The core keeps the remainder (R473). -/
def State.chargeWear (s : State) (core amount : Nat) : State :=
  let x := s.lifeOf core
  let there := ((s.teams.filter fun t => t.st == .resident && t.core == core).map (·.ctx)).eraseDups
  let ctxs := (x.users ++ there).eraseDups
  let total := amount + x.rest
  let share (k : Nat) : Nat := Config.pick s.fresh (1000 + k) % 65537
  let sum := ((List.range ctxs.length).map share).sum
  let part (k : Nat) : Nat := if sum == 0 then 0 else total * share k / (sum * wearUnit)
  let used := ((List.range ctxs.length).map part).sum
  let s1 := ctxs.zipIdx.foldl (fun st x => st.updCtx x.1 fun c => { c with wear := c.wear + part x.2 }) s
  s1.updLife core fun y => { y with rest := total - used * wearUnit, users := there }

/-- A core's millisecond (R465, R473): events, temperature and activity are measured, and free here (log 15). -/
def State.coreMillisecond (s0 : State) (core : Nat) : State :=
  let s := { s0 with fresh := s0.fresh + 1 }
  let x := s.lifeOf core
  if x.st == .retired then s
  else
    let n := Config.pick s.fresh 200
    let tj : Int := (Config.pick s.fresh 201 : Int) % 256 - 64
    let a := Config.pick s.fresh 202 % 65537
    let w := wearParts x.supply tj a
    let sum := x.fine + w.1 + w.2
    (s.updLife core fun y => { y.detect n with wacc := y.wacc + sum / wearUnit, fine := sum % wearUnit }).chargeWear core w.2

/-- MILLISECOND (R465, R473, R502). -/
def execMillisecond (s : State) : Result :=
  .next (if s.time.toNat < s.msNext.toNat then s
    else
      let s1 := (List.range 48).foldl State.coreMillisecond s
      { s1 with msNext := s1.msNext + 1000000 }.raiseEvent 1 0)

/-- The non-volatile store takes the lifetime record, mirrored to the host (R475). -/
def State.writeLife (s : State) : State := { s with lifeStore := s.life }

/-- USE (R475). -/
def Life.useOf (x : Life) : Nat :=
  min 65535 (max (10000 * x.wacc / (470000000 * 65536)) (max (10000 * x.dbti / Config.dbmax) (10000 * x.emacc / Config.emmax)))

/-- The state that a use calls for; states move only forward (R476). -/
def Life.wear (x : Life) : WearSt :=
  let wst : WearSt := if x.use ≥ 10000 then .retired else if x.use ≥ 9500 then .drained else if x.use ≥ 8500 then .derated else .inService
  match x.st, wst with
  | .retired, _ => .retired
  | .drained, .retired => .retired
  | .drained, _ => .drained
  | .derated, .inService => .derated
  | _, y => y

/-- The teams of cores that no longer keep teams are to stop (R426, R476). -/
def State.askCores (s : State) (p : Nat → Bool) : State :=
  s.ask ((s.teams.filter fun t => t.st == .resident && p t.core).map (·.tid))

/-- A core's second (R475, R476): drift and electromigration stress are measured, and free here (log 15). -/
def State.coreSecond (s0 : State) (core : Nat) : State :=
  let s := { s0 with fresh := s0.fresh + 1 }
  s.updLife core fun x =>
    if x.st == .retired then x
    else
      let y := { x with opsec := x.opsec + 1, dbti := Config.pick s.fresh 210 % 2 ^ 32, emacc := Config.pick s.fresh 211 % 2 ^ 32 }
      let z := { y with use := y.useOf }
      { z with st := z.wear }

/-- An hour of operation, in seconds. -/
def hourSecs : Nat := 3600

/-- The store takes the record at a change of state and at every hour of operation (R475). -/
def State.keepLife (before s : State) : State :=
  if s.opSecs % hourSecs == 0 || s.life.map (·.st) != before.life.map (·.st) then s.writeLife else s

/-- SECOND (R426, R475, R476, R502). -/
def execSecond (s : State) : Result :=
  .next (if s.time.toNat < s.secNext.toNat then s
    else
      let s1 := (List.range 48).foldl State.coreSecond s
      let s2 := s1.askCores fun core => (s1.lifeOf core).st == .retired
      (State.keepLife s { s2 with secNext := s2.secNext + 1000000000, opSecs := s2.opSecs + 1 }).raiseEvent 2 0)

/-- The clock of a core that is in force is lowered, unless it is as low as R17 lets it be. -/
def Life.slower (x : Life) (free : Nat) : Life := if x.clock ≤ 800 then x else { x with mhz := 800 + free % (x.clock - 800) }

/-- THERMAL (R18, R502): the clock of a core, or of every core for the package (255), is lowered; to what is a free value. -/
def execThermal (arg : Nat) (s : State) : Result :=
  .next (if arg ≥ 48 && arg != 255 then s
    else
      let lower (x : Life) : Life :=
        if arg == 255 || x.core == arg then x.slower (Config.pick s.fresh (220 + x.core)) else x
      { s with life := s.life.map lower, fresh := s.fresh + 1 }.raiseEvent 11 arg)

/-! ## Panel health (R425, R426) -/

def State.updHealth (s : State) (panel : Nat) (f : PanelHealth → PanelHealth) : State :=
  { s with phealth := s.phealth.map fun p => if p.num == panel then f p else p }

def State.healthOf (s : State) (panel : Nat) : PanelHealth :=
  (s.phealth.find? (·.num == panel)).getD ⟨panel, .inService, 0, 0, [], [], none⟩

/-- 1,000 operating hours, in seconds. -/
def quarantineSpan : Nat := 3600000

/-- The length of a scrub test, in ns. -/
def scrubNs : Nat := 200000000

/-- A named panel is quarantined, or retired on its third quarantine in 1,000 operating hours (R425, R426). -/
def State.namePanel (s : State) (panel : Nat) : State :=
  let p := s.healthOf panel
  let recent := (p.quars.filter fun q => s.opSecs < q + quarantineSpan).length
  if p.st == .quarantined || p.st == .retired then s
  else if recent ≥ 2 then
    let s1 := s.updHealth panel fun x => { x with st := .retired, by_ := [] }
    let retire (x : Life) : Life := if x.core / 4 == panel then { x with st := .retired, qret := true } else x
    ({ s1 with life := s1.life.map retire }.writeLife).askCores fun core => core / 4 == panel
  else
    let s1 := s.updHealth panel fun x => { x with
      st := .quarantined, passrun := 0, qcount := min (x.qcount + 1) 0xFFFF, by_ := [], quars := x.quars ++ [s.opSecs]
      scrub := some (s.time + BitVec.ofNat 64 scrubNs) }
    (s1.askCores fun core => core / 4 == panel).raiseEvent 14 panel

/-- A layer makes a panel Suspect (R425, R426). -/
def State.suspectPanel (s : State) (layer : Nat × Nat) (panel : Nat) : State :=
  let p := s.healthOf panel
  if p.st == .quarantined || p.st == .retired then s
  else
    let s1 := s.updHealth panel fun x => { x with
      st := .suspect
      by_ := if x.by_.contains layer then x.by_ else x.by_ ++ [layer] }
    if p.st == .suspect then s1 else s1.raiseEvent 14 panel

/-- A layer is PROVED again: panels that no layer suspects any more return to service (R424, R426). -/
def State.clearSuspects (s : State) (layer : Nat × Nat) : State :=
  { s with phealth := s.phealth.map fun p =>
      let by1 := p.by_.filter (· != layer)
      if p.st == .suspect && p.by_.contains layer then { p with by_ := by1, st := if by1.isEmpty then .inService else .suspect } else p }

/-- SCRUB_COMPLETION (R426): the scrub test of a Quarantined panel has run its 200 ms; `pass` says that every result was its
expected value. -/
def execScrubCompletion (panel : Nat) (pass : Bool) (s : State) : Result :=
  let p := s.healthOf panel
  .next (match p.scrub with
    | none => s
    | some t =>
      if p.st != .quarantined || s.time.toNat < t.toNat then s
      else if pass && p.passrun + 1 ≥ 3 then
        s.updHealth panel fun x => { x with st := .inService, passrun := 3, scrub := none }
      else
        (s.updHealth panel fun x => { x with
          passrun := if pass then x.passrun + 1 else 0
          scrub := some (s.time + BitVec.ofNat 64 scrubNs) }).raiseEvent 14 panel)

/-! ## DEBUG_FREEZE (R478) -/

/-- DEBUG_FREEZE (R478): honoured only while debug is enabled; the key store is overwritten, then every clock stops. -/
def execDebugFreeze (s : State) : Result :=
  .next (if s.fw.debug then { s with keys := [], fw := { s.fw with sleep := { s.fw.sleep with power := .frozen } } } else s)

end Sys2Proof.Machine
end

