-- ==== Sys2Proof/Machine/Display.lean ====
section
/-! DEFINITION. Canvases, layers, proof and the stencil compositor (R415-R431, R497): LPUB; the rows CANVAS_APPLY, FRAME_START,
PROOF_INSTANT, LAYER_ENTRY_WRITE, PRFINJ_WRITE, TELL_TALE_STATE_WORD, STATE_WORD_EXPIRY. -/

namespace Sys2Proof.Machine

/-! ## Canvas timing (R418, R497) -/

/-- Bits of a dword of a block that software writes. -/
def regBits (r : List (BitVec 64)) (k hi lo : Nat) : Nat := bitsOf (r.getD k 0).toNat hi lo

/-- Replace a dword of a block. -/
def putDword (r : List (BitVec 64)) (k : Nat) (v : BitVec 64) : List (BitVec 64) := r.set k v

/-- FS(F) (R418). -/
def Timing.fs (t : Timing) (f : Nat) : Nat := t.fs0.toNat + f * t.period

/-- When line ℓ of frame F starts (R418). -/
def Timing.lineAt (t : Timing) (f l : Nat) : Nat := t.fs f + l * t.tline

/-- The timing that a canvas's RW fields state (Table 6). -/
def Timing.ofRegs (r : List (BitVec 64)) : Timing :=
  ⟨regBits r 0 63 63 == 1, regBits r 0 31 16, regBits r 0 15 0, regBits r 1 63 32, regBits r 1 31 0, r.getD 4 0⟩

def State.canvas? (s : State) (n : Nat) : Option Canvas := s.disp.canvases.find? (·.num == n)

def State.updCanvas (s : State) (n : Nat) (f : Canvas → Canvas) : State :=
  { s with disp := { s.disp with canvases := s.disp.canvases.map fun c => if c.num == n then f c else c } }

/-- The timing that another canvas has when a new one starts at `fs0`. -/
def Canvas.timingAt (c : Canvas) (fs0 : BitVec 64) : Option Timing :=
  match c.next with
  | some t => if t.fs0.toNat ≤ fs0.toNat then some t else c.tim
  | none => c.tim

/-- (HACT + 1) / TLINE summed over enabled timings exceeds 4 pixels a nanosecond. -/
def tooFast (ts : List Timing) : Bool :=
  let en := ts.filter (·.en)
  let all := en.foldl (fun p t => p * t.tline) 1
  let sum := (en.map fun t => (t.hact + 1) * (all / t.tline)).sum
  sum > 4 * all

/-- The written fields of a canvas are refused (R497). -/
def State.timingBad (s : State) (c : Canvas) : Bool :=
  let t := Timing.ofRegs c.regs
  let others := (s.disp.canvases.filter fun x => x.num != c.num).filterMap fun x => x.timingAt t.fs0
  regBits c.regs 0 58 32 != 0 || regBits c.regs 0 61 59 == 7 || t.tline == 0 || t.period < (t.vact + 2) * t.tline ||
  t.fs0.toNat < s.time.toNat + (match c.tim with
    | some old => old.period
    | none => 1000000) ||
  (t.en && tooFast (t :: others))

/-- APPLY (R497). -/
def State.applyCanvas (s : State) (n : Nat) : State :=
  match s.canvas? n with
  | none => s
  | some c =>
    if s.timingBad c then s.updCanvas n fun x => { x with refused := true }
    else s.updCanvas n fun x => { x with refused := false, next := some (Timing.ofRegs x.regs) }

/-- CANVAS_APPLY (R497). -/
def execCanvasApply (n : Nat) (s : State) : Result := .next (s.applyCanvas n)

/-! ## Layers (R415, R416) -/

abbrev LEnt := List (BitVec 64)

def LEnt.level (e : LEnt) : Nat := regBits e 0 62 60
def LEnt.z (e : LEnt) : Nat := regBits e 0 59 56
def LEnt.cls (e : LEnt) : BitVec 8 := BitVec.ofNat 8 (regBits e 0 55 48)
def LEnt.y (e : LEnt) : Nat := regBits e 0 31 16
def LEnt.x (e : LEnt) : Nat := regBits e 0 15 0
def LEnt.h (e : LEnt) : Nat := regBits e 1 63 48 + 1
def LEnt.w (e : LEnt) : Nat := regBits e 1 47 32 + 1
def LEnt.pitch (e : LEnt) : Nat := 256 * regBits e 1 31 16
def LEnt.ctxa (e : LEnt) : BitVec 32 := BitVec.ofNat 32 (regBits e 2 31 0)
def LEnt.ctxb (e : LEnt) : BitVec 32 := BitVec.ofNat 32 (regBits e 2 63 32)
def LEnt.ctxr (e : LEnt) : BitVec 32 := BitVec.ofNat 32 (regBits e 3 31 0)
def LEnt.bg (e : LEnt) : BitVec 32 := BitVec.ofNat 32 (regBits e 4 63 32)
def LEnt.stset (e : LEnt) : BitVec 32 := BitVec.ofNat 32 (regBits e 4 31 0)
def LEnt.ald (e : LEnt) : Nat := 64 * regBits e 5 55 6

/-- A safety layer (R416). -/
def LEnt.safety (e : LEnt) : Bool := LEnt.level e ≥ 2

/-- Tiles of a safety layer (R416). -/
def LEnt.tiles (e : LEnt) : Nat := (LEnt.w e / 32) * (LEnt.h e / 32)

/-- A reserved bit is set. -/
def LEnt.reserved (e : LEnt) : Bool :=
  regBits e 0 47 32 != 0 || regBits e 1 15 0 != 0 || regBits e 3 63 32 != 0 || regBits e 5 63 56 != 0 || regBits e 5 5 0 != 0 ||
  regBits e 6 63 0 != 0 || regBits e 7 63 0 != 0

/-- A malformed entry (R415) on a canvas of this timing. -/
def LEnt.malformed (t : Timing) (e : LEnt) : Bool :=
  LEnt.reserved e || LEnt.level e > 4 || LEnt.x e + LEnt.w e > t.hact + 1 || LEnt.y e + LEnt.h e > t.vact + 1 ||
  LEnt.pitch e < 4 * LEnt.w e ||
  (if LEnt.safety e then
    LEnt.w e % 32 != 0 || LEnt.h e % 32 != 0 || LEnt.tiles e > 4096 || LEnt.ctxa e == 0 || LEnt.ctxb e == 0 ||
    LEnt.ctxa e == LEnt.ctxb e || (LEnt.ctxr e != 0 && (LEnt.ctxr e == LEnt.ctxa e || LEnt.ctxr e == LEnt.ctxb e))
  else LEnt.ctxb e != 0 || LEnt.ctxr e != 0 || LEnt.stset e != 0 || LEnt.ald e != 0)

/-- The layer is composed: VALID, and not malformed. -/
def LEnt.valid (t : Timing) (e : LEnt) : Bool := regBits e 0 63 63 == 1 && !LEnt.malformed t e

/-- P(F) (R418). -/
def LEnt.proofAt (t : Timing) (e : LEnt) (f : Int) : Int :=
  (t.fs0.toNat : Int) + f * t.period + LEnt.y e * t.tline - 50000

def State.layer? (s : State) (n k : Nat) : Option Layer := s.disp.layers.find? fun l => l.canvas == n && l.num == k

def State.updLayer (s : State) (n k : Nat) (f : Layer → Layer) : State :=
  { s with disp := { s.disp with layers := s.disp.layers.map fun l => if l.canvas == n && l.num == k then f l else l } }

/-- The entry that governs a frame, with the frame from which it does. -/
def Layer.entFrom (l : Layer) (f : Nat) : Nat × LEnt := (l.ents.find? fun x => x.1 ≤ f).getD (0, List.replicate 8 0)

def Layer.ent (l : Layer) (f : Nat) : LEnt := (l.entFrom f).2

/-- The entry in force now. -/
def Layer.current (l : Layer) : LEnt := ((l.ents.head?).map (·.2)).getD (List.replicate 8 0)

/-- E(F) (R415), by the entry that would govern F where that is valid. -/
def Layer.boundary (t : Timing) (l : Layer) (f : Nat) : Int :=
  let e := if LEnt.valid t l.regs then l.regs else l.current
  if LEnt.valid t e then min (t.fs f : Int) (LEnt.proofAt t e f) else t.fs f

/-- A change that has not taken effect governs frame F, if none before it (R415). -/
def Layer.takes (t : Timing) (l : Layer) (f : Nat) : Bool :=
  match l.changed with
  | some w => l.boundary t f > w.toNat
  | none => false

/-- A change takes effect at E(F), where every publication held is discarded (R415). -/
def Layer.take (l : Layer) (f : Nat) : Layer :=
  { l with
    changed := none
    ents := (f, l.regs) :: (l.ents.filter fun x => x.1 < f).take 1
    pubs := []
    proofNext := f
    decided := l.decided.filter fun d => d.1 < f }

/-- What a publication of an earlier frame is still good for: a layer without proof shows the latest one. -/
def Layer.prune (f : Nat) (l : Layer) : Layer :=
  let last := ((l.pubs.filter fun p => p.frame ≤ f).map (·.frame)).max?
  { l with
    pubs := l.pubs.filter fun p => p.frame ≥ f || some p.frame == last
    decided := l.decided.filter fun d => d.1 ≥ f
    scanFrom := none
    proofNext := max l.proofNext f }

/-- A frame of the timing in force starts. -/
def Layer.startFrame (t : Timing) (f : Nat) (l : Layer) : Layer :=
  if l.takes t f && l.boundary t f == t.fs f then (l.take f).prune f else l.prune f

/-- A new timing starts with frame 0: the frames are counted anew, and every publication is discarded (R497). -/
def Layer.startTiming (t : Timing) (l : Layer) : Layer :=
  let e := if (l.changed.map fun w => decide (w.toNat < t.fs0.toNat)).getD false then l.regs else l.current
  { l with
    changed := if e == l.regs then none else l.changed
    ents := [(0, e)], pubs := [], proofNext := 0, decided := [], scanFrom := none, arbFor := none }

/-! ## Frame starts (R418, R497) -/

/-- The next frame start of a canvas: its timing, its number, and whether the timing is new. -/
def Canvas.upcoming (c : Canvas) : Option (Timing × Nat × Bool) :=
  match c.tim, c.next with
  | none, none => none
  | none, some n => some (n, 0, true)
  | some t, none => some (t, c.fcount + 1, false)
  | some t, some n => if n.fs0.toNat ≤ t.fs (c.fcount + 1) then some (n, 0, true) else some (t, c.fcount + 1, false)

/-- A line of the frame in progress is still to be scanned out before an instant. -/
def Canvas.linesDue (c : Canvas) (at_ : Nat) : Bool :=
  match c.tim with
  | some t => t.en && c.line ≤ t.vact && t.lineAt c.fcount c.line < at_
  | none => false

/-- The configuration that says when the warp stage latches: the one in force while it is enabled, else the one written. -/
def Warp.driver (w : Warp) : List (BitVec 64) := if regBits w.cfg 0 63 63 == 1 then w.cfg else w.regs

/-- The first frame of a timing that starts at an instant or later. -/
def Timing.frameFrom (t : Timing) (at_ : Nat) : Nat := if t.period == 0 then 0 else (at_ - t.fs0.toNat + t.period - 1) / t.period

/-- The next latch of the warp stage: the start of the frame it latches for, and TL(F) (R435), the first since its last latch or since it was
enabled. -/
def State.nextLatch (s : State) : Option (Nat × Nat) :=
  let w := s.disp.warp
  let r := w.driver
  let lead (t : Timing) : Nat := regBits r 0 55 48 * t.tline
  if regBits r 0 63 63 == 0 then none
  else (s.canvas? (regBits r 0 58 56)).bind fun c =>
    let cand (t : Timing) (lo : Nat) : Nat × Nat :=
      let fs := t.fs (max lo (t.frameFrom (w.since + lead t)))
      (fs, fs - lead t)
    match c.tim, c.next with
    | none, none => none
    | none, some n => some (cand n 0)
    | some t, none => some (cand t (c.fcount + 1))
    | some t, some n =>
      let x := cand t (c.fcount + 1)
      let y := cand n 0
      some (if x.1 < n.fs0.toNat && x.2 ≤ y.2 then x else y)

/-- What the stage has latched for the frame of a canvas that starts at `fs`. -/
def Warp.latchOf (w : Warp) (n : Nat) (fs : BitVec 64) : Option Latch :=
  w.latches.find? fun x => x.fs == fs && regBits x.cfg 0 63 63 == 1 && regBits x.cfg 0 58 56 == n

/-- A frame of a canvas starts: what was latched for it serves every line of it (R435). -/
def Warp.startFrame (w : Warp) (n : Nat) (fs : BitVec 64) : Warp :=
  let later := w.latches.filter fun y => fs.toNat < y.fs.toNat || regBits y.cfg 0 58 56 != n
  match w.latchOf n fs with
  | some x => { w with scanCfg := x.cfg, scanMesh := x.mesh, scanSlots := x.slots, latches := later }
  | none => if regBits w.scanCfg 0 58 56 == n then { w with scanCfg := List.replicate 11 0, latches := later } else { w with latches := later }

/-- A frame starts. -/
def State.beginFrame (s : State) (c : Canvas) (t : Timing) (f : Nat) (new : Bool) : State :=
  let fs := BitVec.ofNat 64 (t.fs f)
  let w := s.disp.warp
  let dark := (w.latchOf c.num fs).any (·.blank)
  let s1 := s.updCanvas c.num fun x => { x with
    tim := some t, next := if new then none else x.next, fcount := f, fscur := fs, line := 0, blank := dark }
  { s1 with disp := { s1.disp with
      warp := w.startFrame c.num fs
      layers := s1.disp.layers.map fun l =>
        if l.canvas != c.num then l else if new then l.startTiming t else l.startFrame t f } }

/-- FRAME_START (R415, R418, R497): after the lines of the frame before, and after the latches that precede it. -/
def execFrameStart (n : Nat) (s : State) : Result :=
  .next (match s.canvas? n with
    | none => s
    | some c => match c.upcoming with
      | none => s
      | some (t, f, new) =>
        let fs := t.fs f
        let latch := s.nextLatch.any fun x => x.2 ≤ fs
        if s.time.toNat < fs || c.linesDue fs || latch then s else s.beginFrame c t f new)

/-! ## LPUB (R418, R419) -/

abbrev PDesc := BitVec 256

def PDesc.bits (d : PDesc) (k hi lo : Nat) : Nat := bitsOf d.toNat (64 * k + hi) (64 * k + lo)
def PDesc.buf (d : PDesc) : Nat := PDesc.bits d 0 55 0
def PDesc.sigt (d : PDesc) : Nat := PDesc.bits d 1 55 0
def PDesc.frame (d : PDesc) : BitVec 32 := BitVec.ofNat 32 (PDesc.bits d 2 63 32)
def PDesc.order (d : PDesc) : Nat := PDesc.bits d 2 16 16
def PDesc.layer (d : PDesc) : Nat := PDesc.bits d 2 7 4
def PDesc.slot (d : PDesc) : Nat := PDesc.bits d 2 1 0
def PDesc.canvas (d : PDesc) : Nat := PDesc.bits d 3 2 0

/-- A malformed descriptor (R418) for a layer's entry. -/
def PDesc.malformed (d : PDesc) (e : LEnt) : Bool :=
  PDesc.bits d 0 63 56 != 0 || PDesc.bits d 1 63 56 != 0 || PDesc.bits d 2 31 17 != 0 || PDesc.bits d 2 15 8 != 0 ||
  PDesc.bits d 2 3 2 != 0 || PDesc.bits d 3 63 3 != 0 || PDesc.canvas d > 5 || PDesc.slot d == 3 || PDesc.buf d % 256 != 0 ||
  (if LEnt.safety e then PDesc.sigt d == 0 || PDesc.sigt d % 16 != 0
  else PDesc.sigt d != 0 || PDesc.order d != 0 || PDesc.slot d != 0)

/-- The context that may publish a slot of a layer. -/
def LEnt.publisher (e : LEnt) (slot : Nat) : BitVec 32 :=
  match slot with
  | 0 => LEnt.ctxa e
  | 1 => LEnt.ctxb e
  | _ => LEnt.ctxr e

/-- The full number of the frame that 32 bits name, by their signed difference from the current frame (R418). -/
def Canvas.frameOf (c : Canvas) (f : BitVec 32) : Int := c.fcount + (f - BitVec.ofNat 32 c.fcount).toInt

/-- Saturating 16-bit counters (R427). -/
def sat16 (n : Nat) : Nat := min n 0xFFFF

/-- The panel of a core. -/
def panelOfCore (core : Nat) : Nat := core / 4

/-- The publication is recorded, replacing an earlier one (R419). -/
def Layer.record (l : Layer) (p : Pub) : Layer :=
  { l with
    pubs := (l.pubs.filter fun q => !(q.slot == p.slot && q.frame == p.frame)) ++ [p]
    panels := (l.panels.filter fun x => x.1 != p.slot) ++ [(p.slot, p.panel)] }

/-- When the launch of a team was accepted. -/
def State.launchedAt (s : State) (t : Team) : BitVec 64 := ((s.launches.find? (·.lid == t.lid)).map (·.since)).getD 0

/-- LPUB in one thread once its descriptor `v` has been read (R419); a member that waits keeps it. -/
def State.publish (s0 : State) (c : Cur) (l : Nat) (t : Team) (va : BitVec 64) (v : Nat) (pd : Nat) : State × Fate :=
  let d : PDesc := BitVec.ofNat 256 v
  let s := s0.putProbe c.tid c.grp l none
  let n := PDesc.canvas d
  let k := PDesc.layer d
  let fails (s1 : State) : State × Fate := (s1.predResult c l pd false, .next)
  match s.canvas? n, s.layer? n k with
  | some cv, some y =>
    let bad := fails (s.updLayer n k fun y => { y with badpub := sat16 (y.badpub + 1) })
    match cv.tim with
    | none => bad
    | some tm =>
      let e := y.current
      if !LEnt.valid tm e || PDesc.malformed d e || c.tid == 0 || LEnt.publisher e (PDesc.slot d) != t.ctx then bad
      else if !clsDominates (LEnt.cls e) t.cls then (s, .trap ⟨.classStore, 0, va⟩)
      else if !t.performed c.grp l then s.keepDesc c l { va := va, dia := 0, kind := 0, wait := .no, got := some v }
      else
        let f := cv.frameOf (PDesc.frame d)
        if !tm.en || (s.time.toNat : Int) ≥ LEnt.proofAt tm e f || f > cv.fcount + 3 then
          fails (s.updLayer n k fun y => { y with late := sat16 (y.late + 1) })
        else
          let p : Pub := ⟨PDesc.slot d, f.toNat, t.ctx, PDesc.buf d, PDesc.sigt d, PDesc.order d, panelOfCore t.core, s.launchedAt t⟩
          ((s.updLayer n k fun y => y.record p).predResult c l pd true, .next)
  | _, _ => fails { s with disp := { s.disp with badpubx := sat32 (s.disp.badpubx + 1) } }

/-- LPUB in one thread. -/
def lpubBody (a : Reg) (pd : Nat) (c : Cur) (_ : Entry) (s : State) (l : Nat) : Except Fate (State × Fate) :=
  match s.team? c.tid with
  | none => .error .stay
  | some t => do
    let v ← readClean (t.group c.grp) l a 2
    let va := BitVec.ofNat 64 v
    if v % 32 != 0 then .error (.trap ⟨.align, 0, va⟩)
    .ok (settle (do
      let (s1, x) ← s.descOnce c l va 32
      match consumeAll [⟨x.val, x.poison, x.pt, v⟩] with
      | .error f => .error (s1, f)
      | .ok _ => match s1.team? c.tid with
        | none => .error (s1, .stay)
        | some t1 => .ok (s1.publish c l t1 va x.val pd)))

/-- LPUB (R419). -/
def execLpub (gd : Guard) (a : Reg) (pd : BitVec 3) (s : State) : Result := issue s gd [(a, 2)] always (runS (lpubBody a pd.toNat))

/-! ## The proof comparator (R421, R423, R428) -/

/-- A relaxed read by the device through a context's stage A; none where stage A or stage B fails it (R420). -/
def State.deviceRead (s : State) (ctx : BitVec 32) (va n : Nat) : State × Option Rd :=
  match s.ctx? ctx with
  | none => (s, none)
  | some c =>
    if !c.usable then (s, none)
    else match s.placeFree c (BitVec.ofNat 64 va) (fun e => e.r) with
      | (s1, .at x) => let r := s1.homeReads x.key 0 2 x.dia n; (r.1, some r.2)
      | (s1, _) => (s1, none)

/-- A signature table as the comparator finds it: its SIG values, whether every entry is there, whether one carries poison. -/
structure SigTable where
  sigs : List Nat
  ok : Bool
  poison : Bool

/-- The comparator reads a table of `n` tiles for frame F (R423). -/
def State.readTable (s : State) (p : Pub) (n : Nat) : State × SigTable :=
  (List.range n).foldl (fun (r : State × SigTable) t =>
    match r.1.deviceRead p.ctx (p.sigt + 16 * t) 16 with
    | (s1, none) => (s1, { r.2 with sigs := r.2.sigs ++ [0], ok := false })
    | (s1, some x) =>
      let fits := x.val.testBit 127 && bitsOf x.val 111 96 == p.frame % 65536 && bitsOf x.val 79 64 == t
      (s1, ⟨r.2.sigs ++ [x.val % 2 ^ 64], r.2.ok && fits, r.2.poison || x.poison⟩)) (s, ⟨[], true, false⟩)

/-- The injection of PRFINJ into a slot's table (R428). -/
def Display.inject (d : Display) (l : Layer) (slot : Nat) (sigs : List Nat) : List Nat :=
  let v := d.prfinj.toNat
  if v.testBit 63 && bitsOf v 43 41 == l.canvas && bitsOf v 40 37 == l.num && bitsOf v 36 35 == slot then
    sigs.zipIdx.map fun x => if x.2 == bitsOf v 11 0 then x.1 ^^^ 2 ^ bitsOf v 29 24 else x.1
  else sigs

/-- A proof of the named layer uses up one of FRAMES (R428), though the named slot's table is not read (log 89). -/
def Display.spend (d : Display) (l : Layer) : Display :=
  let v := d.prfinj.toNat
  if v.testBit 63 && bitsOf v 43 41 == l.canvas && bitsOf v 40 37 == l.num && bitsOf v 55 48 != 0 then
    { d with injLeft := d.injLeft - 1, prfinj := if d.injLeft ≤ 1 then d.prfinj &&& ~~~(1#64 <<< 63) else d.prfinj }
  else d

/-- The publication of a slot for a frame. -/
def Layer.pub? (l : Layer) (slot f : Nat) : Option Pub := l.pubs.find? fun p => p.slot == slot && p.frame == f

/-- What a slot offers the comparator: the SIG values of its table, none where it is missing; and whether it carries poison. -/
def State.slotTable (s : State) (l : Layer) (slot f n : Nat) : State × Option (List Nat) × Bool :=
  match l.pub? slot f with
  | none => (s, none, false)
  | some p =>
    let r := s.readTable p n
    (r.1, if r.2.ok && !r.2.poison then some (s.disp.inject l slot r.2.sigs) else none, r.2.poison)

/-- R421: the rule on the two publications. -/
def ruleHolds (a b : Pub) : Bool :=
  a.panel / 6 != b.panel / 6 && a.order != b.order &&
    max a.atime.toNat b.atime.toNat - min a.atime.toNat b.atime.toNat ≥ 3000000

/-- The result of a proof (Table 3). -/
def Layer.proofResult (l : Layer) (f : Nat) (a b : Option (List Nat)) (poison : Bool) : Nat :=
  let broken := match l.pub? 0 f, l.pub? 1 f with
    | some p, some q => !ruleHolds p q
    | _, _ => false
  if broken then 3
  else if poison then 4
  else match a, b with
    | some x, some y => if x == y then 0 else 1
    | _, _ => 2

/-! ## The arbiter (R425) -/

/-- The panel of a slot: of its publication for the frame, else the one that last published the slot. -/
def Layer.slotPanel (l : Layer) (slot f : Nat) : Option Nat :=
  match l.pub? slot f with
  | some p => some p.panel
  | none => (l.panels.find? (·.1 == slot)).map (·.2)

/-- The outcome of an arbitration (ARB of Table 6), from the three tables and whether C's panel is A's or B's. -/
def majority (a b c : Option (List Nat)) (shared : Bool) : Nat :=
  if c.isNone || shared then 4
  else if a == c && b == c then 3
  else if a == c then 2
  else if b == c then 1
  else 4

/-- Arbitration at P(F + 1). -/
def State.arbitrate (s : State) (l : Layer) (f : Nat) (a b c : Option (List Nat)) : State :=
  let pa := l.slotPanel 0 f
  let pb := l.slotPanel 1 f
  let pc := (l.pub? 2 f).map (·.panel)
  let m := majority a b c (pc.isSome && (pc == pa || pc == pb))
  let s1 := s.updLayer l.canvas l.num fun x => { x with arb := m, arbFor := none }
  match m with
  | 1 => pa.elim s1 s1.namePanel
  | 2 => pb.elim s1 s1.namePanel
  | 4 => (pa.toList ++ pb.toList).foldl (fun st p => st.suspectPanel (l.canvas, l.num) p) s1
  | _ => s1

/-- The arbiter's launch is requested for a frame, or skipped. -/
def State.requestArbiter (s : State) (l : Layer) (e : LEnt) (f : Nat) : State :=
  let s1 := if LEnt.ctxr e == 0 then s else s.fixedLaunch (LEnt.ctxr e) (LEnt.ald e)
  if s1.nextLid == s.nextLid then s1.updLayer l.canvas l.num fun x => { x with arb := 5 }
  else s1.updLayer l.canvas l.num fun x => { x with arbFor := some f }

/-! ## Proof states (R424) -/

/-- A layer's result is counted and kept. -/
def Layer.note (l : Layer) (f r : Nat) : Layer :=
  { l with result := r, frame := BitVec.ofNat 32 f, fails := if r == 0 then l.fails else sat16 (l.fails + 1) }

/-- In STENCIL, a frame with this result shows the buffer. -/
def Layer.returns (l : Layer) (r : Nat) : Bool := l.hold == 0 && l.run ≥ 1 && r == 0

/-- The transition of Table 4, health and arbiter apart. -/
def Layer.transit (l : Layer) (f r : Nat) : Layer :=
  let x := l.note f r
  if !l.stencil then (if r == 0 then x else { x with stencil := true, hold := 30, run := 0 })
  else { x with
    run := if r == 0 then min 3 (l.run + 1) else 0
    stencil := !l.returns r
    hold := if l.returns r then l.hold else l.hold - 1 }

/-- A layer's frame has a result: its state moves, its panels may return, its arbiter may be asked (R424, R425). -/
def State.proofOutcome (s : State) (l : Layer) (e : LEnt) (f r : Nat) : State :=
  let s1 := s.updLayer l.canvas l.num fun x => x.transit f r
  if l.stencil then (if l.returns r then s1.clearSuspects (l.canvas, l.num) else s1)
  else if r == 0 || r == 3 then s1
  else s1.requestArbiter l e (f + 1)

/-- The proof of frame F of a safety layer (R423-R425). -/
def State.proveLayer (s : State) (l : Layer) (e : LEnt) (f : Nat) : State :=
  let n := LEnt.tiles e
  let (s1, a, pza) := s.slotTable l 0 f n
  let (s2, b, pzb) := s1.slotTable l 1 f n
  let (s3, c) : State × Option (List Nat) :=
    if l.arbFor == some f then (fun x => (x.1, x.2.1)) (s2.slotTable l 2 f n) else (s2, none)
  let r := l.proofResult f a b (pza || pzb)
  let shows := if l.stencil then l.returns r else r == 0
  let s4 : State := { s3 with disp := s3.disp.spend l }
  let s5 := if l.arbFor == some f then s4.arbitrate l f a b c else s4
  (s5.updLayer l.canvas l.num fun x => { x with decided := x.decided ++ [(f, shows)] }).proofOutcome l e f r

/-- PROOF_INSTANT (R415, R418, R423): P(F) of the layer's next frame, where a change whose E(F) it is takes effect; a change to an entry
without a proof instant of its own takes effect at that of the entry before it. -/
def execProofInstant (n k : Nat) (s : State) : Result :=
  .next (match s.canvas? n, s.layer? n k with
    | some c, some l => match c.tim with
      | none => s
      | some t =>
        let f := l.proofNext
        let takes := l.takes t f
        let e := if takes then l.regs else l.ent f
        let due := LEnt.proofAt t e f
        let gone := (c.next.map fun x => decide ((x.fs0.toNat : Int) ≤ max due (t.fs f))).getD false
        if f > c.fcount + 1 || gone then s
        else if takes && l.boundary t f != t.fs f && !LEnt.valid t l.regs then
          if (s.time.toNat : Int) < l.boundary t f then s else s.updLayer n k fun _ => l.take f
        else if (s.time.toNat : Int) < due || (takes && l.boundary t f == t.fs f) then s
        else
          let l1 := if takes then l.take f else l
          let l2 := { l1 with proofNext := f + 1 }
          let s1 := s.updLayer n k fun _ => l2
          if t.en && LEnt.valid t e && LEnt.safety e then s1.proveLayer l2 e f else s1
    | _, _ => s)

/-- Clear the reserved bits of a register (R10). -/
def maskReg (v : BitVec 64) (mask : Nat) : BitVec 64 := v &&& ~~~(BitVec.ofNat 64 mask)

/-- PRFINJ is written (R428, R10). -/
def State.writePrfinj (s : State) (v : BitVec 64) : State :=
  { s with disp := { s.disp with
      prfinj := maskReg v 0x7F00F007C0FFF000
      injLeft := bitsOf v.toNat 55 48 } }

/-- PRFINJ_WRITE (R428). -/
def execPrfinjWrite (v : BitVec 64) (s : State) : Result := .next (s.writePrfinj v)

/-- A dword of a layer entry is written (R415). -/
def State.writeLayer (s : State) (n k dw : Nat) (v : BitVec 64) : State :=
  if dw ≥ 8 then s
  else s.updLayer n k fun l => { l with regs := putDword l.regs dw v, changed := some s.time }

/-- LAYER_ENTRY_WRITE (R415). -/
def execLayerEntryWrite (n k dw : Nat) (v : BitVec 64) (s : State) : Result := .next (s.writeLayer n k dw v)

/-! ## The tell-tale state word (R431) -/

/-- How long a state word is current, in ns. -/
def wordNs : Nat := 100000000

/-- The state word, while one is current. -/
def State.stateWord (s : State) : Option (BitVec 32) :=
  match s.disp.tell.word with
  | some (w, at_) => if s.time.toNat < at_.toNat + wordNs then some w else none
  | none => none

/-- Bytes `lo` up to `hi` of a message, as a number. -/
def msgN (m : List (BitVec 8)) (lo hi : Nat) : Nat := ofBytes ((m.drop lo).take (hi - lo))

/-- The compositor accepts a state word. -/
def TellTale.accepts (t : TellTale) (m : List (BitVec 8)) : Bool :=
  m.length == 16 && BitVec.ofNat 32 (msgN m 12 16) == crc32c (m.take 12) && msgN m 8 12 == 0 &&
  match t.seq with
  | none => true
  | some q => let d := (BitVec.ofNat 32 (msgN m 0 4) - q).toNat; 1 ≤ d && d < 2 ^ 31

/-- TELL_TALE_STATE_WORD (R431, R498). -/
def execTellTaleStateWord (msg : List (BitVec 8)) (s : State) : Result :=
  .next (if s.disp.tell.accepts msg then
    { s with disp := { s.disp with
        tell := ⟨some (BitVec.ofNat 32 (msgN msg 0 4)), some (BitVec.ofNat 32 (msgN msg 4 8), s.time)⟩ } }
    else { s with wordRej := sat32 (s.wordRej + 1) })

/-- STATE_WORD_EXPIRY (R431). -/
def execStateWordExpiry (s : State) : Result :=
  .next (if s.disp.tell.word.isSome && s.stateWord.isNone then
    { s with disp := { s.disp with tell := { s.disp.tell with word := none } } }
  else s)

end Sys2Proof.Machine
end

