-- ==== Sys2Proof/Machine/Warp.lean ====
section
/-! DEFINITION. Scan-out, the stencil and the warp stage (R417, R420, R429, R430, R433-R438): PLATCH; the rows SCAN_OUT_LINE,
WARP_CONFIGURATION_WRITE, WARP_LATCH, ATTITUDE_MESSAGE. -/

namespace Sys2Proof.Machine

/-! ## The stencil (R429, R430) -/

/-- Bytes of the record of a stencil image (R429): its header in 8, 16 palette words in 64, then the indices. -/
def stencilBytes (img : List (BitVec 8)) (i ofs n : Nat) : Nat := ofBytes ((img.drop (Config.stencilAt img i + ofs)).take n)

/-- The header of a stencil image (Table 8). -/
def stencilHead (img : List (BitVec 8)) (i : Nat) : BitVec 64 := BitVec.ofNat 64 (stencilBytes img i 0 8)

/-- A palette word of a stencil image. -/
def stencilPalette (img : List (BitVec 8)) (i k : Nat) : BitVec 32 := BitVec.ofNat 32 (stencilBytes img i (8 + 4 * k) 4)

/-- The byte of a stencil image that holds the indices of pixels 2 * b and 2 * b + 1 of a row; `w` pixels to a row, which is padded to a whole
byte. -/
def stencilIndex (img : List (BitVec 8)) (i w row b : Nat) : Nat := stencilBytes img i (72 + row * ((w + 1) / 2) + b) 1

/-- A stencil image is on (R431). -/
def State.imageOn (s : State) (i : Nat) : Bool :=
  match s.stateWord with
  | some w => w.getLsbD i
  | none => (stencilHead s.disp.stencils i).getLsbD 36

/-- The pixel that an image draws at a place of the layer, if it draws one. -/
def stencilDraw (img : List (BitVec 8)) (i x y : Nat) : Option (BitVec 32) :=
  let h := (stencilHead img i).toNat
  let x0 := bitsOf h 15 0
  let y0 := bitsOf h 31 16
  let w := bitsOf h 55 48 + 1
  if x < x0 || y < y0 || x ≥ x0 + w || y > y0 + bitsOf h 47 40 then none
  else
    let b := stencilIndex img i w (y - y0) ((x - x0) / 2)
    let k := if (x - x0) % 2 == 0 then b % 16 else b / 16
    if k == 0 then none else some (stencilPalette img i k)

/-- A row of a layer's stencil: whether an image is on is tested as the line is scanned (log 89). -/
def State.stencilRow (s : State) (e : LEnt) (y : Nat) : List (BitVec 32) :=
  let images := (List.range 32).filter fun i => (LEnt.stset e).getLsbD i && s.imageOn i
  (List.range (LEnt.w e)).map fun x => images.foldl (fun p i => (stencilDraw s.disp.stencils i x y).getD p) (LEnt.bg e)

/-! ## Composition (R417, R420) -/

/-- A layer word over a canvas word. -/
def blendWord (s d : BitVec 32) : BitVec 32 :=
  let a := bitsOf s.toNat 31 24
  let ch (k : Nat) : Nat := (bitsOf s.toNat (8 * k + 7) (8 * k) * a + bitsOf d.toNat (8 * k + 7) (8 * k) * (255 - a) + 127) / 255
  BitVec.ofNat 32 (ch 0 + 2 ^ 8 * ch 1 + 2 ^ 16 * ch 2 + 2 ^ 24 * 255)

/-- A row of a layer over a row of the canvas, from column `x0` on. -/
def layRow (row : List (BitVec 32)) (x0 : Nat) (px : List (BitVec 32)) : List (BitVec 32) :=
  row.take x0 ++ List.zipWith blendWord px (row.drop x0) ++ row.drop (x0 + px.length)

/-- A row of a published buffer, a sector at a time; a pixel whose read fails or is poisoned is none (R420). -/
def State.readRow (s : State) (ctx : BitVec 32) (va w : Nat) : State × List (Option (BitVec 32)) :=
  (List.range ((w + 15) / 16)).foldl (fun (r : State × List (Option (BitVec 32))) k =>
    let n := min 16 (w - 16 * k)
    match r.1.deviceRead ctx (va + 64 * k) (4 * n) with
    | (s1, some x) =>
      (s1, r.2 ++ if x.poison then List.replicate n none else (List.range n).map fun j => some (BitVec.ofNat 32 (x.val / 2 ^ (32 * j))))
    | (s1, none) => (s1, r.2 ++ List.replicate n none)) (s, [])

/-- The buffer that a layer shows in frame F, if it shows one: a safety layer its proved slot-0 buffer, another layer the
latest slot-0 publication since its entry came into force. -/
def Layer.shown (l : Layer) (f : Nat) : Option Pub :=
  let g := l.entFrom f
  let ps := l.pubs.filter fun p => p.slot == 0 && g.1 ≤ p.frame && p.frame ≤ f
  if LEnt.safety g.2 then (if l.decided.contains (f, true) then ps.find? (·.frame == f) else none)
  else ps.foldl (fun b p => match b with
    | some q => if q.frame ≤ p.frame then some p else b
    | none => some p) none

/-- A row of a layer in the frame being scanned out: its column and its pixels, none where it is transparent. A failing read in
a safety layer is a SCAN result (R420, R424). -/
def State.layerRow (s : State) (c : Canvas) (t : Timing) (l : Layer) (y : Nat) : State × Option (Nat × List (BitVec 32)) :=
  let f := c.fcount
  let e := l.ent f
  if !LEnt.valid t e || y < LEnt.y e || y ≥ LEnt.y e + LEnt.h e || (c.blank && !LEnt.safety e) then (s, none)
  else
    let r := y - LEnt.y e
    let stencil := (s.stencilRow e r)
    let dark := LEnt.safety e && (l.scanFrom.map fun k => decide (k ≤ y)).getD false
    match (if dark then none else l.shown f) with
    | none => (s, if LEnt.safety e then some (LEnt.x e, stencil) else none)
    | some p =>
      let (s1, px) := s.readRow p.ctx (p.buf + r * LEnt.pitch e) (LEnt.w e)
      if !LEnt.safety e then (s1, some (LEnt.x e, px.map fun x => x.getD 0))
      else if px.all Option.isSome then (s1, some (LEnt.x e, px.map fun x => x.getD 0))
      else if l.scanFrom.isSome then (s1, some (LEnt.x e, stencil))
      else
        let s2 := s1.updLayer l.canvas l.num fun x => { x with scanFrom := some y }
        (s2.proofOutcome l e f 5, some (LEnt.x e, stencil))

/-- Composition order (R417). -/
def Layer.below (f : Nat) (a b : Layer) : Bool :=
  LEnt.z (a.ent f) < LEnt.z (b.ent f) || (LEnt.z (a.ent f) == LEnt.z (b.ent f) && a.num ≤ b.num)

/-- A line of the canvas, composed. -/
def State.composeLine (s : State) (c : Canvas) (t : Timing) (y : Nat) : State × List (BitVec 32) :=
  let ls := (s.disp.layers.filter fun l => l.canvas == c.num).mergeSort (Layer.below c.fcount)
  (ls.map (·.num)).foldl (fun (r : State × List (BitVec 32)) k =>
    match r.1.layer? c.num k with
    | none => r
    | some l => match r.1.layerRow c t l y with
      | (s1, some (x0, px)) => (s1, layRow r.2 x0 px)
      | (s1, none) => (s1, r.2)) (s, List.replicate (t.hact + 1) 0xFF000000#32)

/-! ## The warp (R433, R434, R436) -/

/-- Clamp to INT32. -/
def sat32s (x : Int) : Int := min (max x (-2147483648)) 2147483647

/-- A latched value of a slot. -/
def Warp.val (w : Warp) (slot k : Nat) : Int :=
  (((w.slots[slot]?).map fun p => (p.vals.getD k 0).toInt)).getD 0

/-- The four differences of R436. -/
def Warp.diffs (w : Warp) : List Int :=
  [sat32s (w.val 0 0 - w.val 3 0), sat32s (w.val 0 1 - w.val 3 1), sat32s (w.val 1 0 - w.val 3 2), sat32s (w.val 1 1 - w.val 3 3)]

/-- A coordinate of a mesh point after the shifts, for axis `a`. -/
def Warp.point (w : Warp) (i j a : Nat) : Int :=
  let word (k : Nat) : Int := (w.mesh.getD (10 * (64 * j + i) + k) 0).toInt
  let sum := (w.diffs.zipIdx.map fun d => word (2 + 4 * a + d.2) * d.1 / 65536).sum
  sat32s (word a + sum + w.val 2 a)

/-- x · 63 · 65536 div (W − 1); with one column or row the spec states no quotient (log 29). -/
def meshCoord (fresh x n d : Nat) : Nat := if d == 0 then Config.pick fresh 300 else x * n * 65536 / d

/-- The source position of an output pixel. -/
def Warp.source (w : Warp) (fresh width height x y : Nat) : Int × Int :=
  let u := meshCoord fresh x 63 (width - 1)
  let v := meshCoord (fresh + 1) y 31 (height - 1)
  let i := min (u / 65536) 62
  let j := min (v / 65536) 30
  let fu : Int := u - 65536 * i
  let fv : Int := v - 65536 * j
  let axis (a : Nat) : Int :=
    let top := (w.point i j a * (65536 - fu) + w.point (i + 1) j a * fu) / 65536
    let bot := (w.point i (j + 1) a * (65536 - fu) + w.point (i + 1) (j + 1) a * fu) / 65536
    (top * (65536 - fv) + bot * fv) / 65536 - 32768
  (axis 0, axis 1)

/-- A texel of the composed canvas, from its rows; 0 outside. -/
def texelOf (rows : List (Int × List (BitVec 32))) (i j : Int) : BitVec 32 :=
  match rows.find? (·.1 == j) with
  | some r => if i < 0 then 0 else r.2.getD i.toNat 0
  | none => 0

/-- The pixel at a source position. -/
def warpPixel (rows : List (Int × List (BitVec 32))) (sx sy : Int) : BitVec 32 :=
  let i := sx / 65536
  let j := sy / 65536
  let fa := (sx % 65536).toNat / 256
  let fb := (sy % 65536).toNat / 256
  let ts := [((256 - fa) * (256 - fb), texelOf rows i j), (fa * (256 - fb), texelOf rows (i + 1) j),
    ((256 - fa) * fb, texelOf rows i (j + 1)), (fa * fb, texelOf rows (i + 1) (j + 1))]
  let ch (k : Nat) : Nat := ((ts.map fun p => p.1 * bitsOf p.2.toNat (8 * k + 7) (8 * k)).sum + 32768) / 65536
  BitVec.ofNat 32 (ch 0 + 2 ^ 8 * ch 1 + 2 ^ 16 * ch 2 + 2 ^ 24 * ch 3)

/-- The stage as the frame being scanned out was latched for (R435). -/
def Warp.scanned (w : Warp) : Warp := { w with cfg := w.scanCfg, mesh := w.scanMesh, slots := w.scanSlots }

/-- A line of the glass of a warped canvas. -/
def State.warpLine (s0 : State) (c : Canvas) (t : Timing) (y : Nat) : State × List (BitVec 32) :=
  let s : State := { s0 with fresh := s0.fresh + 2 }
  let w := s.disp.warp.scanned
  let at_ := (List.range (t.hact + 1)).map fun x => w.source s0.fresh (t.hact + 1) (t.vact + 1) x y
  let need : List Int := (at_.flatMap fun p => [p.2 / 65536, p.2 / 65536 + 1]).eraseDups.filter fun j => 0 ≤ j && j ≤ (t.vact : Int)
  let (s1, rows) := (need.mergeSort fun a b => a ≤ b).foldl (fun (r : State × List (Int × List (BitVec 32))) j =>
    let q := r.1.composeLine c t j.toNat
    (q.1, r.2 ++ [(j, q.2)])) (s, [])
  (s1, at_.map fun p => warpPixel rows p.1 p.2)

/-- The warp stage acts on the frame that a canvas scans out. -/
def Warp.serves (w : Warp) (n : Nat) : Bool := regBits w.scanCfg 0 63 63 == 1 && regBits w.scanCfg 0 58 56 == n

/-- The proof of a safety layer that a line may show is still to come. -/
def State.proofDue (s : State) (c : Canvas) (t : Timing) (line : Nat) : Bool :=
  s.disp.layers.any fun l =>
    let e := l.ent c.fcount
    l.canvas == c.num && LEnt.valid t e && LEnt.safety e && l.proofNext ≤ c.fcount &&
      (s.disp.warp.serves c.num || (LEnt.y e ≤ line && line < LEnt.y e + LEnt.h e))

/-- SCAN_OUT_LINE (R417, R420, R430, R436): the next line of the frame in progress, once its time has come. -/
def execScanOutLine (n line : Nat) (s : State) : Result :=
  .next (match s.canvas? n with
    | none => s
    | some c => match c.tim with
      | none => s
      | some t =>
        let at_ := t.lineAt c.fcount line
        let cut := (c.next.map fun x => decide (x.fs0.toNat ≤ at_)).getD false
        if !t.en || line != c.line || line > t.vact || s.time.toNat < at_ || cut || s.proofDue c t line then s
        else
          let r := if s.disp.warp.serves n then s.warpLine c t line else s.composeLine c t line
          r.1.updCanvas n fun x => { x with glass := r.2, line := line + 1 })

/-! ## The configuration and the latch (R433, R435) -/

/-- Reserved bits of the warp configuration (Table 10). -/
def warpReserved (dw : Nat) : Nat :=
  if dw == 0 then 0x7800FFFF00000000
  else if dw == 1 then 0xFF00000000000000
  else if dw == 10 then 0xFFFFFFFF
  else if dw % 2 == 0 then 0xFFFFFFFF00000000
  else 0xFF00000000000000

/-- A dword of the warp configuration is written (R433, R10); a stage that is off latches first at a TL(F) from then on. -/
def State.writeWarp (s : State) (dw : Nat) (v : BitVec 64) : State :=
  if dw > 10 then s
  else { s with disp := { s.disp with warp := { s.disp.warp with
      regs := putDword s.disp.warp.regs dw (maskReg v (warpReserved dw)), rewritten := true
      since := if regBits s.disp.warp.cfg 0 63 63 == 1 then s.disp.warp.since else s.time.toNat } } }

/-- WARP_CONFIGURATION_WRITE (R433). -/
def execWarpConfigurationWrite (dw : Nat) (v : BitVec 64) (s : State) : Result := .next (s.writeWarp dw v)

/-- The mesh is copied; a copy that fails a read is none (R433). -/
def State.readMesh (s : State) (ctx : BitVec 32) (va : Nat) : State × Option (List (BitVec 32)) :=
  (List.range 1280).foldl (fun (r : State × Option (List (BitVec 32))) k =>
    match r.1.deviceRead ctx (va + 64 * k) 64 with
    | (s1, some x) =>
      (s1, if x.poison then none else r.2.map fun ws => ws ++ (List.range 16).map fun j => BitVec.ofNat 32 (x.val / 2 ^ (32 * j)))
    | (s1, none) => (s1, none)) (s, some [])

/-- An entry of a pose slot at the latch, if it is usable: its TIME and values (R434, R435). -/
def usableEntry (tl : Nat) (x : Option Rd) : Option (Nat × List (BitVec 32)) :=
  match x with
  | none => none
  | some r =>
    let time := r.val % 2 ^ 64
    if r.poison || time == 0 || time > tl then none
    else some (time, (List.range 4).map fun k => BitVec.ofNat 32 (r.val / 2 ^ (64 + 32 * k)))

/-- The class of the range through which a virtual address is read. -/
def State.classAt (s : State) (ctx : BitVec 32) (va : Nat) : Option (BitVec 8) :=
  match s.ctx? ctx with
  | none => none
  | some c => match s.translateFor none c (BitVec.ofNat 64 va) (fun e => e.r) with
    | (_, .ok x) => some x.cls
    | _ => none

/-- A slot as it is latched at TL, with its age if an entry is usable (R435). -/
def PoseSlot.latch (p : PoseSlot) (tl slot : Nat) (cls : Option (BitVec 8)) (a b : Option (Nat × List (BitVec 32))) :
    PoseSlot × Option Nat :=
  let best := match a, b with
    | some x, some y => if x.1 ≥ y.1 then some x else some y
    | some x, none => some x
    | none, y => y
  let age := best.map fun x => tl - x.1
  let stale := slot < 2 && (match age with
    | some g => g > 20000000
    | none => true)
  let keep (vs : List (BitVec 32)) : List (BitVec 32) := if slot == 3 then vs else vs.take 2 ++ [0, 0]
  let q : PoseSlot := { p with cls := cls.getD p.cls, stale := stale, found := p.found || best.isSome }
  (match best with
    | some x => if stale then { q with time := 0 } else { q with vals := keep x.2, time := BitVec.ofNat 64 x.1 }
    | none => { q with time := 0 }, age)

/-- The address of a slot's two entries in a configuration, with the context that translates it. -/
def slotPlace (cfg : List (BitVec 64)) (slot : Nat) : BitVec 32 × Nat :=
  (BitVec.ofNat 32 (regBits cfg (2 + 2 * slot) 31 0), regBits cfg (3 + 2 * slot) 55 0)

/-- A slot is read and latched; whether it is stale, and whether it blanks the canvas. -/
def State.latchSlot (s : State) (tl slot : Nat) : State × Bool × Bool :=
  let (ctx, va) := slotPlace s.disp.warp.cfg slot
  let (s1, x) := s.deviceRead ctx va 32
  let (s2, y) := s1.deviceRead ctx (va + 32) 32
  let cls := s2.classAt ctx va
  let p := (s2.disp.warp.slots[slot]?).getD ⟨[0, 0, 0, 0], 0, 0, false, false⟩
  let (q, age) := p.latch tl slot cls (usableEntry tl x) (usableEntry tl y)
  let old := match age with
    | some g => g > 100000000
    | none => true
  ({ s2 with disp := { s2.disp with warp := { s2.disp.warp with slots := s2.disp.warp.slots.set slot q } } },
   q.stale, slot < 2 && old)

/-- The stage latches for the frame that starts at `fs`, at TL (R433, R435). -/
def State.latchWarp (s : State) (fs tl : Nat) : State :=
  let setWarp (s : State) (f : Warp → Warp) : State := { s with disp := { s.disp with warp := f s.disp.warp } }
  let s1 := setWarp s fun w => { w with cfg := w.regs, since := tl + 1 }
  let cfg := s1.disp.warp.cfg
  if regBits cfg 0 63 63 == 0 then s1
  else
    let mseq := BitVec.ofNat 32 (regBits cfg 10 63 32)
    let s2 :=
      if mseq == s1.disp.warp.meshSeq then s1
      else match s1.readMesh (BitVec.ofNat 32 (regBits cfg 0 31 0)) (regBits cfg 1 55 0) with
        | (s2, some m) => setWarp s2 fun w => { w with mesh := m, meshSeq := mseq }
        | (s2, none) => setWarp s2 fun w => { w with meshSeq := mseq }
    let (s3, stale, blank) := (List.range 4).foldl (fun (r : State × Bool × Bool) k =>
      let q := r.1.latchSlot tl k
      (q.1, r.2.1 || q.2.1, r.2.2 || q.2.2)) (s2, false, false)
    setWarp s3 fun w => { w with
      lseq := if w.rewritten then 1 else w.lseq + 1
      rewritten := false, latched := true, blank := blank
      latches := w.latches ++ [⟨BitVec.ofNat 64 fs, w.cfg, w.mesh, w.slots, blank⟩]
      stales := if stale then sat32 (w.stales + 1) else w.stales }

/-- WARP_LATCH (R435): TL(F) of the next frame of the stage's canvas has come. -/
def execWarpLatch (s : State) : Result :=
  .next (match s.nextLatch with
    | some (fs, tl) => if tl ≤ s.time.toNat then s.latchWarp fs tl else s
    | none => s)

/-! ## PLATCH (R438) -/

/-- What PLATCH reads of the last latch: the four words and the predicate. -/
def Warp.snapshot (w : Warp) (slot : Nat) (md : Bool) : List (BitVec 32) × Bool :=
  if regBits w.cfg 0 63 63 == 0 || !w.latched then ([0, 0, 0, 0], false)
  else match w.slots[slot]? with
    | none => ([0, 0, 0, 0], false)
    | some p =>
      if !md then (p.vals, true)
      else
        let flags := (if p.stale then 1 else 0) + (if w.blank then 2 else 0) + if p.found then 0 else 4
        ([BitVec.ofNat 32 p.time.toNat, BitVec.ofNat 32 (p.time.toNat / 2 ^ 32), BitVec.ofNat 32 w.lseq, BitVec.ofNat 32 flags], true)

/-- PLATCH in one thread. -/
def platchBody (d : Reg) (md : Bool) (slot pd : Nat) (c : Cur) (_ : Entry) (s : State) (l : Nat) : Except Fate (State × Fate) := do
  let dst ← dstReady (s.grp c) l d 4
  let r := s.disp.warp.snapshot slot md
  let cls := ((s.disp.warp.slots[slot]?).map (·.cls)).getD 0
  let s1 := if r.2 then s.raiseMark c.tid cls else s
  .ok (s1.result c l dst 4 (ofWords (r.1.map (·.toNat))) pd r.2, .next)

/-- PLATCH (R438). -/
def execPlatch (gd : Guard) (d : Reg) (md : BitVec 1) (slot : BitVec 2) (pd : BitVec 3) (s : State) : Result :=
  issue s gd [] always (runS (platchBody d (md == 1) slot.toNat pd.toNat))

/-! ## The vehicle attitude (R434, R486) -/

/-- The attitude unit writes the entry with the smaller TIME, where it can be written (R434). -/
def State.writeAttitude (s : State) (m : List (BitVec 8)) : State :=
  let (ctx, va) := slotPlace s.disp.warp.cfg 0
  match s.ctx? ctx with
  | none => s
  | some c =>
    let (s1, x) := s.deviceRead ctx va 8
    let (s2, y) := s1.deviceRead ctx (va + 32) 8
    match x, y with
    | some a, some b =>
      let at_ := if b.val < a.val then va + 32 else va
      if !c.usable then s2
      else match s2.placeFree c (BitVec.ofNat 64 at_) (fun e => e.w) with
        | (s3, .at z) => s3.deviceWrite ⟨c.id, z.dia, 32, msgN m 0 16, z.key⟩
        | (s3, _) => s3
    | _, _ => s2

/-- ATTITUDE_MESSAGE (R434, R486, R498). -/
def execAttitudeMessage (msg : List (BitVec 8)) (s : State) : Result :=
  .next (if msg.length != 20 || BitVec.ofNat 32 (msgN msg 16 20) != crc32c (msg.take 16) || msgN msg 0 8 > s.time.toNat then
    { s with attRej := sat32 (s.attRej + 1) }
  else s.writeAttitude msg)

end Sys2Proof.Machine
end

