-- ==== Sys2Proof/Machine/Boot.lean ====
section
/-! DEFINITION. Firmware images and the network (R486, R491-R496, R500, R361): the staging rows, DEBUG_PERMIT,
FIRMWARE_HEALTHY_REPORT, BOOT_FALLBACK, DEVICE_RESET, POWER_LOSS, GPTP_MESSAGE, SPDM_MESSAGE, UNADMITTED_FRAME, PORT_LINK_CHANGE. -/

namespace Sys2Proof.Machine

/-! ## Images (R491, R492) -/

/-- Bytes of an image. -/
abbrev Image := List (BitVec 8)

def Image.kind (b : Image) : Nat := msgN b 4 5
def Image.svn (b : Image) : Nat := msgN b 5 6
def Image.commit (b : Image) : Bool := (msgN b 6 7).testBit 0
def Image.version (b : Image) : Nat := msgN b 8 12
def Image.minors (b : Image) : Nat := msgN b 12 14
def Image.size (b : Image) : Nat := msgN b 16 20
def Image.body (b : Image) : List (BitVec 8) := b.drop 256

/-- A header and signature that are correct for a KIND (Table 4). -/
def Image.correct (b : Image) (kind : Nat) : Bool :=
  b.take 4 == [0x53#8, 0x57#8, 0x46#8, 0x57#8] && Image.kind b == kind && msgN b 6 7 < 2 && msgN b 7 8 == 1 &&
  (Image.minors b).testBit 0 && msgN b 14 16 == 0 && msgN b 20 32 == 0 && msgN b 176 256 == 0 &&
  ofBytes ((b.drop 32).take 48) == (sha384 (Image.body b)).toNat && Config.signed (b.take 80) ((b.drop 80).take 96)

def State.setFw (s : State) (f : Firmware → Firmware) : State := { s with fw := f s.fw }

def Nv.active (n : Nv) (kind : Nat) : Nat := if kind == 0 then n.active0 else n.active1

def Nv.setActive (n : Nv) (kind num : Nat) : Nv := if kind == 0 then { n with active0 := num } else { n with active1 := num }

/-- The image in a bank; none where the bank holds none. -/
def Nv.image? (n : Nv) (kind num : Nat) : Option Image :=
  (n.banks.find? fun b => b.kind == kind && b.num == num).map (·.bytes)

/-- The image in force of a KIND. -/
def Nv.current (n : Nv) (kind : Nat) : Option Image := n.image? kind (n.active kind)

/-- Nothing stands in a bank any more. -/
def Nv.clear (n : Nv) (kind num : Nat) : Nv := { n with banks := n.banks.filter fun b => !(b.kind == kind && b.num == num) }

/-- The most that a bank holds (R500). -/
def bankBytes : Nat := 2 ^ 24

/-! ## Permits (R494, R495) -/

/-- A permit in its form, with this magic, for this device; `any` admits DEVID 0. -/
def permitCorrect (p : List (BitVec 8)) (magic : List (BitVec 8)) (any : Bool) : Bool :=
  p.length == 128 && p.take 4 == magic && (msgN p 8 16 == Config.devid.toNat || (any && msgN p 8 16 == 0)) &&
  msgN p 17 32 == 0 && Config.signed (p.take 32) (p.drop 32)

/-- A rollback permit for a KIND. -/
def rollbackPermit (p : List (BitVec 8)) (kind : Nat) : Bool :=
  permitCorrect p [0x53#8, 0x57#8, 0x52#8, 0x50#8] true && msgN p 16 17 == kind

/-- DEBUG_PERMIT (R495). -/
def execDebugPermit (data : List (BitVec 8)) (s : State) : Result :=
  .next (if permitCorrect data [0x53#8, 0x57#8, 0x44#8, 0x50#8] false && msgN data 4 8 == 0 then s.setFw fun f => { f with debug := true }
  else s)

/-! ## Staging (R493, R500) -/

/-- STATUS of the last operation. -/
def State.stagingStatus (s : State) (code : Nat) : State :=
  s.setFw fun f => { f with mailbox := { f.mailbox with status := code } }

/-- The staging of a KIND that is open. -/
def State.staging? (s : State) (kind : Nat) : Option Staging := s.fw.stagings.find? (·.kind == kind)

def State.updStaging (s : State) (kind : Nat) (g : Staging → Staging) : State :=
  s.setFw fun f => { f with stagings := f.stagings.map fun x => if x.kind == kind then g x else x }

def State.dropStaging (s : State) (kind : Nat) : State :=
  s.setFw fun f => { f with stagings := f.stagings.filter (·.kind != kind) }

/-- The checks at end, as a STATUS (R492, R494, R500). -/
def Nv.judge (n : Nv) (x : Staging) : Nat :=
  let b : Image := x.bytes
  let permit := (x.permit.map fun p => rollbackPermit p x.kind && msgN p 4 8 == Image.version b).getD false
  if b.length < 256 || b.length != 256 + Image.size b || b.length > bankBytes then 6
  else if !Image.correct b x.kind then 2
  else if Image.svn b < n.svnf then 3
  else if (n.current x.kind).any fun a => Image.minors a &&& Image.minors b != Image.minors a then 4
  else if Image.version b < n.hiver && !permit then 5
  else 0

/-- begin: the inactive bank of a KIND is to be written anew. -/
def State.stageBegin (s : State) (kind : Nat) (seq : Option (BitVec 32)) : State :=
  if kind > 1 then s.stagingStatus 1
  else
    let s1 := (s.dropStaging kind).setFw fun f => { f with
      stagings := f.stagings ++ [⟨kind, [], none, seq⟩]
      nv := f.nv.clear kind (1 - f.nv.active kind) }
    s1.stagingStatus 0

/-- chunk: bytes at the end of what is staged. -/
def State.stageChunk (s : State) (kind ofs : Nat) (data : List (BitVec 8)) : State :=
  match s.staging? kind with
  | none => s.stagingStatus 1
  | some x =>
    if ofs != x.bytes.length then s.stagingStatus 1
    else (s.updStaging kind fun y => { y with bytes := y.bytes ++ data }).stagingStatus 0

/-- permit: a rollback permit is attached. -/
def State.stagePermit (s : State) (kind : Nat) (data : List (BitVec 8)) : State :=
  match s.staging? kind with
  | none => s.stagingStatus 1
  | some _ =>
    if !rollbackPermit data kind then s.stagingStatus 7
    else (s.updStaging kind fun y => { y with permit := some data }).stagingStatus 0

/-- end: the image is accepted into the inactive bank, or not. -/
def State.stageEnd (s : State) (kind : Nat) : State :=
  match s.staging? kind with
  | none => s.stagingStatus 1
  | some x =>
    let code := s.fw.nv.judge x
    let s1 := s.dropStaging kind
    let num := 1 - s1.fw.nv.active kind
    let s2 := if code != 0 then s1
      else s1.setFw fun f => { f with nv := { f.nv.clear kind num with banks := (f.nv.clear kind num).banks ++ [⟨kind, num, x.bytes, true⟩] } }
    s2.stagingStatus code

/-- abort. -/
def State.stageAbort (s : State) (kind : Nat) : State :=
  match s.staging? kind with
  | none => s.stagingStatus 1
  | some _ => (s.dropStaging kind).stagingStatus 0

/-- One of the five operations, by its code. -/
def State.stage (s : State) (op kind ofs : Nat) (data : List (BitVec 8)) (seq : Option (BitVec 32)) : State :=
  match op with
  | 0 => s.stageBegin kind seq
  | 1 => s.stageChunk kind ofs data
  | 2 => s.stageEnd kind
  | 3 => s.stageAbort kind
  | 4 => s.stagePermit kind data
  | _ => s.stagingStatus 1

/-- STAGING_BEGIN (R500): GO with OP begin. -/
def execStagingBegin (kind : Nat) (s : State) : Result := .next ((s.raiseEvent 8 0).stageBegin kind none)

/-- STAGING_CHUNK (R500): LEN is 1 to 4,096. -/
def execStagingChunk (kind ofs : Nat) (data : List (BitVec 8)) (s : State) : Result :=
  let s1 := s.raiseEvent 8 0
  .next (if data.isEmpty || data.length > 4096 then s1.stagingStatus 1 else s1.stageChunk kind ofs data)

/-- STAGING_PERMIT (R494, R500). -/
def execStagingPermit (kind : Nat) (data : List (BitVec 8)) (s : State) : Result := .next ((s.raiseEvent 8 0).stagePermit kind data)

/-- STAGING_END (R492, R500). -/
def execStagingEnd (kind : Nat) (s : State) : Result := .next ((s.raiseEvent 8 0).stageEnd kind)

/-- STAGING_ABORT (R500). -/
def execStagingAbort (kind : Nat) (s : State) : Result := .next ((s.raiseEvent 8 0).stageAbort kind)

/-! ## The ports (R486, R498) -/

/-- A port that has its link. -/
def State.portUp (s : State) (port : Nat) : Bool := s.ports.any fun p => p.num == port && p.up

/-- A frame is dropped at a port's filter. -/
def State.dropFrame (s : State) (port : Nat) : State :=
  { s with ports := s.ports.map fun p => if p.num == port then { p with drops := sat32 (p.drops + 1) } else p }

/-- A staging message of the right form (Table 11). -/
def stagingForm (m : List (BitVec 8)) : Bool :=
  let len := msgN m 6 8
  m.length == 20 + len && m.take 4 == [0x53#8, 0x57#8, 0x53#8, 0x54#8] &&
    BitVec.ofNat 32 (msgN m (16 + len) (20 + len)) == crc32c (m.take (16 + len))

/-- STAGING_MESSAGE (R500). -/
def execStagingMessage (port : Nat) (msg : List (BitVec 8)) (s : State) : Result :=
  let op := msgN msg 4 5
  let kind := msgN msg 5 6
  let seq := BitVec.ofNat 32 (msgN msg 12 16)
  let data := (msg.drop 16).take (msgN msg 6 8)
  .next (if !s.portUp port then s
    else if !stagingForm msg then s.dropFrame port
    else
      let s1 := s.raiseEvent 8 (port + 1)
      if op == 0 then s1.stageBegin kind (some seq)
      else match s1.staging? kind with
        | none => s1.stagingStatus 1
        | some x =>
          if x.seq.map (· + 1) != some seq then s1.stagingStatus 1
          else
            let s2 := s1.updStaging kind fun y => { y with seq := some seq }
            if op == 1 && data.length > 1024 then s2.stagingStatus 1 else s2.stage op kind (msgN msg 8 12) data (some seq))

/-- UNADMITTED_FRAME (R486): a frame that matches no admitted stream. -/
def execUnadmittedFrame (port : Nat) (s : State) : Result := .next (if s.portUp port then s.dropFrame port else s)

/-- PORT_LINK_CHANGE (R486). -/
def execPortLinkChange (port : Nat) (up : Bool) (s : State) : Result :=
  .next { s with ports := s.ports.map fun p => if p.num == port then { p with up := up } else p }

/-- The next multiple of a span after a time. -/
def nextMultiple (t : BitVec 64) (n : Nat) : BitVec 64 := BitVec.ofNat 64 ((t.toNat / n + 1) * n)

/-- What is left of the operation in which every sector is to be scrubbed (R459), in ns. -/
def State.scrubLeft (s : State) : Nat :=
  if s.fw.sleep.power == .asleep then s.scrubEnd.toNat else s.scrubEnd.toNat - s.time.toNat

/-- The machine's own periods begin anew at a device time (R383, R465, R475); the scrub goes on where it was, as it counts operation
(R459). -/
def State.realign (s : State) (left : Nat) : State :=
  { s with
    msNext := nextMultiple s.time 1000000
    secNext := nextMultiple s.time 1000000000
    windowEnd := nextMultiple s.time gateWindow
    admitEnd := nextMultiple s.time 1000
    scrubEnd := s.time + BitVec.ofNat 64 left }

/-- GPTP_MESSAGE (R361, R486): device time is set once before the first switch of the sitting table; a trim of its rate leaves no
other trace. -/
def execGptpMessage (port : Nat) (t : BitVec 64) (s : State) : Result :=
  .next (if !s.portUp port then s
    else
      let s1 := s.raiseEvent 12 port
      if s1.sits.begun || s1.fw.timeSet then s1
      else { s1 with time := t, fw := { s1.fw with timeSet := true } }.realign s1.scrubLeft)

/-! ## SPDM (R496) -/

/-- A measurement: a digest, or fields reported raw. -/
inductive Measurement where
  | digest (d : BitVec 384)
  | raw (fields : List Nat)
  deriving DecidableEq, Repr

/-- The digest of a bank's header and body; of no bytes where it holds no image. -/
def Nv.bankDigest (n : Nv) (kind num : Nat) : Measurement := .digest (sha384 ((n.image? kind num).getD []))

/-- The measurements of Table 5, each of one state of the machine. -/
def State.measurement (s : State) (k : Nat) : Option Measurement :=
  let n := s.fw.nv
  let field (f : Image → Nat) (kind : Nat) : Nat := ((n.current kind).map f).getD 0
  match k with
  | 1 | 2 => some (n.bankDigest 0 (k - 1))
  | 3 | 4 => some (n.bankDigest 1 (k - 3))
  | 5 => some (.raw [n.active0, field Image.svn 0, field Image.version 0, n.active1, field Image.svn 1, field Image.version 1, n.hiver])
  | 6 => some (.raw [1, field Image.minors 0])
  | 7 =>
    let blocks := s.reqs.flatMap fun r => bytesOf 8 r.dw0.toNat
    let owners := s.engines.map fun e => BitVec.ofNat 8 (e.part.getD 0xFF)
    some (.digest (sha384 (blocks ++ owners)))
  | 8 => some (.raw ([n.svnf, if s.fw.debug then 1 else 0] ++ Config.keyDigest.map (·.toNat)))
  | _ => none

/-- SPDM_MESSAGE (R496, R502): the firmware is told; what it answers changes no state (log 30). -/
def execSpdmMessage (mctp : Bool) (_msg : List (BitVec 8)) (s : State) : Result := .next (s.raiseEvent 13 (if mctp then 1 else 0))

/-! ## Boot (R491, R493, R502) -/

/-- Write bytes into a memory. -/
def Memory.writeBytes : Memory → Nat → List (BitVec 8) → Memory
  | m, _, [] => m
  | m, a, b :: bs => Memory.writeBytes (m.write a b) (a + 1) bs

/-- The boot ROM's choice of a KIND's bank at reset: a pending bank that verifies becomes active (R493). -/
def Nv.boot (n : Nv) (kind : Nat) : Nv :=
  match n.banks.find? fun b => b.kind == kind && b.pending with
  | none => n
  | some b =>
    let m : Nv := { n with banks := n.banks.map fun x => if x.kind == kind then { x with pending := false } else x }
    if Image.correct b.bytes kind && Image.svn b.bytes ≥ n.svnf then m.setActive kind b.num
    else { m with fallbacks := m.fallbacks + 1 }

/-- How long the booted firmware has to report healthy, in ns. -/
def healthyNs : Nat := 10000000000

/-- The controller starts on its active image, if it has one. -/
def State.startController (s : State) : State :=
  let s1 : State := { s with ctl := Team.controller, ctlMem := [], ctlImage := 0, fw := { s.fw with healthyBy := none } }
  match s.fw.nv.current 0 with
  | none => s1
  | some b =>
    { s1 with ctlMem := Memory.writeBytes [] 0 b, ctlImage := b.length, disp := { s1.disp with stencils := b }
              fw := { s1.fw with healthyBy := some (s.time + BitVec.ofNat 64 healthyNs) } }

/-- What outlives a reset: the model's own fields, device time, the non-volatile store, the lifetime record as the store last took it,
with the panels that are retired, and how far the scrub has come (R426, R459, R475, R478, R493). -/
def State.cold (s : State) : State :=
  let keep (x : Life) : Life := { Life.initial x.core with
    wacc := x.wacc, dbti := x.dbti, emacc := x.emacc, use := x.use, st := x.st, qret := x.qret, opsec := x.opsec }
  let z := State.reset
  State.realign { z with
    agenda := s.agenda, fresh := s.fresh, nextKey := s.nextKey, opSecs := s.opSecs, time := s.time
    life := s.lifeStore.map keep, lifeStore := s.lifeStore
    phealth := s.phealth.map fun p => { p with st := if p.st == .retired then .retired else .inService, passrun := 0, by_ := [], scrub := none }
    panels := z.panels.map fun p => { p with scrubAt := (s.panel p.num).scrubAt }
    fw := { z.fw with nv := s.fw.nv } } s.scrubLeft

/-- What LPDDR-6 holds once the home L2s have lost their dirty sectors. -/
def State.loseDirty (s : State) : State := ((s.dirty).map (·.idx)).foldl State.dropSector s

/-- DEVICE_RESET (R493): the boot ROM boots each KIND, and the boot event is pending. -/
def execDeviceReset (s : State) : Result :=
  let s1 := s.loseDirty
  let z : State := { s1.cold with mem := s1.mem, sectors := s1.sectors }
  .next (State.startController { z with fw := { z.fw with nv := (z.fw.nv.boot 0).boot 1 } })

/-- BOOT_FALLBACK (R493): the firmware has not reported healthy in time, and the other bank of a KIND is booted. -/
def execBootFallback (kind : Nat) (s : State) : Result :=
  .next (match s.fw.healthyBy with
    | none => s
    | some t =>
      let num := 1 - s.fw.nv.active kind
      if kind > 1 || s.time.toNat < t.toNat || (s.fw.nv.image? kind num).isNone then s
      else
        let s1 := s.setFw fun f => { f with nv := { f.nv.setActive kind num with fallbacks := f.nv.fallbacks + 1 } }
        s1.startController.raiseEvent 0 0)

/-- A healthy boot of an image with COMMIT raises the floors (R493). -/
def Nv.commit (n : Nv) (kind : Nat) : Nv :=
  match n.current kind with
  | none => n
  | some b => if Image.commit b then { n with hiver := max n.hiver (Image.version b), svnf := max n.svnf (Image.svn b) } else n

/-- FIRMWARE_HEALTHY_REPORT (R493). -/
def execFirmwareHealthyReport (s : State) : Result :=
  .next (if s.fw.healthyBy.isNone then s else s.setFw fun f => { f with healthyBy := none, nv := (f.nv.commit 0).commit 1 })

/-- POWER_LOSS (R493): everything volatile is lost, stagings among it. -/
def execPowerLoss (s : State) : Result :=
  let z := s.cold
  .next { z with fw := { z.fw with events := [], sleep := { z.fw.sleep with power := .off } } }

end Sys2Proof.Machine
end

