-- ==== Sys2Proof/Machine/Camera.lean ====
section
/-! DEFINITION. Camera receivers (R487, R499): FRAME_START_PACKET, CAMERA_LINE_PACKET, FRAME_END_PACKET, CAMERA_CONTROL_WRITE. -/

namespace Sys2Proof.Machine

/-! ## The control block (Table 8) -/

def Camera.en (c : Camera) : Bool := regBits c.regs 0 63 63 == 1
def Camera.nbuf (c : Camera) : Nat := regBits c.regs 0 61 58
def Camera.dt (c : Camera) : Nat := regBits c.regs 0 57 56
def Camera.key (c : Camera) : Nat := regBits c.regs 0 40 32
def Camera.height (c : Camera) : Nat := regBits c.regs 0 31 16 + 1
def Camera.width (c : Camera) : Nat := regBits c.regs 0 15 0 + 1
def Camera.pitch (c : Camera) : Nat := regBits c.regs 1 63 32
def Camera.stride (c : Camera) : Nat := 4096 * regBits c.regs 1 31 0
def Camera.bdia (c : Camera) : Nat := regBits c.regs 2 47 0
def Camera.hdia (c : Camera) : Nat := regBits c.regs 3 47 0

/-- Bytes of a pixel as stored. -/
def Camera.pixBytes (c : Camera) : Nat := if c.dt == 0 then 1 else 2

def State.camera? (s : State) (r : Nat) : Option Camera := s.cams.find? (·.num == r)

def State.updCamera (s : State) (r : Nat) (f : Camera → Camera) : State :=
  { s with cams := s.cams.map fun c => if c.num == r then f c else c }

/-- A write that sets EN is refused (R499). -/
def State.cameraBad (s : State) (c : Camera) : Bool :=
  regBits c.regs 0 55 41 != 0 || regBits c.regs 2 63 48 != 0 || regBits c.regs 3 63 48 != 0 || c.nbuf == 0 ||
  c.pitch % 256 != 0 || c.pitch < c.width * c.pixBytes || c.stride < c.pitch * c.height ||
  c.bdia % 4096 != 0 || c.hdia % 32 != 0 || (s.part? (bitsOf c.bdia 47 44)).isNone || (s.part? (bitsOf c.hdia 47 44)).isNone ||
  (s.keyOf c.key).isNone

/-- EN and ERR (RO) in a dword 0. -/
def enBit : BitVec 64 := 1#64 <<< 63

/-- A dword of a control block is written. -/
def State.writeCamera (s : State) (r dw : Nat) (v : BitVec 64) : State :=
  match s.camera? r with
  | none => s
  | some c =>
    if c.en then
      (if dw == 0 && v &&& enBit == 0 then s.updCamera r fun x => { x with regs := putDword x.regs 0 (x.regs.getD 0 0 &&& ~~~enBit), rx := none }
      else s)
    else if dw ≥ 4 then s
    else
      let w := if dw == 0 then v &&& ~~~(1#64 <<< 62) else v
      let x := { c with regs := putDword c.regs dw w }
      if dw != 0 || v &&& enBit == 0 then s.updCamera r fun _ => x
      else if s.cameraBad x then s.updCamera r fun _ => { x with regs := putDword x.regs 0 (w &&& ~~~enBit), err := true }
      else s.updCamera r fun _ => { x with err := false, drops := 0, next := 0, frames := 0, rx := none }

/-- CAMERA_CONTROL_WRITE (R499). -/
def execCameraControlWrite (r dw : Nat) (v : BitVec 64) (s : State) : Result := .next (s.writeCamera r dw v)

/-! ## Frames -/

/-- The key of the receiver's slot, while it is Ready. -/
def State.cameraKey (s : State) (c : Camera) : Option Nat := s.keyOf c.key

/-- A write of the receiver to one sector: discarded where the page is not valid or the slot not Ready. -/
def State.cameraWrite (s : State) (c : Camera) (dia n v : Nat) : State × Bool :=
  match s.cameraKey c with
  | none => (s, false)
  | some k => if pteValid (s.pte dia) then (s.homeWrite dia n v k 0 false none, true) else (s, false)

/-- FULL of a header as the receiver acquires it; where its page is not valid the spec states no value (log 31). -/
def State.headerFull (s0 : State) (c : Camera) : State × Bool :=
  let s : State := { s0 with fresh := s0.fresh + 1 }
  let dia := c.hdia + 32 * c.next
  match s.cameraKey c with
  | some k =>
    if pteValid (s.pte dia) then
      let r := s.homeReads k 0 1 dia 8
      (r.1, r.2.val.testBit 63)
    else (s, Config.pick s0.fresh 310 % 2 == 1)
  | none => (s, Config.pick s0.fresh 310 % 2 == 1)

/-- FRAME_START_PACKET (R499 steps 1 and 2). -/
def execFrameStartPacket (r : Nat) (s : State) : Result :=
  .next (match s.camera? r with
    | none => s
    | some c =>
      if !c.en then s
      else
        let (s1, full) := s.headerFull c
        if full then s1.updCamera r fun x => { x with drops := sat32 (x.drops + 1), frames := (x.frames + 1) % 2 ^ 32, rx := none }
        else s1.updCamera r fun x => { x with rx := some ⟨0, false, x.frames, s1.time⟩ })

/-- The bytes of a line as stored (R499). -/
def Camera.lineBytes (c : Camera) (pix : List (BitVec 16)) : List (BitVec 8) :=
  (pix.take c.width).flatMap fun p => match c.dt with
    | 0 => [p.setWidth 8]
    | 1 => bytesOf 2 (p.toNat % 2 ^ 10)
    | 2 => bytesOf 2 (p.toNat % 2 ^ 12)
    | _ => bytesOf 2 p.toNat

/-- The sectors of `n` bytes from a DIA: address, and bytes of them. -/
def sectorRuns : Nat → Nat → Nat → List (Nat × Nat)
  | 0, _, _ => []
  | fuel + 1, dia, n =>
    let k := min n (64 - dia % 64)
    if n == 0 then [] else (dia, k) :: sectorRuns fuel (dia + k) (n - k)

/-- A line is written into the buffer; whether a write was discarded. -/
def State.writeLine (s : State) (c : Camera) (dia : Nat) (bs : List (BitVec 8)) : State × Bool :=
  (sectorRuns (bs.length + 1) dia bs.length).foldl (fun (r : State × Bool) x =>
    let q := r.1.cameraWrite c x.1 x.2 (ofBytes ((bs.drop (x.1 - dia)).take x.2))
    (q.1, r.2 || !q.2)) (s, false)

/-- CAMERA_LINE_PACKET (R499): packets of another data type and lines beyond HEIGHT + 1 are discarded. -/
def execCameraLinePacket (r dt : Nat) (bad : Bool) (pix : List (BitVec 16)) (s : State) : Result :=
  .next (match s.camera? r with
    | none => s
    | some c => match c.rx with
      | none => s
      | some f =>
        if !c.en || dt != c.dt then s
        else if f.lines ≥ c.height then s.updCamera r fun x => { x with rx := some { f with errf := f.errf || bad } }
        else
          let (s1, lost) := s.writeLine c (c.bdia + c.stride * c.next + c.pitch * f.lines) (c.lineBytes pix)
          s1.updCamera r fun x => { x with rx := some { f with lines := f.lines + 1, errf := f.errf || bad || lost } })

/-- The header of a frame (Table 9), dword 0 lowest. -/
def CamFrame.header (f : CamFrame) (height : Nat) (tfe : BitVec 64) : Nat :=
  let d0 := 2 ^ 63 + (if f.errf then 2 ^ 62 else 0) + (if f.lines < height then 2 ^ 61 else 0) + f.fnum % 2 ^ 32
  d0 + 2 ^ 64 * f.tfs.toNat + 2 ^ 128 * tfe.toNat + 2 ^ 192 * (f.lines * 2 ^ 32)

/-- FRAME_END_PACKET (R499 steps 3 and 4). -/
def execFrameEndPacket (r : Nat) (s : State) : Result :=
  .next (match s.camera? r with
    | none => s
    | some c => match c.rx with
      | none => s
      | some f =>
        if !c.en then s
        else
          let s1 := (s.cameraWrite c (c.hdia + 32 * c.next) 32 (f.header c.height s.time)).1
          s1.updCamera r fun x => { x with next := (x.next + 1) % (x.nbuf + 1), frames := (x.frames + 1) % 2 ^ 32, rx := none })

end Sys2Proof.Machine
end

