-- ==== Sys2Proof/Machine/Integer.lean ====
section
/-! DEFINITION. Integer and address instructions of the lane pipeline (chapter 07, R170-R181). -/

namespace Sys2Proof.Machine

/-- The k-th operand as a signed value. -/
def opi (xs : List Opnd) (k : Nat) : Int := (opw xs k).toInt

/-- R170: fit an exact value to 32 bits under SAT. -/
def fitSat (sat : Nat) (x : Int) : Nat :=
  match sat with
  | 1 => (BitVec.ofInt 32 (satInt 8 x)).toNat
  | 2 => (BitVec.ofInt 32 (satInt 9 x)).toNat
  | _ => (BitVec.ofInt 32 x).toNat

/-- R170: operands are read as INT32 under `.sat` and as UINT32 otherwise. -/
def satOpnd (sat : Nat) (xs : List Opnd) (k : Nat) : Int := if sat == 1 then opi xs k else (opw xs k).toNat

/-- R171: the exact product under SGN: 0 both signed, 1 both unsigned, 2 a signed and b unsigned. -/
def sgnProduct (sgn : Nat) (xs : List Opnd) : Int :=
  let a : Int := if sgn == 1 then (opw xs 0).toNat else opi xs 0
  let b : Int := if sgn == 0 then opi xs 1 else (opw xs 1).toNat
  a * b

/-- An instruction of one, two or three 32-bit sources and a 32-bit result. -/
def int1 (s : State) (gd : Guard) (d a : Reg) (f : List Opnd → Nat) : Result :=
  alu s gd d 1 [(a, 1)] 7 fun xs => { val := f xs }

def int2 (s : State) (gd : Guard) (d a b : Reg) (f : List Opnd → Nat) : Result :=
  alu s gd d 1 [(a, 1), (b, 1)] 7 fun xs => { val := f xs }

def int3 (s : State) (gd : Guard) (d a b c : Reg) (f : List Opnd → Nat) : Result :=
  alu s gd d 1 [(a, 1), (b, 1), (c, 1)] 7 fun xs => { val := f xs }

/-- LOP3 (R177): bit j of the table for each bit position. -/
def lop3 (lut : BitVec 8) (a b c : BitVec 32) : BitVec 32 :=
  let pick (i : Nat) : Bool :=
    lut.getLsbD ((if a.getLsbD i then 4 else 0) + (if b.getLsbD i then 2 else 0) + (if c.getLsbD i then 1 else 0))
  maskOf ((List.range 32).filter pick)

/-- R178: the count of SHL, SHR and SAR. -/
def shiftCount (wrap : BitVec 1) (b : Nat) : Nat := if wrap == 1 then b % 32 else b

/-- SAR (R178). -/
def sarOf (a : BitVec 32) (n : Nat) : Nat :=
  if n ≥ 32 then (if a.toInt < 0 then 0xFFFFFFFF else 0) else (a.sshiftRight n).toNat

/-- Leading zeros (R179). -/
def clzOf (a : BitVec 32) : Nat := if a == 0 then 32 else 31 - a.toNat.log2

/-- Bit i moved to bit 31 - i (R179). -/
def brevOf (a : BitVec 32) : BitVec 32 := maskOf ((List.range 32).filter fun i => a.getLsbD (31 - i))

/-- The field register of R180: position and length. -/
def fieldPos (f : Nat) : Nat := f % 256

def fieldLen (f : Nat) : Nat := min (f / 256 % 256) 32

/-- BFE (R180). -/
def bfeOf (signed : Bool) (a : BitVec 32) (f : Nat) : Nat :=
  let len := fieldLen f
  if len == 0 then 0
  else
    let x : Int := if signed then a.toInt else a.toNat
    let fld := ((x / (2 ^ fieldPos f : Nat)) % (2 ^ len : Nat)).toNat
    if signed && fld ≥ 2 ^ (len - 1) then (BitVec.ofInt 32 ((fld : Int) - (2 ^ len : Nat))).toNat else fld

/-- BFI (R180): the bits of the field above bit 31 are dropped. -/
def bfiOf (a b : BitVec 32) (f : Nat) : Nat :=
  let m := BitVec.ofNat 32 ((2 ^ fieldLen f - 1) * 2 ^ fieldPos f)
  ((b &&& ~~~m) ||| (BitVec.ofNat 32 (a.toNat * 2 ^ fieldPos f) &&& m)).toNat

/-- The comparisons of ISETP (R168, R181). -/
def cmpInt (cmp : Nat) (a b : Int) : Bool :=
  match cmp with
  | 0 => a == b
  | 1 => a != b
  | 2 => a < b
  | 3 => a ≤ b
  | 4 => a > b
  | _ => a ≥ b

/-- IDP4 (R176): the byte products. -/
def idp4Sum (au bu : Bool) (a b : BitVec 32) : Int :=
  let byte (u : Bool) (x : BitVec 32) (k : Nat) : Int :=
    let v := x.extractLsb' (8 * k) 8
    if u then (v.toNat : Int) else v.toInt
  ((List.range 4).map fun k => byte au a k * byte bu b k).sum

/-- ISAT (R175). -/
def isatOf (u : BitVec 1) (ty : Nat) (a : BitVec 32) : Nat :=
  (BitVec.ofInt 32 (satInt ty (if u == 1 then (a.toNat : Int) else a.toInt))).toNat

/-- IADD (R170). -/
def execIadd (gd : Guard) (d a b : Reg) (sat : BitVec 2) (s : State) : Result :=
  int2 s gd d a b fun xs => fitSat sat.toNat (satOpnd sat.toNat xs 0 + satOpnd sat.toNat xs 1)

/-- ISUB (R170). -/
def execIsub (gd : Guard) (d a b : Reg) (sat : BitVec 2) (s : State) : Result :=
  int2 s gd d a b fun xs => fitSat sat.toNat (satOpnd sat.toNat xs 0 - satOpnd sat.toNat xs 1)

/-- IADD3 (R170). -/
def execIadd3 (gd : Guard) (d a b c : Reg) (sat : BitVec 2) (s : State) : Result :=
  int3 s gd d a b c fun xs =>
    fitSat sat.toNat (satOpnd sat.toNat xs 0 + satOpnd sat.toNat xs 1 + satOpnd sat.toNat xs 2)

/-- IMUL (R170). -/
def execImul (gd : Guard) (d a b : Reg) (sat : BitVec 2) (s : State) : Result :=
  issueMul s gd [(a, 1), (b, 1)] (int2 s gd d a b fun xs => fitSat sat.toNat (satOpnd sat.toNat xs 0 * satOpnd sat.toNat xs 1))

/-- IMULH (R171). -/
def execImulh (gd : Guard) (d a b : Reg) (sgn : BitVec 2) (s : State) : Result :=
  issueMul s gd [(a, 1), (b, 1)] (int2 s gd d a b fun xs => (BitVec.ofInt 64 (sgnProduct sgn.toNat xs)).toNat / 2 ^ 32)

/-- IMAD (R170). -/
def execImad (gd : Guard) (d a b c : Reg) (sat : BitVec 2) (s : State) : Result :=
  issueMul s gd [(a, 1), (b, 1), (c, 1)] (int3 s gd d a b c fun xs =>
    fitSat sat.toNat (satOpnd sat.toNat xs 0 * satOpnd sat.toNat xs 1 + satOpnd sat.toNat xs 2))

/-- IMIN (R172). -/
def execImin (gd : Guard) (d a b : Reg) (u : BitVec 1) (s : State) : Result :=
  int2 s gd d a b fun xs =>
    if (if u == 1 then decide (opv xs 0 ≤ opv xs 1) else decide (opi xs 0 ≤ opi xs 1)) then opv xs 0 else opv xs 1

/-- IMAX (R172). -/
def execImax (gd : Guard) (d a b : Reg) (u : BitVec 1) (s : State) : Result :=
  int2 s gd d a b fun xs =>
    if (if u == 1 then decide (opv xs 0 ≥ opv xs 1) else decide (opi xs 0 ≥ opi xs 1)) then opv xs 0 else opv xs 1

/-- IABS (R172). -/
def execIabs (gd : Guard) (d a : Reg) (s1 : BitVec 1) (s : State) : Result :=
  int1 s gd d a fun xs => fitSat s1.toNat ((opi xs 0).natAbs : Int)

/-- INEG (R172). -/
def execIneg (gd : Guard) (d a : Reg) (s1 : BitVec 1) (s : State) : Result :=
  int1 s gd d a fun xs => fitSat s1.toNat (-(opi xs 0))

/-- AND (R177). -/
def execAnd (gd : Guard) (d a b : Reg) (s : State) : Result :=
  int2 s gd d a b fun xs => (opw xs 0 &&& opw xs 1).toNat

/-- OR (R177). -/
def execOr (gd : Guard) (d a b : Reg) (s : State) : Result :=
  int2 s gd d a b fun xs => (opw xs 0 ||| opw xs 1).toNat

/-- XOR (R177). -/
def execXor (gd : Guard) (d a b : Reg) (s : State) : Result :=
  int2 s gd d a b fun xs => (opw xs 0 ^^^ opw xs 1).toNat

/-- ANDN (R177). -/
def execAndn (gd : Guard) (d a b : Reg) (s : State) : Result :=
  int2 s gd d a b fun xs => (opw xs 0 &&& ~~~opw xs 1).toNat

/-- NOT (R177). -/
def execNot (gd : Guard) (d a : Reg) (s : State) : Result :=
  int1 s gd d a fun xs => (~~~opw xs 0).toNat

/-- LOP3 (R177). -/
def execLop3 (gd : Guard) (d a b c : Reg) (lut : BitVec 8) (s : State) : Result :=
  int3 s gd d a b c fun xs => (lop3 lut (opw xs 0) (opw xs 1) (opw xs 2)).toNat

/-- SHL (R178). -/
def execShl (gd : Guard) (d a b : Reg) (wrap : BitVec 1) (s : State) : Result :=
  int2 s gd d a b fun xs => (opw xs 0 <<< min (shiftCount wrap (opv xs 1)) 32).toNat

/-- SHR (R178). -/
def execShr (gd : Guard) (d a b : Reg) (wrap : BitVec 1) (s : State) : Result :=
  int2 s gd d a b fun xs => (opw xs 0 >>> shiftCount wrap (opv xs 1)).toNat

/-- SAR (R178). -/
def execSar (gd : Guard) (d a b : Reg) (wrap : BitVec 1) (s : State) : Result :=
  int2 s gd d a b fun xs => sarOf (opw xs 0) (shiftCount wrap (opv xs 1))

/-- ROTL (R178). -/
def execRotl (gd : Guard) (d a b : Reg) (s : State) : Result :=
  int2 s gd d a b fun xs => ((opw xs 0).rotateLeft (opv xs 1 % 32)).toNat

/-- FSHL (R178). -/
def execFshl (gd : Guard) (d a b c : Reg) (s : State) : Result :=
  int3 s gd d a b c fun xs => ((opw xs 0 ++ opw xs 1) <<< (opv xs 2 % 32)).toNat / 2 ^ 32

/-- POPC (R179). -/
def execPopc (gd : Guard) (d a : Reg) (s : State) : Result :=
  int1 s gd d a fun xs => (lanesOf (opw xs 0)).length

/-- CLZ (R179). -/
def execClz (gd : Guard) (d a : Reg) (s : State) : Result :=
  int1 s gd d a fun xs => clzOf (opw xs 0)

/-- BREV (R179). -/
def execBrev (gd : Guard) (d a : Reg) (s : State) : Result :=
  int1 s gd d a fun xs => (brevOf (opw xs 0)).toNat

/-- BFE (R180). -/
def execBfe (gd : Guard) (d a b : Reg) (sx : BitVec 1) (s : State) : Result :=
  int2 s gd d a b fun xs => bfeOf (sx == 1) (opw xs 0) (opv xs 1)

/-- BFI (R180). -/
def execBfi (gd : Guard) (d a b c : Reg) (s : State) : Result :=
  int3 s gd d a b c fun xs => bfiOf (opw xs 0) (opw xs 1) (opv xs 2)

/-- ISETP (R181). -/
def execIsetp (gd : Guard) (a b : Reg) (cmp : BitVec 3) (u b64 : BitVec 1) (pd : BitVec 3) (s : State) : Result :=
  let w := if b64 == 1 then 2 else 1
  let read (xs : List Opnd) (k : Nat) : Int :=
    if u == 1 then opv xs k else (BitVec.ofNat (32 * w) (opv xs k)).toInt
  alu s gd Reg.null 1 [(a, w), (b, w)] pd.toNat fun xs =>
    { val := 0, pred := cmpInt cmp.toNat (read xs 0) (read xs 1) }

/-- ICSUB (R173). -/
def execIcsub (gd : Guard) (d a b : Reg) (pd : BitVec 3) (s : State) : Result :=
  alu s gd d 1 [(a, 1), (b, 1)] pd.toNat fun xs =>
    if opv xs 0 ≥ opv xs 1 then { val := opv xs 0 - opv xs 1, pred := true } else { val := opv xs 0, pred := false }

/-- IADD64 (R174). -/
def execIadd64 (gd : Guard) (d a b : Reg) (s : State) : Result :=
  alu s gd d 2 [(a, 2), (b, 2)] 7 fun xs => { val := (opv xs 0 + opv xs 1) % 2 ^ 64 }

/-- ISUB64 (R174). -/
def execIsub64 (gd : Guard) (d a b : Reg) (s : State) : Result :=
  alu s gd d 2 [(a, 2), (b, 2)] 7 fun xs => { val := (opv xs 0 + 2 ^ 64 - opv xs 1) % 2 ^ 64 }

/-- IMULW (R171). -/
def execImulw (gd : Guard) (d a b : Reg) (sgn : BitVec 2) (s : State) : Result :=
  issueMul s gd [(a, 1), (b, 1)] (alu s gd d 2 [(a, 1), (b, 1)] 7 fun xs =>
    { val := (BitVec.ofInt 64 (sgnProduct sgn.toNat xs)).toNat })

/-- LEA (R174). -/
def execLea (gd : Guard) (d a b : Reg) (sx : BitVec 1) (sh : BitVec 3) (s : State) : Result :=
  alu s gd d 2 [(a, 2), (b, 1)] 7 fun xs =>
    let ext := if sx == 1 then ((opw xs 1).signExtend 64).toNat else opv xs 1
    { val := (opv xs 0 + ext * 2 ^ sh.toNat) % 2 ^ 64 }

/-- ISAT (R175). -/
def execIsat (gd : Guard) (d a : Reg) (u : BitVec 1) (ty : BitVec 4) (s : State) : Result :=
  int1 s gd d a fun xs => isatOf u ty.toNat (opw xs 0)

/-- IDP4 (R176). -/
def execIdp4 (gd : Guard) (d a b c : Reg) (sat au bu : BitVec 1) (s : State) : Result :=
  issueMul s gd [(a, 1), (b, 1), (c, 1)] (int3 s gd d a b c fun xs =>
    fitSat sat.toNat (opi xs 2 + idp4Sum (au == 1) (bu == 1) (opw xs 0) (opw xs 1)))

end Sys2Proof.Machine
end

