-- ==== Sys2Proof/Machine/Float.lean ====
section
/-! DEFINITION. Floating-point, packed-16, special-function and conversion instructions of the lane pipeline (chapter 07,
R182-R195; the arithmetic is chapter 06's). -/

namespace Sys2Proof.Machine

/-- A result of the number formats as an instruction's result. -/
def FRes.out (r : FRes) : AluOut := { val := r.bits, flags := r.flags }

/-- The k-th operand as an FP32 value. -/
def opf (xs : List Opnd) (k : Nat) : FVal := fp32 (opw xs k)

def rm (rnd : BitVec 3) : RMode := RMode.ofCode rnd.toNat

def flt1 (s : State) (gd : Guard) (d a : Reg) (f : List Opnd → AluOut) : Result := alu s gd d 1 [(a, 1)] 7 f

def flt2 (s : State) (gd : Guard) (d a b : Reg) (f : List Opnd → AluOut) : Result :=
  alu s gd d 1 [(a, 1), (b, 1)] 7 f

def flt3 (s : State) (gd : Guard) (d a b c : Reg) (f : List Opnd → AluOut) : Result :=
  alu s gd d 1 [(a, 1), (b, 1), (c, 1)] 7 f

/-- R189: the same operation on both 16-bit halves; the flags are ORed. -/
def halves (f : Nat → FRes) : AluOut :=
  let lo := f 0
  let hi := f 1
  { val := lo.bits + hi.bits * 2 ^ 16, flags := lo.flags ||| hi.flags }

/-- Half h of an operand as a value of a 16-bit type (R143). -/
def opHalf (t : FType) (xs : List Opnd) (k h : Nat) : FVal := t.decode (opv xs k / 2 ^ (16 * h) % 2 ^ 16)

/-- FADD (R182). -/
def execFadd (gd : Guard) (d a b : Reg) (rnd : BitVec 3) (s : State) : Result :=
  flt2 s gd d a b fun xs => (fadd .fp32 (rm rnd) (opf xs 0) (opf xs 1)).out

/-- FSUB (R182). -/
def execFsub (gd : Guard) (d a b : Reg) (rnd : BitVec 3) (s : State) : Result :=
  flt2 s gd d a b fun xs => (fsub .fp32 (rm rnd) (opf xs 0) (opf xs 1)).out

/-- FMUL (R182). -/
def execFmul (gd : Guard) (d a b : Reg) (rnd : BitVec 3) (s : State) : Result :=
  issueMul s gd [(a, 1), (b, 1)] (flt2 s gd d a b fun xs => (fmul .fp32 (rm rnd) (opf xs 0) (opf xs 1)).out)

/-- FFMA (R149, R182). -/
def execFfma (gd : Guard) (d a b c : Reg) (rnd : BitVec 3) (s : State) : Result :=
  issueMul s gd [(a, 1), (b, 1), (c, 1)] (flt3 s gd d a b c fun xs => (ffma .fp32 (rm rnd) (opf xs 0) (opf xs 1) (opf xs 2)).out)

/-- FMIN (R183). -/
def execFmin (gd : Guard) (d a b : Reg) (s : State) : Result :=
  flt2 s gd d a b fun xs => (fminmax false (opw xs 0) (opw xs 1)).out

/-- FMAX (R183). -/
def execFmax (gd : Guard) (d a b : Reg) (s : State) : Result :=
  flt2 s gd d a b fun xs => (fminmax true (opw xs 0) (opw xs 1)).out

/-- FMINP (R183). -/
def execFminp (gd : Guard) (d a b : Reg) (s : State) : Result :=
  flt2 s gd d a b fun xs => (fminmaxp false (opw xs 0) (opw xs 1)).out

/-- FMAXP (R183). -/
def execFmaxp (gd : Guard) (d a b : Reg) (s : State) : Result :=
  flt2 s gd d a b fun xs => (fminmaxp true (opw xs 0) (opw xs 1)).out

/-- FABS (R184). -/
def execFabs (gd : Guard) (d a : Reg) (s : State) : Result :=
  flt1 s gd d a fun xs => { val := (opw xs 0 &&& 0x7FFFFFFF#32).toNat }

/-- FNEG (R184). -/
def execFneg (gd : Guard) (d a : Reg) (s : State) : Result :=
  flt1 s gd d a fun xs => { val := (opw xs 0 ^^^ 0x80000000#32).toNat }

/-- FSETP (R185). -/
def execFsetp (gd : Guard) (a b : Reg) (cmp : BitVec 3) (pd : BitVec 3) (s : State) : Result :=
  alu s gd Reg.null 1 [(a, 1), (b, 1)] pd.toNat fun xs =>
    let r := fsetp cmp.toNat (opw xs 0) (opw xs 1)
    { val := 0, flags := r.2, pred := r.1 }

/-- FCLASS (R186). -/
def execFclass (gd : Guard) (d a : Reg) (s : State) : Result :=
  flt1 s gd d a fun xs => { val := fclass (opw xs 0) }

/-- FRND (R187). -/
def execFrnd (gd : Guard) (d a : Reg) (rnd : BitVec 3) (s : State) : Result :=
  flt1 s gd d a fun xs => (frnd (rm rnd) (opw xs 0)).out

/-! ## Special functions (R165, R188): long-latency producers with an IFR entry of kind 8 -/

/-- The lane of a special function's IFR entry: its destination and its operand bits (R165). -/
def sfuLane (l : Nat) (dst : Ref) (xs : List Opnd) : LaneOp := 
  { lane := l, dst := dst, a := opv xs 0, b := opv xs 1, done := false, fw := false }

/-- One thread of a special function: the sources are read, the destination becomes Pending. -/
def sfuBody (d : Reg) (srcs : List (Reg × Nat)) (g0 : Group) (st : Group × List (LaneOp × Bool × Bool)) (l : Nat) :
    Except Fate ((Group × List (LaneOp × Bool × Bool)) × Fate) := do
  let xs ← readAll g0 l srcs
  let dst ← dstReady g0 l d 1
  .ok ((markRef st.1 l dst 1 .pending, st.2 ++ [(sfuLane l dst xs, joinPoison xs)]), .next)

/-- The issue of a special function: one IFR entry for the issuing members (R331). A G destination has one result, from sources
that are alike in every member (R28); otherwise, a NULL destination among them, every member has its own, with its flags (R153). -/
def sfuRun (f : SFunc) (mode : RMode) (d : Reg) (srcs : List (Reg × Nat)) (c : Cur) (e : Entry) (act : List Nat)
    (s : State) : State × List (Nat × Fate) :=
  match s.team? c.tid with
  | none => (s, [])
  | some t =>
    let r := foldLanes (sfuBody d srcs (t.group c.grp)) act (t.group c.grp, [])
    let t1 := t.setGroup c.grp r.1.1
    let ops := if d.isG then r.1.2.take 1 else r.1.2
    let who (l : Nat) := if d.isG then act.map fun k => (c.grp, k) else [(c.grp, l)]
    let mk (idx seq : Nat) : IfrEntry :=
      { idx := idx, seq := seq, op := .sfu f mode, grp := c.grp, ord := 0, scope := 0, sz := 0, aux := 0, hnd := 0,
        dwords := 1, pc := e.pc, lanes := ops.map fun x => { x.1 with poison := x.2.1, pt := x.2.2, who := who x.1.lane } }
    (s.setTeam (if r.1.2.isEmpty then t1 else t1.newEntry mk), r.2)

/-- The issue of a special function waits while the IFR has no free entry (R165, R331). -/
def sfu (s : State) (gd : Guard) (f : SFunc) (mode : RMode) (d : Reg) (srcs : List (Reg × Nat)) : Result :=
  issue s gd srcs (ifrFree fun act => if act.isEmpty then 0 else 1) (sfuRun f mode d srcs)

/-- FDIV (R155, R188). -/
def execFdiv (gd : Guard) (d a b : Reg) (rnd : BitVec 3) (s : State) : Result :=
  sfu s gd .fdiv (rm rnd) d [(a, 1), (b, 1)]

/-- FSQRT (R155, R188). -/
def execFsqrt (gd : Guard) (d a : Reg) (rnd : BitVec 3) (s : State) : Result :=
  sfu s gd .fsqrt (rm rnd) d [(a, 1)]

/-- FRCP (R155, R188). -/
def execFrcp (gd : Guard) (d a : Reg) (rnd : BitVec 3) (s : State) : Result :=
  sfu s gd .frcp (rm rnd) d [(a, 1)]

/-- FRSQ (R155, R188). -/
def execFrsq (gd : Guard) (d a : Reg) (s : State) : Result :=
  sfu s gd .frsq .rne d [(a, 1)]

/-- FEXP2 (R155, R188). -/
def execFexp2 (gd : Guard) (d a : Reg) (s : State) : Result :=
  sfu s gd .fexp2 .rne d [(a, 1)]

/-- FLOG2 (R155, R188). -/
def execFlog2 (gd : Guard) (d a : Reg) (s : State) : Result :=
  sfu s gd .flog2 .rne d [(a, 1)]

/-- FSINPI (R155, R188). -/
def execFsinpi (gd : Guard) (d a : Reg) (s : State) : Result :=
  sfu s gd .fsinpi .rne d [(a, 1)]

/-- FCOSPI (R155, R188). -/
def execFcospi (gd : Guard) (d a : Reg) (s : State) : Result :=
  sfu s gd .fcospi .rne d [(a, 1)]

/-- FTANH (R155, R188). -/
def execFtanh (gd : Guard) (d a : Reg) (s : State) : Result :=
  sfu s gd .ftanh .rne d [(a, 1)]

/-- HADD2 (R189). -/
def execHadd2 (gd : Guard) (d a b : Reg) (rnd : BitVec 3) (ty : BitVec 4) (s : State) : Result :=
  flt2 s gd d a b fun xs =>
    let t := FType.ofCode ty.toNat
    halves fun h => fadd t (rm rnd) (opHalf t xs 0 h) (opHalf t xs 1 h)

/-- HMUL2 (R189). -/
def execHmul2 (gd : Guard) (d a b : Reg) (rnd : BitVec 3) (ty : BitVec 4) (s : State) : Result :=
  issueMul s gd [(a, 1), (b, 1)] (flt2 s gd d a b fun xs =>
    let t := FType.ofCode ty.toNat
    halves fun h => fmul t (rm rnd) (opHalf t xs 0 h) (opHalf t xs 1 h))

/-- HFMA2 (R189). -/
def execHfma2 (gd : Guard) (d a b c : Reg) (rnd : BitVec 3) (ty : BitVec 4) (s : State) : Result :=
  issueMul s gd [(a, 1), (b, 1), (c, 1)] (flt3 s gd d a b c fun xs =>
    let t := FType.ofCode ty.toNat
    halves fun h => ffma t (rm rnd) (opHalf t xs 0 h) (opHalf t xs 1 h) (opHalf t xs 2 h))

/-- FCVT (R190, R160). -/
def execFcvt (gd : Guard) (d a : Reg) (rnd : BitVec 3) (dst src : BitVec 4) (s : State) : Result :=
  flt1 s gd d a fun xs =>
    let x := (FType.ofCode src.toNat).decode (opv xs 0)
    let r := convert (FType.ofCode dst.toNat) (rm rnd) x
    { val := r.bits, flags := r.flags,
      amax := if dst.toNat == 0 || (xs.headD ⟨0, false, false, 0⟩).poison then [] else [x] }

/-- F2I (R191). -/
def execF2i (gd : Guard) (d a : Reg) (rnd : BitVec 3) (dst : BitVec 4) (s : State) : Result :=
  flt1 s gd d a fun xs =>
    let r := f2i dst.toNat (rm rnd) (opw xs 0)
    { val := r.1.toNat, flags := r.2 }

/-- I2F (R192). -/
def execI2f (gd : Guard) (d a : Reg) (rnd : BitVec 3) (dst src : BitVec 4) (s : State) : Result :=
  flt1 s gd d a fun xs => (i2f (FType.ofCode dst.toNat) src.toNat (rm rnd) (opw xs 0)).out

/-- The source elements of QCVT that update AMAX: those whose own register is not poisoned (R160). -/
def qcvtSources (ss : List Slot) : List FVal := (ss.filter fun x => !x.poison).map fun x => fp32 x.val

/-- The packed result of QCVT (R194). -/
def qcvtOut (t : FType) (mode : RMode) (k : Nat) (ss : List Slot) : AluOut :=
  let rs := ss.map fun x => qcvtElem t mode (fp32 x.val) k
  { val := rs.foldr (fun r acc => r.bits + 2 ^ t.width * acc) 0
    flags := rs.foldl (fun f r => f ||| r.flags) 0
    amax := qcvtSources ss }

/-- QCVT in one thread (R194). -/
def qcvtBody (d a b : Reg) (t : FType) (mode : RMode) (n : Nat) (_ : Entry) (g0 g : Group) (l : Nat) :
    Except Fate (Group × Fate) := do
  let ref ← resolve g0 l a n
  let x ← readRef g0 l ref a.w n
  let y ← readSrc g0 l b 1
  let dst ← dstReady g0 l d 1
  let (p, pt) := joinPoison [x, y]
  .ok (putResult g l dst 1 7 p pt (qcvtOut t mode (y.val % 256) (slotsOf g0 l ref n)))

/-- QCVT (R194). -/
def execQcvt (gd : Guard) (d a b : Reg) (rnd : BitVec 3) (ty : BitVec 4) (s : State) : Result :=
  let n := if ty.toNat ≤ 2 then 2 else 4
  issue s gd [(a, n), (b, 1)] always (runG (qcvtBody d a b (FType.ofCode ty.toNat) (rm rnd) n))

/-- QDEQ (R195). -/
def execQdeq (gd : Guard) (d a b : Reg) (rnd : BitVec 3) (ty : BitVec 4) (el : BitVec 3) (s : State) : Result :=
  flt2 s gd d a b fun xs =>
    let t := FType.ofCode ty.toNat
    (qdeq t (rm rnd) (opv xs 0 / 2 ^ (t.width * el.toNat) % 2 ^ t.width) (opv xs 1 % 256)).out

/-- QSCALE (R193). -/
def execQscale (gd : Guard) (d a : Reg) (am : BitVec 1) (ty : BitVec 4) (s : State) : Result :=
  flt1 s gd d a fun xs =>
    let t := FType.ofCode ty.toNat
    let w := opw xs 0
    if am == 1 then
      { val := if w.getLsbD 31 then 0xFF else qscaleOf t (fp32 w) }
    else { val := qscaleOf t ((fp32 w).withSign false), flags := snanFlag [fp32 w] }

end Sys2Proof.Machine
end

