-- ==== Sys2Proof/Machine/Host.lean ====
section
/-! DEFINITION. The host link (R302, R382, R480-R485, R488-R490, R498, R500, R501): partitions, copy engine assignment, the ring
registers, apertures, function-level resets, deep sleep, and the writes of registers. -/

namespace Sys2Proof.Machine

/-! ## Partitions (R382, R446, R482) -/

/-- Panels of a size code. -/
def sizeOfCode (k : Nat) : Option Nat := [1, 2, 3, 4, 6, 12][k]?

/-- The panels of a run. -/
def panelRun (first n : Nat) : List Nat := (List.range n).map (first + ·)

/-- A team of any context is Resident on some of the panels, or a sitting of the active bank names one (R382). -/
def State.panelsBusy (s : State) (ps : List Nat) : Bool :=
  (s.teams.any fun t => t.st == .resident && ps.contains (panelOfCore t.core)) ||
  (s.sits.bank s.sits.abank).any fun e =>
    SitEnt.valid e.2 && (ps.contains (SitEnt.part e.2) || (SitEnt.cores e.2).any fun c => ps.contains (panelOfCore c))

def State.updRequest (s : State) (first : Nat) (f : Request → Request) : State :=
  { s with reqs := s.reqs.map fun r => if r.first == first then f r else r }

/-- A request is refused. -/
def State.refuseRequest (s : State) (first : Nat) : State := s.updRequest first fun r => { r with faults := true }

/-- The tables of a panel are laid out anew: every tag is zero (R446). -/
def State.freshPanels (s : State) (ps : List Nat) (ptlen : Nat) : State :=
  { s with
    panels := s.panels.map fun p => if ps.contains p.num then { Panel.initial p.num with ptlen := ptlen, scrubAt := p.scrubAt } else p
    gates := s.gates.filter fun g => !ps.contains g.panel }

/-- A partition whose regions have just been reserved. -/
def Partition.formed (first n logcap : Nat) : Partition :=
  { first := first, size := n, tkey := 0, queue := [], decls := [], log := [], logcap := logcap, rolls := [], widx := 0, ridx := 0, drop := 0
    res := ⟨[], []⟩ }

/-- A partition is formed (R382, R482). -/
def State.formPartition (s : State) (first : Nat) (v : BitVec 64) : State :=
  match sizeOfCode (bitsOf v.toNat 62 60) with
  | none => s.refuseRequest first
  | some n =>
    let ps := panelRun first n
    if first % n != 0 || first + n > 12 || (ps.any fun p => (s.partOf p).isSome) || s.panelsBusy ps then s.refuseRequest first
    else
      let s1 := s.freshPanels ps (bitsOf v.toNat 47 24)
      { s1 with parts := (s1.parts ++ [(Partition.formed first n (bitsOf v.toNat 23 0))]).mergeSort fun a b => a.first ≤ b.first }.updRequest
        first fun r => { r with dw0 := v &&& ~~~enBit, faults := false }

/-- A partition is dissolved: its key slot is zeroised, its regions are released (R482). -/
def State.dissolve (s : State) (first : Nat) : State :=
  match s.part? first with
  | none => s.refuseRequest first
  | some p =>
    let ps := panelRun first p.size
    if s.panelsBusy ps then s.refuseRequest first
    else
      let ids := (s.ctxs.filter fun c => c.part == first).map (·.id)
      let s1 := ((s.teams.filter fun t => ids.contains t.ctx).map (·.tid)).foldl State.discardTeam s
      let s2 : State := { s1 with
        teams := s1.teams.filter fun t => !ids.contains t.ctx
        launches := s1.launches.filter fun l => l.part != first
        ctxs := s1.ctxs.filter fun c => c.part != first
        parts := s1.parts.filter fun q => q.first != first
        late := s1.late.filter fun w => !ids.contains w.ctx
        polls := s1.polls.filter fun p => !ids.contains p.ctx }
      ((s2.freshPanels ps 0).zeroKey first).updRequest first fun r => { r with dw0 := 0, faults := false }

/-- GO in a request block (R482, R502). -/
def State.request (s : State) (first : Nat) (v : BitVec 64) : State :=
  if first ≥ 12 then s
  else
    let s1 := s.raiseEvent 6 first
    if bitsOf v.toNat 62 60 == 7 then s1.dissolve first else s1.formPartition first v

/-- PARTITION_REQUEST (R382, R482). -/
def execPartitionRequest (first : Nat) (v : BitVec 64) (s : State) : Result := .next (s.request first v)

/-- PARTITION_DISSOLUTION (R482): a request with size code 7. -/
def execPartitionDissolution (first : Nat) (s : State) : Result := .next (s.request first (0xF000000000000000#64))

/-- An engine's byte is written: 0xFF for none, or the first panel of a partition (R480). -/
def State.assignEngine (s : State) (eng : Nat) (v : BitVec 8) : State :=
  let owner := if (s.part? v.toNat).isSome then some v.toNat else none
  if v != 0xFF && owner.isNone then s
  else { s with engines := s.engines.map fun e => if e.num == eng && e.cmds.isEmpty then { e with part := owner } else e }

/-- The offset of the first engine's byte in the management window: in the region at 0x01_0000, behind the request blocks (log 61). -/
def enginesOfs : Nat := 0x100C0 + 8 * (Config.enginesAt % 8166)

/-- ENGINE_ASSIGNMENT_WRITE (R302): only while the engine's queue is empty. -/
def execEngineAssignmentWrite (eng : Nat) (v : BitVec 8) (s : State) : Result := .next (s.assignEngine eng v)

/-! ## A function's registers (R481) -/

/-- The function accepts register writes. -/
def State.fnReady (s : State) (fn : Nat) : Bool := s.fns.any fun f => f.num == fn && f.ready

/-- RRESET (R379, R481): a reset of a ring is requested. -/
def State.requestReset (s : State) (fn : Nat) (ctx : BitVec 32) : State :=
  if !s.fnReady fn then s
  else match s.ctx? ctx with
    | some c =>
      if c.vf == fn then s.updCtx ctx fun x => { x with ringReset := true } else s.updFn fn fun f => f.raise 7 ctx
    | none => s.updFn fn fun f => f.raise 7 ctx

/-- RRESET (R481). -/
def execRreset (fn : Nat) (ctx : BitVec 32) (s : State) : Result := .next (s.requestReset fn ctx)

/-! ## Apertures (R483) -/

/-- An aperture access is dropped; the context that FSCTX then holds is not stated (log 32). -/
def State.dropAperture (s : State) (fn : Nat) : State :=
  { s with fresh := s.fresh + 1 }.tellBoth fn (Config.freeWord s.fresh 62) 6

/-- The DIA of an aperture offset: of the partition that holds the function's contexts. -/
def State.apertureDia (s : State) (fn ofs : Nat) : Option Nat :=
  (s.ctxs.find? fun c => c.usable && c.vf == fn).map fun c => c.part * 2 ^ 44 + ofs

/-- The key under which an aperture access is performed, if it is: the page is valid and the function's (R483). -/
def State.apertureKey (s : State) (fn dia : Nat) : Option Nat :=
  let e := s.pte dia
  if pteValid e && pteOwner e == fn then s.keyOf (15 + fn) else none

/-- Bytes of an aperture (R480). -/
def apertureBytes : Nat := 2 ^ 36

/-- Each sector of an aperture access is performed, or the access is dropped there: the state, and the bytes that a read returns, lowest
first. A dropped read returns all ones; beyond the aperture a read returns zero (R480). -/
def State.aperture (s : State) (fn ofs n : Nat) (act : State → Nat → Nat → Nat → State × Nat) : State × List (BitVec 8) :=
  let ones (k : Nat) : List (BitVec 8) := List.replicate k 0xFF
  if fn == 0 || fn > 256 || ofs + n > apertureBytes then (s, List.replicate n 0)
  else match s.apertureDia fn ofs with
    | none => (if n == 0 then s else s.dropAperture fn, ones n)
    | some dia => (sectorRuns (n + 1) dia n).foldl (fun r x =>
        match r.1.apertureKey fn x.1 with
        | some k => let q := act r.1 k x.1 x.2; (q.1, r.2 ++ bytesOf x.2 q.2)
        | none => (r.1.dropAperture fn, r.2 ++ ones x.2)) (s, [])

/-- A read through an aperture: the state after it, and what the link is answered. -/
def State.apertureRead (s : State) (fn ofs n : Nat) : State × List (BitVec 8) :=
  s.aperture fn ofs n fun st k dia m => let r := st.homeReads k 0 1 dia m; (r.1, r.2.val)

/-- APERTURE_READ (R483): of the read only its decode (R459, R484) and a drop leave a trace in the device. -/
def execApertureRead (fn ofs n : Nat) (s : State) : Result := .next (s.apertureRead fn ofs n).1

/-- APERTURE_WRITE (R483). -/
def execApertureWrite (fn ofs : Nat) (data : List (BitVec 8)) (s : State) : Result :=
  let at0 := (s.apertureDia fn ofs).getD 0
  .next (s.aperture fn ofs data.length fun st k dia m => (st.homeWrite dia m (ofBytes ((data.drop (dia - at0)).take m)) k 0 false none, 0)).1

/-! ## Function-level reset (R485) -/

/-- Step 3: a page of the function becomes invalid, and its lines are dropped without write-back. -/
def State.dropPage (s : State) (panel : Nat) (x : Nat × BitVec 64) : State :=
  let lo := physOf x.2 0 / 64
  let hit := (s.dirty.filter fun d => lo ≤ d.idx && d.idx < lo + 1024).map (·.idx)
  let s1 := hit.foldl State.dropSector s
  let s2 := s1.dropL1 fun y => physOf (s.pte (64 * y.dia)) (64 * y.dia) / 65536 == bitsOf x.2.toNat 39 16 && pteValid (s.pte (64 * y.dia))
  s2.updPanel panel fun p => p.setPte x.1 (x.2 &&& ~~~enBit)

/-- Every valid page of an owner. -/
def State.pagesOf (s : State) (owner : Nat) : List (Nat × (Nat × BitVec 64)) :=
  s.panels.flatMap fun p => (p.ptes.filter fun e => pteValid e.2 && pteOwner e.2 == owner).map fun e => (p.num, e)

/-- Step 2: what the function's contexts have in progress is discarded, with no completion record. -/
def State.dropContexts (s : State) (ids : List (BitVec 32)) : State :=
  let s1 := ((s.teams.filter fun t => ids.contains t.ctx).map (·.tid)).foldl State.discardTeam s
  State.freeOrphans { s1 with
    teams := s1.teams.filter fun t => !ids.contains t.ctx
    launches := s1.launches.filter fun l => !ids.contains l.ctx
    polls := s1.polls.filter fun p => !ids.contains p.ctx
    posts := s1.posts.filter fun p => !ids.contains p.copy.ctx
    parked := s1.parked.filter fun c => !ids.contains c.ctx
    resReqs := s1.resReqs.filter fun r => !ids.contains r.2
    late := s1.late.filter fun w => !ids.contains w.ctx
    parts := s1.parts.map fun p => { p with log := p.log.filter fun r => !ids.contains r.ctx }
    panels := s1.panels.map fun p => { p with dup := p.dup.filter fun d => !ids.contains d.ctx }
    code := s1.code.filter fun x => !ids.contains x.ctx }

/-- A context whose descriptor's VALID the reset has cleared. -/
def Ctx.cleared (c : Ctx) : Ctx := { Ctx.blank c.part with desc := c.desc.set 0 (c.dw 0 &&& ~~~(1#64 <<< 31)) }

/-- The function-level reset of a virtual function. -/
def State.resetFunction (s : State) (fn : Nat) : State :=
  let ids := (s.ctxs.filter fun c => c.usable && c.vf == fn).map (·.id)
  let s1 := s.dropContexts ids
  let s2 : State := { s1 with ctxs := s1.ctxs.map fun c => if c.usable && c.vf == fn then c.cleared else c }
  let s3 := (s2.flagCtx.pagesOf fn).foldl (fun st x => st.dropPage x.1 x.2) s2.flagCtx
  let s4 := ((s3.zeroKey (15 + fn)).updFn fn fun f => { Fn.initial fn with vectors := f.vectors }).settleFp
  (((s.launches.filter fun l => ids.contains l.ctx).map (·.part)).eraseDups).foldl State.pollOpen s4

/-- FUNCTION_LEVEL_RESET (R485, R489): one written while the device sleeps is performed after wake. -/
def execFunctionLevelReset (fn : Nat) (s : State) : Result :=
  .next (if fn == 0 || fn > 256 then s
    else
      let s1 := s.raiseEvent 7 fn
      if s.fw.sleep.power == .asleep then s1.updFn fn fun f => { f with ready := false, flrBusy := true } else s1.resetFunction fn)

/-! ## Deep sleep (R488-R490, R501) -/

def State.updSleep (s : State) (f : Sleep → Sleep) : State := s.setFw fun w => { w with sleep := f w.sleep }

/-- A request for deep sleep: openings stop, every context is saved and held (R488 step 1); ignored while SLEEP reads 1 (R490). -/
def State.requestSleep (s : State) : State :=
  if s.fw.sleep.power != .awake then s
  else
    let held := (s.ctxs.filter fun c => c.valid && c.held).map (·.id)
    let s1 := (s.raiseEvent 9 0).updSleep fun x => { x with power := .entering, heldBefore := held, early := none }
    (s1.ctxs.filter (·.valid)).foldl (fun st c => st.beginSave c true) s1

/-- Every team has been saved. -/
def State.sleepReady (s : State) : Bool := s.teams.all fun t => t.st != .resident

/-- A key slot that the key store keeps through deep sleep (R488 step 4). -/
def KeySlot.kept (k : KeySlot) : Bool := k.slot < 12 || (16 ≤ k.slot && k.slot < 272)

/-- When the entries of the active bank open from a boundary on. -/
def Sittings.reopen (x : Sittings) (now : BitVec 64) : Sittings :=
  if !x.begun then x
  else
    let b := x.nextBoundary now
    { x with
      boundary := b
      opens := ((x.bank x.abank).filter fun e => SitEnt.valid e.2).map fun e => (e.1, b + BitVec.ofNat 64 (1000 * SitEnt.start e.2)) }

/-- The device is awake again (R489, R502): it opens sittings at the next boundary, performs the resets that came while it slept,
and clears its holds. -/
def State.wakeUp (s : State) (cause : Nat) : State :=
  let s1 := (s.updSleep fun x => { x with power := .awake, timed := none, cause := cause, early := none }).setSits fun x => x.reopen s.time
  let s2 := ((s1.fns.filter (·.flrBusy)).map (·.num)).foldl State.resetFunction s1
  let s3 := (s2.ctxs.filter fun c => c.valid && !s.fw.sleep.heldBefore.contains c.id).foldl State.unhold s2
  (s3.realign s.scrubLeft).raiseEvent 10 cause

/-- Steps 2 to 5 of R488, in one step. -/
def State.fallAsleep (s : State) : State :=
  let s1 : State := { s with
    dirty := [], l1 := [], code := [], grids := [], rooms := []
    scrubEnd := BitVec.ofNat 64 s.scrubLeft
    keys := s.keys.filter KeySlot.kept
    sits := { s.sits with now := [] } }
  let s2 := s1.writeLife.updSleep fun x => { x with
    power := .asleep, slpt := s.time, timed := if x.wten then some x.waket else none }
  match s.fw.sleep.early with
  | some cause => s2.wakeUp cause
  | none => s2

/-- DEEP_SLEEP (R488): the request; while the device is entering, the end of the entry, once every team has been saved. -/
def execDeepSleep (s : State) : Result :=
  .next (if s.fw.sleep.power == .entering then (if s.sleepReady then s.fallAsleep else s) else s.requestSleep)

/-- WAKE (R489): 1 for WAKE#, 2 and 3 for a wake stream on port 0 and 1. -/
def execWake (cause : Nat) (s : State) : Result :=
  .next (if cause == 0 || cause > 3 || (cause ≥ 2 && !s.portUp (cause - 2)) then s
    else match s.fw.sleep.power with
      | .asleep => s.wakeUp cause
      | .entering => if s.fw.sleep.early.isNone then s.updSleep fun x => { x with early := some cause } else s
      | .awake | .frozen | .off => s)

/-- TIMED_WAKE (R501). -/
def execTimedWake (s : State) : Result :=
  .next (match s.fw.sleep.power, s.fw.sleep.timed with
    | .asleep, some t => if t.toNat ≤ s.time.toNat then s.wakeUp 4 else s
    | _, _ => s)

/-! ## Writes of registers (R9, R10, R480, R481, R498, R500) -/

/-- A dword of a shadow-bank entry is written. -/
def Sittings.writeShadow (x : Sittings) (k dw : Nat) (v : BitVec 64) : Sittings :=
  let put (b : List (Nat × BitVec 256)) : List (Nat × BitVec 256) :=
    let old := ((b.find? (·.1 == k)).map (·.2)).getD 0
    let new := BitVec.ofNat 256 (patch old.toNat (8 * dw) 8 v.toNat)
    let rest := b.filter (·.1 != k)
    if new == 0 then rest else (rest ++ [(k, new)]).mergeSort fun a b => a.1 ≤ b.1
  if x.abank then { x with bank0 := put x.bank0 } else { x with bank1 := put x.bank1 }

/-- The mailbox's dword 0: GO submits the operation (R500). -/
def State.writeMailbox (s : State) (v : BitVec 64) : State :=
  let s1 := s.setFw fun f => { f with mailbox := { f.mailbox with ctl := v &&& 0x0000FF01FFFFFFFF } }
  if v &&& enBit == 0 then s1
  else
    let op := bitsOf v.toNat 47 40
    let kind := bitsOf v.toNat 32 32
    let len := bitsOf s1.fw.mailbox.len.toNat 12 0
    let data := (List.range len).map fun k => Memory.read s1.fw.mailbox.data k
    let s2 := s1.raiseEvent 8 0
    if op == 1 && (len == 0 || len > 4096) then s2.stagingStatus 1
    else s2.stage op kind (bitsOf v.toNat 31 0) data none

/-- The sleep control block is written (Table 12). -/
def State.writeSleep (s : State) (dw : Nat) (v : BitVec 64) : State :=
  match dw with
  | 0 =>
    let s1 := s.updSleep fun x => { x with wten := v.getLsbD 1 }
    if v.getLsbD 0 then s1.requestSleep else s1
  | 1 => s.updSleep fun x => { x with waket := v }
  | _ => s

/-- A dword of a canvas timing block is written (Table 6). -/
def State.writeTiming (s : State) (n dw : Nat) (v : BitVec 64) : State :=
  match dw with
  | 0 => s.updCanvas n fun c => { c with regs := putDword c.regs 0 (v &&& ~~~(1#64 <<< 62)) }
  | 1 | 4 => s.updCanvas n fun c => { c with regs := putDword c.regs dw v }
  | 5 => s.applyCanvas n
  | _ => s

/-- A dword of a request block is written (R482). -/
def State.writeRequest (s : State) (first dw : Nat) (v : BitVec 64) : State :=
  if dw != 0 then s
  else if v &&& enBit == 0 then s
  else s.request first v

/-- A write in the layout of Table 2. -/
def State.writeFn (s : State) (fn ofs : Nat) (v : BitVec 64) : State :=
  match ofs with
  | 0x008 => s.requestReset fn (v.setWidth 32)
  | 0x010 => s.updFn fn fun f => { f with fs := f.fs &&& ~~~(v.setWidth 8) }
  | _ => s

/-- A write in the management window (Table 1, Table 7). -/
def State.writeManagement (s : State) (ofs : Nat) (v : BitVec 64) : State :=
  if ofs == 0x1000 then s.writeStctl (v.setWidth 32)
  else if 0x2000 ≤ ofs && ofs < 0x4000 then s.setSits fun x => x.writeShadow ((ofs - 0x2000) / 32) (ofs / 8 % 4) v
  else if 0x10000 ≤ ofs && ofs < 0x100C0 then s.writeRequest ((ofs - 0x10000) / 16) (ofs / 8 % 2) v
  else if enginesOfs ≤ ofs && ofs < enginesOfs + 24 then
    (List.range 8).foldl (fun st k => st.assignEngine (ofs - enginesOfs + k) (v.extractLsb' (8 * k) 8)) s
  else if 0x20000 ≤ ofs && ofs < 0x20180 then s.writeTiming ((ofs - 0x20000) / 64) (ofs / 8 % 8) v
  else if 0x21000 ≤ ofs && ofs < 0x22800 then s.writeLayer ((ofs - 0x21000) / 1024) ((ofs - 0x21000) / 64 % 16) (ofs / 8 % 8) v
  else if ofs == 0x30900 then s.writePrfinj v
  else if 0x30A00 ≤ ofs && ofs < 0x30A58 then s.writeWarp ((ofs - 0x30A00) / 8) v
  else if 0x50000 ≤ ofs && ofs < 0x50060 then s.writeFn 0 (ofs - 0x50000) v
  else if 0x60000 ≤ ofs && ofs < 0x60020 then s.writeSleep ((ofs - 0x60000) / 8) v
  else if 0x70000 ≤ ofs && ofs < 0x70400 && ofs % 256 < 64 then s.writeCamera ((ofs - 0x70000) / 256) (ofs % 256 / 8) v
  else if ofs == 0x80000 then s.writeMailbox v
  else if ofs == 0x80008 then s.setFw fun f => { f with mailbox := { f.mailbox with len := v &&& 0x1FFF } }
  else if 0x81000 ≤ ofs && ofs < 0x82000 then
    s.setFw fun f => { f with mailbox := { f.mailbox with data := Memory.writeN f.mailbox.data (ofs - 0x81000) 8 v.toNat } }
  else s

/-- REGISTER_WRITE (R9, R480, R481): a dword of a function's window; outside its regions a write is ignored. -/
def execRegisterWrite (fn ofs : Nat) (v : BitVec 64) (s : State) : Result :=
  .next (if ofs % 8 != 0 || !s.fnReady fn then s else if fn == 0 then s.writeManagement ofs v else s.writeFn fn ofs v)

end Sys2Proof.Machine
end

