-- ==== Sys2Proof/Machine/Uniform.lean ====
section
/-! DEFINITION. Which instructions issue uniformly (R57). -/

namespace Sys2Proof.Machine

/-- R57: the instruction issues uniformly, but for a `COPY` whose template names registers (`copiesToRegs`). A conversion of floating-point numbers updates AMAX unless its target is FP32 (R160); `STLD`
and `STSWAP` always issue so (R215); an event row issues nothing. -/
def uniformIssue (i : Instr) : Bool :=
  match i with
  | .nop gd => uniform gd []
  | .bra gd _ _ => uniform gd []
  | .brx gd a _ => uniform gd [a]
  | .call _ _ _ => false
  | .callx _ _ _ => false
  | .ret gd a => uniform gd [a]
  | .exit gd => uniform gd []
  | .yield gd _ => uniform gd []
  | .prio gd _ => uniform gd []
  | .regroup gd a => uniform gd [a]
  | .barg gd a _ _ => uniform gd [a]
  | .bart gd a _ => uniform gd [a]
  | .arrive gd d a _ => uniform gd [d, a]
  | .await gd a _ pd _ => uniform gd [a] && pd == 7
  | .vote gd d c pd _ _ pa => uniform gd [d, c] && pd == 7 && pa == 7
  | .elect gd d c pd => uniform gd [d, c] && pd == 7
  | .shfl gd d a b c _ pd => uniform gd [d, a, b, c] && pd == 7
  | .redg gd d a c _ => uniform gd [d, a, c]
  | .scang gd d a c _ _ => uniform gd [d, a, c]
  | .matchG gd d a c _ pd => uniform gd [d, a, c] && pd == 7
  | .waitt gd a => uniform gd [a]
  | .mov gd d a _ => uniform gd [d, a]
  | .movi gd d _ => uniform gd [d]
  | .movg gd d a _ _ => uniform gd [d, a]
  | .sel gd d a b _ _ pc => uniform gd [d, a, b] && pc == 7
  | .pset gd a b _ pd => uniform gd [a, b] && pd == 7
  | .plop gd _ pd pa pb => uniform gd [] && pd == 7 && pa == 7 && pb == 7
  | .p2v _ _ => false
  | .v2p gd a mask => uniform gd [a] && mask == 0
  | .wbase _ _ _ _ => false
  | .ixset _ _ _ => false
  | .ixadd _ _ _ => false
  | .srd gd d sr => uniform gd [d] && !SReg.perThread sr
  | .swr gd a sr => uniform gd [a] && !SReg.perThread sr
  | .empty gd d _ => uniform gd [d]
  | .tfull gd a _ pd => uniform gd [a] && pd == 7
  | .allot gd _ pd => uniform gd [] && pd == 7
  | .iadd gd d a b _ => uniform gd [d, a, b]
  | .isub gd d a b _ => uniform gd [d, a, b]
  | .iadd3 gd d a b c _ => uniform gd [d, a, b, c]
  | .imul gd d a b _ => uniform gd [d, a, b]
  | .imulh gd d a b _ => uniform gd [d, a, b]
  | .imad gd d a b c _ => uniform gd [d, a, b, c]
  | .imin gd d a b _ => uniform gd [d, a, b]
  | .imax gd d a b _ => uniform gd [d, a, b]
  | .iabs gd d a _ => uniform gd [d, a]
  | .ineg gd d a _ => uniform gd [d, a]
  | .and gd d a b => uniform gd [d, a, b]
  | .or gd d a b => uniform gd [d, a, b]
  | .xor gd d a b => uniform gd [d, a, b]
  | .andn gd d a b => uniform gd [d, a, b]
  | .not gd d a => uniform gd [d, a]
  | .lop3 gd d a b c _ => uniform gd [d, a, b, c]
  | .shl gd d a b _ => uniform gd [d, a, b]
  | .shr gd d a b _ => uniform gd [d, a, b]
  | .sar gd d a b _ => uniform gd [d, a, b]
  | .rotl gd d a b => uniform gd [d, a, b]
  | .fshl gd d a b c => uniform gd [d, a, b, c]
  | .popc gd d a => uniform gd [d, a]
  | .clz gd d a => uniform gd [d, a]
  | .brev gd d a => uniform gd [d, a]
  | .bfe gd d a b _ => uniform gd [d, a, b]
  | .bfi gd d a b c => uniform gd [d, a, b, c]
  | .isetp gd a b _ _ _ pd => uniform gd [a, b] && pd == 7
  | .icsub gd d a b pd => uniform gd [d, a, b] && pd == 7
  | .iadd64 gd d a b => uniform gd [d, a, b]
  | .isub64 gd d a b => uniform gd [d, a, b]
  | .imulw gd d a b _ => uniform gd [d, a, b]
  | .lea gd d a b _ _ => uniform gd [d, a, b]
  | .isat gd d a _ _ => uniform gd [d, a]
  | .idp4 gd d a b c _ _ _ => uniform gd [d, a, b, c]
  | .fadd gd d a b _ => uniform gd [d, a, b]
  | .fsub gd d a b _ => uniform gd [d, a, b]
  | .fmul gd d a b _ => uniform gd [d, a, b]
  | .ffma gd d a b c _ => uniform gd [d, a, b, c]
  | .fmin gd d a b => uniform gd [d, a, b]
  | .fmax gd d a b => uniform gd [d, a, b]
  | .fminp gd d a b => uniform gd [d, a, b]
  | .fmaxp gd d a b => uniform gd [d, a, b]
  | .fabs gd d a => uniform gd [d, a]
  | .fneg gd d a => uniform gd [d, a]
  | .fsetp gd a b _ pd => uniform gd [a, b] && pd == 7
  | .fclass gd d a => uniform gd [d, a]
  | .frnd gd d a _ => uniform gd [d, a]
  | .fdiv gd d a b _ => uniform gd [d, a, b]
  | .fsqrt gd d a _ => uniform gd [d, a]
  | .frcp gd d a _ => uniform gd [d, a]
  | .frsq gd d a => uniform gd [d, a]
  | .fexp2 gd d a => uniform gd [d, a]
  | .flog2 gd d a => uniform gd [d, a]
  | .fsinpi gd d a => uniform gd [d, a]
  | .fcospi gd d a => uniform gd [d, a]
  | .ftanh gd d a => uniform gd [d, a]
  | .hadd2 gd d a b _ _ => uniform gd [d, a, b]
  | .hmul2 gd d a b _ _ => uniform gd [d, a, b]
  | .hfma2 gd d a b c _ _ => uniform gd [d, a, b, c]
  | .fcvt gd d a _ dst _ => uniform gd [d, a] && dst == 0
  | .f2i gd d a _ _ => uniform gd [d, a]
  | .i2f gd d a _ _ _ => uniform gd [d, a]
  | .qcvt _ _ _ _ _ _ => false
  | .qdeq gd d a b _ _ _ => uniform gd [d, a, b]
  | .qscale gd d a _ _ => uniform gd [d, a]
  | .mxon _ _ _ _ _ _ => false
  | .mxoff _ => false
  | .mxsync _ => false
  | .mxclr _ => false
  | .stld _ _ _ => true
  | .stswap _ => true
  | .mma _ _ => false
  | .mmas _ _ _ => false
  | .mxrd _ _ _ _ => false
  | .mxst _ _ _ _ _ _ _ _ => false
  | .ld gd t a x _ _ _ _ => uniform gd [t, a, x]
  | .st gd t a x _ _ _ _ => uniform gd [t, a, x]
  | .ldp gd t a x _ _ _ _ => uniform gd [t, a, x]
  | .stp gd t a x _ _ _ _ => uniform gd [t, a, x]
  | .ldk gd t a x _ _ => uniform gd [t, a, x]
  | .atom gd t a x _ _ _ _ _ => uniform gd [t, a, x]
  | .acas gd t a x _ _ _ _ => uniform gd [t, a, x]
  | .red gd a x _ _ _ _ _ => uniform gd [a, x]
  | .atomp gd t a x _ _ _ _ _ => uniform gd [t, a, x]
  | .acasp gd t a x _ _ _ _ => uniform gd [t, a, x]
  | .fence gd _ _ => uniform gd []
  | .pref gd a x _ _ _ => uniform gd [a, x]
  | .cflush gd a x _ _ _ => uniform gd [a, x]
  | .tagrd gd t a x _ _ => uniform gd [t, a, x]
  | .tagwr gd t a x _ _ => uniform gd [t, a, x]
  | .copy gd d a b _ _ => uniform gd [d, a, b]
  | .copym gd d a b _ _ => uniform gd [d, a, b]
  | .hwait gd _ pd => uniform gd [] && pd == 7
  | .hrel gd _ => uniform gd []
  | .hstat gd d _ => uniform gd [d]
  | .cfetch gd a pd => uniform gd [a] && pd == 7
  | .cwait gd a => uniform gd [a]
  | .jmpf gd a _ _ => uniform gd [a]
  | .callf _ _ _ _ => false
  | .cevict gd a => uniform gd [a]
  | .rast gd d a _ => uniform gd [d, a]
  | .visld gd d a b _ => uniform gd [d, a, b]
  | .bary gd d a b c => uniform gd [d, a, b, c]
  | .tex gd d a b c _ _ pd => uniform gd [d, a, b, c] && pd == 7
  | .texg gd d a b c _ _ pd => uniform gd [d, a, b, c] && pd == 7
  | .texq gd d a c => uniform gd [d, a, c]
  | .rsmark gd a => uniform gd [a]
  | .rtbox gd d a b c pd => uniform gd [d, a, b, c] && pd == 7
  | .rttri gd d a b c _ pd => uniform gd [d, a, b, c] && pd == 7
  | .rtxf gd d a c _ => uniform gd [d, a, c]
  | .sig gd d a => uniform gd [d, a]
  | .sigend gd a b c => uniform gd [a, b, c]
  | .time gd d => uniform gd [d]
  | .launch gd a pd => uniform gd [a] && pd == 7
  | .launchw gd a => uniform gd [a]
  | .lwait gd d a _ pd => uniform gd [d, a] && pd == 7
  | .lpub gd a pd => uniform gd [a] && pd == 7
  | .platch gd d _ _ pd => uniform gd [d] && pd == 7
  | .decls gd a => uniform gd [a]
  | .kselGen gd _ pd => uniform gd [] && pd == 7
  | .kselZero gd _ pd => uniform gd [] && pd == 7
  | .kselDcl gd a _ pd => uniform gd [a] && pd == 7
  | .kselUndcl gd a _ pd => uniform gd [a] && pd == 7
  | .kselStat gd d _ => uniform gd [d]
  | .trap _ _ _ _ => false
  | .rte _ => false
  | .ctxsv gd a _ pd => uniform gd [a] && pd == 7
  | .ctxld gd a pd => uniform gd [a] && pd == 7
  | .ifrrd gd d a _ _ => uniform gd [d, a]
  | .frqpop gd d _ pd => uniform gd [d] && pd == 7
  | .frqack gd a _ pd => uniform gd [a] && pd == 7
  | .rngwr gd d a pd => uniform gd [d, a] && pd == 7
  | .rnginvA gd a => uniform gd [a]
  | .rnginvB gd a _ _ => uniform gd [a]
  | .dirtyhv gd d a _ => uniform gd [d, a]
  | .halt gd => uniform gd []
  | .yieldExpiry _ _ _ => false
  | .regroupCompletion _ => false
  | .waittRelease _ _ _ => false
  | .producerCompletion _ _ _ => false
  | .mxsyncFold _ _ _ => false
  | .planeReady _ _ => false
  | .stswapCompletion _ _ => false
  | .gridSwitchEnd _ _ => false
  | .accessAtHome _ _ _ _ => false
  | .copyBeat _ _ => false
  | .handleDrainEnd _ _ => false
  | .codeFetchCompletion _ _ => false
  | .rasterCommand _ => false
  | .residencyRequest _ => false
  | .teamPlacement _ => false
  | .stopRequest _ => false
  | .freezeBroadcast _ _ => false
  | .ifrSnapshot _ => false
  | .saveComplete _ => false
  | .teamEviction _ => false
  | .teamRestore _ => false
  | .replayEnd _ => false
  | .rollback _ => false
  | .launchCompletion _ => false
  | .sittingOpening _ => false
  | .sittingEnd _ => false
  | .graceExpiry _ => false
  | .stctlSwitch _ => false
  | .frameStart _ => false
  | .scanOutLine _ _ => false
  | .proofInstant _ _ => false
  | .scrubCompletion _ _ => false
  | .tellTaleStateWord _ => false
  | .attitudeMessage _ => false
  | .gptpMessage _ _ => false
  | .spdmMessage _ _ => false
  | .stagingMessage _ _ => false
  | .unadmittedFrame _ => false
  | .frameStartPacket _ => false
  | .cameraLinePacket _ _ _ _ => false
  | .frameEndPacket _ => false
  | .cameraControlWrite _ _ _ => false
  | .canvasApply _ => false
  | .layerEntryWrite _ _ _ _ => false
  | .warpConfigurationWrite _ _ => false
  | .prfinjWrite _ => false
  | .partitionRequest _ _ => false
  | .partitionDissolution _ => false
  | .engineAssignmentWrite _ _ => false
  | .rreset _ _ => false
  | .apertureRead _ _ _ => false
  | .apertureWrite _ _ _ => false
  | .functionLevelReset _ => false
  | .stagingBegin _ => false
  | .stagingChunk _ _ _ => false
  | .stagingPermit _ _ => false
  | .stagingEnd _ => false
  | .stagingAbort _ => false
  | .wake _ => false
  | .bootFallback _ => false
  | .thermal _ => false
  | .memoryScrub _ _ => false
  | .registerWrite _ _ _ => false
  | .gridStepPass _ _ _ => false
  | .illegalOpcode _ => false
  | .portLinkChange _ _ => false
  | .debugPermit _ => false
  | .bankSwitch => false
  | .gateWindowEnd => false
  | .admissionInterval => false
  | .warpLatch => false
  | .stateWordExpiry => false
  | .deepSleep => false
  | .timedWake => false
  | .deviceReset => false
  | .debugFreeze => false
  | .millisecond => false
  | .second => false
  | .codeAbsent => false
  | .powerLoss => false
  | .firmwareHealthyReport => false

/-- R57: a `COPY` writes V registers as part of its effect when its template's destination is registers. -/
def copiesToRegs (t : Team) (i : Instr) : Bool :=
  match i with
  | .copy _ _ _ _ k _ => (t.template k.toNat).any fun x => Tmpl.dst x == 2
  | _ => false

/-- `MOVG` gives its group one result (R97); a stop request meets it before or after it. -/
def groupWide (i : Instr) : Bool :=
  match i with
  | .movg _ _ _ _ _ => true
  | _ => false

/-- R37: the privileged instructions. -/
def isPrivileged (i : Instr) : Bool :=
  match i with
  | .rngwr _ _ _ _ | .rnginvA _ _ | .rnginvB _ _ _ _ | .dirtyhv _ _ _ _ | .kselGen _ _ _ | .kselZero _ _ _ | .kselDcl _ _ _ _
  | .kselUndcl _ _ _ _ | .kselStat _ _ _ | .ctxsv _ _ _ _ | .ctxld _ _ _ | .ifrrd _ _ _ _ _ | .frqpop _ _ _ _ | .frqack _ _ _ _
  | .halt _ => true
  | _ => false

/-- Steps 1 and 3 of R36: every member of the entry takes a decode trap at once. -/
def decodeTraps (t : Team) (i : Instr) : Bool :=
  match i with
  | .illegalOpcode _ => true
  | _ => t.tid != 0 && isPrivileged i

end Sys2Proof.Machine
end

