-- ==== Sys2Proof/Machine/Plan.lean ====
section
/-! DEFINITION. What the next step does (R36, R59-R66, R93, R245, R321): the agenda, the choice of a group and of one of its
entries, the traps that wait for an issue opportunity, an issue that a stop request cuts. -/

namespace Sys2Proof.Machine

/-! ## Eligibility (R61) -/

/-- The group may issue as far as its team and quad are concerned (R66, R197, R299, R305, R320, R340). -/
def State.teamIssues (s : State) (t : Team) : Bool :=
  t.st == .resident && !t.stopping && t.awaiting.isEmpty && t.tread.isNone &&
    (t.tid == 0 || (!t.templates.isEmpty && !s.replaysWait t && match s.grid? t.core t.quad with
      | some g => g.st != .switchingIn && g.st != .switchingOut
      | none => true))

/-- A member of an entry keeps it from issuing whatever its instruction is: it has arrived at a collective, is in
fault-wait, or has consumed poison. -/
def Team.held (t : Team) (gi : Nat) (e : Entry) : Bool :=
  e.arrived || (lanesOf e.mask).any fun l => t.faultWait gi l || ((t.group gi).thread l).consumed

/-- A member has a trap to take at its next issue opportunity. -/
def Group.trapsIn (g : Group) (e : Entry) : List Nat := (lanesOf e.mask).filter fun l => (g.thread l).ptrap.isSome

/-- Whether performing an entry's word would only wait. -/
def State.wouldWait (run : Instr → State → Result) (s : State) (c : Cur) : Bool :=
  match ({ s with cur := some c } : State).performWord run with
  | .next t => t.waited
  | _ => false

/-- An entry is eligible (R61), its YIELD state apart. -/
def State.entryReady (run : Instr → State → Result) (s : State) (t : Team) (gi ei : Nat) (e : Entry) : Bool :=
  !t.held gi e &&
    ((e.blocked == 0 && !((t.group gi).trapsIn e).isEmpty) || !s.wouldWait run ⟨t.tid, gi, ei⟩)

/-- The indices of a group's eligible entries (R61, R116): an entry that has yielded gives way to the others. -/
def State.eligible (run : Instr → State → Result) (s : State) (t : Team) (gi : Nat) : List Nat :=
  if !s.teamIssues t then []
  else
    let es := (t.group gi).entries.zipIdx
    let ready (p : Entry → Bool) : List Nat :=
      (es.filter fun x => p x.1 && s.entryReady run t gi x.2 x.1).map (·.2)
    let now := ready fun e => match e.yld with
      | some y => y.cycles == 0 && !y.waits
      | none => true
    if now.isEmpty then ready fun e => match e.yld with
      | some y => y.cycles == 0
      | none => true
    else now

/-- Rule 2 of R61: higher priority, lower PC, not solitary. -/
def Entry.before (a b : Entry) : Bool :=
  b.prio.toNat < a.prio.toNat || (a.prio == b.prio && (a.pc.toNat < b.pc.toNat || (a.pc == b.pc && (!a.solitary || b.solitary))))

/-- The age at which an entry is selected before every other (R64). -/
def maxAge : Nat := 1024

/-- The better of two entries under rule 2 of R61; of two that the rule cannot tell apart, the one that stands first in the frontier
(log 71). -/
def Group.better (g : Group) (i j : Nat) : Nat :=
  match g.entries[i]?, g.entries[j]? with
  | some a, some b => if a.before b then i else j
  | _, _ => i

/-- R61: the entry selected among the eligible ones. -/
def Group.choose (g : Group) (el : List Nat) : Option Nat :=
  let old := el.filter fun i => match g.entries[i]? with
    | some e => e.age ≥ maxAge
    | none => false
  match if old.isEmpty then el else old with
  | [] => none
  | i :: is => some (is.foldl g.better i)

/-- R64: the eligible entries not selected grow older. -/
def Group.grow (g : Group) (el : List Nat) (sel : Nat) : Group :=
  { g with entries := g.entries.zipIdx.map fun x =>
      if el.contains x.2 && x.2 != sel then { x.1 with age := min (x.1.age + 1) maxAge } else x.1 }

/-! ## Pending traps -/

/-- A thread of the issuing entry leaves it and takes the trap it has pending (R245, R464, R321). -/
def State.takePending (s : State) (c : Cur) (e : Entry) (l : Nat) : State :=
  match (s.grp c).thread l |>.ptrap with
  | none => s
  | some p =>
    let s1 := s.onGroup c fun g =>
      { g.updThread l (fun t => { t with ptrap := none, wakeAt := none, cwait := none }) with
        entries := dropLanes g.entries (laneBit l) }
    if c.tid == 0 then
      (s1.onGroup c fun g => g.updThread l fun t => { t with live := false }).controllerFault p.trap.cause.code p.pc
    else s1.trapInto c.tid c.grp l p.trap p.pc e.prio e.solitary

/-- The members with a pending trap take it at this issue opportunity. -/
def State.takePendings (s : State) (c : Cur) (e : Entry) (ls : List Nat) : State :=
  let s1 := ls.foldl (fun st l => st.takePending c e l) s
  let ended := (ls.filter fun l => !s1.alive c.tid c.grp l).map fun l => (c.grp, l)
  { s1.afterEnds c.tid ended with cur := none }

/-! ## The step -/

/-- What a step comes to: an instruction or event row performed on a state, or a state reached without one. -/
inductive Plan where
  | exec (i : Instr) (s : State)
  | done (r : Result)

/-- An issue by the entry that the group selects, if one is eligible. -/
def State.planIssue (run : Instr → State → Result) (s : State) (t : Team) (gi : Nat) : Plan :=
  let el := s.eligible run t gi
  match (t.group gi).choose el with
  | none => .done (.next s)
  | some ei =>
    let c : Cur := ⟨t.tid, gi, ei⟩
    let s1 := { s.updGroup t.tid gi (fun g => g.grow el ei) with cur := some c }
    match s1.issuing with
    | none => .done (.next s)
    | some (_, t1, g, e) =>
      match g.trapsIn e with
      | l :: ls => .done (.next (s1.takePendings c e (l :: ls)))
      | [] =>
        match s1.fetchWord t1 e.pc with
        | none => .exec .codeAbsent s1
        | some (w, bad) =>
          if bad then .done (consumeWord s1)
          else match decode w with
            | .ok i => .exec i s1
            | .error _ => .done (illegalEncoding w s1)

/-- The issue of a group's selected entry meets the team's stop request once `k` of the members whose guard is true have entered (R66):
those complete the instruction, and the others keep its PC, in an entry of their own with the entry's age. A uniform issue never
splits, nor does one whose effect is one for the group, nor a decode trap (R36). -/
def State.planCut (run : Instr → State → Result) (s : State) (t : Team) (gi k : Nat) : Plan :=
  let el := s.eligible run t gi
  match (t.group gi).choose el with
  | none => .done (.next s)
  | some ei =>
    let g := (t.group gi).grow el ei
    match g.entries[ei]? with
    | none => .done (.next s)
    | some e => match s.fetchWord t e.pc, g.trapsIn e with
      | some (w, false), [] => match decode w with
        | .error _ => .done (.next s)
        | .ok i =>
          let act := actLanes g e ⟨w.getLsbD 55, w.extractLsb' 52 3⟩
          if (uniformIssue i && !copiesToRegs t i) || groupWide i || decodeTraps t i || k == 0 || act.length ≤ k then .done (.next s)
          else
            let went := maskOf (act.take k)
            let part (m : BitVec 32) : Entry := { e with mask := m, blocked := e.blocked &&& m }
            let g1 := { g with entries := g.entries.set ei (part went) ++ [part (e.mask &&& ~~~went)] }
            .exec i { s.updGroup t.tid gi (fun _ => g1) with
              cur := some ⟨t.tid, gi, ei⟩, cutting := some (t.tid, ((s.cutting.map (·.2)).getD []) ++ [gi]) }
      | _, _ => .done (.next s)

/-- A group of a team, with its pipeline and its claim to it (R59). -/
structure Claim where
  tid : Nat
  grp : Nat
  core : Nat
  quad : Nat
  pipe : Option Nat
  level : Nat
  served : Nat

/-- Two groups share a pipeline; the controller has one of its own. -/
def Claim.rival (a b : Claim) : Bool :=
  a.tid != 0 && b.tid != 0 && a.pipe.isSome && a.pipe == b.pipe && a.core == b.core && a.quad == b.quad &&
    !(a.tid == b.tid && a.grp == b.grp)

/-- R59: rules 2 and 3. -/
def Claim.beats (a b : Claim) : Bool := b.level < a.level || (a.level == b.level && a.served < b.served)

/-- The groups with an eligible entry. -/
def State.claims (run : Instr → State → Result) (s : State) : List Claim :=
  (s.ctl :: s.teams).flatMap fun t => (List.range t.groups.length).filterMap fun gi =>
    if (s.eligible run t gi).isEmpty then none
    else some ⟨t.tid, gi, t.core, t.quad, (t.group gi).pipe.map (·.1), t.level, (t.group gi).served⟩

/-- The groups that may issue now (R59). -/
def State.ready (run : Instr → State → Result) (s : State) : List Claim :=
  let cs := s.claims run
  cs.filter fun a => !cs.any fun b => b.rival a && b.beats a

/-- The instruction that a group would issue now, where a word decodes to one. -/
def State.nextInstr (run : Instr → State → Result) (s : State) (t : Team) (gi : Nat) : Option Instr :=
  ((t.group gi).choose (s.eligible run t gi)).bind fun ei => ((t.group gi).entries[ei]?).bind fun e =>
    match s.fetchWord t e.pc with
    | some (w, false) => match decode w with
      | .ok i => some i
      | .error _ => none
    | _ => none

/-- The order of the requests for free store (R93, R208): ALLOT, then MXON. -/
def storeRank (i : Instr) : Option Nat :=
  match i with
  | .allot _ _ _ => some 0
  | .mxon _ _ _ _ _ _ => some 1
  | _ => none

/-- A group that asks for free store of its quad now: its rank, and its pipeline and slot. -/
structure StoreClaim where
  claim : Claim
  rank : Nat
  place : Nat × Nat

/-- R93, R208: of two requests that meet on a quad, the one granted first. -/
def StoreClaim.before (a b : StoreClaim) : Bool :=
  a.claim.core == b.claim.core && a.claim.quad == b.claim.quad &&
    (a.rank < b.rank || (a.rank == b.rank &&
      (a.place.1 < b.place.1 || (a.place.1 == b.place.1 && a.place.2 < b.place.2))))

/-- The groups that may issue now and would ask for free store. -/
def State.storeClaims (run : Instr → State → Result) (s : State) : List StoreClaim :=
  (s.ready run).filterMap fun c =>
    if c.tid == 0 then none
    else (s.team? c.tid).bind fun t => ((s.nextInstr run t c.grp).bind storeRank).map fun r =>
      ⟨c, r, ((t.group c.grp).pipe).getD (0, 0)⟩

/-- Of the groups that may issue, those whose requests for free store are at their turn (R93, R208). -/
def State.granted (run : Instr → State → Result) (s : State) : List Claim :=
  let xs := s.storeClaims run
  (s.ready run).filter fun c => !xs.any fun a => a.claim.tid == c.tid && a.claim.grp == c.grp && xs.any (·.before a)

/-- A placement or a restore, which takes free store after the requests of instructions (R93, R208). -/
def isPlacement (i : Instr) : Bool :=
  match i with
  | .teamPlacement _ | .teamRestore _ => true
  | _ => false

/-- A placement has to wait for a request that an instruction makes now. -/
def State.defers (run : Instr → State → Result) (s : State) (i : Instr) : Bool := isPlacement i && !(s.storeClaims run).isEmpty

/-- The row of an instruction that is no word's: something other than an issue performs it. -/
def isEventRow (i : Instr) : Bool := (encode i).isNone && i != .codeAbsent

/-- The pieces and results of a team's IFR, its grid rows and handles, that may move on by themselves. -/
def Team.internal (t : Team) : List Instr :=
  (t.palPend.map fun p => .producerCompletion t.tid (palBase + p.id) 0) ++
  (t.ifr.flatMap fun e => e.lanes.flatMap fun o =>
    .producerCompletion t.tid e.seq o.lane :: (List.range o.pieces.length).map fun k => .accessAtHome t.tid e.seq o.lane k) ++
  (t.groups.zipIdx.flatMap fun g => (g.1.entries.zipIdx.filter fun e => e.1.yld.isSome).map fun e => .yieldExpiry t.tid g.2 e.2) ++
  (t.groups.zipIdx.flatMap fun g => (g.1.lanes.zipIdx.filter fun l => l.1.wakeAt.isSome).map fun l => .waittRelease t.tid g.2 l.2) ++
  [.regroupCompletion t.tid] ++
  ((t.handles.zipIdx.filter fun h => h.1.st == .draining).map fun h => .handleDrainEnd t.tid h.2)

/-- What a team's stop, save, eviction, restore and replay do next. -/
def Team.lifecycle (t : Team) : List Instr :=
  (if t.stopping then (List.range 12).map (fun p => .freezeBroadcast t.tid p) ++ [.ifrSnapshot t.tid, .saveComplete t.tid] else []) ++
  (if t.st == .resident then [.stopRequest t.tid] else []) ++
  (if t.st == .saved || t.st == .evicted || t.st == .pending then [.teamRestore t.tid] else []) ++
  (if t.st == .resident then [.replayEnd t.tid, .teamEviction t.tid] else [])

/-- What a grid does next. -/
def Grid.internal (g : Grid) : List Instr :=
  (g.rows.flatMap fun r => [.gridStepPass g.tid r.grp r.lane, .mxsyncFold g.tid r.grp r.lane]) ++
  [.planeReady g.core g.quad, .stswapCompletion g.core g.quad, .gridSwitchEnd g.core g.quad]

/-- What device time brings about. -/
def State.timed (s : State) : List Instr :=
  [.timedWake, .bankSwitch] ++ (s.sits.opens.map fun o => .sittingOpening o.1) ++
  (s.sits.now.flatMap fun x => [.sittingEnd x.idx, .graceExpiry x.idx]) ++
  [.gateWindowEnd, .admissionInterval, .millisecond, .second, .warpLatch, .stateWordExpiry, .bootFallback 0] ++
  ((s.disp.layers.filter fun l => l.changed.isSome || l.ents.any fun e => (e.2.getD 0 0).getLsbD 63).map fun l => .proofInstant l.canvas l.num) ++
  (s.disp.canvases.flatMap fun c => [.scanOutLine c.num c.line, .frameStart c.num]) ++
  ((s.phealth.filter fun p => p.scrub.isSome).map fun p => .scrubCompletion p.num true) ++
  (if s.time.toNat < s.scrubEnd.toNat then []
   else match s.panels.filter fun p => p.scrubAt < groupSectors with
     | [] => [.memoryScrub 0 0]
     | ps => ps.map fun p => .memoryScrub p.num p.scrubAt)

/-- What the machine does by itself, in the order the model tries it (log 1). -/
def State.internal (s : State) : List Instr :=
  s.timed ++ (s.teams.flatMap Team.lifecycle) ++
  ((s.ctl :: s.teams).flatMap Team.internal) ++
  (s.grids.flatMap Grid.internal) ++
  (s.engines.flatMap fun e => match e.cmds with
    | [] => []
    | c :: _ => (List.range c.beats.length).map fun k => .copyBeat e.num k) ++
  (if s.parked.isEmpty && s.posts.isEmpty && !(s.teams.any s.replaysWait) then [] else [.copyBeat 0 0]) ++
  ((s.rasters.map (·.panel)).eraseDups.map .rasterCommand) ++
  ((List.range s.resReqs.length).map .residencyRequest) ++
  ((List.range 48).flatMap fun core =>
    (List.range (s.code.filter fun x => x.core == core).length).map fun k => .codeFetchCompletion core k) ++
  (s.launches.flatMap fun l => [.teamPlacement (l.lid * 2 ^ 24 + l.next), .launchCompletion l.lid]) ++
  ((s.ctxs.filter fun c => !s.consumptions.isEmpty && c.valid).map fun c => .rollback c.id.toNat) ++
  (if s.fw.sleep.power == .entering then [.deepSleep] else [])

/-- The first of a list of rows that changes the state. -/
def State.firstMove (run : Instr → State → Result) (s : State) : List Instr → Option Instr
  | [] => none
  | i :: is =>
    match run i s with
    | .next t => if t == s then s.firstMove run is else some i
    | _ => s.firstMove run is

/-- What may happen in each state of the device's power (R478, R488-R490, R493). -/
def Power.admits (p : Power) (i : Instr) : Bool :=
  match p, i with
  | .awake, _ | .entering, _ => true
  | .asleep, .wake _ | .asleep, .timedWake | .asleep, .functionLevelReset _ | .asleep, .debugFreeze => true
  | _, .deviceReset => true
  | .off, _ => false
  | _, .powerLoss => true
  | _, _ => false

/-- The device's cores, engines and homes run. -/
def Power.runs (p : Power) : Bool := p == .awake || p == .entering

/-- Device time passes, unless every clock has stopped. -/
def State.elapse (s : State) (ns : Nat) : State :=
  if s.fw.sleep.power == .frozen || s.fw.sleep.power == .off then s else { s with time := s.time + BitVec.ofNat 64 ns }

/-- The ready group served least recently issues, or the state stays as it is. -/
def State.planReady (run : Instr → State → Result) (s : State) : Plan :=
  match s.granted run with
  | [] => .done (.next s)
  | c :: cs =>
    let b := cs.foldl (fun x y => if y.served < x.served then y else x) c
    match s.team? b.tid with
    | some t => s.planIssue run t b.grp
    | none => .done (.next s)

/-- The step with no agenda: what is due and what the machine can do by itself goes first; else a nanosecond passes and the
ready group served least recently issues (log 1, 15). -/
def State.planDefault (run : Instr → State → Result) (s : State) : Plan :=
  match s.firstMove run (s.internal.filter fun i => s.fw.sleep.power.admits i && !s.defers run i) with
  | some i => .exec i s
  | none =>
    let s1 := s.elapse 1
    if s.fw.sleep.power.runs then s1.planReady run else .done (.next s1)

/-- The state after a plan's step, if it gives one. -/
def Plan.after (run : Instr → State → Result) : Plan → Option State
  | .exec i s => match run i s with
    | .next t => some { t with cur := none, waited := false }
    | _ => none
  | .done (.next t) => some { t with cur := none, waited := false }
  | .done _ => none

/-- A group of a team issues, if it has an eligible entry. -/
def State.issued (run : Instr → State → Result) (s : State) (tid gi : Nat) : Option State :=
  (s.team? tid).bind fun t => if (s.eligible run t gi).isEmpty then none else (s.planIssue run t gi).after run

/-- Groups issue in turn, each of which can. -/
def State.issuedAll (run : Instr → State → Result) (tid : Nat) : List Nat → State → Option State
  | [], s => some s
  | gi :: gs, s => (s.issued run tid gi).bind (State.issuedAll run tid gs)

/-- A team's mark. -/
def State.markOf (s : State) (tid : Nat) : BitVec 8 :=
  match s.team? tid with
  | some t => t.cls
  | none => 0

/-- Several groups of a team issue in one cycle (R452): the `DECLS` among them change the mark first, then every issue's raise is made, then
the issues are performed and checked. -/
def State.planTogether (run : Instr → State → Result) (s : State) (t : Team) (gs : List Nat) : Plan :=
  let cs := (s.granted run).filter fun c => c.tid == t.tid && gs.contains c.grp
  let lowers (gi : Nat) : Bool := match s.nextInstr run t gi with
    | some (.decls _ _) => true
    | _ => false
  let (first, rest) := gs.partition lowers
  let after : Option State := do
    let s1 ← State.issuedAll run t.tid first s
    let marks ← rest.mapM fun gi => (s1.issued run t.tid gi).map fun x => x.markOf t.tid
    State.issuedAll run t.tid rest (marks.foldl (fun x m => x.raiseMark t.tid m) s1)
  if decide gs.Nodup && gs.all (fun gi => cs.any fun c => c.grp == gi) && !cs.any (fun a => cs.any a.rival) then
    .done (.next (after.getD s))
  else .done (.next s)

/-- What the agenda's first action comes to. -/
def State.planAction (run : Instr → State → Result) (s : State) : Action → Plan
  | .elapse n => .done (.next (s.elapse n))
  | .event i => if isEventRow i && s.fw.sleep.power.admits i && !s.defers run i then .exec i s else .done (.next s)
  | .descriptor part desc => .done (.next (if s.fw.sleep.power.runs then (s.writeContext part desc).flagCtx.settleFp else s))
  | .operate core volt mhz => .done (.next (if s.fw.sleep.power.runs then s.operate core volt mhz else s))
  | .advance part rolls ridx => .done (.next (if s.fw.sleep.power.runs then s.advance part rolls ridx else s))
  | .upset u => .done (.next (s.upset u))
  | .issue tid gi =>
    match s.team? tid with
    | some t =>
      if s.fw.sleep.power.runs && (s.granted run).any fun c => c.tid == tid && c.grp == gi then s.planIssue run t gi
      else .done (.next s)
    | none => .done (.next s)
  | .together tid gs =>
    match s.team? tid with
    | some t => if s.fw.sleep.power.runs then s.planTogether run t gs else .done (.next s)
    | none => .done (.next s)
  | .cut tid gi k =>
    match s.team? tid with
    | some t =>
      if s.fw.sleep.power.runs && s.stopDue t && (s.granted run).any (fun c => c.tid == tid && c.grp == gi) then s.planCut run t gi k
      else .done (.next s)
    | none => .done (.next s)

/-- A team's stop request has met an issue part-way: it reaches the core now, after the other groups that the agenda says it meets
part-way (R66, R326). -/
def State.planStop (run : Instr → State → Result) (s : State) (tid : Nat) (gs : List Nat) : Plan :=
  let stop : Plan := .exec (.stopRequest tid) { s with cutting := none }
  match s.agenda, s.team? tid with
  | .cut tid' gi k :: rest, some t =>
    if tid' == tid && !gs.contains gi && (s.granted run).any (fun c => c.tid == tid && c.grp == gi) then
      ({ s with agenda := rest } : State).planCut run t gi k
    else stop
  | _, _ => stop

/-- What the next step does: a stop request that has met an issue goes on; else the studio controller takes an event if it may (R502),
else the agenda's first action, else the default. -/
def State.plan (run : Instr → State → Result) (s0 : State) : Plan :=
  let s := { s0 with cur := none, waited := false }
  match s.cutting with
  | some (tid, gs) => s.planStop run tid gs
  | none =>
    if s.fw.sleep.power.runs && s.mayDispatch then .done (.next s.dispatch)
    else match s.agenda with
      | [] => s.planDefault run
      | a :: rest => ({ s with agenda := rest } : State).planAction run a

/-- A machine that runs one word as its next instruction: the studio controller's thread stands at byte 0 of its private
memory, which holds the word (R522, log 3). -/
def State.placeWord (s : State) (w : Nat) : State :=
  let th : Thread := Thread.initial 1024
  let g : Group := { Group.empty with
    lanes := th :: List.replicate 31 Thread.dead
    gregs := List.replicate 64 Slot.zero
    allot := 1024
    entries := [Entry.at 0 0 1 false] }
  { s with
    agenda := [], cutting := none
    ctl := { s.ctl with groups := [g] }
    ctlMem := Memory.writeN s.ctlMem 0 8 w
    ctlImage := max s.ctlImage 8 }

end Sys2Proof.Machine
end

