-- ==== Sys2Proof/Machine/Dispatch.lean ====
section
/-! DEFINITION. The meaning of every instruction and event row: one arm, one call. -/

namespace Sys2Proof.Machine

def exec (i : Instr) (s : State) : Host.Outcome State Fault Refusal :=
  match i with
  | .nop gd => Sys2Proof.Machine.execNop gd s
  | .bra gd pr disp => Sys2Proof.Machine.execBra gd pr disp s
  | .brx gd a pr => Sys2Proof.Machine.execBrx gd a pr s
  | .call gd pr disp => Sys2Proof.Machine.execCall gd pr disp s
  | .callx gd a pr => Sys2Proof.Machine.execCallx gd a pr s
  | .ret gd a => Sys2Proof.Machine.execRet gd a s
  | .exit gd => Sys2Proof.Machine.execExit gd s
  | .yield gd cyc => Sys2Proof.Machine.execYield gd cyc s
  | .prio gd p => Sys2Proof.Machine.execPrio gd p s
  | .regroup gd a => Sys2Proof.Machine.execRegroup gd a s
  | .barg gd a hi lo => Sys2Proof.Machine.execBarg gd a hi lo s
  | .bart gd a gm => Sys2Proof.Machine.execBart gd a gm s
  | .arrive gd d a ofs => Sys2Proof.Machine.execArrive gd d a ofs s
  | .await gd a test pd ofs => Sys2Proof.Machine.execAwait gd a test pd ofs s
  | .vote gd d c pd op neg pa => Sys2Proof.Machine.execVote gd d c pd op neg pa s
  | .elect gd d c pd => Sys2Proof.Machine.execElect gd d c pd s
  | .shfl gd d a b c mode pd => Sys2Proof.Machine.execShfl gd d a b c mode pd s
  | .redg gd d a c op => Sys2Proof.Machine.execRedg gd d a c op s
  | .scang gd d a c excl op => Sys2Proof.Machine.execScang gd d a c excl op s
  | .matchG gd d a c b64 pd => Sys2Proof.Machine.execMatchG gd d a c b64 pd s
  | .waitt gd a => Sys2Proof.Machine.execWaitt gd a s
  | .mov gd d a size => Sys2Proof.Machine.execMov gd d a size s
  | .movi gd d imm => Sys2Proof.Machine.execMovi gd d imm s
  | .movg gd d a first lane => Sys2Proof.Machine.execMovg gd d a first lane s
  | .sel gd d a b size neg pc => Sys2Proof.Machine.execSel gd d a b size neg pc s
  | .pset gd a b test pd => Sys2Proof.Machine.execPset gd a b test pd s
  | .plop gd op pd pa pb => Sys2Proof.Machine.execPlop gd op pd pa pb s
  | .p2v gd d => Sys2Proof.Machine.execP2v gd d s
  | .v2p gd a mask => Sys2Proof.Machine.execV2p gd a mask s
  | .wbase gd a rel delta => Sys2Proof.Machine.execWbase gd a rel delta s
  | .ixset gd a imm => Sys2Proof.Machine.execIxset gd a imm s
  | .ixadd gd a imm => Sys2Proof.Machine.execIxadd gd a imm s
  | .srd gd d sr => Sys2Proof.Machine.execSrd gd d sr s
  | .swr gd a sr => Sys2Proof.Machine.execSwr gd a sr s
  | .empty gd d size => Sys2Proof.Machine.execEmpty gd d size s
  | .tfull gd a test pd => Sys2Proof.Machine.execTfull gd a test pd s
  | .allot gd n pd => Sys2Proof.Machine.execAllot gd n pd s
  | .iadd gd d a b sat => Sys2Proof.Machine.execIadd gd d a b sat s
  | .isub gd d a b sat => Sys2Proof.Machine.execIsub gd d a b sat s
  | .iadd3 gd d a b c sat => Sys2Proof.Machine.execIadd3 gd d a b c sat s
  | .imul gd d a b sat => Sys2Proof.Machine.execImul gd d a b sat s
  | .imulh gd d a b sgn => Sys2Proof.Machine.execImulh gd d a b sgn s
  | .imad gd d a b c sat => Sys2Proof.Machine.execImad gd d a b c sat s
  | .imin gd d a b u => Sys2Proof.Machine.execImin gd d a b u s
  | .imax gd d a b u => Sys2Proof.Machine.execImax gd d a b u s
  | .iabs gd d a s1 => Sys2Proof.Machine.execIabs gd d a s1 s
  | .ineg gd d a s1 => Sys2Proof.Machine.execIneg gd d a s1 s
  | .and gd d a b => Sys2Proof.Machine.execAnd gd d a b s
  | .or gd d a b => Sys2Proof.Machine.execOr gd d a b s
  | .xor gd d a b => Sys2Proof.Machine.execXor gd d a b s
  | .andn gd d a b => Sys2Proof.Machine.execAndn gd d a b s
  | .not gd d a => Sys2Proof.Machine.execNot gd d a s
  | .lop3 gd d a b c lut => Sys2Proof.Machine.execLop3 gd d a b c lut s
  | .shl gd d a b wrap => Sys2Proof.Machine.execShl gd d a b wrap s
  | .shr gd d a b wrap => Sys2Proof.Machine.execShr gd d a b wrap s
  | .sar gd d a b wrap => Sys2Proof.Machine.execSar gd d a b wrap s
  | .rotl gd d a b => Sys2Proof.Machine.execRotl gd d a b s
  | .fshl gd d a b c => Sys2Proof.Machine.execFshl gd d a b c s
  | .popc gd d a => Sys2Proof.Machine.execPopc gd d a s
  | .clz gd d a => Sys2Proof.Machine.execClz gd d a s
  | .brev gd d a => Sys2Proof.Machine.execBrev gd d a s
  | .bfe gd d a b sx => Sys2Proof.Machine.execBfe gd d a b sx s
  | .bfi gd d a b c => Sys2Proof.Machine.execBfi gd d a b c s
  | .isetp gd a b cmp u b64 pd => Sys2Proof.Machine.execIsetp gd a b cmp u b64 pd s
  | .icsub gd d a b pd => Sys2Proof.Machine.execIcsub gd d a b pd s
  | .iadd64 gd d a b => Sys2Proof.Machine.execIadd64 gd d a b s
  | .isub64 gd d a b => Sys2Proof.Machine.execIsub64 gd d a b s
  | .imulw gd d a b sgn => Sys2Proof.Machine.execImulw gd d a b sgn s
  | .lea gd d a b sx sh => Sys2Proof.Machine.execLea gd d a b sx sh s
  | .isat gd d a u ty => Sys2Proof.Machine.execIsat gd d a u ty s
  | .idp4 gd d a b c sat au bu => Sys2Proof.Machine.execIdp4 gd d a b c sat au bu s
  | .fadd gd d a b rnd => Sys2Proof.Machine.execFadd gd d a b rnd s
  | .fsub gd d a b rnd => Sys2Proof.Machine.execFsub gd d a b rnd s
  | .fmul gd d a b rnd => Sys2Proof.Machine.execFmul gd d a b rnd s
  | .ffma gd d a b c rnd => Sys2Proof.Machine.execFfma gd d a b c rnd s
  | .fmin gd d a b => Sys2Proof.Machine.execFmin gd d a b s
  | .fmax gd d a b => Sys2Proof.Machine.execFmax gd d a b s
  | .fminp gd d a b => Sys2Proof.Machine.execFminp gd d a b s
  | .fmaxp gd d a b => Sys2Proof.Machine.execFmaxp gd d a b s
  | .fabs gd d a => Sys2Proof.Machine.execFabs gd d a s
  | .fneg gd d a => Sys2Proof.Machine.execFneg gd d a s
  | .fsetp gd a b cmp pd => Sys2Proof.Machine.execFsetp gd a b cmp pd s
  | .fclass gd d a => Sys2Proof.Machine.execFclass gd d a s
  | .frnd gd d a rnd => Sys2Proof.Machine.execFrnd gd d a rnd s
  | .fdiv gd d a b rnd => Sys2Proof.Machine.execFdiv gd d a b rnd s
  | .fsqrt gd d a rnd => Sys2Proof.Machine.execFsqrt gd d a rnd s
  | .frcp gd d a rnd => Sys2Proof.Machine.execFrcp gd d a rnd s
  | .frsq gd d a => Sys2Proof.Machine.execFrsq gd d a s
  | .fexp2 gd d a => Sys2Proof.Machine.execFexp2 gd d a s
  | .flog2 gd d a => Sys2Proof.Machine.execFlog2 gd d a s
  | .fsinpi gd d a => Sys2Proof.Machine.execFsinpi gd d a s
  | .fcospi gd d a => Sys2Proof.Machine.execFcospi gd d a s
  | .ftanh gd d a => Sys2Proof.Machine.execFtanh gd d a s
  | .hadd2 gd d a b rnd ty => Sys2Proof.Machine.execHadd2 gd d a b rnd ty s
  | .hmul2 gd d a b rnd ty => Sys2Proof.Machine.execHmul2 gd d a b rnd ty s
  | .hfma2 gd d a b c rnd ty => Sys2Proof.Machine.execHfma2 gd d a b c rnd ty s
  | .fcvt gd d a rnd dst src => Sys2Proof.Machine.execFcvt gd d a rnd dst src s
  | .f2i gd d a rnd dst => Sys2Proof.Machine.execF2i gd d a rnd dst s
  | .i2f gd d a rnd dst src => Sys2Proof.Machine.execI2f gd d a rnd dst src s
  | .qcvt gd d a b rnd ty => Sys2Proof.Machine.execQcvt gd d a b rnd ty s
  | .qdeq gd d a b rnd ty el => Sys2Proof.Machine.execQdeq gd d a b rnd ty el s
  | .qscale gd d a am ty => Sys2Proof.Machine.execQscale gd d a am ty s
  | .mxon gd shape scaled ty try_ pd => Sys2Proof.Machine.execMxon gd shape scaled ty try_ pd s
  | .mxoff gd => Sys2Proof.Machine.execMxoff gd s
  | .mxsync gd => Sys2Proof.Machine.execMxsync gd s
  | .mxclr gd => Sys2Proof.Machine.execMxclr gd s
  | .stld gd a ofs => Sys2Proof.Machine.execStld gd a ofs s
  | .stswap gd => Sys2Proof.Machine.execStswap gd s
  | .mma gd a => Sys2Proof.Machine.execMma gd a s
  | .mmas gd a b => Sys2Proof.Machine.execMmas gd a b s
  | .mxrd gd d a size => Sys2Proof.Machine.execMxrd gd d a size s
  | .mxst gd t a x ofs scope ord sz => Sys2Proof.Machine.execMxst gd t a x ofs scope ord sz s
  | .ld gd t a x ofs scope ord sz => Sys2Proof.Machine.execLd gd t a x ofs scope ord sz s
  | .st gd t a x ofs scope ord sz => Sys2Proof.Machine.execSt gd t a x ofs scope ord sz s
  | .ldp gd t a x ofs scope ord sz => Sys2Proof.Machine.execLdp gd t a x ofs scope ord sz s
  | .stp gd t a x ofs scope ord sz => Sys2Proof.Machine.execStp gd t a x ofs scope ord sz s
  | .ldk gd t a x ofs sz => Sys2Proof.Machine.execLdk gd t a x ofs sz s
  | .atom gd t a x aop aofs scope ord sz => Sys2Proof.Machine.execAtom gd t a x aop aofs scope ord sz s
  | .acas gd t a x ofs scope ord sz => Sys2Proof.Machine.execAcas gd t a x ofs scope ord sz s
  | .red gd a x aop aofs scope ord sz => Sys2Proof.Machine.execRed gd a x aop aofs scope ord sz s
  | .atomp gd t a x aop aofs scope ord sz => Sys2Proof.Machine.execAtomp gd t a x aop aofs scope ord sz s
  | .acasp gd t a x ofs scope ord sz => Sys2Proof.Machine.execAcasp gd t a x ofs scope ord sz s
  | .fence gd scope ord => Sys2Proof.Machine.execFence gd scope ord s
  | .pref gd a x ofs scope sz => Sys2Proof.Machine.execPref gd a x ofs scope sz s
  | .cflush gd a x ofs scope sz => Sys2Proof.Machine.execCflush gd a x ofs scope sz s
  | .tagrd gd t a x ofs sz => Sys2Proof.Machine.execTagrd gd t a x ofs sz s
  | .tagwr gd t a x ofs sz => Sys2Proof.Machine.execTagwr gd t a x ofs sz s
  | .copy gd d a b tmpl hnd => Sys2Proof.Machine.execCopy gd d a b tmpl hnd s
  | .copym gd d a b tmpl hnd => Sys2Proof.Machine.execCopym gd d a b tmpl hnd s
  | .hwait gd hnd pd => Sys2Proof.Machine.execHwait gd hnd pd s
  | .hrel gd hnd => Sys2Proof.Machine.execHrel gd hnd s
  | .hstat gd d hnd => Sys2Proof.Machine.execHstat gd d hnd s
  | .cfetch gd a pd => Sys2Proof.Machine.execCfetch gd a pd s
  | .cwait gd a => Sys2Proof.Machine.execCwait gd a s
  | .jmpf gd a pr disp => Sys2Proof.Machine.execJmpf gd a pr disp s
  | .callf gd a pr disp => Sys2Proof.Machine.execCallf gd a pr disp s
  | .cevict gd a => Sys2Proof.Machine.execCevict gd a s
  | .rast gd d a hnd => Sys2Proof.Machine.execRast gd d a hnd s
  | .visld gd d a b pos => Sys2Proof.Machine.execVisld gd d a b pos s
  | .bary gd d a b c => Sys2Proof.Machine.execBary gd d a b c s
  | .tex gd d a b c nm lin pd => Sys2Proof.Machine.execTex gd d a b c nm lin pd s
  | .texg gd d a b c comp nm pd => Sys2Proof.Machine.execTexg gd d a b c comp nm pd s
  | .texq gd d a c => Sys2Proof.Machine.execTexq gd d a c s
  | .rsmark gd a => Sys2Proof.Machine.execRsmark gd a s
  | .rtbox gd d a b c pd => Sys2Proof.Machine.execRtbox gd d a b c pd s
  | .rttri gd d a b c cull pd => Sys2Proof.Machine.execRttri gd d a b c cull pd s
  | .rtxf gd d a c dir => Sys2Proof.Machine.execRtxf gd d a c dir s
  | .sig gd d a => Sys2Proof.Machine.execSig gd d a s
  | .sigend gd a b c => Sys2Proof.Machine.execSigend gd a b c s
  | .time gd d => Sys2Proof.Machine.execTime gd d s
  | .launch gd a pd => Sys2Proof.Machine.execLaunch gd a pd s
  | .launchw gd a => Sys2Proof.Machine.execLaunchw gd a s
  | .lwait gd d a test pd => Sys2Proof.Machine.execLwait gd d a test pd s
  | .lpub gd a pd => Sys2Proof.Machine.execLpub gd a pd s
  | .platch gd d md slot pd => Sys2Proof.Machine.execPlatch gd d md slot pd s
  | .decls gd a => Sys2Proof.Machine.execDecls gd a s
  | .kselGen gd slot pd => Sys2Proof.Machine.execKselGen gd slot pd s
  | .kselZero gd slot pd => Sys2Proof.Machine.execKselZero gd slot pd s
  | .kselDcl gd a slot pd => Sys2Proof.Machine.execKselDcl gd a slot pd s
  | .kselUndcl gd a slot pd => Sys2Proof.Machine.execKselUndcl gd a slot pd s
  | .kselStat gd d slot => Sys2Proof.Machine.execKselStat gd d slot s
  | .trap gd a w64 code => Sys2Proof.Machine.execTrap gd a w64 code s
  | .rte gd => Sys2Proof.Machine.execRte gd s
  | .ctxsv gd a hold pd => Sys2Proof.Machine.execCtxsv gd a hold pd s
  | .ctxld gd a pd => Sys2Proof.Machine.execCtxld gd a pd s
  | .ifrrd gd d a dw ent => Sys2Proof.Machine.execIfrrd gd d a dw ent s
  | .frqpop gd d panel pd => Sys2Proof.Machine.execFrqpop gd d panel pd s
  | .frqack gd a refuse pd => Sys2Proof.Machine.execFrqack gd a refuse pd s
  | .rngwr gd d a pd => Sys2Proof.Machine.execRngwr gd d a pd s
  | .rnginvA gd a => Sys2Proof.Machine.execRnginvA gd a s
  | .rnginvB gd a disc n1 => Sys2Proof.Machine.execRnginvB gd a disc n1 s
  | .dirtyhv gd d a n1 => Sys2Proof.Machine.execDirtyhv gd d a n1 s
  | .halt gd => Sys2Proof.Machine.execHalt gd s
  | .yieldExpiry tid grp ent => Sys2Proof.Machine.execYieldExpiry tid grp ent s
  | .regroupCompletion tid => Sys2Proof.Machine.execRegroupCompletion tid s
  | .waittRelease tid grp lane => Sys2Proof.Machine.execWaittRelease tid grp lane s
  | .producerCompletion tid op lane => Sys2Proof.Machine.execProducerCompletion tid op lane s
  | .mxsyncFold tid grp lane => Sys2Proof.Machine.execMxsyncFold tid grp lane s
  | .planeReady core quad => Sys2Proof.Machine.execPlaneReady core quad s
  | .stswapCompletion core quad => Sys2Proof.Machine.execStswapCompletion core quad s
  | .gridSwitchEnd core quad => Sys2Proof.Machine.execGridSwitchEnd core quad s
  | .accessAtHome tid op lane piece => Sys2Proof.Machine.execAccessAtHome tid op lane piece s
  | .copyBeat eng beat => Sys2Proof.Machine.execCopyBeat eng beat s
  | .handleDrainEnd tid hnd => Sys2Proof.Machine.execHandleDrainEnd tid hnd s
  | .codeFetchCompletion core seg => Sys2Proof.Machine.execCodeFetchCompletion core seg s
  | .rasterCommand panel => Sys2Proof.Machine.execRasterCommand panel s
  | .residencyRequest k => Sys2Proof.Machine.execResidencyRequest k s
  | .teamPlacement tid => Sys2Proof.Machine.execTeamPlacement tid s
  | .stopRequest tid => Sys2Proof.Machine.execStopRequest tid s
  | .freezeBroadcast tid panel => Sys2Proof.Machine.execFreezeBroadcast tid panel s
  | .ifrSnapshot tid => Sys2Proof.Machine.execIfrSnapshot tid s
  | .saveComplete tid => Sys2Proof.Machine.execSaveComplete tid s
  | .teamEviction tid => Sys2Proof.Machine.execTeamEviction tid s
  | .teamRestore tid => Sys2Proof.Machine.execTeamRestore tid s
  | .replayEnd tid => Sys2Proof.Machine.execReplayEnd tid s
  | .rollback ctx => Sys2Proof.Machine.execRollback ctx s
  | .launchCompletion lid => Sys2Proof.Machine.execLaunchCompletion lid s
  | .sittingOpening k => Sys2Proof.Machine.execSittingOpening k s
  | .sittingEnd k => Sys2Proof.Machine.execSittingEnd k s
  | .graceExpiry k => Sys2Proof.Machine.execGraceExpiry k s
  | .stctlSwitch v => Sys2Proof.Machine.execStctlSwitch v s
  | .frameStart canvas => Sys2Proof.Machine.execFrameStart canvas s
  | .scanOutLine canvas line => Sys2Proof.Machine.execScanOutLine canvas line s
  | .proofInstant canvas layer => Sys2Proof.Machine.execProofInstant canvas layer s
  | .scrubCompletion panel pass => Sys2Proof.Machine.execScrubCompletion panel pass s
  | .tellTaleStateWord msg => Sys2Proof.Machine.execTellTaleStateWord msg s
  | .attitudeMessage msg => Sys2Proof.Machine.execAttitudeMessage msg s
  | .gptpMessage port t => Sys2Proof.Machine.execGptpMessage port t s
  | .spdmMessage mctp msg => Sys2Proof.Machine.execSpdmMessage mctp msg s
  | .stagingMessage port msg => Sys2Proof.Machine.execStagingMessage port msg s
  | .unadmittedFrame port => Sys2Proof.Machine.execUnadmittedFrame port s
  | .frameStartPacket r => Sys2Proof.Machine.execFrameStartPacket r s
  | .cameraLinePacket r dt bad pix => Sys2Proof.Machine.execCameraLinePacket r dt bad pix s
  | .frameEndPacket r => Sys2Proof.Machine.execFrameEndPacket r s
  | .cameraControlWrite r dw v => Sys2Proof.Machine.execCameraControlWrite r dw v s
  | .canvasApply canvas => Sys2Proof.Machine.execCanvasApply canvas s
  | .layerEntryWrite canvas layer dw v => Sys2Proof.Machine.execLayerEntryWrite canvas layer dw v s
  | .warpConfigurationWrite dw v => Sys2Proof.Machine.execWarpConfigurationWrite dw v s
  | .prfinjWrite v => Sys2Proof.Machine.execPrfinjWrite v s
  | .partitionRequest first v => Sys2Proof.Machine.execPartitionRequest first v s
  | .partitionDissolution first => Sys2Proof.Machine.execPartitionDissolution first s
  | .engineAssignmentWrite eng v => Sys2Proof.Machine.execEngineAssignmentWrite eng v s
  | .rreset fn ctx => Sys2Proof.Machine.execRreset fn ctx s
  | .apertureRead fn ofs n => Sys2Proof.Machine.execApertureRead fn ofs n s
  | .apertureWrite fn ofs data => Sys2Proof.Machine.execApertureWrite fn ofs data s
  | .functionLevelReset fn => Sys2Proof.Machine.execFunctionLevelReset fn s
  | .stagingBegin kind => Sys2Proof.Machine.execStagingBegin kind s
  | .stagingChunk kind ofs data => Sys2Proof.Machine.execStagingChunk kind ofs data s
  | .stagingPermit kind data => Sys2Proof.Machine.execStagingPermit kind data s
  | .stagingEnd kind => Sys2Proof.Machine.execStagingEnd kind s
  | .stagingAbort kind => Sys2Proof.Machine.execStagingAbort kind s
  | .wake cause => Sys2Proof.Machine.execWake cause s
  | .bootFallback kind => Sys2Proof.Machine.execBootFallback kind s
  | .thermal arg => Sys2Proof.Machine.execThermal arg s
  | .memoryScrub panel sector => Sys2Proof.Machine.execMemoryScrub panel sector s
  | .registerWrite fn ofs v => Sys2Proof.Machine.execRegisterWrite fn ofs v s
  | .gridStepPass tid grp lane => Sys2Proof.Machine.execGridStepPass tid grp lane s
  | .illegalOpcode w => Sys2Proof.Machine.execIllegalOpcode w s
  | .portLinkChange port up => Sys2Proof.Machine.execPortLinkChange port up s
  | .debugPermit data => Sys2Proof.Machine.execDebugPermit data s
  | .bankSwitch => Sys2Proof.Machine.execBankSwitch s
  | .gateWindowEnd => Sys2Proof.Machine.execGateWindowEnd s
  | .admissionInterval => Sys2Proof.Machine.execAdmissionInterval s
  | .warpLatch => Sys2Proof.Machine.execWarpLatch s
  | .stateWordExpiry => Sys2Proof.Machine.execStateWordExpiry s
  | .deepSleep => Sys2Proof.Machine.execDeepSleep s
  | .timedWake => Sys2Proof.Machine.execTimedWake s
  | .deviceReset => Sys2Proof.Machine.execDeviceReset s
  | .debugFreeze => Sys2Proof.Machine.execDebugFreeze s
  | .millisecond => Sys2Proof.Machine.execMillisecond s
  | .second => Sys2Proof.Machine.execSecond s
  | .codeAbsent => Sys2Proof.Machine.execCodeAbsent s
  | .powerLoss => Sys2Proof.Machine.execPowerLoss s
  | .firmwareHealthyReport => Sys2Proof.Machine.execFirmwareHealthyReport s

end Sys2Proof.Machine
end

