-- ==== Sys2Proof/Machine/Step.lean ====
section
/-! DEFINITION. One step of the machine, and the machine that runs a given word next. -/

namespace Sys2Proof.Machine

/-- The next step: what `State.plan` (Machine/Plan.lean) comes to, performed by `exec`. -/
def step (s : State) : Host.Outcome State Fault Refusal :=
  match s.plan exec with
  | .exec i t => exec i t
  | .done r => r

/-- The machine with a word at the place where it fetches its next instruction; every instruction of this hardware is one
word of 64 bits (R21), so the bits above `nbits` are zero. -/
def State.withFetchWord (s : State) (nbits w : Nat) : State := s.placeWord (w % 2 ^ nbits)

end Sys2Proof.Machine
end

