-- ==== Sys2Proof/Machine/Window.lean ====
section
/-! DEFINITION. What the host reads in the windows of the functions (R10, R366, R427, R428, R475, R480-R482, R497-R501), and the firmware
in a log region (R472): reserved fields read as zero. Reading them changes nothing. -/

namespace Sys2Proof.Machine

/-- LSTAT (R427, Table 6), dword by dword. -/
def Layer.lstat (l : Layer) (dw : Nat) : Nat :=
  if dw == 0 then
    (if l.stencil then 2 ^ 63 else 0) + l.result * 2 ^ 60 + l.hold * 2 ^ 55 + l.run * 2 ^ 53 + l.fails * 2 ^ 32 + l.frame.toNat
  else l.badpub * 2 ^ 48 + l.late * 2 ^ 32 + l.arb * 2 ^ 29

/-- The code of a panel's state. -/
def PanelSt.code : PanelSt → Nat
  | .inService => 0 | .suspect => 1 | .quarantined => 2 | .retired => 3

/-- PHEALTH (R427, Table 6). -/
def PanelHealth.word (p : PanelHealth) : Nat := p.st.code * 2 ^ 62 + p.passrun * 2 ^ 60 + p.qcount * 2 ^ 32

/-- A rollback record (R472, Table 3), dword by dword. -/
def RollRec.dword (r : RollRec) (dw : Nat) : Nat :=
  match dw with
  | 0 => r.time.toNat
  | 1 => r.ctx.toNat * 2 ^ 32 + r.kind
  | 2 => r.dia
  | _ => r.istart.toNat

/-- A dword of a log region's header and rollback ring (R472, Table 3): record n lies at 64 + 32 * (n mod 256). -/
def Partition.logDword (p : Partition) (ofs : Nat) : Nat :=
  if ofs == 0 then p.ridx.toNat * 2 ^ 32 + p.widx.toNat
  else if ofs == 8 then p.log.length * 2 ^ 32 + p.drop
  else if ofs == 16 then p.logcap
  else if 64 ≤ ofs && ofs < 8256 then
    let back := (p.widx.toNat + 255 - (ofs - 64) / 32) % 256
    ((p.rolls.reverse[back]?).map fun r => r.dword (ofs / 8 % 4)).getD 0
  else 0

/-- The code of a core's state. -/
def WearSt.code : WearSt → Nat
  | .inService => 0 | .derated => 1 | .drained => 2 | .retired => 3

/-- An entry of the lifetime record (R475, Table 5), dword by dword. -/
def Life.dword (x : Life) (dw : Nat) : Nat :=
  match dw with
  | 0 => x.wacc % 2 ^ 64
  | 1 => x.dbti * 2 ^ 32 + x.emacc
  | 2 => x.use * 2 ^ 48 + x.st.code * 2 ^ 46 + (if x.qret then 2 ^ 45 else 0) + x.vstep * 2 ^ 40 + x.slevt * 2 ^ 24
  | _ => x.opsec % 2 ^ 64

/-- The counters and fault summary of a function (R481, Table 2); those of the studio controller in function 0 only. -/
def State.fnWord (s : State) (f : Fn) (ofs : Nat) : Nat :=
  let pf := f.num == 0
  match ofs with
  | 0x000 => f.num * 2 ^ 32 + (if f.flrBusy then 2 else 0) + if f.ready then 1 else 0
  | 0x010 => f.fsctx.toNat * 2 ^ 32 + f.fs.toNat
  | 0x020 => f.ce
  | 0x028 => f.ue
  | 0x030 => f.tagm
  | 0x038 => f.misdir
  | 0x040 => f.frec
  | 0x048 => f.rbrec
  | 0x050 => if pf then s.ctlCnt * 2 ^ 32 + (if s.ctlPoison then 2 ^ 8 else 0) + s.ctlCause.toNat else 0
  | 0x058 => if pf then s.ctlPc.toNat else 0
  | _ => 0

/-- A dword that software writes, as it reads: its reserved bits read as zero (R10). -/
def readDword (regs : List (BitVec 64)) (dw mask : Nat) : Nat := (maskReg (regs.getD dw 0) mask).toNat

/-- A canvas timing block (R497, Table 6), dword by dword. -/
def Canvas.dword (c : Canvas) (dw : Nat) : Nat :=
  match dw with
  | 0 => readDword c.regs 0 0x47FFFFFF00000000 + if c.refused then 2 ^ 62 else 0
  | 1 | 4 => (c.regs.getD dw 0).toNat
  | 2 => c.fcount % 2 ^ 64
  | 3 => c.fscur.toNat
  | _ => 0

/-- A camera control block (R499, Table 8), dword by dword. -/
def Camera.dword (c : Camera) (dw : Nat) : Nat :=
  match dw with
  | 0 => readDword c.regs 0 0x40FFFE0000000000 + if c.err then 2 ^ 62 else 0
  | 1 => (c.regs.getD 1 0).toNat
  | 2 | 3 => readDword c.regs dw 0xFFFF000000000000
  | 4 => c.drops * 2 ^ 32 + c.next
  | 5 => c.frames * 2 ^ 32
  | _ => 0

/-- Reserved bits of a layer entry (R415, Table 1). -/
def layerReserved (dw : Nat) : Nat :=
  match dw with
  | 0 => 0x0000FFFF00000000
  | 1 => 0x000000000000FFFF
  | 3 => 0xFFFFFFFF00000000
  | 5 => 0xFF0000000000003F
  | 6 | 7 => 0xFFFFFFFFFFFFFFFF
  | _ => 0

/-- The sleep control block (R501, Table 12), dword by dword. -/
def Sleep.dword (x : Sleep) (dw : Nat) : Nat :=
  match dw with
  | 0 => (if x.wten then 2 else 0) + if x.power == .awake then 0 else 1
  | 1 => x.waket.toNat
  | 2 => x.slpt.toNat
  | 3 => x.cause * 2 ^ 61
  | _ => 0

/-- The warp status (R498). -/
def Warp.status (w : Warp) : Nat :=
  (if w.slots.any (·.stale) then 1 else 0) + (if w.blank then 2 else 0) + w.stales * 2 ^ 32

/-- The region at 0x03_0000 (R498, Table 7). -/
def State.networkWord (s : State) (ofs : Nat) : Nat :=
  let port (q : Nat) : Nat := ((s.ports.find? (·.num == q)).map (·.drops)).getD 0
  if ofs < 0x600 then ((s.layer? (ofs / 256) (ofs / 16 % 16)).map fun l => l.lstat (ofs / 8 % 2)).getD 0
  else if 0x800 ≤ ofs && ofs < 0x860 then ((s.phealth.find? (·.num == (ofs - 0x800) / 8)).map PanelHealth.word).getD 0
  else if ofs == 0x900 then s.disp.prfinj.toNat
  else if 0xA00 ≤ ofs && ofs < 0xA58 then (s.disp.warp.regs.getD ((ofs - 0xA00) / 8) 0).toNat
  else if ofs == 0xB00 then port 0
  else if ofs == 0xB08 then port 1
  else if ofs == 0xB10 then s.wordRej * 2 ^ 32 + s.attRej
  else if ofs == 0xB18 then s.disp.warp.status
  else if ofs == 0xB20 then s.disp.badpubx
  else 0

/-- The mailbox as it reads (R500, Table 10): the firmware has always finished. -/
def Mailbox.word (m : Mailbox) (ofs : Nat) : Nat :=
  if ofs == 0 then m.status * 2 ^ 48 + m.ctl.toNat
  else if ofs == 8 then m.len.toNat
  else if 0x1000 ≤ ofs && ofs < 0x2000 then Memory.readN m.data (ofs - 0x1000) 8
  else 0

/-- A dword of a shadow-bank entry (R366); its reserved bits read back as written (log 45). -/
def Sittings.shadowWord (x : Sittings) (k dw : Nat) : Nat :=
  SitEnt.bits ((((x.bank !x.abank).find? (·.1 == k)).map (·.2)).getD 0) dw 63 0

/-- A request block (R482): GO reads 0. -/
def Request.dword (r : Request) (dw : Nat) : Nat := if dw == 0 then r.dw0.toNat else if r.faults then 1 else 0

/-- The offset of a mirror in the region at 0x00_0000 (R480, log 61). -/
def mirrorOfs (k : Nat) : Nat := 8 * (1 + Config.mirrorAt k % 511)

/-- A mirror (R480): `ISALEVEL` of Diovo 1.0 (R35), and the numbers of the active banks (R492). -/
def State.mirror (s : State) (ofs : Nat) : Nat :=
  if ofs == mirrorOfs 0 then 0x100 else if ofs == mirrorOfs 1 then s.fw.nv.active 0 else if ofs == mirrorOfs 2 then s.fw.nv.active 1 else 0

/-- The byte of an engine's assignment (R480). -/
def State.engineByte (s : State) (k : Nat) : Nat := (((s.engines.find? (·.num == k)).bind (·.part)).getD 0xFF)

/-- A dword of the management window (R480, Table 1). -/
def State.managementWord (s : State) (ofs : Nat) : Nat :=
  if ofs == 0 then Config.devid.toNat
  else if ofs < 0x1000 then s.mirror ofs
  else if ofs == 0x1000 then s.sits.stctl
  else if 0x2000 ≤ ofs && ofs < 0x4000 then s.sits.shadowWord ((ofs - 0x2000) / 32) (ofs / 8 % 4)
  else if 0x10000 ≤ ofs && ofs < 0x100C0 then ((s.reqs.find? (·.first == (ofs - 0x10000) / 16)).map fun r => r.dword (ofs / 8 % 2)).getD 0
  else if enginesOfs ≤ ofs && ofs < enginesOfs + 24 then
    (List.range 8).foldl (fun a k => a + s.engineByte (ofs - enginesOfs + k) * 2 ^ (8 * k)) 0
  else if 0x20000 ≤ ofs && ofs < 0x20180 then ((s.canvas? ((ofs - 0x20000) / 64)).map fun c => c.dword (ofs / 8 % 8)).getD 0
  else if 0x21000 ≤ ofs && ofs < 0x22800 then
    ((s.layer? ((ofs - 0x21000) / 1024) ((ofs - 0x21000) / 64 % 16)).map fun l => readDword l.regs (ofs / 8 % 8) (layerReserved (ofs / 8 % 8))).getD 0
  else if 0x30000 ≤ ofs && ofs < 0x31000 then s.networkWord (ofs - 0x30000)
  else if 0x40000 ≤ ofs && ofs < 0x40600 then ((s.lifeStore.find? (·.core == (ofs - 0x40000) / 32)).map fun x => x.dword (ofs / 8 % 4)).getD 0
  else if 0x50000 ≤ ofs && ofs < 0x50060 then ((s.fns.find? (·.num == 0)).map fun f => s.fnWord f (ofs - 0x50000)).getD 0
  else if 0x60000 ≤ ofs && ofs < 0x60020 then s.fw.sleep.dword ((ofs - 0x60000) / 8)
  else if 0x70000 ≤ ofs && ofs < 0x70400 && ofs % 256 < 64 then ((s.camera? ((ofs - 0x70000) / 256)).map fun c => c.dword (ofs % 256 / 8)).getD 0
  else if 0x80000 ≤ ofs && ofs < 0x82000 then s.fw.mailbox.word (ofs - 0x80000)
  else 0

/-- A dword of a function's register window, as the host reads it. -/
def State.readRegister (s : State) (fn ofs : Nat) : BitVec 64 :=
  BitVec.ofNat 64 (if ofs % 8 != 0 then 0
    else if fn == 0 then s.managementWord ofs
    else if ofs < 0x60 then ((s.fns.find? (·.num == fn)).map fun f => s.fnWord f ofs).getD 0
    else 0)

end Sys2Proof.Machine
end

