-- ==== Sys2Proof/Safety.lean ====
section
/-! DEFINITION. The vocabulary in which statements about the machine are made: what of a group, a team and the machine an
instruction leaves alone, where threads stand afterwards, the invariant every step keeps. -/

namespace Sys2Proof.Machine

/-! ## What an instruction leaves alone -/

/-- A thread, its trap for running off a segment apart. -/
def Thread.calm (t : Thread) : Thread := { t with ptrap := none }

/-- What a group holds apart from where its threads stand: registers, predicates, special registers, flags, instances. -/
def Group.store (g : Group) : Group := { g with entries := [], served := 0, pipe := none, lanes := g.lanes.map Thread.calm }

/-- A team apart from its groups and the list of its accesses in flight. -/
def Team.bare (t : Team) : Team := { t with groups := [], ifr := [], palPend := [] }

/-- Everything of the machine but its teams, the controller's thread, the grids and the model's own marks of an issue. -/
def State.rest (s : State) : State :=
  { s with ctl := Team.controller, teams := [], grids := [], serve := 0, cur := none, waited := false }

/-- A group of a team by index, apart from its issue slot. -/
def State.groupAt (s : State) (tid gi : Nat) : Option Group := (s.team? tid).map fun t => { t.group gi with pipe := none }

/-- A team's accesses in flight. -/
def Team.flight (t : Team) : List IfrEntry × List PalPend := (t.ifr, t.palPend)

/-- Two states agree on every other team, on the issuing team apart from its groups and accesses in flight, and on its other
groups apart from the issue slots of groups that have ended. -/
def State.others (s s' : State) (c : Cur) : Prop :=
  (∀ tid, tid ≠ c.tid → s'.team? tid = s.team? tid) ∧
  (s'.team? c.tid).map Team.bare = (s.team? c.tid).map Team.bare ∧
  (∀ gi, gi ≠ c.grp → s'.groupAt c.tid gi = s.groupAt c.tid gi)

/-- A state is another but for where the threads of the issuing group stand: its store, everything outside it, the accesses in
flight, the grids but for a binding that has lost its last streaming thread (R199). -/
structure State.settles (m s' : State) (c : Cur) : Prop where
  store : (s'.grp c).store = (m.grp c).store
  others : m.others s' c
  flight : (s'.team? c.tid).map Team.flight = (m.team? c.tid).map Team.flight
  grids : s'.grids = (m.gridSettle c.tid).grids
  rest : s'.rest = m.rest

/-- A lane of the group stands at a PC, with the priority given or, where entries have met there, a lower one (R63), and nowhere else
(R60). -/
def State.stands (s : State) (c : Cur) (l : Nat) (at_ : BitVec 64 × BitVec 8) : Prop :=
  (∃ x ∈ (s.grp c).entries, x.mask.getLsbD l = true) ∧
  ∀ x ∈ (s.grp c).entries, x.mask.getLsbD l = true → x.pc = at_.1 ∧ x.prio.toNat ≤ at_.2.toNat

/-- The next word, at the entry's priority (R62). -/
def Entry.next (e : Entry) : BitVec 64 × BitVec 8 := (e.pc + 8, e.prio)

/-- The issuing entry, of a team that is the one `cur` names, with a member; its members stand in no other entry (R60, which every step
keeps: `State.sound`). -/
def State.issues (s : State) (c : Cur) (t : Team) (g : Group) (e : Entry) : Prop :=
  s.issuing = some (c, t, g, e) ∧ t.tid = c.tid ∧ e.mask ≠ 0 ∧ ∀ x ∈ g.entries.erase e, x.mask &&& e.mask = 0

/-- After an issue in which every member goes on, the acting lanes stand where `pl` says and the others at the next word. -/
def State.moves (s' : State) (c : Cur) (e : Entry) (act : List Nat) (pl : Nat → BitVec 64 × BitVec 8) : Prop :=
  (∀ l ∈ act, s'.stands c l (pl l)) ∧ (∀ l ∈ lanesOf e.mask, l ∉ act → s'.stands c l e.next)

/-- An instruction has been performed by the acting lanes of an entry: each has had its effect on the group, in lane order,
and stands where `pl` says, every other member stands at the next word, and nothing else has changed. -/
def State.spread (s s' : State) (c : Cur) (g : Group) (e : Entry) (act : List Nat)
    (pl : Nat → BitVec 64 × BitVec 8) (eff : Group → Nat → Group) : Prop :=
  s'.moves c e act pl ∧ (s'.grp c).store = (act.foldl eff g).store ∧ s.others s' c ∧
  (s'.team? c.tid).map Team.flight = (s.team? c.tid).map Team.flight ∧ s'.grids = (s.gridSettle c.tid).grids ∧ s'.rest = s.rest

/-- Every lane of a list finds in its turn, after the effects of the lanes before it, what it needs. -/
def turns {σ : Type} (ready : σ → Nat → Prop) (eff : σ → Nat → σ) : List Nat → σ → Prop
  | [], _ => True
  | l :: ls, s => ready s l ∧ turns ready eff ls (eff s l)

/-- An instruction whose effect reaches beyond its group has been performed by the acting lanes, in lane order. -/
def State.performs (s s' : State) (c : Cur) (e : Entry) (act : List Nat) (eff : State → Nat → State) : Prop :=
  s'.moves c e act (fun _ => e.next) ∧ (act.foldl eff s).settles s' c

/-! ## The invariant of every step -/

/-- A group's entries are of different threads, every live thread stands in one (R60), and holds its allotment of register slots (R76,
R108). -/
structure Group.sound (g : Group) : Prop where
  lanes : g.lanes.length ≤ 32
  apart : g.entries.Pairwise fun x y => x.mask &&& y.mask = 0
  inhabited : ∀ x ∈ g.entries, x.mask ≠ 0
  somewhere : ∀ l, l < g.lanes.length → (g.thread l).live = true → ∃ x ∈ g.entries, x.mask.getLsbD l = true
  slots : ∀ l, l < g.lanes.length → (g.thread l).live = true → (g.thread l).regs.length = g.allot

/-- A team's groups are sound, and its in-flight record holds at most 512 entries (R331). -/
def Team.sound (t : Team) : Prop := t.ifr.length ≤ 512 ∧ ∀ g ∈ t.groups, g.sound

/-- The controller's team, every team and every team of a checkpoint is sound. -/
def State.sound (s : State) : Prop :=
  s.ctl.tid = 0 ∧ s.ctl.sound ∧ (∀ t ∈ s.teams, t.sound) ∧ ∀ c ∈ s.ctxs, ∀ t ∈ c.ckTeams, t.sound

/-! ## Operands -/

/-- A source is there to be read: resolved, Full (R77, R82). -/
def Group.has (g : Group) (l : Nat) (r : Reg) (w : Nat) : Prop := ∃ x, readSrc g l r w = .ok x

/-- What a source reads. -/
def Group.opnd (g : Group) (l : Nat) (r : Reg) (w : Nat) : Opnd :=
  match readSrc g l r w with
  | .ok x => x
  | .error _ => ⟨0, false, false, 0⟩

/-- A source is there and not poisoned (R84). -/
def Group.clean (g : Group) (l : Nat) (r : Reg) (w : Nat) : Prop := g.has l r w ∧ (g.opnd l r w).poison = false

/-- A source's value. -/
def Group.val (g : Group) (l : Nat) (r : Reg) (w : Nat) : Nat := (g.opnd l r w).val

/-- A destination is resolved and not Pending (R77, R83). -/
def Group.room (g : Group) (l : Nat) (r : Reg) (w : Nat) : Prop := ∃ x, dstReady g l r w = .ok x

/-- Where a destination lies. -/
def Group.dst (g : Group) (l : Nat) (r : Reg) (w : Nat) : Ref :=
  match dstReady g l r w with
  | .ok x => x
  | .error _ => .null

/-- A result is written Full into a destination resolved in `g`: value, poison and PT (R81, R84, R462). -/
def Group.put (h g : Group) (l : Nat) (r : Reg) (w v : Nat) (poison : Bool × Bool := (false, false)) : Group :=
  writeRef h l (g.dst l r w) w v poison.1 poison.2

/-- An instruction is performed lane by lane in its group: in every issue in which each acting lane is `ready`, each has its
effect and stands where `pl` says, and nothing else changes. -/
def State.lanewise (s : State) (i : Instr) (gd : Guard) (ready : Group → Entry → Nat → Prop)
    (pl : Group → Entry → Nat → BitVec 64 × BitVec 8) (eff : Group → Entry → Group → Nat → Group) : Prop :=
  ∀ c t g e, s.issues c t g e → (∀ l ∈ actLanes g e gd, ready g e l) →
    ∃ s', exec i s = .next s' ∧ s.spread s' c g e (actLanes g e gd) (pl g e) (eff g e)

/-- An instruction whose effect reaches beyond its group is performed by the acting lanes in turn: none of its sources is Pending in
an acting lane, and each lane finds in its turn what it needs. -/
def State.inTurn (s : State) (i : Instr) (gd : Guard) (srcs : List (Reg × Nat)) (can : Cur → Prop)
    (ready : Cur → Team → State → Nat → Prop) (eff : Cur → Team → State → Nat → State) : Prop :=
  ∀ c t g e, s.issues c t g e → can c → (∀ l ∈ actLanes g e gd, ∀ x ∈ srcs, g.has l x.1 x.2) →
    turns (ready c t) (eff c t) (actLanes g e gd) s → ∃ s', exec i s = .next s' ∧ s.performs s' c e (actLanes g e gd) (eff c t)

/-- A lane's group of a state in turn. -/
def State.inGroup (s : State) (c : Cur) (f : Group → Group) : State := s.updGroup c.tid c.grp f

/-! ## Fixed-latency instructions: operands and results in the spec's arithmetic -/

/-- The operands of an instruction that reads registers and writes one register and one predicate. -/
structure LaneForm where
  gd : Guard
  d : Reg
  dw : Nat := 1
  srcs : List (Reg × Nat)
  pd : Nat := 7
  mul : Bool := false

/-- The multipliers an instruction needs are the quad's: it is not in matrix configuration (R198). -/
def LaneForm.admitted (f : LaneForm) (s : State) : Prop :=
  f.mul = true → ∀ c t g e, s.issues c t g e → s.matrixMode t = false

/-- What the operands of a form read. -/
def LaneForm.opnds (f : LaneForm) (g : Group) (l : Nat) : List Opnd := f.srcs.map fun x => g.opnd l x.1 x.2

/-- A lane has its operands and its destination; operands of a predicate result are not poisoned (R84). -/
def LaneForm.ready (f : LaneForm) (g : Group) (_ : Entry) (l : Nat) : Prop :=
  (∀ x ∈ f.srcs, g.has l x.1 x.2) ∧ g.room l f.d f.dw ∧ (f.pd = 7 ∨ ∀ x ∈ f.srcs, g.clean l x.1 x.2)

/-- The effect of such an instruction in one lane: its result with the poison of its operands, and its predicate. -/
def LaneForm.effect (f : LaneForm) (out : List Nat → Nat × Bool) (g : Group) (_ : Entry) (h : Group) (l : Nat) : Group :=
  let xs := f.opnds g l
  let r := out (xs.map (·.val))
  (h.put g l f.d f.dw r.1 (joinPoison xs)).updThread l fun t => t.setPred f.pd r.2

/-- A 32-bit word as INT32. -/
def asSigned (x : Nat) : Int := if x < 2 ^ 31 then x else x - 2 ^ 32

/-- An exact value brought to 32 bits: wrapped, clamped to INT32, clamped to UINT32 (R170). -/
def fitted (sat : Nat) (x : Int) : Nat :=
  match sat with
  | 1 => (max (-(2 ^ 31)) (min x (2 ^ 31 - 1)) % 2 ^ 32).toNat
  | 2 => (max 0 (min x (2 ^ 32 - 1))).toNat
  | _ => (x % 2 ^ 32).toNat

/-- An operand under SAT: INT32 under `.sat` (R170). -/
def underSat (sat : Nat) (x : Nat) : Int := if sat == 1 then asSigned x else x

/-- The exact product of two words under SGN (R171). -/
def product (sgn a b : Nat) : Int :=
  (if sgn == 1 then (a : Int) else asSigned a) * (if sgn == 0 then asSigned b else (b : Int))

/-- The number whose bit i is `f i`, for the 32 bits of a word. -/
def bitwise32 (f : Nat → Bool) : Nat := ((List.range 32).map fun i => if f i then 2 ^ i else 0).sum

/-- The bit of a word as 0 or 1. -/
def bitAt (x i : Nat) : Nat := if x.testBit i then 1 else 0

/-- Byte k of a word as an INT8, or as a UINT8 (R176). -/
def byteAt (u : Bool) (x k : Nat) : Int :=
  let v := x / 2 ^ (8 * k) % 256
  if !u && v ≥ 128 then (v : Int) - 256 else v

/-- The range of an integer type of codes 8 to 14 (R35, R143), lowest and highest value; the codes that no word carries are read as the
model reads them. -/
def intRange (ty : Nat) : Int × Int :=
  match ty with
  | 10 => (-(2 ^ 15), 2 ^ 15 - 1) | 11 => (0, 2 ^ 16 - 1) | 12 => (-128, 127) | 13 => (0, 255) | 14 => (-8, 7) | 15 => (0, 15)
  | _ => if ty % 2 = 0 then (-(2 ^ 31), 2 ^ 31 - 1) else (0, 2 ^ 32 - 1)

/-- The comparisons of ISETP (R168, R181). -/
def compared (cmp : Nat) (a b : Int) : Bool :=
  match cmp with
  | 0 => decide (a = b) | 1 => decide (a ≠ b) | 2 => decide (a < b) | 3 => decide (a ≤ b) | 4 => decide (b < a)
  | _ => decide (b ≤ a)

/-- Integer arithmetic (R170-R176): the form of an instruction and its register and predicate results on given operands. -/
def arithForm : Instr → Option (LaneForm × (List Nat → Nat × Bool))
  | .iadd gd d a b sat => some (⟨gd, d, 1, [(a, 1), (b, 1)], 7, false⟩, fun x =>
      (fitted sat.toNat (underSat sat.toNat (x.getD 0 0) + underSat sat.toNat (x.getD 1 0)), false))
  | .isub gd d a b sat => some (⟨gd, d, 1, [(a, 1), (b, 1)], 7, false⟩, fun x =>
      (fitted sat.toNat (underSat sat.toNat (x.getD 0 0) - underSat sat.toNat (x.getD 1 0)), false))
  | .iadd3 gd d a b c sat => some (⟨gd, d, 1, [(a, 1), (b, 1), (c, 1)], 7, false⟩, fun x =>
      (fitted sat.toNat (underSat sat.toNat (x.getD 0 0) + underSat sat.toNat (x.getD 1 0) + underSat sat.toNat (x.getD 2 0)), false))
  | .imul gd d a b sat => some (⟨gd, d, 1, [(a, 1), (b, 1)], 7, true⟩, fun x =>
      (fitted sat.toNat (underSat sat.toNat (x.getD 0 0) * underSat sat.toNat (x.getD 1 0)), false))
  | .imad gd d a b c sat => some (⟨gd, d, 1, [(a, 1), (b, 1), (c, 1)], 7, true⟩, fun x =>
      (fitted sat.toNat (underSat sat.toNat (x.getD 0 0) * underSat sat.toNat (x.getD 1 0) + underSat sat.toNat (x.getD 2 0)), false))
  | .imulh gd d a b sgn => some (⟨gd, d, 1, [(a, 1), (b, 1)], 7, true⟩, fun x =>
      ((product sgn.toNat (x.getD 0 0) (x.getD 1 0) / 2 ^ 32 % 2 ^ 32).toNat, false))
  | .imulw gd d a b sgn => some (⟨gd, d, 2, [(a, 1), (b, 1)], 7, true⟩, fun x =>
      ((product sgn.toNat (x.getD 0 0) (x.getD 1 0) % 2 ^ 64).toNat, false))
  | .imin gd d a b u => some (⟨gd, d, 1, [(a, 1), (b, 1)], 7, false⟩, fun x =>
      (if u == 1 then min (x.getD 0 0) (x.getD 1 0)
       else (min (asSigned (x.getD 0 0)) (asSigned (x.getD 1 0)) % 2 ^ 32).toNat, false))
  | .imax gd d a b u => some (⟨gd, d, 1, [(a, 1), (b, 1)], 7, false⟩, fun x =>
      (if u == 1 then max (x.getD 0 0) (x.getD 1 0)
       else (max (asSigned (x.getD 0 0)) (asSigned (x.getD 1 0)) % 2 ^ 32).toNat, false))
  | .iabs gd d a s1 => some (⟨gd, d, 1, [(a, 1)], 7, false⟩, fun x =>
      (fitted s1.toNat (if asSigned (x.getD 0 0) < 0 then -asSigned (x.getD 0 0) else asSigned (x.getD 0 0)), false))
  | .ineg gd d a s1 => some (⟨gd, d, 1, [(a, 1)], 7, false⟩, fun x => (fitted s1.toNat (-asSigned (x.getD 0 0)), false))
  | .icsub gd d a b pd => some (⟨gd, d, 1, [(a, 1), (b, 1)], pd.toNat, false⟩, fun x =>
      (if x.getD 1 0 ≤ x.getD 0 0 then x.getD 0 0 - x.getD 1 0 else x.getD 0 0, decide (x.getD 1 0 ≤ x.getD 0 0)))
  | .iadd64 gd d a b => some (⟨gd, d, 2, [(a, 2), (b, 2)], 7, false⟩, fun x =>
      (((x.getD 0 0 : Int) + x.getD 1 0) % 2 ^ 64 |>.toNat, false))
  | .isub64 gd d a b => some (⟨gd, d, 2, [(a, 2), (b, 2)], 7, false⟩, fun x =>
      (((x.getD 0 0 : Int) - x.getD 1 0) % 2 ^ 64 |>.toNat, false))
  | .lea gd d a b sx sh => some (⟨gd, d, 2, [(a, 2), (b, 1)], 7, false⟩, fun x =>
      (((x.getD 0 0 : Int) + (if sx == 1 then asSigned (x.getD 1 0) else x.getD 1 0) * 2 ^ sh.toNat) % 2 ^ 64 |>.toNat, false))
  | .isat gd d a u ty => some (⟨gd, d, 1, [(a, 1)], 7, false⟩, fun x =>
      (max (intRange ty.toNat).1 (min (if u == 1 then x.getD 0 0 else asSigned (x.getD 0 0)) (intRange ty.toNat).2) % 2 ^ 32
        |>.toNat, false))
  | .idp4 gd d a b c sat au bu => some (⟨gd, d, 1, [(a, 1), (b, 1), (c, 1)], 7, true⟩, fun x =>
      (fitted sat.toNat (asSigned (x.getD 2 0) +
        (byteAt (au == 1) (x.getD 0 0) 0 * byteAt (bu == 1) (x.getD 1 0) 0 + byteAt (au == 1) (x.getD 0 0) 1 * byteAt (bu == 1) (x.getD 1 0) 1 +
         byteAt (au == 1) (x.getD 0 0) 2 * byteAt (bu == 1) (x.getD 1 0) 2 + byteAt (au == 1) (x.getD 0 0) 3 * byteAt (bu == 1) (x.getD 1 0) 3)), false))
  | _ => none

/-- The bits of a word that BFI replaces (R180): the low LEN bits moved to POS, as far as they are in the word. -/
def fieldMask (f : Nat) : Nat := (2 ^ min (f / 256 % 256) 32 - 1) * 2 ^ (f % 256) % 2 ^ 32

/-- Logic, shifts, bit counts and fields, moves, tests (R95, R96, R99, R177-R181). -/
def bitForm : Instr → Option (LaneForm × (List Nat → Nat × Bool))
  | .and gd d a b => some (⟨gd, d, 1, [(a, 1), (b, 1)], 7, false⟩, fun x =>
      (bitwise32 fun i => (x.getD 0 0).testBit i && (x.getD 1 0).testBit i, false))
  | .or gd d a b => some (⟨gd, d, 1, [(a, 1), (b, 1)], 7, false⟩, fun x =>
      (bitwise32 fun i => (x.getD 0 0).testBit i || (x.getD 1 0).testBit i, false))
  | .xor gd d a b => some (⟨gd, d, 1, [(a, 1), (b, 1)], 7, false⟩, fun x =>
      (bitwise32 fun i => (x.getD 0 0).testBit i != (x.getD 1 0).testBit i, false))
  | .andn gd d a b => some (⟨gd, d, 1, [(a, 1), (b, 1)], 7, false⟩, fun x =>
      (bitwise32 fun i => (x.getD 0 0).testBit i && !(x.getD 1 0).testBit i, false))
  | .not gd d a => some (⟨gd, d, 1, [(a, 1)], 7, false⟩, fun x => (bitwise32 fun i => !(x.getD 0 0).testBit i, false))
  | .lop3 gd d a b c lut => some (⟨gd, d, 1, [(a, 1), (b, 1), (c, 1)], 7, false⟩, fun x =>
      (bitwise32 fun i => lut.toNat.testBit (4 * bitAt (x.getD 0 0) i + 2 * bitAt (x.getD 1 0) i + bitAt (x.getD 2 0) i), false))
  | .shl gd d a b wrap => some (⟨gd, d, 1, [(a, 1), (b, 1)], 7, false⟩, fun x =>
      (let n := if wrap == 1 then x.getD 1 0 % 32 else x.getD 1 0
       if n < 32 then x.getD 0 0 * 2 ^ n % 2 ^ 32 else 0, false))
  | .shr gd d a b wrap => some (⟨gd, d, 1, [(a, 1), (b, 1)], 7, false⟩, fun x =>
      (let n := if wrap == 1 then x.getD 1 0 % 32 else x.getD 1 0
       if n < 32 then x.getD 0 0 / 2 ^ n else 0, false))
  | .sar gd d a b wrap => some (⟨gd, d, 1, [(a, 1), (b, 1)], 7, false⟩, fun x =>
      (let n := if wrap == 1 then x.getD 1 0 % 32 else x.getD 1 0
       (asSigned (x.getD 0 0) / 2 ^ min n 31 % 2 ^ 32).toNat, false))
  | .rotl gd d a b => some (⟨gd, d, 1, [(a, 1), (b, 1)], 7, false⟩, fun x =>
      (let n := x.getD 1 0 % 32
       bitwise32 fun i => (x.getD 0 0).testBit ((i + 32 - n) % 32), false))
  | .fshl gd d a b c => some (⟨gd, d, 1, [(a, 1), (b, 1), (c, 1)], 7, false⟩, fun x =>
      (let n := x.getD 2 0 % 32
       (x.getD 0 0 * 2 ^ 32 + x.getD 1 0) / 2 ^ (32 - n) % 2 ^ 32, false))
  | .popc gd d a => some (⟨gd, d, 1, [(a, 1)], 7, false⟩, fun x => (((List.range 32).map (bitAt (x.getD 0 0))).sum, false))
  | .clz gd d a => some (⟨gd, d, 1, [(a, 1)], 7, false⟩, fun x =>
      (((List.range 32).takeWhile fun k => !(x.getD 0 0).testBit (31 - k)).length, false))
  | .brev gd d a => some (⟨gd, d, 1, [(a, 1)], 7, false⟩, fun x => (bitwise32 fun i => (x.getD 0 0).testBit (31 - i), false))
  | .bfe gd d a b sx => some (⟨gd, d, 1, [(a, 1), (b, 1)], 7, false⟩, fun x =>
      (let pos := x.getD 1 0 % 256
       let len := min (x.getD 1 0 / 256 % 256) 32
       let v : Int := if sx == 1 then asSigned (x.getD 0 0) else x.getD 0 0
       let fld : Int := v / 2 ^ pos % 2 ^ len
       (if sx == 1 && len != 0 && decide (2 ^ (len - 1) ≤ fld) then fld - 2 ^ len else fld) % 2 ^ 32 |>.toNat, false))
  | .bfi gd d a b c => some (⟨gd, d, 1, [(a, 1), (b, 1), (c, 1)], 7, false⟩, fun x =>
      (bitwise32 fun i => if (fieldMask (x.getD 2 0)).testBit i then (x.getD 0 0 * 2 ^ (x.getD 2 0 % 256)).testBit i
        else (x.getD 1 0).testBit i, false))
  | .mov gd d a size => some (⟨gd, d, 2 ^ size.toNat, [(a, 2 ^ size.toNat)], 7, false⟩, fun x => (x.getD 0 0, false))
  | .movi gd d imm => some (⟨gd, d, 1, [], 7, false⟩, fun _ => (imm.toNat, false))
  | .pset gd a b test pd => some (⟨gd, Reg.null, 1, [(a, 1), (b, 1)], pd.toNat, false⟩, fun x =>
      (0, match test.toNat with
        | 0 => decide (x.getD 0 0 ≠ 0)
        | 1 => decide (x.getD 0 0 = 0)
        | _ => (x.getD 0 0).testBit (x.getD 1 0 % 32)))
  | .isetp gd a b cmp u b64 pd => some (⟨gd, Reg.null, 1, [(a, 1 + b64.toNat), (b, 1 + b64.toNat)], pd.toNat, false⟩, fun x =>
      (0, let val (v : Nat) : Int :=
            if u == 1 then v else if b64 == 1 then (if v < 2 ^ 63 then v else v - 2 ^ 64) else asSigned v
          compared cmp.toNat (val (x.getD 0 0)) (val (x.getD 1 0))))
  | _ => none

/-! ## Floating point: operands and results in the formats of chapter 06 -/

/-- The k-th value of a list as FP32 bits. -/
def word (x : List Nat) (k : Nat) : BitVec 32 := BitVec.ofNat 32 (x.getD k 0)

/-- A result of chapter 06's arithmetic. -/
def ofRes (r : FRes) : AluOut := { val := r.bits, flags := r.flags }

/-- One operation on both 16-bit halves, the flags of both ORed (R189). -/
def packed (t : FType) (f : List FVal → FRes) (x : List Nat) : AluOut :=
  let lo := f (x.map fun v => t.decode (v % 2 ^ 16))
  let hi := f (x.map fun v => t.decode (v / 2 ^ 16 % 2 ^ 16))
  { val := lo.bits + 2 ^ 16 * hi.bits, flags := lo.flags ||| hi.flags }

/-- Floating-point arithmetic, comparisons and conversions (R182-R187, R189-R193, R195): form, and the value, flags and predicate
on given operands. -/
def floatForm : Instr → Option (LaneForm × (List Nat → AluOut))
  | .fadd gd d a b rnd => some (⟨gd, d, 1, [(a, 1), (b, 1)], 7, false⟩, fun x =>
      ofRes (fadd .fp32 (RMode.ofCode rnd.toNat) (fp32 (word x 0)) (fp32 (word x 1))))
  | .fsub gd d a b rnd => some (⟨gd, d, 1, [(a, 1), (b, 1)], 7, false⟩, fun x =>
      ofRes (fadd .fp32 (RMode.ofCode rnd.toNat) (fp32 (word x 0))
        (if (fp32 (word x 1)).isNan then fp32 (word x 1) else fp32 (word x 1 ^^^ 0x80000000#32))))
  | .fmul gd d a b rnd => some (⟨gd, d, 1, [(a, 1), (b, 1)], 7, true⟩, fun x =>
      ofRes (fmul .fp32 (RMode.ofCode rnd.toNat) (fp32 (word x 0)) (fp32 (word x 1))))
  | .ffma gd d a b c rnd => some (⟨gd, d, 1, [(a, 1), (b, 1), (c, 1)], 7, true⟩, fun x =>
      ofRes (ffma .fp32 (RMode.ofCode rnd.toNat) (fp32 (word x 0)) (fp32 (word x 1)) (fp32 (word x 2))))
  | .fmin gd d a b => some (⟨gd, d, 1, [(a, 1), (b, 1)], 7, false⟩, fun x => ofRes (fminmax false (word x 0) (word x 1)))
  | .fmax gd d a b => some (⟨gd, d, 1, [(a, 1), (b, 1)], 7, false⟩, fun x => ofRes (fminmax true (word x 0) (word x 1)))
  | .fminp gd d a b => some (⟨gd, d, 1, [(a, 1), (b, 1)], 7, false⟩, fun x => ofRes (fminmaxp false (word x 0) (word x 1)))
  | .fmaxp gd d a b => some (⟨gd, d, 1, [(a, 1), (b, 1)], 7, false⟩, fun x => ofRes (fminmaxp true (word x 0) (word x 1)))
  | .fabs gd d a => some (⟨gd, d, 1, [(a, 1)], 7, false⟩, fun x => { val := x.getD 0 0 % 2 ^ 31 })
  | .fneg gd d a => some (⟨gd, d, 1, [(a, 1)], 7, false⟩, fun x => { val := (word x 0 ^^^ 0x80000000#32).toNat })
  | .fsetp gd a b cmp pd => some (⟨gd, Reg.null, 1, [(a, 1), (b, 1)], pd.toNat, false⟩, fun x =>
      { val := 0, flags := (fsetp cmp.toNat (word x 0) (word x 1)).2, pred := (fsetp cmp.toNat (word x 0) (word x 1)).1 })
  | .fclass gd d a => some (⟨gd, d, 1, [(a, 1)], 7, false⟩, fun x => { val := fclass (word x 0) })
  | .frnd gd d a rnd => some (⟨gd, d, 1, [(a, 1)], 7, false⟩, fun x => ofRes (frnd (RMode.ofCode rnd.toNat) (word x 0)))
  | .hadd2 gd d a b rnd ty => some (⟨gd, d, 1, [(a, 1), (b, 1)], 7, false⟩, fun x =>
      packed (FType.ofCode ty.toNat) (fun v => fadd (FType.ofCode ty.toNat) (RMode.ofCode rnd.toNat) (v.getD 0 (.inf false))
        (v.getD 1 (.inf false))) (x.take 2))
  | .hmul2 gd d a b rnd ty => some (⟨gd, d, 1, [(a, 1), (b, 1)], 7, true⟩, fun x =>
      packed (FType.ofCode ty.toNat) (fun v => fmul (FType.ofCode ty.toNat) (RMode.ofCode rnd.toNat) (v.getD 0 (.inf false))
        (v.getD 1 (.inf false))) (x.take 2))
  | .hfma2 gd d a b c rnd ty => some (⟨gd, d, 1, [(a, 1), (b, 1), (c, 1)], 7, true⟩, fun x =>
      packed (FType.ofCode ty.toNat) (fun v => ffma (FType.ofCode ty.toNat) (RMode.ofCode rnd.toNat) (v.getD 0 (.inf false))
        (v.getD 1 (.inf false)) (v.getD 2 (.inf false))) (x.take 3))
  | .fcvt gd d a rnd dst src => some (⟨gd, d, 1, [(a, 1)], 7, false⟩, fun x =>
      let v := (FType.ofCode src.toNat).decode (x.getD 0 0)
      { ofRes (convert (FType.ofCode dst.toNat) (RMode.ofCode rnd.toNat) v) with amax := if dst.toNat = 0 then [] else [v] })
  | .f2i gd d a rnd dst => some (⟨gd, d, 1, [(a, 1)], 7, false⟩, fun x =>
      { val := (f2i dst.toNat (RMode.ofCode rnd.toNat) (word x 0)).1.toNat,
        flags := (f2i dst.toNat (RMode.ofCode rnd.toNat) (word x 0)).2 })
  | .i2f gd d a rnd dst src => some (⟨gd, d, 1, [(a, 1)], 7, false⟩, fun x =>
      ofRes (i2f (FType.ofCode dst.toNat) src.toNat (RMode.ofCode rnd.toNat) (word x 0)))
  | .qdeq gd d a b rnd ty el => some (⟨gd, d, 1, [(a, 1), (b, 1)], 7, false⟩, fun x =>
      ofRes (qdeq (FType.ofCode ty.toNat) (RMode.ofCode rnd.toNat)
        (x.getD 0 0 / 2 ^ ((FType.ofCode ty.toNat).width * el.toNat) % 2 ^ (FType.ofCode ty.toNat).width) (x.getD 1 0 % 256)))
  | .qscale gd d a am ty => some (⟨gd, d, 1, [(a, 1)], 7, false⟩, fun x =>
      if am = 1 then { val := if (word x 0).getLsbD 31 then 255 else qscaleOf (FType.ofCode ty.toNat) (fp32 (word x 0)) }
      else { val := qscaleOf (FType.ofCode ty.toNat) ((fp32 (word x 0)).withSign false), flags := snanFlag [fp32 (word x 0)] })
  | _ => none

/-- AMAX and FLAGS of a result in one lane (R152, R153, R160): a poisoned source leaves AMAX as it was. -/
def LaneForm.accrued (f : LaneForm) (out : List Nat → AluOut) (g : Group) (_ : Entry) (h : Group) (l : Nat) : Group :=
  let xs := f.opnds g l
  let o := out (xs.map (·.val))
  { h.updThread l (fun t => { t with amax := if (joinPoison xs).1 then t.amax else o.amax.foldl amaxStep t.amax }) with
    flags := h.flags ||| o.flags }

/-- The whole effect in one lane that raises no enabled flag: AMAX, FLAGS, the register, the predicate. -/
def LaneForm.effectF (f : LaneForm) (out : List Nat → AluOut) (g : Group) (e : Entry) (h : Group) (l : Nat) : Group :=
  let xs := f.opnds g l
  let o := out (xs.map (·.val))
  ((f.accrued out g e h l).put g l f.d f.dw o.val (joinPoison xs)).updThread l fun t => t.setPred f.pd o.pred

/-- The flags that an instruction of a form raises in a lane (R152). -/
def LaneForm.raised (f : LaneForm) (out : List Nat → AluOut) (g : Group) (l : Nat) : FFlags :=
  (out ((f.opnds g l).map (·.val))).flags

/-! ## Traps -/

/-- The lanes `ls` of an entry have trapped (R346, R347): each has its trap registers and stands alone at the handler `v`, with the
entry's priority; the other members stand at the next word; `h` is the group before the trap registers were written, and
nothing else has changed. -/
def State.traps (s s' : State) (c : Cur) (h : Group) (e : Entry) (ls : List Nat) (tr : Nat → Trap) (v : BitVec 64) : Prop :=
  (∀ l ∈ ls, Entry.at v e.prio (laneBit l) true ∈ (s'.grp c).entries ∧
    ∀ x ∈ (s'.grp c).entries, x.mask.getLsbD l = true → x = Entry.at v e.prio (laneBit l) true) ∧
  (∀ l ∈ lanesOf e.mask, l ∉ ls → s'.stands c l e.next) ∧
  (s'.grp c).store = (ls.foldl (fun h l => h.updThread l fun t =>
    { t with trapc := (tr l).info ++ BitVec.ofNat 16 (tr l).cause.code, trappc := e.pc, trapa := (tr l).addr, probe := none }) h).store ∧
  s.others s' c ∧ (s'.team? c.tid).map Team.flight = (s.team? c.tid).map Team.flight ∧
  s'.grids = (s.gridSettle c.tid).grids ∧ s'.rest = s.rest

/-- A trap of an entry is taken in a handler: a thread of a team, not in a handler already, of a context with one (R349). -/
def State.handled (s : State) (c : Cur) (t : Team) (e : Entry) (v : BitVec 64) : Prop :=
  c.tid ≠ 0 ∧ e.solitary = false ∧ s.trapv t = v ∧ v ≠ 0

/-! ## Collectives (R118-R129) -/

/-- What a participant brings: its lane, its data operands, its predicate. -/
structure Share where
  lane : Nat
  ops : List Opnd
  pred : Bool

/-- The values of a participant's data operands. -/
def Share.vals (p : Share) : List Nat := p.ops.map (·.val)

/-- A data operand of a participant. -/
def Share.op (p : Share) (k : Nat) : Opnd := p.ops.getD k ⟨0, false, false, 0⟩

/-- What a participant gets: register value, predicate, poison with PT (R128, R462). -/
structure Outcome where
  val : Nat
  pred : Bool
  poison : Bool × Bool := (false, false)

/-- The fields of a collective: mask register or immediate, destinations, data sources, source predicate. -/
structure CollForm where
  gd : Guard
  mask : Reg
  imm : BitVec 32 := 0
  d : Reg := Reg.null
  pd : Nat := 7
  srcs : List (Reg × Nat) := []
  pa : Nat := 7
  neg : Bool := false

/-- The number whose set bits are the lanes of a list. -/
def laneSet (ls : List Nat) : Nat := bitwise32 fun i => ls.contains i

/-- One step of a reduction (R126, Table 4). -/
def reduced (op : Nat) (acc x : Nat) : Nat × FFlags :=
  match op with
  | 0 => ((acc + x) % 2 ^ 32, 0)
  | 1 => (if asSigned x < asSigned acc then x else acc, 0)
  | 2 => (if asSigned acc < asSigned x then x else acc, 0)
  | 3 => (min acc x, 0)
  | 4 => (max acc x, 0)
  | 5 => (bitwise32 fun i => acc.testBit i && x.testBit i, 0)
  | 6 => (bitwise32 fun i => acc.testBit i || x.testBit i, 0)
  | 7 => (bitwise32 fun i => acc.testBit i != x.testBit i, 0)
  | 8 => let r := fadd .fp32 .rne (fp32 (BitVec.ofNat 32 acc)) (fp32 (BitVec.ofNat 32 x)); (r.bits, r.flags)
  | 9 => let r := fminmax false (BitVec.ofNat 32 acc) (BitVec.ofNat 32 x); (r.bits, r.flags)
  | _ => let r := fminmax true (BitVec.ofNat 32 acc) (BitVec.ofNat 32 x); (r.bits, r.flags)

/-- The identities of R126, Table 4. -/
def identityOf : Nat → Nat
  | 1 => 2 ^ 31 - 1 | 2 => 2 ^ 31 | 3 => 2 ^ 32 - 1 | 5 => 2 ^ 32 - 1 | 8 => 2 ^ 31 | 9 => 0x7F800000 | 10 => 0xFF800000 | _ => 0

/-- A fold in the order of the list, beginning with its first value. -/
def reduction (op : Nat) : List Nat → Nat × FFlags
  | [] => (identityOf op, 0)
  | x :: xs => xs.foldl (fun r y => ((reduced op r.1 y).1, r.2 ||| (reduced op r.1 y).2)) (x, 0)

/-- The group collectives: their fields, what each participant gets from the participants in ascending lane order, the flags. -/
def collForm : Instr → Option (CollForm × (List Share → Share → Outcome) × (List Share → FFlags))
  | .barg gd a hi lo => some (⟨gd, a, hi ++ lo, Reg.null, 7, [], 7, false⟩, fun _ _ => ⟨0, false, (false, false)⟩, fun _ => 0)
  | .vote gd d c pd op neg pa => some (⟨gd, c, 0, d, pd.toNat, [], pa.toNat, neg == 1⟩, fun ps _ =>
      match op.toNat with
      | 0 => ⟨0, ps.all (·.pred), (false, false)⟩
      | 1 => ⟨0, ps.any (·.pred), (false, false)⟩
      | 2 => ⟨0, ps.all (·.pred) || ps.all (!·.pred), (false, false)⟩
      | _ => ⟨laneSet ((ps.filter (·.pred)).map (·.lane)), false, (false, false)⟩, fun _ => 0)
  | .elect gd d c pd => some (⟨gd, c, 0, d, pd.toNat, [], 7, false⟩, fun ps p =>
      ⟨(ps.map (·.lane)).headD 0, decide ((ps.map (·.lane)).head? = some p.lane), (false, false)⟩, fun _ => 0)
  | .shfl gd d a b c mode pd => some (⟨gd, c, 0, d, pd.toNat, [(a, 1), (b, 1)], 7, false⟩, fun ps p =>
      let v := p.vals.getD 1 0
      let from_ (q : Share) : Bool := v ≤ 31 && (match mode.toNat with
        | 0 => q.lane == v
        | 1 => q.lane + v == p.lane
        | 2 => q.lane == p.lane + v
        | _ => q.lane == p.lane ^^^ v)
      match ps.find? from_ with
      | some q => ⟨q.vals.getD 0 0, !(p.op 1).poison, joinPoison [q.op 0, p.op 1]⟩
      | none => ⟨p.vals.getD 0 0, false, joinPoison [p.op 0, p.op 1]⟩, fun _ => 0)
  | .redg gd d a c op => some (⟨gd, c, 0, d, 7, [(a, 1)], 7, false⟩, fun ps _ =>
      ⟨(reduction op.toNat (ps.map fun q => q.vals.getD 0 0)).1, false, joinPoison (ps.map (·.op 0))⟩,
      fun ps => (reduction op.toNat (ps.map fun q => q.vals.getD 0 0)).2)
  | .scang gd d a c excl op => some (⟨gd, c, 0, d, 7, [(a, 1)], 7, false⟩, fun ps p =>
      let below := ps.filter fun q => if excl = 1 then q.lane < p.lane else q.lane ≤ p.lane
      ⟨(reduction op.toNat (below.map fun q => q.vals.getD 0 0)).1, false, joinPoison (below.map (·.op 0))⟩,
      fun ps => (reduction op.toNat (ps.map fun q => q.vals.getD 0 0)).2)
  | .matchG gd d a c b64 pd => some (⟨gd, c, 0, d, pd.toNat, [(a, 1 + b64.toNat)], 7, false⟩, fun ps p =>
      let bad := joinPoison (ps.map (·.op 0))
      ⟨laneSet ((ps.filter fun q => q.vals == p.vals).map (·.lane)), ps.all (fun q => q.vals == p.vals) && !bad.1, bad⟩, fun _ => 0)
  | _ => none

/-- The mask that a lane supplies to a collective. -/
def CollForm.maskOf (f : CollForm) (g : Group) (l : Nat) : BitVec 32 :=
  if f.mask.isNull then f.imm else BitVec.ofNat 32 (g.val l f.mask 1)

/-- What a lane brings to a collective. -/
def CollForm.share (f : CollForm) (g : Group) (l : Nat) : Share :=
  ⟨l, f.srcs.map fun x => g.opnd l x.1 x.2, (g.thread l).pred f.pa != f.neg⟩

/-- A lane may arrive: its mask, operands and destination are there, and its mask is not poisoned (R128). -/
def CollForm.ready (f : CollForm) (g : Group) (l : Nat) : Prop :=
  g.clean l f.mask 1 ∧ (∀ x ∈ f.srcs, g.has l x.1 x.2) ∧ g.room l f.d 1 ∧ (g.thread l).live = true

/-! ## Entries of the in-flight record -/

/-- A fresh entry of an operation (R331-R333): its lanes; order, scope, size and the other fields of its word where it has them. -/
def IfrEntry.make (op : IfrOp) (grp : Nat) (pc : BitVec 64) (lanes : List LaneOp) (dwords : Nat := 0) (ord : Nat := 0) (scope : Nat := 0)
    (sz : Nat := 0) (aux : Nat := 0) (hnd : Nat := 0) (idx seq : Nat) : IfrEntry :=
  ⟨idx, seq, op, grp, ord, scope, sz, aux, hnd, dwords, pc, lanes⟩

/-- A lane's part of one: nothing done. -/
def LaneOp.make (lane : Nat) (dst : Ref) (who : List (Nat × Nat)) (pieces : List Piece := []) (a : Nat := 0) (b : Nat := 0)
    (poison : Bool × Bool := (false, false)) : LaneOp :=
  ⟨lane, dst, a, b, false, false, poison.1, poison.2, pieces, 0, who⟩

/-- A piece of an access, nothing done. -/
def Piece.make (va : BitVec 64) (x : Xlat) (len data : Nat) (cmp : Nat := 0) (chk : Bool := x.tchk) : Piece :=
  { va := va, dia := x.dia, len := len, data := data, cmp := cmp, key := x.key, slot := x.slot, chk := chk, prv := x.prv, done := false,
    wait := .no }

/-! ## Special functions -/

/-- The special functions (R155, R165, R188): the operation and its sources. -/
def sfuForm : Instr → Option (Guard × Reg × SFunc × RMode × List (Reg × Nat))
  | .fdiv gd d a b rnd => some (gd, d, .fdiv, RMode.ofCode rnd.toNat, [(a, 1), (b, 1)])
  | .fsqrt gd d a rnd => some (gd, d, .fsqrt, RMode.ofCode rnd.toNat, [(a, 1)])
  | .frcp gd d a rnd => some (gd, d, .frcp, RMode.ofCode rnd.toNat, [(a, 1)])
  | .frsq gd d a => some (gd, d, .frsq, .rne, [(a, 1)])
  | .fexp2 gd d a => some (gd, d, .fexp2, .rne, [(a, 1)])
  | .flog2 gd d a => some (gd, d, .flog2, .rne, [(a, 1)])
  | .fsinpi gd d a => some (gd, d, .fsinpi, .rne, [(a, 1)])
  | .fcospi gd d a => some (gd, d, .fcospi, .rne, [(a, 1)])
  | .ftanh gd d a => some (gd, d, .ftanh, .rne, [(a, 1)])
  | _ => none

/-! ## Memory accesses (chapters 09, 10) -/

/-- The bytes of a size code (R35). -/
def szBytes (sz : BitVec 3) : Nat := 2 ^ sz.toNat

/-- The registers of a size code (R264). -/
def szRegs (sz : BitVec 3) : Nat := if sz.toNat ≤ 2 then 1 else 2 ^ (sz.toNat - 2)

/-- The memory access instructions (R264-R277): guard; T, A, X with their widths; destination; displacement in bytes; whether X is
added to the address; bytes and alignment; permission; whether the access raises the mark and stores; data and compared value
from T and X. -/
def accessForm : Instr → Option (Guard × MemSpec)
  | .ld gd t a x ofs scope ord sz => some (gd,
      { op := .ld false, a := a, x := x, dst := t, dw := szRegs sz,
        disp := ofs.toInt * szBytes sz, len := szBytes sz, align := szBytes sz, need := fun e => e.r, raises := true,
        ord := ord.toNat, scope := scope.toNat, sz := sz.toNat })
  | .ldk gd t a x ofs sz => some (gd,
      { op := .ld true, a := a, x := x, dst := t, dw := szRegs sz,
        disp := ofs.toInt * szBytes sz, len := szBytes sz, align := szBytes sz,
        need := fun e => e.r && !e.w, raises := true, sz := sz.toNat })
  | .st gd t a x ofs scope ord sz => some (gd,
      { op := .st, t := t, tw := szRegs sz, a := a, x := x,
        disp := ofs.toInt * szBytes sz, len := szBytes sz, align := szBytes sz, need := fun e => e.w, stores := true,
        data := fun tv _ => tv % 2 ^ (8 * szBytes sz), ord := ord.toNat, scope := scope.toNat, sz := sz.toNat })
  | .atom gd t a x aop aofs scope ord sz => some (gd,
      { op := .atom aop.toNat, a := a, x := x, xw := szRegs sz, dst := t,
        dw := szRegs sz, disp := aofs.toInt * szBytes sz, index := false, len := szBytes sz, align := szBytes sz,
        need := fun e => e.r && e.w, raises := true, stores := true, data := fun _ xv => xv, ord := ord.toNat,
        scope := scope.toNat, sz := sz.toNat, aux := aop.toNat })
  | .acas gd t a x ofs scope ord sz => some (gd,
      { op := .acas, a := a, x := x, xw := 2 * szRegs sz, dst := t,
        dw := szRegs sz, disp := ofs.toInt * szBytes sz, index := false, len := szBytes sz, align := szBytes sz,
        need := fun e => e.r && e.w, raises := true, stores := true, data := fun _ xv => xv / 2 ^ (8 * szBytes sz),
        cmp := fun xv => xv % 2 ^ (8 * szBytes sz), ord := ord.toNat, scope := scope.toNat, sz := sz.toNat })
  | .red gd a x aop aofs scope ord sz => some (gd,
      { op := .red aop.toNat, a := a, x := x, xw := szRegs sz,
        disp := aofs.toInt * szBytes sz, index := false, len := szBytes sz, align := szBytes sz,
        need := fun e => e.r && e.w, stores := true, data := fun _ xv => xv, ord := ord.toNat, scope := scope.toNat,
        sz := sz.toNat, aux := aop.toNat })
  | .tagrd gd t a x ofs sz => some (gd,
      { op := .tagrd, a := a, x := x, dst := t, dw := 1, disp := ofs.toInt * szBytes sz,
        len := 64, align := 64, need := fun e => e.r, raises := true, sz := sz.toNat })
  | .tagwr gd t a x ofs sz => some (gd,
      { op := .tagwr, t := t, a := a, x := x, disp := ofs.toInt * szBytes sz, len := 64,
        align := 64, need := fun e => e.w, stores := true, data := fun tv _ => tv % 16, sz := sz.toNat })
  | _ => none

/-- The address of an access in a lane (R265): the pair A, the signed index X, the displacement, in 64 bits. -/
def MemSpec.va (m : MemSpec) (g : Group) (l : Nat) : BitVec 64 :=
  BitVec.ofInt 64 ((g.val l m.a 2 : Int) + (if m.index then asSigned (g.val l m.x m.xw) else 0) + m.disp)

/-- An access of a lane passes stage A, the class rule and the range locks (R234-R237, R296, R450, R451). -/
def State.passes (s : State) (c : Cur) (l : Nat) (va : BitVec 64) (m : MemSpec) (s2 : State) (x : Xlat) : Prop :=
  ∃ s1, s.access c.tid c.grp l va m.need = .ok (s1, x) ∧ s1.checks c.tid va x m.len m.raises m.stores = .ok s2

/-- The same as a function; a lane that does not pass leaves the state. -/
def State.passed (s : State) (c : Cur) (l : Nat) (va : BitVec 64) (m : MemSpec) : Option (State × Xlat) :=
  match s.access c.tid c.grp l va m.need with
  | .ok (s1, x) =>
    match s1.checks c.tid va x m.len m.raises m.stores with
    | .ok s2 => some (s2, x)
    | .error _ => none
  | .error _ => none

/-- A lane of a memory instruction may issue: operands there and not poisoned, address aligned, destination free, access let
through. -/
def MemSpec.ready (m : MemSpec) (c : Cur) (g : Group) (σ : State × List LaneOp) (l : Nat) : Prop :=
  g.clean l m.t m.tw ∧ g.clean l m.a 2 ∧ g.clean l m.x m.xw ∧ g.room l m.dst m.dw ∧ (m.va g l).toNat % m.align = 0 ∧
  ∃ s2 x, σ.1.passes c l (m.va g l) m s2 x

/-- What it does: its destination becomes Pending, and its access joins the instruction's entry, for the threads `who`. -/
def MemSpec.effect (m : MemSpec) (c : Cur) (g : Group) (who : Nat → List (Nat × Nat)) (σ : State × List LaneOp) (l : Nat) :
    State × List LaneOp :=
  match σ.1.passed c l (m.va g l) m with
  | none => σ
  | some (s2, x) =>
    (s2.updGroup c.tid c.grp fun h => markRef h l (g.dst l m.dst m.dw) m.dw .pending,
     σ.2 ++ [LaneOp.make l (g.dst l m.dst m.dw) (who l) [Piece.make (m.va g l) x m.len
       (m.data (g.val l m.t m.tw) (g.val l m.x m.xw)) (m.cmp (g.val l m.x m.xw))
       (x.tchk && (m.op != .tagrd && m.op != .tagwr))]])

/-- The in-flight entry of a memory instruction (R331-R333). -/
def MemSpec.entry (m : MemSpec) (c : Cur) (e : Entry) (ops : List LaneOp) : Nat → Nat → IfrEntry :=
  IfrEntry.make m.op c.grp e.pc ops m.dw m.ord m.scope m.sz m.aux

/-- A piece of an access of a team that may be performed now at its home panel (R242, R262, R282, R284): its page is valid, its
context's gate and log have room, no stop of its team is under way. -/
structure State.due (s : State) (tid op lane piece : Nat) (t : Team) (e : IfrEntry) (o : LaneOp) (p : Piece) (panel : Nat)
    (s1 : State) : Prop where
  team : s.team? tid = some t
  own : t.tid = tid
  ctl : tid ≠ 0
  st : t.st = .resident
  calm : t.stopping = false ∧ t.frozen = []
  entry : t.ifr.find? (·.seq == op) = some e
  operand : e.lanes.find? (·.lane == lane) = some o
  part : o.pieces[piece]? = some p
  open_ : p.done = false ∧ p.wait = .no ∧ p.held = false ∧ p.prv = false ∧ o.done = false
  order : t.mayPerform e (s.orderOf e p) o p = true
  home : (s.home p.dia).map (·.1) = some panel
  page : pteValid (s.pte p.dia) = true
  calmHome : s.late = []
  log : e.op.isWriteKind = true → s.logRoom (some t.ctx) (s.sectorsAt p.dia p.len) = true
  gate : s.gatePass panel t.ctx (sectorsOf p.dia p.len) (e.op.homeOp == .read false || e.op.homeOp == .read true)
    (.piece tid op lane piece) = (s1, true)

/-- How a home finds the sector of a DIA's page (R240, R459). -/
def State.found (s : State) (dia : Nat) (tag : BitVec 4) : SynClass :=
  let idx := physOf (s.pte dia) dia / 64
  (s.probeSector idx (s.readAs idx (dia / 64)) tag).1

/-- The sector of a DIA's page can be merged into: it reads clean, corrected or with another tag (R459, R460). -/
def State.mends (s : State) (dia : Nat) (tag : BitVec 4) : Prop :=
  s.found dia tag ≠ .misdirected ∧ s.found dia tag ≠ .uncorrectable

/-- The piece has bytes in the 32-byte unit, the grain of a key, that holds a byte of its sector (R442). -/
def Piece.touches (p : Piece) (d : Nat) : Bool :=
  decide (p.dia % 64 < 32 * (d % 64 / 32) + 32) && decide (32 * (d % 64 / 32) < p.dia % 64 + p.len)

/-- Every 64-byte sector but one holds what it held, and so does every byte outside it. -/
def State.sectorsBut (s s' : State) (idx : Nat) : Prop :=
  (∀ k, k ≠ idx → s'.sector? k = s.sector? k) ∧ ∀ a, a / 64 ≠ idx → Memory.read s'.mem a = Memory.read s.mem a

/-! ## The palette (R254-R257, R265-R273) -/

/-- LDP, STP, ATOMP, ACASP: guard, sources T (data), A (offset), X, destination, displacement, bytes; whether X is an index; whether it
stores; its order; the new bytes from the old ones, the data T and X. -/
structure PalForm where
  gd : Guard
  t : Reg := Reg.null
  tw : Nat := 1
  a : Reg
  x : Reg
  xw : Nat := 1
  dst : Reg := Reg.null
  dw : Nat := 0
  disp : Int
  index : Bool
  len : Nat
  store : Bool
  ord : Nat
  new : Nat → Nat → Nat → Nat

def palForm : Instr → Option PalForm
  | .ldp gd t a x ofs _ ord sz => some
      { gd := gd, a := a, x := x, dst := t, dw := szRegs sz, disp := ofs.toInt * szBytes sz, index := true, len := szBytes sz,
        store := false, ord := ord.toNat, new := fun old _ _ => old }
  | .stp gd t a x ofs _ ord sz => some
      { gd := gd, t := t, tw := szRegs sz, a := a, x := x, disp := ofs.toInt * szBytes sz, index := true, len := szBytes sz,
        store := true, ord := ord.toNat, new := fun _ tv _ => tv % 2 ^ (8 * szBytes sz) }
  | .atomp gd t a x aop aofs _ ord sz => some
      { gd := gd, a := a, x := x, xw := szRegs sz, dst := t, dw := szRegs sz, disp := aofs.toInt * szBytes sz, index := false,
        len := szBytes sz, store := true, ord := ord.toNat, new := fun old _ xv => atomicFn aop.toNat (szBytes sz) old xv }
  | .acasp gd t a x ofs _ ord sz => some
      { gd := gd, a := a, x := x, xw := 2 * szRegs sz, dst := t, dw := szRegs sz, disp := ofs.toInt * szBytes sz,
        index := false, len := szBytes sz, store := true, ord := ord.toNat,
        new := fun old _ xv => if old = xv % 2 ^ (8 * szBytes sz) then xv / 2 ^ (8 * szBytes sz) else old }
  | _ => none

/-- The offset in the palette (R265). -/
def PalForm.offset (f : PalForm) (g : Group) (l : Nat) : Int :=
  (g.val l f.a 1 : Int) + (if f.index then (g.val l f.x f.xw : Int) else 0) + f.disp

/-- Bytes of a team's allotment carry no uncorrectable error and meet no range lock the access minds (R254, R256, R296). -/
def State.palFree (s : State) (t : Team) (off : Int) (n : Nat) (store : Bool) : Prop :=
  0 ≤ off ∧ off + n ≤ t.palSize ∧ s.lockHit t (some t.tid) off.toNat (off.toNat + n) store = none ∧
  ∀ w ∈ t.palBad, off.toNat + n ≤ 4 * w ∨ 4 * w + 4 ≤ off.toNat

/-! ## Exact values of the sampler and the ray unit (R400-R410) -/

/-- The exact value of a finite FP32 word. -/
def realOf (w : Nat) : Rat :=
  (if w / 2 ^ 31 % 2 = 1 then -1 else 1) * (if w / 2 ^ 23 % 256 = 0 then w % 2 ^ 23 else w % 2 ^ 23 + 2 ^ 23 : Nat) *
    2 ^ (max (w / 2 ^ 23 % 256) 1 - 1) / 2 ^ 149

/-- The exact value of a finite FP16 value. -/
def halfOf (w : Nat) : Rat :=
  (if w / 2 ^ 15 % 2 = 1 then -1 else 1) * (if w / 2 ^ 10 % 32 = 0 then w % 2 ^ 10 else w % 2 ^ 10 + 2 ^ 10 : Nat) *
    2 ^ (max (w / 2 ^ 10 % 32) 1 - 1) / 2 ^ 24

/-- A word that is neither an infinity nor a NaN. -/
def finite32 (w : Nat) : Prop := w / 2 ^ 23 % 256 ≠ 255

def finite16 (w : Nat) : Prop := w / 2 ^ 10 % 32 ≠ 31

/-- Round(x, FP32, mode); an exact zero gives +0. -/
def rounded32 (mode : RMode) (x : Rat) : Nat := roundQ mode x.num x.den

/-- Round(x, integer, RNE). -/
def NearestEven (x : Rat) (n : Int) : Prop :=
  2 * (x - n) ≤ 1 ∧ -1 ≤ 2 * (x - n) ∧ (2 * (x - n) = 1 ∨ 2 * (x - n) = -1 → n % 2 = 0)

/-- Word k of a wide value. -/
def word32 (v k : Nat) : Nat := v / 2 ^ (32 * k) % 2 ^ 32

/-- Component k of a texel of a format (R400). -/
def texelReal (fmt v k : Nat) : Rat :=
  match fmt with
  | 0 => (v / 2 ^ (8 * k) % 256 : Nat) / 255
  | 1 => halfOf (v / 2 ^ (16 * k) % 2 ^ 16)
  | 2 => if k = 0 then realOf (v % 2 ^ 32) else if k = 3 then 1 else 0
  | _ => if k = 0 then (v % 256 : Nat) / 255 else if k = 3 then 1 else 0

/-- It is finite. -/
def texelFinite (fmt v k : Nat) : Prop := (fmt = 1 → finite16 (v / 2 ^ (16 * k) % 2 ^ 16)) ∧ (fmt = 2 → finite32 (v % 2 ^ 32))

/-- It is -0. -/
def texelMinusZero (fmt v k : Nat) : Prop := fmt = 1 ∧ v / 2 ^ (16 * k) % 2 ^ 16 = 2 ^ 15 ∨ fmt = 2 ∧ k = 0 ∧ v % 2 ^ 32 = 2 ^ 31

/-- The texels of a footprint with their weights and formats: those read, in order, and BORDER, whose components are FP16 (R400). -/
def footTexels (fmt border : Nat) : List (Nat × Option Nat) → List Nat → List (Nat × Nat × Nat)
  | [], _ => []
  | (w, none) :: fp, vs => (w, 1, border) :: footTexels fmt border fp vs
  | (w, some _) :: fp, vs => (w, fmt, vs.headD 0) :: footTexels fmt border fp (vs.drop 1)

/-- Det of three vectors. -/
def detOf (a b c : Nat → Rat) : Rat :=
  a 0 * (b 1 * c 2 - b 2 * c 1) + a 1 * (b 2 * c 0 - b 0 * c 2) + a 2 * (b 0 * c 1 - b 1 * c 0)

/-! ## Consumption of poison (R84, R463) -/

/-- The instructions that consume what they read (R84): guard, sources in field order with their widths, destination. -/
def consumer (i : Instr) : Option (Guard × List (Reg × Nat) × Reg) :=
  match i, accessForm i, palForm i with
  | .brx gd a _, _, _ | .callx gd a _, _, _ | .ret gd a, _, _ => some (gd, [(a, 2)], Reg.null)
  | .wbase gd a _ _, _, _ | .ixset gd a _, _, _ | .ixadd gd a _, _, _ => some (gd, [(a, 1)], Reg.null)
  | .swr gd a sr, _, _ => if SReg.writable sr then some (gd, [(a, SReg.regs sr)], Reg.null) else none
  | .v2p gd a mask, _, _ => if mask ≠ 0 then some (gd, [(a, 1)], Reg.null) else none
  | .icsub gd d a b pd, _, _ => if pd ≠ 7 then some (gd, [(a, 1), (b, 1)], d) else none
  | .pset gd a b _ pd, _, _ | .fsetp gd a b _ pd, _, _ => if pd ≠ 7 then some (gd, [(a, 1), (b, 1)], Reg.null) else none
  | .isetp gd a b _ _ b64 pd, _, _ => if pd ≠ 7 then some (gd, [(a, 1 + b64.toNat), (b, 1 + b64.toNat)], Reg.null) else none
  | _, some (gd, m), _ => some (gd, [(m.t, m.tw), (m.a, 2), (m.x, m.xw)], Reg.null)
  | _, _, some f => some (f.gd, [(f.t, f.tw), (f.a, 1), (f.x, f.xw)], Reg.null)
  | _, _, _ => none

/-- The number of a register that a lane names, as a trap reports it (R348): its slot, or 0x1_0000 plus a G register's number. -/
def Group.regCode (g : Group) (l : Nat) (r : Reg) : Nat :=
  match r.cls with
  | .g => 2 ^ 16 + r.num.toNat
  | .v => (g.thread l).wb + r.num.toNat + (if r.ind then (g.thread l).ix.toNat else 0)

/-- Register k of an operand. -/
def Group.register (g : Group) (l : Nat) (r : Reg) (k : Nat) : Slot :=
  match r.cls with
  | .g => g.greg (r.num.toNat + k)
  | .v => (g.thread l).slot (g.regCode l r + k)

/-- The first poisoned register of the first poisoned source, as a trap reports it (R463). -/
def Group.firstPoisoned (g : Group) (l : Nat) (srcs : List (Reg × Nat)) : Nat :=
  match srcs.find? fun x => (g.opnd l x.1 x.2).poison with
  | some x => g.regCode l x.1 + (List.range x.2).findIdx fun k => (g.register l x.1 k).poison
  | none => 0

end Sys2Proof.Machine
end

