-- ==== Sys2Proof/Certificates/Slice0/Obligations.lean ====
section
/-! DEFINITION. The statements for the provers. -/

open Sys2Proof Sys2Proof.Machine

/-! ## Instructions that act lane by lane in their group -/

/-- Integer arithmetic: every acting lane whose operands are there gets the exact result, wrapped, clamped or selected as the
instruction says; nothing else changes (R170-R176). -/
def Obligations.IntegerArithmetic : Prop :=
  ∀ i f out, arithForm i = some (f, out) → ∀ s : State, f.admitted s →
    s.lanewise i f.gd f.ready (fun _ e _ => e.next) (f.effect out)

/-- Logic, shifts, bit counts, fields, MOV, MOVI, PSET and ISETP (R95, R96, R99, R177-R181). That a MOV of several registers
carries the poison of any of them to each is the model's choice (log 81). -/
def Obligations.LogicAndMoves : Prop :=
  ∀ i f out, bitForm i = some (f, out) → ∀ s : State, f.admitted s →
    s.lanewise i f.gd f.ready (fun _ e _ => e.next) (f.effect out)

/-- Floating-point arithmetic, comparison and conversion in which no lane raises a flag that FCTL enables: the result, AMAX and
FLAGS (R152-R154, R160, R182-R195). -/
def Obligations.FloatingPoint : Prop :=
  ∀ i f out, floatForm i = some (f, out) → ∀ s : State, f.admitted s →
    s.lanewise i f.gd (fun g e l => f.ready g e l ∧ f.raised out g l &&& g.fctl = 0) (fun _ e _ => e.next) (f.effectF out)

/-- QCVT with no enabled flag: the packed elements, lowest first, each rounded after division by 2 to the scale; only elements of
registers that are not poisoned enter AMAX (R160, R194). -/
def Obligations.QuantizingConversion : Prop :=
  ∀ (s : State) gd d a b rnd ty, let t := FType.ofCode ty.toNat
    let n := if ty.toNat ≤ 2 then 2 else 4
    let elems (g : Group) (l : Nat) : List Slot := slotsOf g l (match resolve g l a n with | .ok r => r | .error _ => .null) n
    let res (g : Group) (l : Nat) : List FRes :=
      (elems g l).map fun x => qcvtElem t (RMode.ofCode rnd.toNat) (fp32 x.val) (g.val l b 1 % 256)
    let raised (g : Group) (l : Nat) : FFlags := (res g l).foldl (fun f r => f ||| r.flags) 0
    s.lanewise (.qcvt gd d a b rnd ty) gd
      (fun g _ l => g.has l a n ∧ g.has l b 1 ∧ g.room l d 1 ∧ raised g l &&& g.fctl = 0) (fun _ e _ => e.next)
      fun g _ h l =>
        let amax := ((elems g l).filter fun x => !x.poison).foldl (fun m x => amaxStep m (fp32 x.val)) (h.thread l).amax
        ({ h.updThread l (fun t => { t with amax := amax }) with flags := h.flags ||| raised g l }).put g l d 1
          (((res g l).zipIdx.map fun (x : FRes × Nat) => x.1.bits * 2 ^ (t.width * x.2)).sum) (joinPoison [g.opnd l a n, g.opnd l b 1])

/-- SEL, PLOP, P2V and V2P; MOVG: the source lane's value goes into the G register once, and where the source lane does not issue,
the register becomes Void (R97, R98, R100, R101). That MOVG leaves the register where no member issues, and that a SEL of several
registers carries the poison of any of them to each, are the model's choices (log 80, 81). -/
def Obligations.SelectsAndPredicates : Prop :=
  (∀ s : State,
     (∀ gd d a b (size neg : BitVec 1) (pc : BitVec 3), let w := 2 ^ size.toNat
       s.lanewise (.sel gd d a b size neg pc) gd (fun g _ l => g.has l a w ∧ g.has l b w ∧ g.room l d w) (fun _ e _ => e.next)
         fun g _ h l =>
           let x := if ((h.thread l).pred pc.toNat != (neg == 1)) then g.opnd l a w else g.opnd l b w
           h.put g l d w x.val (x.poison, x.pt)) ∧
     (∀ gd (op pd pa pb : BitVec 3), s.lanewise (.plop gd op pd pa pb) gd (fun _ _ _ => True) (fun _ e _ => e.next)
       fun _ _ h l =>
         let p := (h.thread l).pred pa.toNat
         let q := (h.thread l).pred pb.toNat
         h.updThread l fun t => t.setPred pd.toNat (match op.toNat with
           | 0 => p && q | 1 => p || q | 2 => p != q | 3 => p && !q | 4 => p || !q | _ => p == q)) ∧
     (∀ gd d, s.lanewise (.p2v gd d) gd (fun g _ l => g.room l d 1) (fun _ e _ => e.next)
       fun g _ h l => h.put g l d 1 ((h.thread l).preds.toNat + 2 ^ 7)) ∧
     (∀ gd a (mask : BitVec 7), s.lanewise (.v2p gd a mask) gd (fun g _ l => g.has l a 1 ∧ (mask = 0 ∨ g.clean l a 1))
       (fun _ e _ => e.next)
       fun g _ h l => h.updThread l fun t =>
         { t with preds := (t.preds &&& ~~~mask) ||| (BitVec.ofNat 7 (g.val l a 1) &&& mask) })) ∧
  (∀ (s : State) gd d a (first : BitVec 1) (lane : BitVec 5),
     let src (g : Group) (e : Entry) : Nat := if first = 1 then (actLanes g e gd).headD lane.toNat else lane.toNat
     s.lanewise (.movg gd d a first lane) gd
       (fun g e _ => g.room (src g e) d 1 ∧ (src g e ∈ actLanes g e gd → g.has (src g e) a 1)) (fun _ e _ => e.next)
       fun g e h l =>
         if src g e ∈ actLanes g e gd then
           if l = src g e then h.put g l d 1 (g.opnd l a 1).val ((g.opnd l a 1).poison, (g.opnd l a 1).pt) else h
         else markRef h (src g e) (g.dst (src g e) d 1) 1 .void)

/-- WBASE, IXSET and IXADD (R102, R103); EMPTY makes its registers Void and keeps their values, TFULL tests a state without
reading (R106, R107). -/
def Obligations.WindowIndexAndStates : Prop :=
  (∀ s : State,
    (∀ gd a (rel : BitVec 1) (delta : BitVec 16),
      let new (g : Group) (l : Nat) : Int :=
        (if rel = 1 then ((g.thread l).wb : Int) else 0) + asSigned (g.val l a 1) + delta.toInt
      s.lanewise (.wbase gd a rel delta) gd
        (fun g _ l => g.clean l a 1 ∧ new g l % 8 = 0 ∧ 0 ≤ new g l ∧ new g l ≤ (g.allot : Int) - 8) (fun _ e _ => e.next)
        fun g _ h l => h.updThread l fun t => { t with wb := (new g l).toNat }) ∧
    (∀ gd a (imm : BitVec 32), s.lanewise (.ixset gd a imm) gd (fun g _ l => g.clean l a 1) (fun _ e _ => e.next)
      fun g _ h l => h.updThread l fun t => { t with ix := BitVec.ofNat 10 (g.val l a 1 + imm.toNat) }) ∧
    (∀ gd a (imm : BitVec 32), s.lanewise (.ixadd gd a imm) gd (fun g _ l => g.clean l a 1) (fun _ e _ => e.next)
      fun g _ h l => h.updThread l fun t => { t with ix := BitVec.ofNat 10 (t.ix.toNat + g.val l a 1 + imm.toNat) })) ∧
  (∀ s : State,
    (∀ gd d (size : BitVec 2), s.lanewise (.empty gd d size) gd (fun g _ l => g.room l d (2 ^ size.toNat)) (fun _ e _ => e.next)
      fun g _ h l => markRef h l (g.dst l d (2 ^ size.toNat)) (2 ^ size.toNat) .void) ∧
    (∀ gd a (test : BitVec 2) (pd : BitVec 3),
      s.lanewise (.tfull gd a test pd) gd (fun g _ l => ∃ r, resolve g l a 1 = .ok r) (fun _ e _ => e.next)
        fun g _ h l =>
          let st := match resolve g l a 1 with
            | .ok r => ((slotsOf g l r 1).headD Slot.zero).st
            | .error _ => .full
          h.updThread l fun t => t.setPred pd.toNat (match test.toNat with
            | 0 => st == .full | 1 => st == .pending | _ => st == .void)))

/-- SWR writes each writable special register as its chapter says, raises MODE_ALIAS for AW in matrix mode and PRIVILEGE for a register that
only reads; SRD brings what Table 4 of R86 says of each register, where the spec states it for the thread, and TIME device time (R86,
R104, R105, R152, R159, R204, R205, R335, R347, R362; what it does not state for the controller is free, log 23). -/
def Obligations.SpecialRegisters : Prop :=
  ∀ s : State,
    (∀ gd a (sr : BitVec 16), SReg.writable sr = true →
      s.lanewise (.swr gd a sr) gd
        (fun g _ l => g.clean l a (SReg.regs sr) ∧ (sr = 0x0C → (g.thread l).mx = false)) (fun _ e _ => e.next)
        fun g _ h l =>
          let v := g.val l a (SReg.regs sr)
          match sr.toNat with
          | 0x0B => h.updThread l fun t => { t with ix := BitVec.ofNat 10 v }
          | 0x0C => h.updThread l fun t => { t with aw := BitVec.ofNat 4 (v / 64) }
          | 0x0D => h.updThread l fun t => { t with mt := v.testBit 1 }
          | 0x0E => { h with flags := BitVec.ofNat 5 v }
          | 0x0F => { h with fctl := BitVec.ofNat 5 v }
          | 0x10 => h.updThread l fun t => { t with amax := amaxWrite (BitVec.ofNat 32 v) }
          | _ => h.updThread l fun t => { t with trappc := BitVec.ofNat 64 (v % 2 ^ 56 - v % 8) }) ∧
    (∀ gd a (sr : BitVec 16) c t g e v, s.issues c t g e → s.handled c t e v → (∀ l ∈ lanesOf e.mask, l < g.lanes.length) →
      (SReg.writable sr = false → ∃ s', exec (.swr gd a sr) s = .next s' ∧
        s.traps s' c g e (actLanes g e gd) (fun _ => ⟨.privilege, 0, (encode (.swr gd a sr)).getD 0⟩) v) ∧
      (sr = 0x0C → (∀ l ∈ actLanes g e gd, g.clean l a 1 ∧ (g.thread l).mx = true) → ∃ s', exec (.swr gd a sr) s = .next s' ∧
        s.traps s' c g e (actLanes g e gd) (fun _ => ⟨.modeAlias, 0, 0⟩) v)) ∧
    (∀ gd d (sr : BitVec 16) c t g e, s.issues c t g e → (∀ l ∈ actLanes g e gd, g.room l d (SReg.regs sr)) →
      let team (v : Nat) : Option Nat := if c.tid = 0 then none else some v
      let context (f : Ctx → Nat) : Option Nat := (s.ctx? t.ctx).map f
      let reads (l : Nat) : Option Nat :=
        let th := g.thread l
        match sr.toNat with
        | 0x00 => some l
        | 0x01 => some c.grp
        | 0x02 => team t.team
        | 0x03 => team t.grid.toNat
        | 0x04 => some t.groups.length
        | 0x05 => some g.role
        | 0x06 => team t.quad
        | 0x07 => team t.core
        | 0x08 => team (t.core / 4)
        | 0x09 => some th.wb
        | 0x0A => some g.allot
        | 0x0B => some th.ix.toNat
        | 0x0C => some (64 * th.aw.toNat)
        | 0x0D => some (th.mx.toNat + 2 * th.mt.toNat + 2 ^ 9 * th.scaled.toNat + 2 ^ 10 * th.shape.toNat + 2 ^ 12 * th.mtype.toNat)
        | 0x0E => some g.flags.toNat
        | 0x0F => some g.fctl.toNat
        | 0x10 => some th.amax.toNat
        | 0x11 => some (s.time.toNat % 2 ^ 32)
        | 0x12 => some (s.time.toNat / 2 ^ 32)
        | 0x13 => team t.cls.toNat
        | 0x14 => context Ctx.wear
        | 0x15 => some th.trapc.toNat
        | 0x16 => some th.trappc.toNat
        | 0x17 => some th.trapa.toNat
        | 0x18 => some ((t.ifr.filter t.fwBit).length + 2 ^ 16 * (512 - t.ifr.length) + 2 ^ 30 * t.rp.toNat + 2 ^ 31 * t.ft.toNat)
        | 0x19 => team t.ctx.toNat
        | 0x1A => context fun x => 2 ^ 8 + x.minor
        | _ => none
      ∃ (s' : State) (v : Nat → Nat), exec (.srd gd d sr) s = .next s' ∧ (∀ l x, reads l = some x → v l = x) ∧
        State.spread { s with fresh := s.fresh + 1 } s' c g e (actLanes g e gd) (fun _ => e.next) fun h l =>
          h.put g l d (SReg.regs sr) (v l)) ∧
    (∀ gd d, s.lanewise (.time gd d) gd (fun g _ l => g.room l d 2) (fun _ e _ => e.next)
      fun g _ h l => h.put g l d 2 s.time.toNat)

/-- ALLOT of an entry that holds every live thread of its group: granted or refused as R108 says, and told in Pd. That growth is
always granted to the controller's thread is the model's choice (log 79). -/
def Obligations.Allotment : Prop :=
  ∀ (s : State) gd (n : BitVec 8) (pd : BitVec 3) c t g e, s.issues c t g e → (∀ l ∈ g.liveLanes, l ∈ actLanes g e gd) →
    let m := 8 * n.toNat
    let ok : Prop := if m = g.allot then True
      else if m < g.allot then ∀ l ∈ g.liveLanes, (g.thread l).wb ≤ m - 8 ∧ 8 ≤ m ∧
        (∀ k, m ≤ k → ((g.thread l).slot k).st ≠ .pending) ∧
        ((g.thread l).mx = true → (g.thread l).aw.toNat * 64 + (g.thread l).columns ≤ m)
      else t.tid = 0 ∨ 128 * (m - g.allot) ≤ s.freeStore t.core t.quad
    ∃ s', exec (.allot gd n pd) s = .next s' ∧
      (ok → s.spread s' c (if m = g.allot then g else resizeGroup g m) e (actLanes g e gd) (fun _ => e.next)
        fun h l => h.updThread l fun x => x.setPred pd.toNat true) ∧
      (¬ok → s.spread s' c g e (actLanes g e gd) (fun _ => e.next) fun h l => h.updThread l fun x => x.setPred pd.toNat false)

/-! ## Control flow -/

/-- NOP goes on at the next word, PRIO there at its priority; BRA and CALL go to their displacement's word, BRX, CALLX and RET to the pair's
address, at the priority the instruction (or RET's pair) gives, CALL and CALLX with the link in V0:V1, as long as the target lies in the
word's own segment, the controller's also in its image; a target in another segment takes CODE_ABSENT, and an indirect one that is no
multiple of 8 takes ALIGN; a thread of the controller that transfers out of its image ends, and CTLPC names the transfer (R21, R111,
R112, R115, R117, R521, R522). -/
def Obligations.Transfers : Prop :=
  let near (e : Entry) (tgt : Nat) : Prop := tgt % 8 = 0 ∧ tgt / 4096 = e.pc.toNat / 4096
  let inside (s : State) (tgt : Nat) : Prop := ∀ c, s.cur = some c → c.tid = 0 → tgt + 8 ≤ s.ctlImage
  let far (e : Entry) (tgt : Nat) : Prop := tgt % 8 = 0 ∧ tgt / 4096 ≠ e.pc.toNat / 4096
  let direct (e : Entry) (disp : BitVec 32) : Nat := (((e.pc.toNat : Int) + 8 * disp.toInt) % 2 ^ 56).toNat
  let pair (g : Group) (a : Reg) (l : Nat) : Nat := g.val l a 2 % 2 ^ 56
  let link (e : Entry) (g h : Group) (l : Nat) : Group := h.put g l regV0 2 (e.prio.toNat * 2 ^ 56 + (e.pc + 8).toNat % 2 ^ 56)
  ∀ s : State,
    (∀ gd, s.lanewise (.nop gd) gd (fun _ _ _ => True) (fun _ e _ => e.next) fun _ _ h _ => h) ∧
    (∀ gd p, s.lanewise (.prio gd p) gd (fun _ _ _ => True) (fun _ e _ => (e.pc + 8, p)) fun _ _ h _ => h) ∧
    (∀ gd pr disp, s.lanewise (.bra gd pr disp) gd (fun _ e _ => e.pc.toNat < 2 ^ 56 ∧ near e (direct e disp) ∧ inside s (direct e disp))
      (fun _ e _ => (BitVec.ofNat 64 (direct e disp), pr)) fun _ _ h _ => h) ∧
    (∀ gd pr disp, s.lanewise (.call gd pr disp) gd
      (fun g e l => e.pc.toNat < 2 ^ 56 ∧ near e (direct e disp) ∧ inside s (direct e disp) ∧ g.room l regV0 2)
      (fun _ e _ => (BitVec.ofNat 64 (direct e disp), pr)) fun g e h l => link e g h l) ∧
    (∀ gd a pr, s.lanewise (.brx gd a pr) gd (fun g e l => g.clean l a 2 ∧ near e (pair g a l) ∧ inside s (pair g a l))
      (fun g _ l => (BitVec.ofNat 64 (pair g a l), pr)) fun _ _ h _ => h) ∧
    (∀ gd a pr, s.lanewise (.callx gd a pr) gd
      (fun g e l => g.clean l a 2 ∧ near e (pair g a l) ∧ inside s (pair g a l) ∧ g.room l regV0 2)
      (fun g _ l => (BitVec.ofNat 64 (pair g a l), pr)) fun g e h l => link e g h l) ∧
    (∀ gd a, s.lanewise (.ret gd a) gd (fun g e l => g.clean l a 2 ∧ near e (pair g a l) ∧ inside s (pair g a l))
      (fun g _ l => (BitVec.ofNat 64 (pair g a l), BitVec.ofNat 8 (g.val l a 2 / 2 ^ 56))) fun _ _ h _ => h) ∧
    (∀ gd pr disp (i : Instr) c t g e v, i = .bra gd pr disp ∨ i = .call gd pr disp → s.issues c t g e → s.handled c t e v →
      (∀ l ∈ lanesOf e.mask, l < g.lanes.length) → e.pc.toNat < 2 ^ 56 → far e (direct e disp) →
      ∃ s', exec i s = .next s' ∧
        s.traps s' c g e (actLanes g e gd) (fun _ => ⟨.codeAbsent, 0, BitVec.ofNat 64 (direct e disp)⟩) v) ∧
    (∀ gd a pr (i : Instr) c t g e v, i = .brx gd a pr ∨ i = .callx gd a pr ∨ i = .ret gd a → s.issues c t g e → s.handled c t e v →
      (∀ l ∈ lanesOf e.mask, l < g.lanes.length) → (∀ l ∈ actLanes g e gd, g.clean l a 2) →
      ((∀ l ∈ actLanes g e gd, far e (pair g a l)) → ∃ s', exec i s = .next s' ∧
        s.traps s' c g e (actLanes g e gd) (fun l => ⟨.codeAbsent, 0, BitVec.ofNat 64 (pair g a l)⟩) v) ∧
      ((∀ l ∈ actLanes g e gd, pair g a l % 8 ≠ 0) → ∃ s', exec i s = .next s' ∧
        s.traps s' c g e (actLanes g e gd) (fun l => ⟨.align, 0, BitVec.ofNat 64 (pair g a l)⟩) v)) ∧
    (∀ gd pr disp (i : Instr) c t g e l, i = .bra gd pr disp ∨ i = .call gd pr disp → s.issues c t g e → c.tid = 0 →
      actLanes g e gd = [l] → l < g.lanes.length → e.pc.toNat < 2 ^ 56 → near e (direct e disp) → ¬ inside s (direct e disp) →
      ∃ s', exec i s = .next s' ∧ ((s'.grp c).thread l).live = false ∧ s'.ctlCause = 9 ∧ s'.ctlPc = e.pc ∧ s'.ctlPoison = false ∧
        s'.ctlCnt = min (s.ctlCnt + 1) 0xFFFFFFFF)

/-- YIELD moves its members on at their priority, in an entry that yields for its count of cycles, and YIELD_EXPIRY ends the cycles it counts (R116);
WAITT goes on once device time has reached its operand, and WAITT_RELEASE lets a waiting thread issue again (R135). What becomes
of the entry of a thread released alone is the model's reading (log 66). -/
def Obligations.YieldAndWait : Prop :=
  (∀ s : State,
    (∀ gd cyc c t g e, s.issues c t g e → ∃ s', exec (.yield gd cyc) s = .next s' ∧
      s.spread s' c g e (actLanes g e gd) (fun _ => e.next) (fun h _ => h) ∧
      ∀ l ∈ actLanes g e gd, ∃ x ∈ (s'.grp c).entries, x.pc = e.pc + 8 ∧ x.mask.getLsbD l = true ∧ x.yld.isSome = true ∧
        ((∀ y ∈ g.entries, y.pc ≠ e.pc + 8) → x.yld = some ⟨cyc.toNat, true⟩)) ∧
    (∀ tid grp ent t x, s.team? tid = some t → t.tid = tid → (t.group grp).entries[ent]? = some x →
      ∃ s', exec (.yieldExpiry tid grp ent) s = .next s' ∧
        s'.team? tid = some (t.updGroup grp fun g =>
          { g with entries := g.entries.set ent { x with yld := x.yld.map fun y => { y with cycles := 0 } } }) ∧
        (∀ k, k ≠ tid → s'.team? k = s.team? k) ∧ s'.rest = s.rest)) ∧
  (∀ s : State,
    (∀ gd a, s.lanewise (.waitt gd a) gd (fun g _ l => g.clean l a 2 ∧ g.val l a 2 ≤ s.time.toNat) (fun _ e _ => e.next)
      fun _ _ h l => h.updThread l fun t => { t with wakeAt := none }) ∧
    (∀ tid grp lane t w, s.team? tid = some t → ((t.group grp).thread lane).wakeAt = some w → w.toNat ≤ s.time.toNat →
      t.tid = tid → lane < 32 →
      ∃ s', exec (.waittRelease tid grp lane) s = .next s' ∧
        (∀ t', s'.team? tid = some t' → ((t'.group grp).thread lane).wakeAt = none ∧
          ∀ x ∈ (t'.group grp).entries, x.mask.getLsbD lane = true → x.blocked.getLsbD lane = false) ∧
        (∀ k, k ≠ tid → s'.team? k = s.team? k) ∧ s'.rest = s.rest))

/-- EXIT ends the issuing threads, and the team where none of its threads stands any more; a live thread's registers stay as they are,
and so do G registers, unless they are left without the producer they waited for (R62, R71, R81, R114). -/
def Obligations.Exit : Prop :=
  ∀ (s : State) gd c t g e, s.issues c t g e →
    (∀ l ∈ actLanes g e gd, l < g.lanes.length ∧ t.needing c.grp l = []) →
    (∀ y ∈ t.insts, y.isComplete t = false) → (∀ h ∈ t.groups, ∀ y ∈ h.insts, y.isComplete t = false) →
    ∃ s' t', exec (.exit gd) s = .next s' ∧ s'.team? c.tid = some t' ∧
      (∀ l ∈ actLanes g e gd, ((t'.group c.grp).thread l).live = false) ∧
      (∀ l, l ∉ actLanes g e gd → (g.thread l).live = true → ((t'.group c.grp).thread l).calm = (g.thread l).calm) ∧
      (∀ l ∈ lanesOf e.mask, l ∉ actLanes g e gd → s'.stands c l e.next) ∧
      (t'.group c.grp).flags = g.flags ∧ (t'.group c.grp).fctl = g.fctl ∧
      (∀ k, k ≠ c.tid → s'.team? k = s.team? k) ∧
      ((∀ y ∈ t.ifr, y.op.endsWithThread = true → ∀ o ∈ y.lanes, (∀ n, o.dst ≠ .g n) ∧
          ∃ x ∈ o.who, ((t.group x.1).thread x.2).live = true) → (∀ y ∈ t.palPend, ∀ n, y.dst ≠ .g n) →
        (t'.group c.grp).gregs = g.gregs ∧ ∀ gi, gi ≠ c.grp → s'.groupAt c.tid gi = s.groupAt c.tid gi) ∧
      s'.mem = s.mem ∧ s'.ctxs.map (·.id) = s.ctxs.map (·.id) ∧
      (t'.st = if c.tid ≠ 0 ∧ t.st = .resident ∧ t'.allEnded = true then .ended else t.st) ∧
      (t'.st = t.st → s'.rest = s.rest)

/-- TRAP, and the traps that a word takes for its opcode, its encoding, its privilege or its segment, in every member concerned:
the trap registers, a solitary entry at the handler (R36, R37, R65, R321, R346, R347, R348, R352). -/
def Obligations.TrapEntry : Prop :=
  ∀ (s : State) c t g e v, s.issues c t g e → s.handled c t e v → (∀ l ∈ lanesOf e.mask, l < g.lanes.length) →
    (∀ gd a (w64 : BitVec 1) code, (∀ l ∈ actLanes g e gd, g.clean l a (1 + w64.toNat)) → ∃ s', exec (.trap gd a w64 code) s = .next s' ∧
      s.traps s' c g e (actLanes g e gd) (fun l => ⟨.user, code, BitVec.ofNat 64 (g.val l a (1 + w64.toNat))⟩) v) ∧
    (∀ w, ∃ s', exec (.illegalOpcode w) s = .next s' ∧ s.traps s' c g e (lanesOf e.mask) (fun _ => ⟨.illegalOpcode, 0, w⟩) v) ∧
    (∃ s', exec .codeAbsent s = .next s' ∧ s.traps s' c g e (lanesOf e.mask) (fun _ => ⟨.codeAbsent, 0, e.pc⟩) v) ∧
    (∀ w, ∃ s', illegalEncoding w s = .next s' ∧ s.traps s' c g e (lanesOf e.mask) (fun _ => ⟨.illegalEncoding, 0, w⟩) v) ∧
    (∀ i, isPrivileged i = true → ∃ s', exec i s = .next s' ∧
      s.traps s' c g e (lanesOf e.mask) (fun _ => ⟨.privilege, 0, (encode i).getD 0⟩) v)

/-- A floating-point result that raises a flag enabled in FCTL writes no register and no predicate: AMAX and FLAGS are updated
and the lane takes ARITH with the flags of the instruction in TRAPA; the other lanes are unaffected (R154). -/
def Obligations.ArithmeticTrap : Prop :=
  ∀ i f out, floatForm i = some (f, out) → ∀ s : State, f.admitted s → ∀ c t g e v, s.issues c t g e → s.handled c t e v →
    (∀ l ∈ lanesOf e.mask, l < g.lanes.length) → (∀ l ∈ actLanes g e f.gd, f.ready g e l) →
    ∃ s', exec i s = .next s' ∧
      s.traps s' c ((actLanes g e f.gd).foldl (fun h l =>
          if f.raised out g l &&& g.fctl = 0 then f.effectF out g e h l else f.accrued out g e h l) g) e
        ((actLanes g e f.gd).filter fun l => f.raised out g l &&& g.fctl != 0)
        (fun l => ⟨.arith, 0, (f.raised out g l).setWidth 64⟩) v

/-- A trap with no handler to take it in, or in a handler, ends the thread, writes its trap registers and raises IFRS.FT (R349); RTE takes
each member of a solitary entry back to TRAPPC, clears TRAPC and leaves the handler, and raises PRIVILEGE in an entry that is not
solitary (R353). A thread that consumes poison performs no part of the instruction: it traps with TAG_MISMATCH where all it consumes
comes of tags, and otherwise stays at the word while its context's consumption is recorded (R84, R463). -/
def Obligations.FatalTrapsReturnsAndConsumption : Prop :=
  (∀ (s : State) c t g e gd a (w64 : BitVec 1) code, s.issues c t g e → c.tid ≠ 0 → e.solitary = true ∨ s.trapv t = 0 →
    (∀ l ∈ actLanes g e gd, g.clean l a (1 + w64.toNat) ∧ l < g.lanes.length) → actLanes g e gd ≠ [] →
    ∃ s' t', exec (.trap gd a w64 code) s = .next s' ∧ s'.team? c.tid = some t' ∧ t'.ft = true ∧
      (∀ l ∈ actLanes g e gd, ((t'.group c.grp).thread l).live = false ∧ ((t'.group c.grp).thread l).trappc = e.pc ∧
        ((t'.group c.grp).thread l).trapc = code ++ 21#16 ∧
        ((t'.group c.grp).thread l).trapa = BitVec.ofNat 64 (g.val l a (1 + w64.toNat)))) ∧
  (∀ (s : State) gd c t g e, s.issues c t g e →
    let target (l : Nat) : BitVec 64 := BitVec.ofNat 64 ((g.thread l).trappc.toNat % 2 ^ 56 / 8 * 8)
    (e.solitary = true → ∃ s', exec (.rte gd) s = .next s' ∧
      s.spread s' c g e (actLanes g e gd) (fun l => (target l, e.prio)) (fun h l => h.updThread l fun x => { x with trapc := 0 }) ∧
      ∀ l ∈ actLanes g e gd, ∀ x ∈ (s'.grp c).entries, x.mask.getLsbD l = true → x.solitary = false ∧
        ((∀ y ∈ g.entries, y.pc = target l → y.solitary = true) → x.age = 0)) ∧
    (∀ v, s.handled c t e v → (∀ l ∈ lanesOf e.mask, l < g.lanes.length) → ∃ s', exec (.rte gd) s = .next s' ∧
      s.traps s' c g e (actLanes g e gd) (fun _ => ⟨.privilege, 0, (encode (.rte gd)).getD 0⟩) v)) ∧
  (∀ i gd srcs d, consumer i = some (gd, srcs, d) → ∀ (s : State) c t g e, s.issues c t g e → c.tid ≠ 0 →
    (∀ l ∈ lanesOf e.mask, l < g.lanes.length) → t.ifr.length < 512 →
    (∀ l ∈ actLanes g e gd, (∀ x ∈ srcs, g.has l x.1 x.2) ∧ g.room l d 1 ∧ (g.thread l).probe = none ∧
      ∃ x ∈ srcs, (g.opnd l x.1 x.2).poison = true) →
    (∀ v, s.handled c t e v →
      (∀ l ∈ actLanes g e gd, ∀ x ∈ srcs, (g.opnd l x.1 x.2).poison = true → (g.opnd l x.1 x.2).pt = true) →
      ∃ s', exec i s = .next s' ∧
        s.traps s' c g e (actLanes g e gd) (fun l => ⟨.tagMismatch, 0, BitVec.ofNat 64 (g.firstPoisoned l srcs)⟩) v) ∧
    ((∀ l ∈ actLanes g e gd, ∃ x ∈ srcs, (g.opnd l x.1 x.2).poison = true ∧ (g.opnd l x.1 x.2).pt = false) →
      ∃ s', exec i s = .next s' ∧
        State.spread { s with consumptions := s.consumptions ++ (actLanes g e gd).map fun _ => c.tid } s' c g e (actLanes g e gd)
          (fun _ => (e.pc, e.prio)) fun h l => h.updThread l fun x => { x with consumed := true }))

/-- A group collective all of whose lanes arrive in one issue completes: every participant gets its results, in ascending lane
order, and goes on; a result carries the poison of the data it comes of; sequence numbers are used up, BARG orders the participants'
accesses, nothing else changes (R118, R119, R121-R128). That REDG and SCANG complete whatever FCTL enables is the model's reading
(log 19). -/
def Obligations.GroupCollectives : Prop :=
  ∀ i f out fl, collForm i = some (f, out, fl) → ∀ (s : State) c t g e (m : BitVec 32), s.issues c t g e → e.solitary = false →
    lanesOf m = actLanes g e f.gd → m ≠ 0 → (∀ l ∈ lanesOf m, f.ready g l ∧ f.maskOf g l = m) →
    (∀ x ∈ g.insts, x.mask &&& m = 0 ∧ x.isComplete t = false) → t.ifr.length + (lanesOf m).length ≤ 512 →
    let ps := (lanesOf m).map (f.share g)
    let g' := (lanesOf m).foldl (fun h l =>
      let r := out ps (f.share g l)
      (h.put g l f.d 1 r.val r.poison).updThread l fun x => x.setPred f.pd r.pred) g
    ∃ s', exec i s = .next s' ∧ s'.moves c e (lanesOf m) (fun _ => e.next) ∧
      let u : Team := { t.setGroup c.grp { g' with flags := g.flags ||| fl ps } with seq := t.seq + ps.length }
      let ordered : Team := match i with
        | .barg .. => u.passBarrier ((lanesOf m).map fun l => (c.grp, l))
        | _ => u
      State.settles (s.setTeam { ordered with ifr := t.ifr.filter fun y => decide (y.seq < t.seq ∨ t.seq + ps.length ≤ y.seq) }) s' c

/-- A team barrier of one group completes when all its live threads arrive in one issue; at a group barrier that others are still needed
for, the arrived wait at its word, in an instance that records them; what a completed barrier's participants had outstanding is
ordered before what they access next (R118, R119, R121, R129). -/
def Obligations.Barriers : Prop :=
  (∀ (s : State) gd a (gm : BitVec 16) c t g e, s.issues c t g e → e.solitary = false → c.grp < 16 →
    (∀ l ∈ actLanes g e gd, g.clean l a 1 ∧ (g.thread l).live = true ∧
      (if a.isNull then gm.toNat else g.val l a 1) = 2 ^ c.grp) →
    (∀ l ∈ lanesOf e.mask, l ∈ actLanes g e gd) → (∀ l ∈ g.liveLanes, l ∈ actLanes g e gd) →
    (∀ x ∈ t.insts, x.mask.getLsbD c.grp = false ∧ x.isComplete t = false) → t.ifr.length + (actLanes g e gd).length ≤ 512 →
    ∃ s', exec (.bart gd a gm) s = .next s' ∧ s'.moves c e (actLanes g e gd) (fun _ => e.next) ∧
      let n := (actLanes g e gd).length
      let u : Team := Team.passBarrier { t with seq := t.seq + n } ((actLanes g e gd).map fun l => (c.grp, l))
      State.settles (s.setTeam { u with ifr := t.ifr.filter fun y => decide (y.seq < t.seq ∨ t.seq + n ≤ y.seq) }) s' c) ∧
  (∀ (s : State) gd a (hi lo : BitVec 16) c t g e (m : BitVec 32), s.issues c t g e → e.solitary = false →
    (∀ l ∈ actLanes g e gd, g.clean l a 1 ∧ (if a.isNull then hi ++ lo else BitVec.ofNat 32 (g.val l a 1)) = m ∧
      m.getLsbD l = true) →
    actLanes g e gd ≠ [] → (∀ l ∈ lanesOf e.mask, l ∈ actLanes g e gd ∨ m.getLsbD l = false) →
    (∀ l ∈ lanesOf m, (g.thread l).live = true) → (∃ l ∈ lanesOf m, l ∉ actLanes g e gd) →
    (∀ x ∈ g.insts, x.mask &&& m = 0 ∧ x.isComplete t = false) → t.ifr.length + (actLanes g e gd).length ≤ 512 →
    ∃ s' x, exec (.barg gd a hi lo) s = .next s' ∧ x ∈ (s'.grp c).insts ∧ x.op = .barg ∧ x.mask = m ∧
      x.arrivals.map (·.lane) = actLanes g e gd ∧ (∀ l ∈ actLanes g e gd, s'.stands c l (e.pc, e.prio)) ∧
      (s'.grp c).lanes.map Thread.calm = g.lanes.map Thread.calm ∧ (s'.grp c).gregs = g.gregs ∧
      (∀ k, k ≠ c.tid → s'.team? k = s.team? k) ∧ s'.rest = s.rest)

/-- REGROUP: an arriving thread waits; once every live thread of the team has arrived, REGROUP_COMPLETION sorts the threads of
each role by key into its groups, where they stand at the next word in one entry of the lowest priority among them (R89, R134). -/
def Obligations.Regroup : Prop :=
  ∀ s : State,
    (∀ gd a c t g e, s.issues c t g e → e.solitary = false → (∀ l ∈ actLanes g e gd, g.clean l a 1) →
      t.ifr.length + (actLanes g e gd).length ≤ 512 →
      ∃ s' t', exec (.regroup gd a) s = .next s' ∧ s'.team? c.tid = some t' ∧
        t'.regroup.map (fun x => (x.grp, x.lane, (x.opnd 0).val)) =
          t.regroup.map (fun x => (x.grp, x.lane, (x.opnd 0).val)) ++ (actLanes g e gd).map (fun l => (c.grp, l, g.val l a 1)) ∧
        (∀ l ∈ actLanes g e gd, s'.stands c l (e.pc, e.prio)) ∧ (s'.grp c).store = g.store ∧
        (∀ k, k ≠ c.tid → s'.team? k = s.team? k) ∧ s'.rest = s.rest) ∧
    (∀ tid t, s.team? tid = some t → t.tid = tid → t.st = .resident → t.regroupFull = true → t.allotsDiffer = false →
      (∀ x ∈ t.regroup, ((t.group x.grp).thread x.lane).mx = false ∧ x.lane < 32 ∧ x.grp < t.groups.length) →
      (t.regroup.map fun x => (x.grp, x.lane)).Nodup → (∀ g ∈ t.groups, ∀ r ∈ g.gregs, r.st ≠ .pending) →
      ∃ s' t', exec (.regroupCompletion tid) s = .next s' ∧ s'.team? tid = some t' ∧ t'.regroup = [] ∧
        (∀ role gis keys, gis = t.roleGroups role → keys = (t.movers.filter (·.role == role)).mergeSort Mover.before →
          ∀ p m gi, keys[p]? = some m → gis[p / 32]? = some gi →
            ((t'.group gi).thread (p % 32)).calm = m.thread.calm) ∧
        (∀ pc, (∀ x ∈ t.regroup, ((t.group x.grp).entryOf x.lane).map (·.pc) = some pc) →
          ∃ p : BitVec 8, (∃ x ∈ t.regroup, ((t.group x.grp).entryOf x.lane).map (·.prio) = some p) ∧
            (∀ x ∈ t.regroup, ∀ y, (t.group x.grp).entryOf x.lane = some y → p.toNat ≤ y.prio.toNat) ∧
            ∀ role gis keys, gis = t.roleGroups role → keys = t.movers.filter (·.role == role) → ∀ (k gi : Nat), gis[k]? = some gi →
              (t'.group gi).entries = if keys.length ≤ 32 * k then []
                else [Entry.at (pc + 8) p (maskOf (List.range (min 32 (keys.length - 32 * k)))) false]) ∧
        (∀ gi, gi < t.groups.length → (t'.group gi).gregs = List.replicate 64 { Slot.zero with st := .void } ∧
          (t'.group gi).flags = t.groups.foldl (fun f x => f ||| x.flags) 0 ∧ (t'.group gi).fctl = (t.group 0).fctl) ∧
        (∀ k, k ≠ tid → s'.team? k = s.team? k) ∧ s'.mem = s.mem)

/-! ## Special functions and producers -/

/-- A special function issues: its destination is Pending, and one entry of the in-flight record holds, for every acting thread, or once
for a G register, the operand bits that were read, with their poison; with no acting thread nothing is held (R28, R81, R153, R165,
R331). -/
def Obligations.SpecialFunctionIssue : Prop :=
  ∀ i gd d f mode srcs, sfuForm i = some (gd, d, f, mode, srcs) → ∀ (s : State) c t g e, s.issues c t g e →
    (t.ifr.length < 512 ∨ actLanes g e gd = []) →
    (∀ l ∈ actLanes g e gd, (∀ x ∈ srcs, g.has l x.1 x.2) ∧ g.room l d 1) →
    let act := actLanes g e gd
    let shared : Prop := d.cls = .g ∧ d.num ≠ 127
    let ops := (if shared then act.take 1 else act).map fun l =>
      let xs := srcs.map fun x => g.opnd l x.1 x.2
      LaneOp.make l (g.dst l d 1) (if shared then act.map fun k => (c.grp, k) else [(c.grp, l)]) []
        ((xs.map (·.val)).getD 0 0) ((xs.map (·.val)).getD 1 0) (joinPoison xs)
    let marked := t.setGroup c.grp (act.foldl (fun h l => markRef h l (g.dst l d 1) 1 .pending) g)
    ∃ s', exec i s = .next s' ∧ s'.moves c e act (fun _ => e.next) ∧
      State.settles (s.setTeam (if act = [] then marked else marked.newEntry (IfrEntry.make (.sfu f mode) c.grp e.pc ops 1))) s' c

/-- The result of a special function, load, atomic or ray test lands in its destination, Full, with its poison, its predicate and
its flags, in a thread that lives, and the lane is complete; lanes that write one G register land together, in their order; a
special function's result is chapter 06's function of the operands its entry holds (R79, R81, R83, R155, R165, R188, R331). That
the predicate of a ray test is written with its result is the model's choice (log 68). -/
def Obligations.ProducerCompletion : Prop :=
  (∀ (s : State) tid op lane t e o gi (x : LaneOp → Landing) (at_ : LaneOp → Nat), s.team? tid = some t → t.tid = tid →
    t.st = .resident → t.snapped = false → (∀ p ∈ t.palPend, palBase + p.id ≠ op) → t.ifr.find? (·.seq == op) = some e →
    e.lanes.find? (·.lane == lane) = some o → o.done = false → gi < t.groups.length →
    (∀ y ∈ t.insts, y.isComplete t = false) → (∀ g ∈ t.groups, ∀ y ∈ g.insts, y.isComplete t = false) →
    let ls : List LaneOp := match o.dst with
      | .g _ => e.lanes.filter fun b => !b.done && b.dst == o.dst
      | _ => [o]
    (∀ b ∈ ls, e.result b = some (x b) ∧ (b.who.find? fun y => ((t.group y.1).thread y.2).live) = some (gi, at_ b)) →
    ∃ s' t', exec (.producerCompletion tid op lane) s = .next s' ∧ s'.team? tid = some t' ∧
      t'.group gi = ls.foldl (fun h b =>
        { ((writeRef h (at_ b) b.dst e.dwords (x b).val (x b).poison (x b).pt).updThread (at_ b) fun th => th.setPred (x b).pd (x b).pred) with
          flags := h.flags ||| (x b).flags }) (t.group gi) ∧
      (∀ k, k ≠ gi → t'.group k = t.group k) ∧
      t'.ifr = ((t.ifr.map fun y => if y.seq == e.seq then ls.foldl (fun q b => q.setLane { b with done := true }) e else y).filter
        fun y => !y.finished) ∧
      (∀ k, k ≠ tid → s'.team? k = s.team? k) ∧ s'.rest = s.rest ∧ s'.grids = s.grids) ∧
  (∀ (e : IfrEntry) (o : LaneOp) f mode, e.op = .sfu f mode →
    e.result o = some { val := (sfunc f mode (BitVec.ofNat 32 o.a) (BitVec.ofNat 32 o.b)).bits,
                        flags := (sfunc f mode (BitVec.ofNat 32 o.a) (BitVec.ofNat 32 o.b)).flags,
                        poison := o.poison, pt := o.pt })

/-! ## Memory -/

/-- A memory instruction whose lanes' accesses pass makes one entry of the in-flight record with one access per lane (one for all
where it issues uniformly), its destinations Pending; memory is as before (R57, R234-R237, R263-R277, R331). -/
def Obligations.MemoryIssue : Prop :=
  ∀ i gd m, accessForm i = some (gd, m) → ∀ (s : State) c t g e, s.issues c t g e → t.ifr.length < 512 → actLanes g e gd ≠ [] →
    let uni := uniform gd [m.t, m.a, m.x, m.dst]
    let who (l : Nat) := if uni then (actLanes g e gd).map fun k => (c.grp, k) else [(c.grp, l)]
    let lanes := if uni then (actLanes g e gd).take 1 else actLanes g e gd
    (∀ l ∈ actLanes g e gd, g.has l m.t m.tw ∧ g.has l m.a 2 ∧ g.has l m.x m.xw) →
    turns (m.ready c g) (m.effect c g who) lanes (s, []) →
    let r := lanes.foldl (m.effect c g who) (s, [])
    ∃ s', exec i s = .next s' ∧ s'.moves c e (actLanes g e gd) (fun _ => e.next) ∧
      State.settles (r.1.updTeam c.tid fun u => u.newEntry (m.entry c e r.2)) s' c ∧ s'.mem = s.mem

/-- A store, reduction or atomic piece performed at its home: a read of its bytes with its key and the stored tag then gives the new
value; every other byte, of memory and of its own sector, reads as before; its page's DIRTY bit is set and no other page entry changes;
and the piece is done. TAGWR changes the sector's tag and leaves its bytes (R248, R259, R262, R272, R277, R460). The home finds a
sector that another valid page of its frame has stored under that page (log 82). -/
def Obligations.WritesAtHome : Prop :=
  (∀ (s : State) tid op lane piece t e o p panel s1, s.due tid op lane piece t e o p panel s1 →
    p.len ≤ 64 - p.dia % 64 → p.key ≠ 0 → p.dia < 2 ^ 48 → (p.chk = true → s.tagOf (physOf (s.pte p.dia) p.dia / 64) = p.tag) →
    s.mends p.dia p.tag → Memory.wf s.mem = true →
    let idx := physOf (s.pte p.dia) p.dia / 64
    let old := ((s.homeRead p.dia p.len p.key p.tag).2).val
    ∀ new, ((e.op = .st ∨ e.op = .mxst) ∧ new = p.data ∨
        (∃ f, (e.op = .red f ∨ e.op = .atom f) ∧ (s.homeRead p.dia p.len p.key p.tag).2.poison = false ∧
          new = atomicFn f p.len old p.data) ∨
        (e.op = .acas ∧ (s.homeRead p.dia p.len p.key p.tag).2.poison = false ∧ old = p.cmp ∧ new = p.data)) →
      ∃ s', exec (.accessAtHome tid op lane piece) s = .next s' ∧
        (s'.homeRead p.dia p.len p.key (s'.tagOf idx)).2.val = new % 2 ^ (8 * p.len) ∧
        (s'.homeRead p.dia p.len p.key (s'.tagOf idx)).2.poison = false ∧ s'.tagOf idx = s.tagOf idx ∧
        s.sectorsBut s' idx ∧
        (∀ d, d / 64 = p.dia / 64 → d < p.dia ∨ p.dia + p.len ≤ d → ∀ key,
          (p.touches d = true ∧ key = p.key ∨ p.touches d = false ∧ key ≠ 0 ∧ ∀ x, s.sector? idx = some x → x.keyOf (d % 64 / 32) = key) →
          (s'.homeRead d 1 key (s'.tagOf idx)).2.val = (s.homeRead d 1 key p.tag).2.val) ∧
        s'.pte p.dia = s.pte p.dia ||| (1#64 <<< 62) ∧ (∀ d, s.home d ≠ s.home p.dia → s'.pte d = s.pte d) ∧
        (∀ t', s'.team? tid = some t' → ∀ e' ∈ t'.ifr, e'.seq = op → ∀ o' ∈ e'.lanes, o'.lane = lane →
          ∃ p', o'.pieces[piece]? = some p' ∧ p'.done = true)) ∧
  (∀ (s : State) tid op lane piece t e o p panel s1, s.due tid op lane piece t e o p panel s1 → e.op = .tagwr →
    Memory.wf s.mem = true →
    let idx := physOf (s.pte p.dia) p.dia / 64
    ∃ s', exec (.accessAtHome tid op lane piece) s = .next s' ∧ s'.tagOf idx = BitVec.ofNat 4 p.data ∧ s.sectorsBut s' idx ∧
      s'.pte p.dia = s.pte p.dia ||| (1#64 <<< 62) ∧ (∀ d, s.home d ≠ s.home p.dia → s'.pte d = s.pte d) ∧
      ∀ x, s.sector? idx = some x → x.dia = p.dia / 64 → x.err = [] → x.poison = false → x.key0 ≠ 0 → x.key1 ≠ 0 →
        s'.mem = s.mem ∧ ∃ y, s'.sector? idx = some y ∧ y.key0 = x.key0 ∧ y.key1 = x.key1 ∧ y.poison = false)

/-- A load piece performed at its home, or from its core's copy, answers the bytes there; TAGRD answers the tag; a compare-and-swap
that does not match answers the old value; memory is as before (R258, R262, R269, R270, R273, R277, R459). -/
def Obligations.ReadsAtHome : Prop :=
  ∀ (s : State) tid op lane piece t e o p panel s1, s.due tid op lane piece t e o p panel s1 → o.dst ≠ .null →
    p.len ≤ 64 - p.dia % 64 →
    let wide : Bool := isAcquire e.ord && decide (4 ≤ e.scope)
    let home := (s.homeRead p.dia p.len p.key p.tag).2
    ∀ val poison, ((∃ k, e.op = .ld k ∧ (wide = true ∨ s.l1Read t.core p k = none)) ∧ val = home.val ∧ poison = home.poison ∨
        (∃ k, e.op = .ld k ∧ s.l1Read t.core p k = some val) ∧ wide = false ∧ poison = false ∨
        (∃ f, e.op = .atom f) ∧ val = home.val ∧ poison = home.poison ∨
        e.op = .acas ∧ (home.poison = true ∨ home.val ≠ p.cmp) ∧ val = home.val ∧ poison = home.poison ∨
        e.op = .tagrd ∧ val = (s.tagOf (physOf (s.pte p.dia) p.dia / 64)).toNat ∧ poison = (s.homeReads p.key 0 1 p.dia 64).2.poison) →
      ∃ s' t' e' o' p', exec (.accessAtHome tid op lane piece) s = .next s' ∧ s'.team? tid = some t' ∧ e' ∈ t'.ifr ∧
        e'.seq = op ∧ o' ∈ e'.lanes ∧ o'.lane = lane ∧ o'.pieces[piece]? = some p' ∧ p'.done = true ∧ p'.data = val ∧
        o'.res = val ∧ o'.poison = (o.poison || poison) ∧ o'.done = o.done ∧
        ((∀ f, e.op ≠ .atom f) → s'.mem = s.mem) ∧ (∀ k, k ≠ tid → (s'.team? k).map (·.groups) = (s.team? k).map (·.groups))

/-- A piece whose page is not valid takes the page's merge entry: a record enters the partition's queue, the piece waits there, no
register and no memory changes (R242-R245). -/
def Obligations.PageFault : Prop :=
  ∀ (s : State) tid op lane piece t e o p panel part, s.team? tid = some t → t.tid = tid → tid ≠ 0 → t.st = .resident →
    t.stopping = false → t.ifr.find? (·.seq == op) = some e → e.lanes.find? (·.lane == lane) = some o →
    o.pieces[piece]? = some p → o.done = false → p.done = false → p.wait = .no → p.held = false → p.prv = false →
    t.mayPerform e (s.orderOf e p) o p = true → s.late = [] →
    e.lanes.findSome? (fun o => o.pieces.find? fun q => !q.done && q.wait == .no && q.dia / 256 == p.dia / 256) = some p →
    (∀ mode comp mark pd, e.op ≠ .tex mode comp mark pd) → (e.lanes.map (·.lane)).Nodup →
    (s.home p.dia).map (·.1) = some panel → pteValid (s.pte p.dia) = false → s.partOf panel = some part →
    part.queue.length < 1024 → (∀ m ∈ (s.panel panel).merges, m.page ≠ p.dia / 65536) → (s.panel panel).merges.length < 256 →
    (∃ q ∈ s.panels, q.num = panel) →
    (∀ c ∈ s.ctxs, c.ckpt = false) →
    ∃ s' idx, exec (.accessAtHome tid op lane piece) s = .next s' ∧ idx < 256 ∧ (∀ m ∈ (s.panel panel).merges, m.idx ≠ idx) ∧
      (s'.partOf panel).map (·.queue) = some (part.queue ++ [⟨p.va, p.dia, t.ctx, panel, idx, e.op.faultKind, s.time⟩]) ∧
      (∃ m ∈ (s'.panel panel).merges, m.idx = idx ∧ m.page = p.dia / 65536 ∧ m.posted = true) ∧
      s'.mem = s.mem ∧ s'.sectors = s.sectors ∧
      (∃ t', s'.team? tid = some t' ∧ t'.groups = t.groups ∧
        ∀ e' ∈ t'.ifr, e'.seq = op → ∀ o' ∈ e'.lanes, o'.lane = lane → ∀ p', o'.pieces[piece]? = some p' →
          p'.wait = .merge panel idx ∧ p'.done = false)

/-- An access at an address that is not a multiple of its size takes ALIGN, and one with an address bit above the tag takes ADDRESS,
with the address in TRAPA, in each lane concerned; nothing is performed (R231, R237, R266). -/
def Obligations.AccessTraps : Prop :=
  ∀ i gd m, accessForm i = some (gd, m) → ∀ (s : State) c t g e v x, s.issues c t g e → s.handled c t e v →
    (∀ l ∈ lanesOf e.mask, l < g.lanes.length) → t.ifr.length < 512 → s.ctx? t.ctx = some x →
    (∀ l ∈ actLanes g e gd, g.clean l m.t m.tw ∧ g.clean l m.a 2 ∧ g.clean l m.x m.xw) →
    ((∀ l ∈ actLanes g e gd, (m.va g l).toNat % m.align ≠ 0) →
      ∃ s', exec i s = .next s' ∧ s.traps s' c g e (actLanes g e gd) (fun l => ⟨.align, 0, m.va g l⟩) v) ∧
    ((∀ l ∈ actLanes g e gd, (m.va g l).toNat % m.align = 0 ∧ 2 ^ 60 ≤ (m.va g l).toNat ∧ g.room l m.dst m.dw ∧
        (g.thread l).probe = none) →
      ∃ s', exec i s = .next s' ∧ s.traps s' c g e (actLanes g e gd) (fun l => ⟨.address, 0, m.va g l⟩) v)

/-- Stage A: an address inside a range that a range register holds, with permission and a usable key, is at the range's DIA plus
its distance from the range's base, modulo 2^48; the controller's addresses are its private memory and the device's (R234, R237,
R441, R522). -/
def Obligations.AddressTranslation : Prop :=
  ∀ (s : State) (t : Team) (va : BitVec 64) (need : RangeEnt → Bool),
    (∀ c e k, t.tid ≠ 0 → s.ctx? t.ctx = some c → va.toNat < 2 ^ 60 →
      c.rr.find? (fun e => e.vbase ≤ va.toNat % 2 ^ 56 / 4096 && va.toNat % 2 ^ 56 / 4096 ≤ e.vlimit) = some e →
      need e = true → s.keyOf e.key = some k → s.slotUsable c e.key = true →
      ∃ x, s.xlat t va need = (s, .ok x) ∧ x.dia = (e.dia + (va.toNat % 2 ^ 56 - e.vbase * 4096)) % 2 ^ 48 ∧ x.prv = false ∧
        x.key = k ∧ x.cls = e.cls ∧ x.tchk = e.tchk) ∧
    (t.tid = 0 → va.toNat < 2 ^ 25 → ∃ x, s.xlat t va need = (s, .ok x) ∧ x.prv = true ∧ x.dia = va.toNat) ∧
    (∀ p k, t.tid = 0 → va.toNat / 2 ^ 48 = 1 → s.part? (va.toNat % 2 ^ 48 / 2 ^ 44) = some p →
      s.keyOf (va.toNat % 2 ^ 48 / 2 ^ 44) = some k → pteValid (s.pte (va.toNat % 2 ^ 48)) = true →
      ∃ x, s.xlat t va need = (s, .ok x) ∧ x.prv = false ∧ x.dia = va.toNat % 2 ^ 48 ∧ x.key = k) ∧
    (t.tid ≠ 0 → 2 ^ 60 ≤ va.toNat → s.xlat t va need = (s, .bad))

/-- LDP, STP, ATOMP and ACASP act at once on the team's allotment: in turn, each lane's bytes are replaced, and its destination is Pending
until the old bytes land in it, those of one issue that write one G register together (R79, R83, R254, R256, R257, R263, R265,
R268-R273). -/
def Obligations.PaletteAccess : Prop :=
  (∀ i f, palForm i = some f → ∀ (s : State) c t g e, s.issues c t g e → c.tid ≠ 0 →
    (∀ l ∈ actLanes g e f.gd, g.clean l f.t f.tw ∧ g.clean l f.a 1 ∧ g.clean l f.x f.xw ∧ g.room l f.dst f.dw ∧
      f.offset g l % f.len = 0 ∧ s.palFree t (f.offset g l) f.len f.store ∧ t.palOrdered c.grp l f.ord = true) →
    let uni := uniform f.gd [f.t, f.a, f.x, f.dst]
    let lanes := if uni then (actLanes g e f.gd).take 1 else actLanes g e f.gd
    let old (pal : Memory) (l : Nat) : Nat := Memory.readN pal (f.offset g l).toNat f.len
    let step (pal : Memory) (l : Nat) : Memory :=
      if f.store then Memory.writeN pal (f.offset g l).toNat f.len (f.new (old pal l) (g.val l f.t f.tw) (g.val l f.x f.xw)) else pal
    let who (l : Nat) := if uni then (actLanes g e f.gd).map fun k => (c.grp, k) else [(c.grp, l)]
    Memory.wf t.pal = true →
    ∃ s' t', exec i s = .next s' ∧ s'.moves c e (actLanes g e f.gd) (fun _ => e.next) ∧ s'.team? c.tid = some t' ∧
      t'.pal = lanes.foldl step t.pal ∧
      (t'.group c.grp).store = (lanes.foldl (fun h l => markRef h l (g.dst l f.dst f.dw) f.dw .pending) g).store ∧
      (∀ pre l post, lanes = pre ++ l :: post → g.dst l f.dst f.dw ≠ .null →
        ∃ p ∈ t'.palPend, p.who = who l ∧ p.dst = g.dst l f.dst f.dw ∧ p.width = f.dw ∧
          p.val = old (pre.foldl step t.pal) l ∧ p.bad = List.replicate f.dw false) ∧
      (∀ k, k ≠ c.tid → s'.team? k = s.team? k) ∧ s'.mem = s.mem ∧ t'.palSize = t.palSize ∧ t'.palBad = t.palBad) ∧
  (∀ (s : State) tid lane t p gi (at_ : PalPend → Nat), s.team? tid = some t → t.tid = tid → t.st = .resident → t.snapped = false →
    gi < t.groups.length → t.palPend.find? (fun q => palBase + q.id == palBase + p.id) = some p →
    (∀ q ∈ t.palPend, p.landsWith q = true → (q.who.find? fun y => ((t.group y.1).thread y.2).live) = some (gi, at_ q)) →
    (∀ y ∈ t.insts, y.isComplete t = false) → (∀ g ∈ t.groups, ∀ y ∈ g.insts, y.isComplete t = false) →
    ∃ s' t', exec (.producerCompletion tid (palBase + p.id) lane) s = .next s' ∧ s'.team? tid = some t' ∧
      t'.group gi = (t.palPend.filter p.landsWith).foldl (fun h q => putSlots h (at_ q) q.dst ((List.range q.width).map fun k =>
        ⟨BitVec.ofNat 32 (q.val / 2 ^ (32 * k)), .full, q.bad.getD k false, false⟩)) (t.group gi) ∧
      (∀ k, k ≠ gi → t'.group k = t.group k) ∧ t'.palPend = t.palPend.filter (fun q => !p.landsWith q) ∧ t'.pal = t.pal ∧
      (∀ k, k ≠ tid → s'.team? k = s.team? k) ∧ s'.rest = s.rest)

/-- ARRIVE counts down the barrier object at once; its destination is Pending, with the phase in an entry of the in-flight record, until
PRODUCER_COMPLETION brings it (log 83); AWAIT goes on, or tells, once the phase has changed (R130-R133, R257, R331). -/
def Obligations.BarrierObjects : Prop :=
  ∀ (s : State) c t g e off v, s.issues c t g e → c.tid ≠ 0 → (∀ l ord, t.palOrdered c.grp l ord = true) →
    (∀ st, s.palFree t (8 * off : Nat) 8 st) → v = Memory.readN t.pal (8 * off) 8 → v % 2 ^ 63 / 2 ^ 48 = 0 →
    v % 2 ^ 32 / 2 ^ 16 = 0 → 0 < v % 2 ^ 16 → v % 2 ^ 16 ≤ v % 2 ^ 48 / 2 ^ 32 → Memory.wf t.pal = true →
    (∀ gd d a (ofs : BitVec 16) l, ofs.toNat = off → actLanes g e gd = [l] → g.clean l a 1 → g.room l d 1 → t.ifr.length < 512 →
      let n := if a.isNull then 1 else g.val l a 1
      n ≤ v % 2 ^ 16 →
      let v' := if n = 0 then v else if n = v % 2 ^ 16 then (1 - v / 2 ^ 63) * 2 ^ 63 + (v % 2 ^ 48 / 2 ^ 32) * (2 ^ 32 + 1) else v - n
      ∃ s', exec (.arrive gd d a ofs) s = .next s' ∧ s'.moves c e [l] (fun _ => e.next) ∧
        let lane : LaneOp := { LaneOp.make l (g.dst l d 1) [(c.grp, l)] with done := g.dst l d 1 == .null, res := v / 2 ^ 63 }
        let u : Team := { t.setGroup c.grp (markRef g l (g.dst l d 1) 1 .pending) with pal := Memory.writeN t.pal (8 * off) 8 v' }
        State.settles (s.setTeam (u.newEntry (IfrEntry.make .arrive c.grp e.pc [lane] 1 2)).freeFinished) s' c) ∧
    (∀ gd a (pd : BitVec 3) (ofs : BitVec 16), ofs.toNat = off → (∀ l ∈ actLanes g e gd, g.clean l a 1) →
      (∃ s', exec (.await gd a 1 pd ofs) s = .next s' ∧ s.spread s' c g e (actLanes g e gd) (fun _ => e.next)
        fun h l => h.updThread l fun x => x.setPred pd.toNat (v / 2 ^ 63 != g.val l a 1 % 2)) ∧
      ((∀ l ∈ actLanes g e gd, v / 2 ^ 63 ≠ g.val l a 1 % 2) → ∃ s', exec (.await gd a 0 pd ofs) s = .next s' ∧
        s.spread s' c g e (actLanes g e gd) (fun _ => e.next) fun h _ => h))

/-- FENCE goes on once the thread's earlier accesses have been performed (for a release) and its loads have landed (for an acquire),
PREF changes no value: at most the core's L1 comes to hold what memory holds, and an address that cannot be read is dropped; CFLUSH of
core scope drops the core's copies of the line, and of wider scope writes the line back to memory (R274-R276). -/
def Obligations.FencesAndHints : Prop :=
  ∀ s : State,
    (∀ gd (scope : BitVec 3) (ord : BitVec 2) c t g e, s.issues c t g e →
      (∀ l ∈ actLanes g e gd, (isRelease ord.toNat = true → t.performed c.grp l = true) ∧
        (isAcquire ord.toNat = true → t.loaded c.grp l = true)) →
      let drop : Bool := isAcquire ord.toNat && decide (4 ≤ scope.toNat) && !(actLanes g e gd).isEmpty
      ∃ s', exec (.fence gd scope ord) s = .next s' ∧ s'.moves c e (actLanes g e gd) (fun _ => e.next) ∧
        State.settles { s with l1 := if drop then s.l1.filter fun x => !(x.core == t.core && !x.ldk) else s.l1 } s' c) ∧
    (∀ gd a x ofs (scope sz : BitVec 3) c t g e, s.issues c t g e →
      ((∀ l ∈ actLanes g e gd, g.clean l a 2 ∧ g.clean l x 1) →
        ∃ s', exec (.pref gd a x ofs scope sz) s = .next s' ∧ s'.moves c e (actLanes g e gd) (fun _ => e.next) ∧
          (s'.grp c).store = g.store ∧ s.others s' c ∧ (s'.team? c.tid).map Team.flight = some t.flight ∧ s'.mem = s.mem ∧
          s'.ctlMem = s.ctlMem ∧ s'.dirty = s.dirty ∧ (scope ≠ 3 → s.settles s' c) ∧
          ∀ y ∈ s'.l1, y ∈ s.l1 ∨ (y.core = t.core ∧ y.ldk = false ∧
            y.bytes = Memory.readN s.mem (64 * (physOf (s.pte (64 * y.dia)) (64 * y.dia) / 64)) 64)) ∧
      ((∀ l ∈ actLanes g e gd, g.has l x 1 ∧ ∃ tr, readSrc g l a 2 = .error (.trap tr)) →
        ∃ s', exec (.pref gd a x ofs scope sz) s = .next s' ∧
          s.spread s' c g e (actLanes g e gd) (fun _ => e.next) fun h _ => h)) ∧
    (∀ gd a x (ofs : BitVec 14) (scope sz : BitVec 3) c t g e l s1 xl, s.issues c t g e → actLanes g e gd = [l] →
      g.clean l a 2 → g.clean l x 1 →
      s.access c.tid c.grp l (BitVec.ofInt 64 ((g.val l a 2 : Int) + asSigned (g.val l x 1) + ofs.toInt * szBytes sz)) (fun e => e.r)
        = .ok (s1, xl) → xl.prv = false → pteValid (s1.pte xl.dia) = true →
      (∀ y ∈ t.lanesOfThread c.grp l, y.1.op.isWriteKind = true → ∀ p ∈ y.2.pieces, p.done = true ∨ p.dia / 256 ≠ xl.dia / 256) →
      ∃ s', exec (.cflush gd a x ofs scope sz) s = .next s' ∧ s'.moves c e [l] (fun _ => e.next) ∧
        State.settles (if scope = 3 then { s1 with l1 := s1.l1.filter fun y => !(y.core == t.core && y.dia / 4 == xl.dia / 256) }
          else { s1 with dirty := s1.dirty.filter fun y => y.idx / 4 != physOf (s1.pte xl.dia) xl.dia / 256 }) s' c)

/-! ## The matrix grid -/

/-- MXON takes a thread whose window is free into the grid, and binds an Unbound one; with the quad's store short or the grid another
team's it waits or, as a try, tells so; MXOFF takes a thread whose stream is closed out of it (R199, R208, R216, R217). -/
def Obligations.GridBinding : Prop :=
  ∀ (s : State) c t g e gd l, s.issues c t g e → c.tid ≠ 0 → actLanes g e gd = [l] → l < g.lanes.length →
    (∀ (shape : BitVec 2) (scaled : BitVec 1) (ty : BitVec 4) (try_ : BitVec 1) (pd : BitVec 3),
      let n := 128 * 2 ^ shape.toNat
      let th := g.thread l
      let on (gr : Grid) : State := (s.updGroup c.tid c.grp fun h => h.updThread l fun x =>
        { x with mx := true, shape := shape, scaled := scaled == 1, mtype := ty }.setPred pd.toNat true).setGrid gr
      th.mx = false → th.aw.toNat * 64 + n ≤ g.allot →
      (∀ x ∈ (th.regs.drop (th.aw.toNat * 64)).take n, x.st = .full) →
      (8 * n ≤ s.freeStore t.core t.quad →
        (s.grid? t.core t.quad = none → ∃ s', exec (.mxon gd shape scaled ty try_ pd) s = .next s' ∧
          s'.moves c e [l] (fun _ => e.next) ∧
          (on ⟨t.core, t.quad, .switchingIn, c.tid, shape, ty, scaled == 1, none, .empty, 0, [MxRow.fresh c.grp l n]⟩).settles s' c) ∧
        (∀ gr, s.grid? t.core t.quad = some gr → gr.tid = c.tid → gr.st = .bound → gr.rows ≠ [] → gr.shape = shape → gr.mtype = ty →
          gr.scaled = (scaled == 1) → (c.grp ∈ gr.rows.map (·.grp) ∨ (gr.rows.map (·.grp)).eraseDups.length < 4) →
          ∃ s', exec (.mxon gd shape scaled ty try_ pd) s = .next s' ∧ s'.moves c e [l] (fun _ => e.next) ∧
            (on { gr with rows := gr.rows ++ [MxRow.fresh c.grp l n] }).settles s' c)) ∧
      ((s.freeStore t.core t.quad < 8 * n ∧ s.grid? t.core t.quad = none) ∨ (∃ gr, s.grid? t.core t.quad = some gr ∧ gr.tid ≠ c.tid) →
        (∃ s', exec (.mxon gd shape scaled ty 1 pd) s = .next s' ∧
          s.spread s' c g e [l] (fun _ => e.next) fun h k => h.updThread k fun x => x.setPred pd.toNat false) ∧
        (e.blocked = 0 → ∃ s', exec (.mxon gd shape scaled ty 0 pd) s = .next s' ∧
          s.spread s' c g e [l] (fun _ => (e.pc, e.prio)) fun h _ => h) ∧
        (e.blocked = laneBit l → exec (.mxon gd shape scaled ty 0 pd) s = .next { s with cur := none, waited := true }))) ∧
    (∀ gr r, (g.thread l).mx = true → s.boundGrid t = some gr → gr.row? c.grp l = some r → r.queue = [] → r.opened = false →
      (∀ x ∈ (g.thread l).window, x.st ≠ .pending) →
      ∃ s', exec (.mxoff gd) s = .next s' ∧ s'.moves c e [l] (fun _ => e.next) ∧
        State.settles ((s.updGroup c.tid c.grp fun h =>
          { h.updThread l (fun x => { x with mx := false, scaled := false, shape := 0, mtype := 0 }) with
            flags := h.flags ||| r.flags }).setGrid
          { gr with rows := gr.rows.filter fun x => !(x.grp == c.grp && x.lane == l) }) s' c) ∧
    ((g.thread l).mx = false → ∃ s', exec (.mxoff gd) s = .next s' ∧ s.spread s' c g e [l] (fun _ => e.next) fun h _ => h)

/-- A step of MMA or MMAS enters the grid: the row takes the products of the lane's elements with the front plane, the accumulators what
R161 folds into them, the window becomes Pending with the poison of what was used; GRID_STEP_PASS takes the oldest step out of the
row's queue (R161, R206, R212, R214, R215, R222). -/
def Obligations.GridSteps : Prop :=
  ∀ s : State,
    (∀ c t g e gd l scaled a b gr row p sa, s.issues c t g e → c.tid ≠ 0 → actLanes g e gd = [l] → l < g.lanes.length →
      let th := g.thread l
      let r := mxRegs gr.shape gr.mtype.toNat
      th.mx = true → th.scaled = scaled → th.shape = gr.shape → th.mtype = gr.mtype → gr.scaled = scaled →
      s.boundGrid t = some gr → gr.st = .bound → gr.front = some p → gr.swaps = 0 →
      gr.row? c.grp l = some row → resolveStep g l a r = .ok sa → th.aliases sa r = none →
      (∀ x ∈ slotsOf g l (.v sa) r, x.st = .full) → g.has l b 1 →
      let x := opndOf (.v sa) (slotsOf g l (.v sa) r)
      let y := g.opnd l b 1
      let q := mxStep gr.shape gr.mtype.toNat scaled p x.val y.val row (th.window.map (·.val))
      let pz := joinPoison [x, y, ⟨0, p.poison, false, 0⟩]
      let th' := th.setWindow ((th.window.zip q.2).map fun z =>
        let w : Slot := ⟨z.2, .pending, z.1.poison, z.1.pt⟩
        if pz.1 then { w with poison := true, pt := pz.2 && (!z.1.poison || z.1.pt) } else w)
      q.2.length = th.window.length → (scaled = false → b = Reg.null) →
      ∃ s', exec (if scaled then .mmas gd a b else .mma gd a) s = .next s' ∧ s'.moves c e [l] (fun _ => e.next) ∧
        State.settles ((s.updGroup c.tid c.grp fun h => h.setThread l th').setGrid
          (gr.setRow { q.1 with opened := true, queue := q.1.queue ++ [.step] })) s' c) ∧
    (∀ tid t gr grp lane r rest, s.team? tid = some t → s.boundGrid t = some gr → gr.row? grp lane = some r →
      r.queue = .step :: rest →
      exec (.gridStepPass tid grp lane) s = .next (s.setGrid (gr.setRow { r with queue := rest })))

/-- MXSYNC closes a stream at once and its fold completes with MXSYNC_FOLD, which brings the flags and makes the window Full; MXCLR
clears row and window (R161, R212, R214, R218, R219). That the columns are folded when MXSYNC issues, and that only the flags and the
Full window come at the fold's completion, is the model's reading (log 40). -/
def Obligations.GridStreams : Prop :=
  ∀ s : State,
    (∀ c t g e gd l gr row, s.issues c t g e → c.tid ≠ 0 → actLanes g e gd = [l] → l < g.lanes.length → (g.thread l).mx = true →
      s.boundGrid t = some gr → gr.row? c.grp l = some row →
      (row.opened = true →
        let q := row.fold gr.mtype.toNat gr.scaled ((g.thread l).window.map (·.val))
        ∃ s', exec (.mxsync gd) s = .next s' ∧ s'.moves c e [l] (fun _ => e.next) ∧
          State.settles ((s.updGroup c.tid c.grp fun h => h.setThread l ((g.thread l).setAccs q.2)).setGrid
            (gr.setRow { q.1 with opened := false, flags := 0, queue := q.1.queue ++ [.sync q.1.flags] })) s' c) ∧
      (row.opened = false → ∃ s', exec (.mxsync gd) s = .next s' ∧ s.spread s' c g e [l] (fun _ => e.next) fun h _ => h) ∧
      (row.queue = [] → ∃ s', exec (.mxclr gd) s = .next s' ∧ s'.moves c e [l] (fun _ => e.next) ∧
        State.settles ((s.updGroup c.tid c.grp fun h =>
          { h.setThread l ((g.thread l).setWindow (List.replicate (g.thread l).columns Slot.zero)) with
            flags := h.flags ||| row.flags }).setGrid (gr.setRow { row.clear with opened := false, flags := 0 })) s' c)) ∧
    (∀ tid t gr grp lane r f, s.team? tid = some t → t.tid = tid → s.boundGrid t = some gr → gr.row? grp lane = some r →
      r.queue = [.sync f] → r.opened = false → grp < t.groups.length →
      ∃ s' t', exec (.mxsyncFold tid grp lane) s = .next s' ∧ s'.team? tid = some t' ∧
        t'.group grp = { (t.group grp).updThread lane (fun x => x.setWindow (x.window.map fun z => { z with st := .full })) with
          flags := (t.group grp).flags ||| f } ∧
        s'.grids = (s.setGrid (gr.setRow { r with queue := [] })).grids ∧ s'.rest = s.rest)

/-- What each atomic operation stores, on 4 and 8 bytes (R272, Table 5); the partial sums of INT8 rows are exact sums of products: while
no fold falls due, one step adds to each column the products of the lane's elements with the column's elements of the front plane
(R161, R203, R209). -/
def Obligations.AtomicsAndIntegerSteps : Prop :=
  (∀ w old x, w = 4 ∨ w = 8 → old < 2 ^ (8 * w) → x < 2 ^ (8 * w) →
    let sgn (v : Nat) : Int := if v < 2 ^ (8 * w - 1) then v else v - 2 ^ (8 * w)
    atomicFn 0 w old x = (old + x) % 2 ^ (8 * w) ∧
    (∀ i, (atomicFn 1 w old x).testBit i = (old.testBit i && x.testBit i)) ∧
    (∀ i, (atomicFn 2 w old x).testBit i = (old.testBit i || x.testBit i)) ∧
    (∀ i, (atomicFn 3 w old x).testBit i = (old.testBit i != x.testBit i)) ∧ atomicFn 4 w old x = x ∧
    sgn (atomicFn 5 w old x) = min (sgn old) (sgn x) ∧ sgn (atomicFn 6 w old x) = max (sgn old) (sgn x) ∧
    atomicFn 7 w old x = min old x ∧ atomicFn 8 w old x = max old x ∧
    atomicFn 9 w old x = (if x ≤ old then 0 else old + 1) ∧
    atomicFn 10 w old x = (if old = 0 ∨ x < old then x else old - 1) ∧
    (w = 4 → sgn (atomicFn 11 w old x) = max (-(2 ^ 31)) (min (sgn old + sgn x) (2 ^ 31 - 1)))) ∧
  (∀ (shape : BitVec 2) (p : Plane) a sc (r : MxRow) acc, r.part.length = 128 * 2 ^ shape.toNat →
    r.cnt + 8 / 2 ^ shape.toNat < 16 → (∀ x ∈ r.part, ∃ v z, x = .fin v z) →
    let n := 128 * 2 ^ shape.toNat
    let i8 (v : Nat) : Int := if v % 256 < 128 then v % 256 else (v % 256 : Nat) - 256
    let q := mxStep shape 12 false p a sc r acc
    q.2 = acc ∧ q.1.cnt = r.cnt + 8 / 2 ^ shape.toNat ∧ q.1.part.length = n ∧
    ∀ c, c < n → ∀ v z, r.part[c]? = some (.fin v z) → ∃ z', q.1.part[c]? = some (.fin
      (v + ((List.range (8 / 2 ^ shape.toNat)).map fun k => i8 (a / 2 ^ (8 * k)) * i8 (p.bytes / 2 ^ (8 * (k * n + c)))).sum) z'))

/-- STLD locks a range of the palette and begins to load the back plane; PLANE_READY brings its bytes; STSWAP and its completion make
it the front plane; GRID_SWITCH_END ends a switch (R197, R200, R209-R211, R220, R221). -/
def Obligations.GridPlanes : Prop :=
  ∀ s : State,
    (∀ c t g e gd a (ofs : BitVec 12) gr, s.issues c t g e → c.tid ≠ 0 → actLanes g e gd ≠ [] →
      (∀ l ∈ actLanes g e gd, g.clean l a 1 ∧ g.val l a 1 = g.val ((actLanes g e gd).headD 0) a 1) → t.ifr.length < 512 →
      s.boundGrid t = some gr → gr.st = .bound → gr.back = .empty →
      let off := g.val ((actLanes g e gd).headD 0) a 1 + 256 * ofs.toNat
      let n := mxPlaneBytes gr.shape gr.mtype.toNat gr.scaled
      off + n ≤ t.palSize → off % 256 = 0 → ∀ s1,
      State.register { s with fresh := s.fresh + 1 } [(t.core / 4, ⟨s.fresh + 1, some t.tid, off / 64 * 64, (off + n + 63) / 64 * 64, false⟩)]
        = some s1 →
      ∃ s', exec (.stld gd a ofs) s = .next s' ∧ s'.moves c e (actLanes g e gd) (fun _ => e.next) ∧
        State.settles ((s1.setGrid { gr with back := .loading off t.seq (s.fresh + 1) }).updTeam c.tid fun u => u.newEntry
          (IfrEntry.make .stld c.grp e.pc ((actLanes g e gd).map fun l => LaneOp.make l .null [(c.grp, l)] [] off))) s' c) ∧
    (∀ c t g e gd gr, s.issues c t g e → actLanes g e gd ≠ [] → s.boundGrid t = some gr →
      ∃ s', exec (.stswap gd) s = .next s' ∧ s'.moves c e (actLanes g e gd) (fun _ => e.next) ∧
        State.settles (s.setGrid { gr with swaps := gr.swaps + 1 }) s' c) ∧
    (∀ core quad gr t off seq lock, s.grid? core quad = some gr → s.team? gr.tid = some t → t.tid = gr.tid → t.st = .resident →
      t.stopping = false → gr.st = .bound → gr.back = .loading off seq lock → lock ≠ 0 → t.released seq = true →
      let n := mxPlaneBytes gr.shape gr.mtype.toNat gr.scaled
      ∃ s' gr', exec (.planeReady core quad) s = .next s' ∧ s'.grid? core quad = some gr' ∧
        ((∀ r ∈ gr.rows, t.streams r.grp r.lane = true) → gr.rows ≠ [] → gr' = { gr with back := .ready ⟨Memory.readN t.pal off n,
          t.palBad.any fun w => decide (off < 4 * w + 4) && decide (4 * w < off + n)⟩ }) ∧
        (∀ q ∈ s'.panels, ∀ k ∈ q.locks, k.owner ≠ lock) ∧ s'.mem = s.mem) ∧
    (∀ core quad gr p, s.grid? core quad = some gr → gr.back = .ready p → 0 < gr.swaps → gr.st = .bound →
      (∀ r ∈ gr.rows, .step ∉ r.queue) →
      exec (.stswapCompletion core quad) s = .next (s.setGrid { gr with front := some p, back := .empty, swaps := gr.swaps - 1 })) ∧
    (∀ core quad gr, s.grid? core quad = some gr →
      (gr.st = .switchingIn → exec (.gridSwitchEnd core quad) s = .next (s.setGrid { gr with st := .bound })) ∧
      (gr.st = .switchingOut → exec (.gridSwitchEnd core quad) s = .next (s.dropGrid core quad)))

/-- MXRD copies accumulators of a closed stream, Full, with their poison; MXST stores the columns from one on to the palette or to
memory (R213, R223, R224, R334). That T of MXST is one slot is the model's reading (log 65). -/
def Obligations.GridReadsAndStores : Prop :=
  ∀ (s : State) c t g e gd l, s.issues c t g e → c.tid ≠ 0 → actLanes g e gd = [l] → l < g.lanes.length →
    let th := g.thread l
    th.mx = true → s.streamOpen t c.grp l = false →
    (∀ d a (size : BitVec 2) slot, let w := 2 ^ size.toNat
      resolveAt true g l a w = .ok (.v slot) → th.windowBase ≤ slot → slot + w ≤ th.windowBase + th.columns →
      (∀ x ∈ slotsOf g l (.v slot) w, x.st = .full) → g.room l d w →
      ∃ s', exec (.mxrd gd d a size) s = .next s' ∧
        s.spread s' c g e [l] (fun _ => e.next) fun h k => putSlots h k (g.dst l d w) (slotsOf g l (.v slot) w)) ∧
    (∀ tr a x (ofs : BitVec 14) (scope : BitVec 3) (ord : BitVec 2) sz slot, resolveAt true g l tr 1 = .ok (.v slot) →
      th.windowBase ≤ slot → slot < th.windowBase + th.columns → (slot - th.windowBase) % 4 = 0 →
      g.clean l a 2 → g.clean l x 1 →
      let n := th.windowBase + th.columns - slot
      let ss := slotsOf g l (.v slot) n
      (∀ y ∈ ss, y.st = .full ∧ y.poison = false) →
      (a.isNull = true → let off : Int := (g.val l x 1 : Int) + 16 * ofs.toInt
        off % 16 = 0 → s.palFree t off (4 * n) true → t.palOrdered c.grp l ord.toNat = true →
        ∃ s', exec (.mxst gd tr a x ofs scope ord sz) s = .next s' ∧ s'.moves c e [l] (fun _ => e.next) ∧
          State.settles (s.setTeam { t with pal := Memory.writeN t.pal off.toNat (4 * n) (slotsVal ss) }) s' c) ∧
      (a.isNull = false → let va : BitVec 64 := BitVec.ofInt 64 ((g.val l a 2 : Int) + asSigned (g.val l x 1) + 16 * ofs.toInt)
        va.toNat % 16 = 0 → t.ifr.length < 512 → ∀ s1 xs,
        s.accessAll c.tid c.grp l (fun y => y.w) (linePieces va 10 (4 * n) (slotsVal ss)) = .ok (s1, xs) → s1.checksAll t xs = none →
        ∃ s', exec (.mxst gd tr a x ofs scope ord sz) s = .next s' ∧ s'.moves c e [l] (fun _ => e.next) ∧
          State.settles (s1.updTeam c.tid fun u => u.newEntry (IfrEntry.make .mxst c.grp e.pc
            [LaneOp.make l .null [(c.grp, l)] (xs.map fun y => Piece.make y.2.1 y.1 y.2.2.1 y.2.2.2)] 0 ord.toNat scope.toNat 4)) s' c))

/-! ## Buffer handles, code, copies -/

/-- HWAIT takes a Full handle's bytes and tells whether they are good; on a Free one Pd is false; HREL begins to drain a Full handle
and HANDLE_DRAIN_END frees it; HSTAT tells its state (R308, R309, R315). -/
def Obligations.BufferHandles : Prop :=
  ∀ s : State,
    let handle (c : Cur) (u : State) (k : BitVec 5) : Handle := ((u.team? c.tid).map fun t => t.handle k.toNat).getD Handle.free
    (∀ gd k (pd : BitVec 3), s.inTurn (.hwait gd k pd) gd [] (fun _ => True)
      (fun c _ u _ => (handle c u k).st = .full ∨ (handle c u k).st = .free)
      fun c t u l =>
        let h := handle c u k
        let good : Bool := h.st == .full && !h.int && !h.ref
        State.inGroup (if h.st == .full && decide (4 ≤ h.sc) then { u with l1 := u.l1.filter fun x => !(x.core == t.core && !x.ldk) } else u)
          c fun g => g.updThread l fun x => x.setPred pd.toNat good) ∧
    (∀ gd k, s.inTurn (.hrel gd k) gd [] (fun _ => True)
      (fun c t u l => (handle c u k).st ≠ .filling ∧ ((handle c u k).st = .full → t.performed c.grp l = true))
      fun c _ u _ => if (handle c u k).st = .full then
          u.updTeam c.tid fun t => { t with handles := t.handles.set k.toNat { handle c u k with st := .draining } }
        else u) ∧
    (∀ gd d k, s.inTurn (.hstat gd d k) gd [] (fun _ => True) (fun c _ u l => (u.grp c).room l d 2)
      fun c _ u l =>
        let h := handle c u k
        let code := match h.st with | .free => 0 | .filling => 1 | .full => 2 | .draining => 3
        u.inGroup c fun g => g.put g l d 2 (if h.st = .free then 0
          else code + 4 * h.int.toNat + 8 * h.ref.toNat + (h.exp - h.rcv) % 2 ^ 32 * 2 ^ 32)) ∧
    (∀ tid k t, s.team? tid = some t → t.st = .resident → (t.handle k).st = .draining →
      exec (.handleDrainEnd tid k) s = .next (s.updTeam tid fun t => { t with handles := t.handles.set k ⟨.free, 0, 0, 0, false, false⟩ }))

/-- CFETCH changes nothing where the team has its page, and else takes a hold on it (an entry of the in-flight record while its words are on their way), CWAIT goes on where the held
page is there, CEVICT gives the hold up, JMPF and CALLF enter a page that is held and there, and CODE_FETCH_COMPLETION brings
a page's words (R317, R319-R323, R331). -/
def Obligations.CodePages : Prop :=
  ∀ s : State,
    let page (v : Nat) : Nat := v % 2 ^ 56 / 4096
    let held (t : Team) (v : Nat) : Prop := ∃ x, s.segmentAt t (BitVec.ofNat 64 v) = some x ∧ x.resident = true
    (∀ c t g e gd l a (pd : BitVec 3), s.issues c t g e → c.tid ≠ 0 → actLanes g e gd = [l] → g.clean l a 2 → t.ifr.length < 512 →
      let pg := page (g.val l a 2)
      let told (u : State) (p : Bool) : State := u.updGroup c.tid c.grp fun h => h.updThread l fun y => y.setPred pd.toNat p
      let raised (x : Xlat) (u : State) : State := u.updTeam c.tid fun y => { y with cls := clsJoin y.cls x.cls }
      let counted (u : State) : State := u.updTeam c.tid fun y => { y with seq := y.seq + 1 }
      let entered (u : State) : State := u.updTeam c.tid fun y => y.newEntry
        (IfrEntry.make .cfetch c.grp e.pc [LaneOp.make l .null [(c.grp, l)] [] pg])
      ((t.preload = true ∧ pg ∉ t.lost) ∨ pg ∈ s.heldPages c.tid → ∃ s', exec (.cfetch gd a pd) s = .next s' ∧ s'.moves c e [l] (fun _ => e.next) ∧
        (counted (told s true)).settles s' c) ∧
      ∀ s1 x, ¬(t.preload = true ∧ pg ∉ t.lost) → pg ∉ s.heldPages c.tid →
        s.access c.tid c.grp l (BitVec.ofNat 64 (pg * 4096)) (fun r => r.x) = .ok (s1, x) →
        ∃ s', exec (.cfetch gd a pd) s = .next s' ∧ s'.moves c e [l] (fun _ => e.next) ∧
          (∀ y, s1.segment? t.core t.ctx pg = some y →
            let s2 : State := { s1 with code := s1.code.map fun z =>
              if z.core == t.core && z.ctx == t.ctx && z.page == pg then
                { z with holders := if z.holders.contains c.tid then z.holders else z.holders ++ [c.tid] } else z }
            State.settles (if y.resident then counted (told (raised x s2) true) else entered (told (raised x s2) true)) s' c) ∧
          (s1.segment? t.core t.ctx pg = none → (s1.code.filter fun z => z.core == t.core).length < 64 →
            State.settles (entered (told (raised x { s1 with
              code := s1.code ++ [⟨t.core, t.ctx, pg, false, [c.tid], [], [], false, x.dia, x.key, .no⟩] }) true)) s' c) ∧
          (s1.segment? t.core t.ctx pg = none → 64 ≤ (s1.code.filter fun z => z.core == t.core).length →
            (counted (told s1 false)).settles s' c)) ∧
    (∀ gd a, s.inTurn (.cwait gd a) gd [(a, 2)] (fun _ => True)
      (fun c t u l => (u.grp c).clean l a 2 ∧ (c.tid ≠ 0 →
        ∃ y, u.segment? t.core t.ctx (page ((u.grp c).val l a 2)) = some y ∧ c.tid ∈ y.holders ∧ y.resident = true))
      fun c _ u l => if c.tid = 0 then u else u.inGroup c fun h => h.updThread l fun y => { y with cwait := none }) ∧
    (∀ gd a, s.inTurn (.cevict gd a) gd [(a, 2)] (fun _ => True) (fun c _ u l => (u.grp c).clean l a 2)
      fun c t u l =>
        let pg := page ((u.grp c).val l a 2)
        if c.tid = 0 ∨ (t.preload = true ∧ pg ∉ t.lost) then u
        else
          let leave (z : Segment) : Segment :=
            if z.core == t.core && z.ctx == t.ctx && z.page == pg then { z with holders := z.holders.erase c.tid } else z
          { u with code := (u.code.map leave).filter fun z => !z.holders.isEmpty }) ∧
    (∀ c t g e gd a (pr : BitVec 8) (disp : BitVec 32), s.issues c t g e → c.tid ≠ 0 → e.pc.toNat < 2 ^ 56 →
      let tgt (l : Nat) : Nat := if a.isNull then (((e.pc.toNat : Int) + 8 * disp.toInt) % 2 ^ 56).toNat else g.val l a 2 % 2 ^ 56
      (∀ l ∈ actLanes g e gd, g.clean l a 2 ∧ tgt l % 8 = 0 ∧ held t (tgt l)) →
      (∃ s', exec (.jmpf gd a pr disp) s = .next s' ∧ s.spread s' c g e (actLanes g e gd)
        (fun l => (BitVec.ofNat 64 (tgt l), if a.isNull then pr else BitVec.ofNat 8 (g.val l a 2 / 2 ^ 56))) fun h _ => h) ∧
      ((∀ l ∈ actLanes g e gd, g.room l regV0 2) →
        ∃ s', exec (.callf gd a pr disp) s = .next s' ∧ s.spread s' c g e (actLanes g e gd) (fun l => (BitVec.ofNat 64 (tgt l), pr))
          fun h l => h.put g l regV0 2 (e.prio.toNat * 2 ^ 56 + (e.pc + 8).toNat % 2 ^ 56))) ∧
    (∀ core k x, (s.code.filter fun x => x.core == core)[k]? = some x → x.resident = false → x.wait = .no → pteValid (s.pte x.dia) = true →
      x.dia % 4096 = 0 → (s.gateAll x.ctx (.code core x.ctx x.page) [(x.dia, 64, true)]).2 = true →
      ∃ s' y, exec (.codeFetchCompletion core k) s = .next s' ∧ y ∈ s'.code ∧ y.core = core ∧ y.ctx = x.ctx ∧ y.page = x.page ∧
        y.resident = true ∧ y.holders = x.holders ∧
        (∀ n, n < 512 → (s.homeRead (x.dia + 8 * n) 8 x.key 0).2.poison = false →
          Memory.readN y.bytes (8 * n) 8 = (s.homeRead (x.dia + 8 * n) 8 x.key 0).2.val ∧ n ∉ y.bad) ∧
        s'.mem = s.mem ∧
        (∀ tid t, s'.team? tid = some t → tid ≠ 0 → t.core = core → t.ctx = x.ctx → ∀ z ∈ t.ifr, z.op = .cfetch →
          ∀ o ∈ z.lanes, o.a = x.page → o.done = true))

/-- COPY and COPYM whose box, pages, classes, handles, engine and locks allow it enter the queue of the least filled engine of the
partition, with their locks, an entry of the in-flight record, the bytes posted to each receiver's handle and, for a register
destination, its slots Pending (R302-R306, R309, R310, R313, R331, R450, R451). -/
def Obligations.Copies : Prop :=
  ∀ (s : State) c t g e gd l d a b (k : BitVec 6) (hnd : BitVec 5) (multi : Bool) x tm s1 p dsts now later,
    s.issues c t g e → c.tid ≠ 0 → actLanes g e gd = [l] → s.ctx? t.ctx = some x → t.template k.toNat = some tm →
    (∃ y ∈ s.engines, y.part = some x.part) → (multi = true → Tmpl.src tm = 0 ∧ Tmpl.dst tm = 1) →
    let mem (m : Nat) (r : Reg) : Prop := m = 0 → r.isNull = false ∧ r.num.toNat % 2 = 0
    let w (m : Nat) : Nat := if m = 0 then 2 else 1
    mem (Tmpl.dst tm) d → mem (Tmpl.src tm) a → g.clean l d (w (Tmpl.dst tm)) → g.clean l a (w (Tmpl.src tm)) → g.clean l b 1 →
    let dv := g.val l d (w (Tmpl.dst tm))
    let av := g.val l a (w (Tmpl.src tm))
    let bv := g.val l b 1
    let n := Tmpl.w tm * (Tmpl.ext tm 0 + 1)
    let size := n * ((Tmpl.ext tm 1 + 1) * (Tmpl.ext tm 2 + 1) * (Tmpl.ext tm 3 + 1))
    (Tmpl.dst tm ≠ 2 → dv % Tmpl.w tm = 0) → av % Tmpl.w tm = 0 →
    let x0 : Copy := ⟨s.fresh + 1, c.tid, t.ctx, 0, multi, false, tm, BitVec.ofNat 64 av, BitVec.ofNat 64 dv, hnd.toNat, [], dv, [], [], [], 0,
      [], [], [], false⟩
    (Tmpl.src tm = 1 → ∀ o ∈ x0.from, 0 ≤ o ∧ o + n ≤ t.palSize) →
    s.copyPages c l x0 = .ok (s1, p) → ((∃ y ∈ p.src, y.1.prot = true) → Tmpl.dst tm = 1) →
    (Tmpl.dst tm = 2 → hnd = 0 ∧ regDest t (bv % 16) dv (size / 128) = .ok dsts) → (Tmpl.dst tm ≠ 2 → dsts = []) →
    let cls := p.src.foldl (fun q y => clsJoin q y.2.1.cls) 0
    (∀ y ∈ p.dst, clsDominates y.2.1.cls (clsJoin t.cls cls) = true) →
    (now, later) = (if multi then s.receivers t bv else (if Tmpl.dst tm = 2 then [] else [c.tid], [])) →
    (Tmpl.dst tm = 1 → ∀ tid ∈ c.tid :: now, ∀ u, s.team? tid = some u → ∀ o ∈ x0.dests, 0 ≤ o ∧ o + n ≤ u.palSize) →
    t.ifr.length < 512 →
    let y : Copy := { x0 with dsts := dsts, src := p.src.map (·.1), vers := p.vers, dst := p.dst.map (·.1), cls := cls,
                              beats := Tmpl.beats tm x0.dests, recvs := now.map fun tid => ⟨tid, [], false⟩ }
    let s2 := (s1.updTeam c.tid fun u => { u with cls := clsJoin u.cls cls })
    let s3 : State := { s2 with fresh := s2.fresh + 1 }
    ∀ eng s4, eng ∈ s.engines → eng.part = some x.part → eng.cmds.length < 32 →
      (∀ z ∈ s.engines, z.part = some x.part → eng.cmds.length < z.cmds.length ∨ (eng.cmds.length = z.cmds.length ∧ eng.num ≤ z.num)) →
      (s.engines.map (·.num)).Pairwise (· < ·) → s3.register (s3.copyLocks y) = some s4 →
      let posted (ls : List Nat) : State := ls.foldl (fun u tid => u.updTeam tid fun v =>
        let h := v.handle hnd.toNat
        { v with handles := v.handles.set hnd.toNat (if h.st = .filling then { h with exp := h.exp + size, sc := max h.sc (Tmpl.scope tm) }
                   else ⟨.filling, size, 0, Tmpl.scope tm, false, false⟩),
                 cls := clsJoin v.cls cls }) s4
      (∀ pre tid post u, now = pre ++ tid :: post → (posted pre).team? tid = some u → (posted pre).canPost u hnd.toNat size = true) →
      ∃ s', exec (if multi then .copym gd d a b k hnd else .copy gd d a b k hnd) s = .next s' ∧ s'.moves c e [l] (fun _ => e.next) ∧
        let z : Copy := { y with seq := t.seq, registered := true }
        let entered := (posted now).updTeam c.tid fun u => dsts.foldl (fun v q =>
            if ((v.group q.1).thread q.2).live then v.updGroup q.1 fun h => markRef h q.2 (.v dv) (size / 128) .pending else v)
          (u.newEntry (IfrEntry.make (.copy multi) c.grp e.pc [LaneOp.make l .null [(c.grp, l)]] 0 0 0 0 k.toNat hnd.toNat))
        State.settles { entered with
          engines := entered.engines.map fun q => if q.num = eng.num then { q with cmds := q.cmds ++ [z] } else q
          posts := entered.posts ++ later.map fun tid => ⟨tid, { z with recvs := [] }, false, false⟩ } s' c

/-- A beat of the command an engine is performing moves its bytes, unchanged and to where the box puts them, into every receiver's
palette, into memory or into registers, and its bytes arrive at the handles; with its last beat the command is over and its
locks go (R294, R297, R304, R307, R309). -/
def Obligations.CopyBeats : Prop :=
  ∀ (s : State) eng k t e c b s0, s.posts = [] → s.parked = [] → (∀ r ∈ s.rasters, r.queued = true) →
    (∀ g ∈ s.grids, ∀ off seq, g.back ≠ .loading off seq 0) → s.late = [] → s.engines.find? (·.num == eng) = some e → e.cmds.head? = some c →
    s.team? c.tid = some t → t.running = true → c.beats[k]? = some b → b.done = false → b.miss = none → c.inOrder k b = true →
    t.released c.seq = true → (∀ x ∈ c.touches k b, pteValid (s.pte x.dia) = true) →
    s.logRoom (some c.ctx) (((c.touches k b).filter fun x => x.kind == 4).map fun x => physOf (s.pte x.dia) x.dia / 64) = true →
    s.gateAll c.ctx (.beat c.id k) ((c.touches k b).map fun x => (x.dia, 1, x.kind == 3)) = (s0, true) → (∀ p ∈ c.src ++ c.dst, p.prot = false) →
    (∀ q ∈ c.recvs, q.tid ≠ 0 ∧ q.stopped = false) → (c.recvs.map (·.tid)).Nodup →
    let byte (a : Nat) : Option Nat :=
      if Tmpl.src c.tmpl = 0 then (pageDia c.src a).bind fun x =>
        let r := (s.homeRead x.1 1 x.2.key 0).2
        if r.poison then none else some r.val
      else if (t.palRead a 1).2 then none else some (t.palRead a 1).1
    let lands (a v : Nat) : Prop := ∃ r ∈ c.runs b, ∃ i, i < r.n ∧ r.dst + i = a ∧ byte (r.src + i) = some v
    (∀ r ∈ c.runs b, ∀ i, i < r.n → (byte (r.src + i)).isSome = true) →
    (∀ r ∈ c.runs b, ∀ q ∈ c.runs b, ∀ i j, i < r.n → j < q.n → r.dst + i = q.dst + j → r.src + i = q.src + j) →
    ∃ s', exec (.copyBeat eng k) s = .next s' ∧
      (Tmpl.dst c.tmpl = 1 → ∀ q ∈ c.recvs, ∀ u u', s.team? q.tid = some u → s'.team? q.tid = some u' → Memory.wf u.pal = true →
        (∀ a v, lands a v → (Memory.read u'.pal a).toNat = v) ∧
        ∀ a, (∀ v, ¬lands a v) → Memory.read u'.pal a = Memory.read u.pal a) ∧
      (Tmpl.dst c.tmpl = 2 → ∀ gi, c.dsts = (List.range 32).map (fun j => (gi, j)) → gi < t.groups.length →
        (t.group gi).lanes.length = 32 → ∀ t', s'.team? c.tid = some t' → ∀ i v, v < 2 ^ 32 →
        (∀ j, j < 4 → lands (4 * i + j) (v / 2 ^ (8 * j) % 256)) → ((t.group gi).thread (i % 32)).live = true →
        c.slot + i / 32 < ((t.group gi).thread (i % 32)).regs.length →
        ((t'.group gi).thread (i % 32)).slot (c.slot + i / 32) = ⟨BitVec.ofNat 32 v, .full, false, false⟩) ∧
      (∀ q ∈ c.recvs, ∀ u u', s.team? q.tid = some u → s'.team? q.tid = some u' → c.hnd < u.handles.length →
        (u.handle c.hnd).st = .filling →
        let n := (u.handle c.hnd).rcv + b.count * Tmpl.w c.tmpl
        u'.handle c.hnd = { u.handle c.hnd with rcv := n, st := if n = (u.handle c.hnd).exp then .full else .filling }) ∧
      (Tmpl.dst c.tmpl ≠ 0 → s'.mem = s.mem) ∧
      (Tmpl.dst c.tmpl = 0 → Memory.wf s.mem = true →
        (∀ a v, lands a v → ∃ x, pageDia c.dst a = some x ∧ x.1 < 2 ^ 48 ∧ x.2.key ≠ 0 ∧ s.mends x.1 0) →
        (∀ a v a' v' x x', lands a v → lands a' v' → pageDia c.dst a = some x → pageDia c.dst a' = some x' →
          physOf (s.pte x.1) x.1 / 64 = physOf (s.pte x'.1) x'.1 / 64 →
          x.1 / 64 = x'.1 / 64 ∧ x.2.key = x'.2.key ∧ (x.1 = x'.1 → a = a')) →
        ∀ a v x, lands a v → pageDia c.dst a = some x →
          (s'.homeRead x.1 1 x.2.key 0).2.val = v ∧ (s'.homeRead x.1 1 x.2.key 0).2.poison = false) ∧
      ((∀ j y, j ≠ k → c.beats[j]? = some y → y.done = true) →
        (∀ q ∈ s'.engines, ∀ y ∈ q.cmds, y.id ≠ c.id) ∧ ∀ q ∈ s'.panels, ∀ y ∈ q.locks, y.owner ≠ c.id) ∧
      ((∃ j y, j ≠ k ∧ c.beats[j]? = some y ∧ y.done = false) →
        ∃ q ∈ s'.engines, ∃ y ∈ q.cmds, y.id = c.id ∧ (y.beats[k]?).map (·.done) = some true)

/-! ## Raster, textures, rays, signatures -/

/-- RAST posts a command of a well-formed descriptor to its panel's rasteriser, with its lock, its entry and its bytes at the handle;
a descriptor that is malformed or poisoned posts nothing but REF (R294, R390, R391, R395). -/
def Obligations.RasterIssue : Prop :=
  ∀ (s : State) c t g e gd l d a (k : BitVec 5) s1 x t1, s.issues c t g e → c.tid ≠ 0 → actLanes g e gd = [l] → g.clean l d 1 →
    g.clean l a 2 → t.performed c.grp l = true → g.val l a 2 % 64 = 0 →
    s.descRead c l (BitVec.ofNat 64 (g.val l a 2)) 64 = .ok (s1, x) → s1.team? c.tid = some t1 →
    let h := t1.handle k.toNat
    let desc : RDesc := BitVec.ofNat 512 x.val
    let size := 256 + 12288 * 2 ^ RDesc.scode desc
    let off := g.val l d 1
    (x.poison = true ∨ RDesc.malformed desc = true → s1.canPost t1 k.toNat 0 = true →
      ∃ s', exec (.rast gd d a k) s = .next s' ∧ s'.moves c e [l] (fun _ => e.next) ∧
        let h1 : Handle := if h.st = .filling then { h with ref := true } else ⟨.full, 0, 0, 2, false, true⟩
        State.settles (s1.setTeam { t1 with handles := t1.handles.set k.toNat h1 }) s' c) ∧
    (x.poison = false → RDesc.malformed desc = false → off % 256 = 0 → off + size ≤ t.palSize → s1.canPost t1 k.toNat size = true →
      (s.rasters.filter fun r => r.panel == t.core / 4 && r.queued).length < 16 → t.ifr.length < 512 →
      ∀ s2, State.register { s1 with fresh := s1.fresh + 1 }
          [(t.core / 4, ⟨s1.fresh + 1, some c.tid, off / 64 * 64, (off + size + 63) / 64 * 64, true⟩)] = some s2 →
        ∃ s', exec (.rast gd d a k) s = .next s' ∧ s'.moves c e [l] (fun _ => e.next) ∧
          let h1 : Handle := if h.st = .filling then { h with exp := h.exp + size, sc := max h.sc (RDesc.scope desc) }
            else ⟨.filling, size, 0, RDesc.scope desc, false, false⟩
          let posted : Team := { t1 with handles := t1.handles.set k.toNat h1 }
          let m := s2.setTeam (posted.newEntry (IfrEntry.make .rast c.grp e.pc [LaneOp.make l .null [(c.grp, l)]] 0 0 0 0 0 k.toNat))
          State.settles { m with
            rasters := m.rasters ++ [⟨s1.fresh + 1, c.tid, t.ctx, t.seq, t.core / 4, k.toNat, off, desc, 0, false, true, none, []⟩] } s' c)

/-- A step of the command at the head of a rasteriser's queue: a primitive that was read changes exactly the samples it covers and
passes, each to its identifier and depth; one that could not be read changes none and sets REF; after the last the command is over,
its bytes have arrived and its lock is gone (R391-R395). -/
def Obligations.RasterSteps : Prop :=
  ∀ (s : State) panel r rest t, s.posts = [] → s.parked = [] → (∀ g ∈ s.grids, ∀ off seq, g.back ≠ .loading off seq 0) →
    (∀ x ∈ s.rasters, x.queued = true) → (s.rasters.filter fun x => x.panel == panel && x.queued) = r :: rest →
    s.team? r.tid = some t → t.tid = r.tid → r.tid ≠ 0 → t.running = true → t.released r.seq = true → r.miss = none →
    r.started = true → (s.rasters.map (·.id)).Nodup →
    let d := r.desc
    let size := 256 + 12288 * 2 ^ RDesc.scode d
    let idAt (i : Nat) := r.off + 256 + 8 * i
    let zAt (i : Nat) := r.off + 256 + 8192 * 2 ^ RDesc.scode d + 4 * i
    r.off + size ≤ t.palSize →
    (∀ s2 raw s', r.next ≤ RDesc.nprim d → s.rasterFetch 7 r = (s2, .ok raw) → Memory.wf t.pal = true →
      (∀ w ∈ t.palBad, 4 * w + 4 ≤ r.off ∨ r.off + size ≤ 4 * w) → exec (.rasterCommand panel) s = .next s' →
      let ws := raw.map fun p => valsOf (wordsOf 4 p)
      let v := ws.map fun x => x.map fx
      let finite : Bool := !ws.any fun x => x.any fun y => y.isNan || y.isInf
      let hits (i : Nat) := (fans (RDesc.ff d) (RDesc.cull d) v).filter fun f =>
        covers f (samplePoint (RDesc.scode d) (RDesc.tx d) (RDesc.ty d) i).1 (samplePoint (RDesc.scode d) (RDesc.tx d) (RDesc.ty d) i).2
      ∃ t', s'.team? r.tid = some t' ∧ t'.groups = t.groups ∧
        (∀ i, i < 1024 * 2 ^ RDesc.scode d → finite = false ∨ hits i = [] →
          Memory.readN t'.pal (idAt i) 8 = Memory.readN t.pal (idAt i) 8 ∧ Memory.readN t'.pal (zAt i) 4 = Memory.readN t.pal (zAt i) 4) ∧
        (∀ i f, i < 1024 * 2 ^ RDesc.scode d → finite = true → hits i = [f] →
          let q := samplePoint (RDesc.scode d) (RDesc.tx d) (RDesc.ty d) i
          let z := baryDepth (v.getD 0 []) (v.getD 1 []) (v.getD 2 []) (q.1 * 2 ^ 141) (q.2 * 2 ^ 141)
          let old := Memory.readN t.pal (zAt i) 4
          let passes := depthPasses (RDesc.zfunc d) z old false false
          Memory.readN t'.pal (idAt i) 8 = (if passes then
            (RDesc.draw d * 2 ^ 44 + RDesc.inst d * 2 ^ 28 + RDesc.first d + r.next) % 2 ^ 64 else Memory.readN t.pal (idAt i) 8) ∧
          Memory.readN t'.pal (zAt i) 4 = (if passes ∧ RDesc.zw d = true then z % 2 ^ 32 else old)) ∧
        (∃ x ∈ s'.rasters, x.id = r.id ∧ x.next = r.next + 1) ∧ s'.mem = s.mem) ∧
    (∀ s2, r.next ≤ RDesc.nprim d → s.rasterFetch 7 r = (s2, .error (some .bad)) → r.hnd < t.handles.length →
      ∃ s' t', exec (.rasterCommand panel) s = .next s' ∧ s'.team? r.tid = some t' ∧ t'.pal = t.pal ∧ (t'.handle r.hnd).ref = true ∧
        (∃ x ∈ s'.rasters, x.id = r.id ∧ x.next = r.next + 1)) ∧
    (RDesc.nprim d < r.next → r.hnd < t.handles.length → (t.handle r.hnd).st = .filling →
      ∃ s' t', exec (.rasterCommand panel) s = .next s' ∧ s'.team? r.tid = some t' ∧ t'.pal = t.pal ∧
        let n := (t.handle r.hnd).rcv + size
        t'.handle r.hnd = { t.handle r.hnd with rcv := n, st := if n = (t.handle r.hnd).exp then .full else .filling } ∧
        (∀ x ∈ s'.rasters, x.id ≠ r.id) ∧ ∀ q ∈ s'.panels, ∀ y ∈ q.locks, y.owner ≠ r.id)

/-- VISLD brings a sample of a visibility tile: its identifier and depth with where it lies, or its position, each register with the
poison of the palette bytes it comes from; a lock on the header, then a sample that the tile does not hold, traps; BARY interpolates
(R256, R266, R296, R391, R393, R395, R397, R399). -/
def Obligations.VisibilitySamples : Prop :=
  ∀ s : State,
    (∀ c t g e gd d a b (pos : BitVec 1) l v0, s.issues c t g e → c.tid ≠ 0 → actLanes g e gd = [l] → g.clean l a 1 → g.clean l b 1 →
      let w := if pos = 1 then 2 else 4
      let off := g.val l a 1
      let i := g.val l b 1
      let hdr := Memory.readN t.pal off 8
      let sc := hdr / 2 ^ 32 % 4
      let idAt : Nat := off + 256 + 8 * i
      let zAt : Nat := off + 256 + 8192 * 2 ^ sc + 4 * i
      let lock (o n : Nat) : Option Nat := s.lockHit t (some t.tid) o (o + n) false
      let bad (o n : Nat) : Bool := t.palBad.any fun q => decide (o < 4 * q + 4) && decide (4 * q < o + n)
      off % 256 = 0 → off + 8 ≤ t.palSize →
      (lock off 8 = none → lock idAt 8 = none → lock zAt 4 = none → i < 1024 * 2 ^ sc → zAt + 4 ≤ t.palSize → g.room l d w →
        t.palOrdered c.grp l 0 = true →
        let x := i / 2 ^ sc % 32
        let y := i / 2 ^ sc / 32
        let o := (sampleOffsets sc).getD (i % 2 ^ sc) (0, 0)
        let v := if pos = 1 then
            ofWords [roundQ .rne ((16 * (hdr % 2 ^ 16 + x) + o.1 : Nat) : Int) 16, roundQ .rne ((16 * (hdr / 2 ^ 16 % 2 ^ 16 + y) + o.2 : Nat) : Int) 16]
          else Memory.readN t.pal idAt 8 + 2 ^ 64 * (Memory.readN t.pal zAt 4 + 2 ^ 32 * (x + 32 * y + 1024 * (i % 2 ^ sc)))
        let poison := if pos = 1 then [bad off 8, bad off 8] else [bad idAt 4, bad (idAt + 4) 4, bad off 8 || bad zAt 4, bad off 8]
        ∃ s', exec (.visld gd d a b pos) s = .next s' ∧ s'.moves c e [l] (fun _ => e.next) ∧
          let u := t.updGroup c.grp fun h => markRef h l (g.dst l d w) w .pending
          State.settles (if g.dst l d w = .null then s else
            { s.setTeam { u with palPend := u.palPend ++ [⟨s.fresh, [(c.grp, l)], g.dst l d w, w, v, poison⟩] } with fresh := s.fresh + 1 })
            s' c) ∧
      (s.handled c t e v0 → l < g.lanes.length → (∀ k ∈ lanesOf e.mask, k < g.lanes.length) →
        (∀ x, lock off 8 = some x → ∃ s', exec (.visld gd d a b pos) s = .next s' ∧
          s.traps s' c g e [l] (fun _ => ⟨.rangeLock, 0, BitVec.ofNat 64 x⟩) v0) ∧
        (lock off 8 = none → 1024 * 2 ^ sc ≤ i → ∃ s', exec (.visld gd d a b pos) s = .next s' ∧
          s.traps s' c g e [l] (fun _ => ⟨.paletteBounds, 0, BitVec.ofNat 64 idAt⟩) v0))) ∧
    (∀ gd d a b c, let f : LaneForm := ⟨gd, d, 4, [(d, 4), (a, 4), (b, 4), (c, 4)], 7, true⟩
      f.admitted s → s.lanewise (.bary gd d a b c) gd f.ready (fun _ e _ => e.next)
        (f.effect fun x => (ofWords (bary (wordsOf 4 (x.getD 0 0)) (wordsOf 4 (x.getD 1 0)) (wordsOf 4 (x.getD 2 0)) (wordsOf 4 (x.getD 3 0))),
          false)))

/-- TEX, TEXG and TEXQ: the sampler decides the case of R402 at issue, raises the mark and marks absent tiles, and an entry of the
in-flight record holds the lane while its four destinations are Pending; texels are read when their access reaches home; TEXQ's
result is the descriptor's (R400-R403, R405, R331). -/
def Obligations.Textures : Prop :=
  ∀ s : State,
    let samples (i : Instr) (gd : Guard) (mode comp : Nat) (nm : Bool) (pd : Nat) (d a b cc : Reg) : Prop :=
      ∀ c t g e l, s.issues c t g e → actLanes g e gd = [l] → t.ifr.length < 512 → t.performed c.grp l = true →
        let cw := if mode = 3 then 1 else 2
        let mark : Bool := mode != 3 && !nm && !cc.isNull
        g.clean l a 2 → g.has l b 2 → g.has l cc cw → (mark = true → g.clean l cc cw) → (pd ≠ 7 → g.clean l b 2 ∧ g.clean l cc cw) →
        g.val l a 2 % 32 = 0 → g.room l d 4 →
        let ops := g.val l a 2 + 2 ^ 64 * (g.val l b 2 % 2 ^ 64) + 2 ^ 128 * (g.val l cc cw % 2 ^ 64)
        let ref := g.val l cc cw / 2 ^ 32 % 2 ^ 32
        let word := 4 * (ref % 2 ^ 18) + 4 * (ref / 2 ^ 18 / 32)
        (mark = true → word + 4 ≤ t.palSize ∧ s.lockHit t (some t.tid) word (word + 4) true = none) →
        ∀ s1 o, s.sample t mode comp mark false ops = (s1, some o) →
          let p := joinPoison [g.opnd l a 2, g.opnd l b 2, g.opnd l cc cw]
          let lane : LaneOp := LaneOp.make l (g.dst l d 4) [(c.grp, l)] o.pieces ops (p.1.toNat + 2 * p.2.toNat) p
          ∃ s', exec i s = .next s' ∧ s'.moves c e [l] (fun _ => e.next) ∧
            State.settles ((s1.updGroup c.tid c.grp fun h => markRef h l (g.dst l d 4) 4 .pending).updTeam c.tid fun u =>
              u.newEntry (IfrEntry.make (.tex mode comp mark pd) c.grp e.pc [{ lane with res := o.res }] 4)) s' c
    (∀ gd d a b c nm (lin : BitVec 1) (pd : BitVec 3), samples (.tex gd d a b c nm lin pd) gd lin.toNat 0 (nm == 1) pd.toNat d a b c) ∧
    (∀ gd d a b c (comp : BitVec 2) nm (pd : BitVec 3), samples (.texg gd d a b c comp nm pd) gd 2 comp.toNat (nm == 1) pd.toNat d a b c) ∧
    (∀ gd d a c, samples (.texq gd d a c) gd 3 0 true 7 d a Reg.null c) ∧
    (∀ t a read desc q, (s.texDesc t read (BitVec.ofNat 64 a)).2 = .ok (desc, q) →
      let lv := a / 2 ^ 128 % 2 ^ 32
      let dim (n : Nat) : Nat := if lv > TexDesc.levels desc then 0 else max 1 (n / 2 ^ lv)
      (s.sample t 3 0 false read a).2.map (·.res) = some (dim (TexDesc.width desc) + 2 ^ 32 * dim (TexDesc.height desc) +
        2 ^ 64 * (TexDesc.levels desc + 1) + 2 ^ 96 * TexDesc.fmt desc)) ∧
    (∀ tid op lane piece t e o p mode comp mark pd, s.team? tid = some t → t.tid = tid → t.st = .resident → t.stopping = false →
      t.ifr.find? (·.seq == op) = some e → e.lanes.find? (·.lane == lane) = some o → o.pieces[piece]? = some p → o.done = false → p.done = false →
      p.wait = .no → p.held = false → t.mayPerform e (s.orderOf e p) o p = true → o.pieces.all (t.mayPerform e e.ord o) = true →
      e.op = .tex mode comp mark pd → ∀ s1 x, (s1.resample t e o mode comp mark).2 = some x →
      s.gateAll t.ctx (.texels tid op lane) ((o.pieces.drop 1).map fun x => (x.dia, sectorsOf x.dia x.len, true)) = (s1, true) →
      ∃ s' t', exec (.accessAtHome tid op lane piece) s = .next s' ∧ s'.team? tid = some t' ∧
        ∃ e' ∈ t'.ifr, e'.seq = op ∧ ∃ o' ∈ e'.lanes, o'.lane = lane ∧ o'.res = x.res ∧
          (∀ q ∈ o'.pieces, q.done = true) ∧ o'.done = o.done)

/-- RSMARK sets the bit of a tile in the palette; a residency request on its way becomes a record of its page's partition, is dropped,
or is left out within 1,000 µs of the page's last (R403, R404). -/
def Obligations.Marks : Prop :=
  ∀ s : State,
    let word (r : Nat) : Nat := 4 * (r % 2 ^ 18) + 4 * (r / 2 ^ 18 / 32)
    (∀ gd a, s.inTurn (.rsmark gd a) gd [(a, 1)] (fun _ => True)
      (fun c _ u l => (u.grp c).clean l a 1 ∧ ∀ v, u.team? c.tid = some v →
        word ((u.grp c).val l a 1) + 4 ≤ v.palSize ∧
        u.lockHit v (some v.tid) (word ((u.grp c).val l a 1)) (word ((u.grp c).val l a 1) + 4) true = none ∧
        v.palOrdered c.grp l 0 = true ∧ ∀ w ∈ v.palBad, 4 * w ≠ word ((u.grp c).val l a 1))
      fun c _ u l =>
        let r := (u.grp c).val l a 1
        u.updTeam c.tid fun v => { v with pal := Memory.writeN v.pal (word r) 4 (Memory.readN v.pal (word r) 4 ||| 2 ^ (r / 2 ^ 18 % 32)) }) ∧
    (∀ k page ctx part, s.resReqs[k]? = some (page, ctx) → s.part? (page * 65536 / 2 ^ 44) = some part →
      ∃ s' p', exec (.residencyRequest k) s = .next s' ∧ s'.part? (page * 65536 / 2 ^ 44) = some p' ∧ s'.resReqs = s.resReqs.eraseIdx k ∧
        s'.teams = s.teams ∧ s'.mem = s.mem ∧
        ((∃ x ∈ part.res.last, x.1 = page ∧ s.time.toNat < x.2.toNat + 1000000) → p' = part) ∧
        ((∀ x ∈ part.res.last, x.1 = page → x.2.toNat + 1000000 ≤ s.time.toNat) →
          let w := part.res.word 0
          if (w - part.res.word 4).toNat < 1024 then
            p'.res.last = part.res.last.filter (fun x => x.1 != page) ++ [(page, s.time)] ∧
            let slot := 64 + 16 * (w.toNat % 1024)
            p'.res.region = Memory.writeN (Memory.writeN part.res.region slot 16 (page * 65536 % 2 ^ 48 + 2 ^ 64 * (ctx.toNat * 2 ^ 32)))
              0 4 (w + 1).toNat
          else p'.res = part.res.setWord 8 (BitVec.ofNat 32 (min ((part.res.word 8).toNat + 1) (2 ^ 32 - 1)))))

/-- RTBOX, RTTRI and RTXF read their memory operand in units of 16 bytes, and an entry of the in-flight record holds the lane while its
four destinations are Pending (R407-R410, R331). -/
def Obligations.RayTests : Prop :=
  ∀ s : State,
    let tests (i : Instr) (gd : Guard) (mode arg pd n align : Nat) (d a b m : Reg) : Prop :=
      ∀ c t g e l, s.issues c t g e → actLanes g e gd = [l] → t.ifr.length < 512 → g.has l a 4 → g.has l b 4 → g.clean l m 2 →
        (pd ≠ 7 → g.clean l a 4 ∧ g.clean l b 4) → g.val l m 2 % align = 0 → g.room l d 4 →
        ∀ s1 us, s.accessAll c.tid c.grp l (fun r => r.r)
            ((List.range (n / 16)).map fun k => (BitVec.ofNat 64 (g.val l m 2 + 16 * k), 16, 0)) = .ok (s1, us) →
          let p := joinPoison [g.opnd l a 4, g.opnd l b 4]
          let s2 := us.foldl (fun u x => u.raiseMark c.tid x.1.cls) s1
          ∃ s', exec i s = .next s' ∧ s'.moves c e [l] (fun _ => e.next) ∧
            State.settles ((s2.updGroup c.tid c.grp fun h => markRef h l (g.dst l d 4) 4 .pending).updTeam c.tid fun u =>
              u.newEntry (IfrEntry.make (.ray mode arg pd) c.grp e.pc [LaneOp.make l (g.dst l d 4) [(c.grp, l)]
                (us.map fun x => Piece.make x.2.1 x.1 16 0 0 false) (g.val l a 4 + 2 ^ 128 * g.val l b 4) (p.1.toNat + 2 * p.2.toNat)] 4)) s' c
    (∀ gd d a b c (pd : BitVec 3), tests (.rtbox gd d a b c pd) gd 0 0 pd.toNat 96 128 d a b c) ∧
    (∀ gd d a b c (cull : BitVec 2) (pd : BitVec 3), tests (.rttri gd d a b c cull pd) gd 1 cull.toNat pd.toNat 48 16 d a b c) ∧
    (∀ gd d a c (dir : BitVec 1), tests (.rtxf gd d a c dir) gd 2 dir.toNat 7 48 16 d a Reg.null c)

/-- What the sampler and the ray unit compute, in exact arithmetic: the texels of a footprint and their weights, the colour that they
give, the distances of a box test, the coordinates of a triangle test, a transformed vector; each rounded once, for finite data
(R400, R401, R408-R410). -/
def Obligations.SamplerAndRayArithmetic : Prop :=
  (∀ (d : TexDesc) l u v, finite32 u → finite32 v → u < 2 ^ 32 → v < 2 ^ 32 →
    let w : Nat := max 1 (TexDesc.width d / 2 ^ l)
    let h : Nat := max 1 (TexDesc.height d / 2 ^ l)
    let at_ (mode : Nat) := TexDesc.footprint d mode l (fp32 (BitVec.ofNat 32 u)) (fp32 (BitVec.ofNat 32 v))
    at_ 0 = [(65536, TexDesc.texel d l (realOf u * w).floor (realOf v * h).floor)] ∧
    ∀ mode sx sy, mode ≠ 0 → NearestEven (256 * realOf u * w - 128) sx → NearestEven (256 * realOf v * h - 128) sy →
      let fa := (sx % 256).toNat
      let fb := (sy % 256).toNat
      at_ mode = [((256 - fa) * (256 - fb), TexDesc.texel d l (sx / 256) (sy / 256)), (fa * (256 - fb), TexDesc.texel d l (sx / 256 + 1) (sy / 256)),
        ((256 - fa) * fb, TexDesc.texel d l (sx / 256) (sy / 256 + 1)), (fa * fb, TexDesc.texel d l (sx / 256 + 1) (sy / 256 + 1))]) ∧
  (∀ (d : TexDesc) comp fp vals k, k < 4 →
    let ts := footTexels (TexDesc.fmt d) (TexDesc.border d) fp vals
    let gives (mode : Nat) : Nat := word32 (ofWords (texFilter mode comp (texComps d fp vals))) k
    ((∀ x ∈ ts, texelFinite x.2.1 x.2.2 k) →
      gives 1 = rounded32 .rne ((ts.map fun x => (x.1 : Rat) * texelReal x.2.1 x.2.2 k).sum / 65536)) ∧
    (∀ x, ts.head? = some x → texelFinite x.2.1 x.2.2 k →
      (texelMinusZero x.2.1 x.2.2 k → gives 0 = 2 ^ 31) ∧ (¬texelMinusZero x.2.1 x.2.2 k → gives 0 = rounded32 .rne (texelReal x.2.1 x.2.2 k))) ∧
    (∀ x, comp < 4 → ts[k]? = some x → texelFinite x.2.1 x.2.2 comp →
      (texelMinusZero x.2.1 x.2.2 comp → gives 2 = 2 ^ 31) ∧
      (¬texelMinusZero x.2.1 x.2.2 comp → gives 2 = rounded32 .rne (texelReal x.2.1 x.2.2 comp)))) ∧
  (∀ (e : IfrEntry) (o : LaneOp) mode arg pd, e.op = .ray mode arg pd → (∀ p ∈ o.pieces, p.done = true) → o.poison = false → o.b % 2 = 0 →
    let org (k : Nat) : Rat := realOf (word32 o.a k)
    let dir (k : Nat) : Rat := realOf (word32 o.a (4 + k))
    let mem (k : Nat) : Rat := realOf (word32 o.readBytes k)
    (∀ k, k < 8 → finite32 (word32 o.a k)) →
    (mode = 0 → (∀ k, k < 24 → finite32 (word32 o.readBytes k)) →
      let entry (c : Nat) : Rat := ((List.range 3).filter fun a => decide (dir a ≠ 0)).foldl
        (fun x a => max x (min ((mem (6 * c + a) - org a) / dir a) ((mem (6 * c + 3 + a) - org a) / dir a))) (org 3)
      let exit (c : Nat) : Rat := ((List.range 3).filter fun a => decide (dir a ≠ 0)).foldl
        (fun x a => min x (max ((mem (6 * c + a) - org a) / dir a) ((mem (6 * c + 3 + a) - org a) / dir a))) (dir 3)
      let hit (c : Nat) : Prop := (∀ a, a < 3 → mem (6 * c + a) ≤ mem (6 * c + 3 + a)) ∧
        (∀ a, a < 3 → dir a = 0 → mem (6 * c + a) ≤ org a ∧ org a ≤ mem (6 * c + 3 + a)) ∧ entry c ≤ exit c
      ∃ x, e.result o = some x ∧ x.poison = false ∧ x.pd = pd ∧ (x.pred = true ↔ ∃ c, c < 4 ∧ hit c) ∧
        ∀ c, c < 4 → (hit c → word32 x.val c = rounded32 .rdn (entry c)) ∧ (¬hit c → word32 x.val c = 0x7F800000)) ∧
    (mode = 1 → (∀ k, k < 9 → finite32 (word32 o.readBytes k)) →
      let p (i k : Nat) : Rat := mem (3 * i + k) - org k
      let w (i : Nat) : Rat := if i = 0 then detOf (p 1) (p 2) dir else if i = 1 then detOf (p 2) (p 0) dir else detOf (p 0) (p 1) dir
      let sum := w 0 + w 1 + w 2
      let t := detOf (p 0) (p 1) (p 2) / sum
      let hit : Prop := sum ≠ 0 ∧ ((∀ i, i < 3 → 0 ≤ w i) ∨ ∀ i, i < 3 → w i ≤ 0) ∧ ¬(arg = 1 ∧ sum < 0) ∧ ¬(arg = 2 ∧ 0 < sum) ∧
        org 3 ≤ t ∧ t ≤ dir 3
      ∃ x, e.result o = some x ∧ x.poison = false ∧ x.pd = pd ∧ (x.pred = true ↔ hit) ∧
        (hit → word32 x.val 0 = rounded32 .rne t ∧ ∀ i, i < 3 → word32 x.val (i + 1) = rounded32 .rne (w i / sum)) ∧
        (¬hit → word32 x.val 0 = 0x7F800000 ∧ ∀ i, i < 3 → word32 x.val (i + 1) = 0)) ∧
    (mode = 2 → (∀ k, k < 12 → finite32 (word32 o.readBytes k)) →
      ∃ x, e.result o = some x ∧ x.poison = false ∧ word32 x.val 3 = word32 o.a 3 ∧ ∀ m, m < 3 → word32 x.val m =
        rounded32 .rne (mem (4 * m) * org 0 + mem (4 * m + 1) * org 1 + mem (4 * m + 2) * org 2 + if arg = 1 then 0 else mem (4 * m + 3))))

/-- SIG folds the bytes of 32 pixel words, lane 0 first, into the CRC-64 in its G pair; SIGEND stores the entry of Table 8 as a release
at device scope (R411, R412). -/
def Obligations.TileSignatures : Prop :=
  ∀ (s : State) c t g e gd, s.issues c t g e →
    (∀ d a, e.mask = BitVec.allOnes 32 → actLanes g e gd = List.range 32 → (∀ l, l < 32 → (g.thread l).live = true) → g.lanes.length = 32 →
      d.cls = .g → d.isNull = false → d.ind = false → (∀ l, l < 32 → g.has l d 2 ∧ g.has l a 1) →
      let step (k : BitVec 64) : BitVec 64 := if k.getLsbD 63 then (k <<< 1) ^^^ 0x42F0E1EBA9EA3693#64 else k <<< 1
      let byte (k : BitVec 64) (y : Nat) : BitVec 64 := step (step (step (step (step (step (step (step (k ^^^ (BitVec.ofNat 64 y <<< 56)))))))))
      let crc := (List.range 32).foldl (fun k l => (List.range 4).foldl (fun k j => byte k (g.val l a 1 / 2 ^ (8 * j) % 256)) k)
        (BitVec.ofNat 64 (g.val 0 d 2))
      let p := joinPoison (g.opnd 0 d 2 :: (List.range 32).map fun l => g.opnd l a 1)
      ∃ s', exec (.sig gd d a) s = .next s' ∧ s'.moves c e (List.range 32) (fun _ => e.next) ∧
        State.settles (s.updGroup c.tid c.grp fun h => writeRef h 0 (.g d.num.toNat) 2 crc.toNat p.1 p.2) s' c) ∧
    (∀ a b q l s1 s2 x, actLanes g e gd = [l] → t.ifr.length < 512 → g.clean l a 2 → g.clean l b 1 → g.clean l q 2 →
      let ti := g.val l b 1
      let va : BitVec 64 := BitVec.ofNat 64 (g.val l a 2 + 16 * (ti % 2 ^ 16))
      va.toNat % 16 = 0 → s.access c.tid c.grp l va (fun r => r.w) = .ok (s1, x) → s1.checks c.tid va x 16 false true = .ok s2 →
      ∃ s', exec (.sigend gd a b q) s = .next s' ∧ s'.moves c e [l] (fun _ => e.next) ∧
        State.settles ((s2.updGroup c.tid c.grp fun h => markRef h l .null 0 .pending).updTeam c.tid fun u =>
          u.newEntry (IfrEntry.make .st c.grp e.pc [LaneOp.make l .null [(c.grp, l)] [Piece.make va x 16
            (g.val l q 2 % 2 ^ 64 + 2 ^ 64 * (2 ^ 63 + ti / 2 ^ 16 % 2 ^ 16 * 2 ^ 32 + ti % 2 ^ 16))]] 0 2 6 4)) s' c)

/-! ## Launches, teams, sittings, health -/

/-- LAUNCH and LAUNCHW accept a well-formed descriptor, read once, when the partition's queue has room: the completion record is zeroed
and the launch takes its entry; without room LAUNCH tells so. LWAIT returns a record that is done. LAUNCH_COMPLETION writes the record
and frees the entry (R374-R377, R386, R387, R449). -/
def Obligations.Launches : Prop :=
  ∀ s : State,
    (∀ c t g e gd l a (pd : BitVec 3) k s1 x s2 y, s.issues c t g e → actLanes g e gd = [l] → t.performed c.grp l = true →
      g.clean l a 2 → g.val l a 2 % 64 = 0 → s.ctx? t.ctx = some k →
      s.descOnce c l (BitVec.ofNat 64 (g.val l a 2)) 64 = .ok (s1, x) → x.poison = false →
      let d : LDesc := BitVec.ofNat 512 x.val
      LDesc.malformed d k = false → (s1.putProbe c.tid c.grp l none).placeOf k (LDesc.crec d) (fun r => r.w) 1 = (s2, .at y) →
      let free := 64 - (s2.launches.filter fun z => z.part == k.part).length
      let need := if k.levcap = 3 then 1 else 9
      let told (u : State) (p : Bool) : State := u.updGroup c.tid c.grp fun h => h.updThread l fun z => z.setPred pd.toNat p
      (need ≤ free → s2.deviceReady k.id y.dia 16 = true → ∀ t1, s2.team? c.tid = some t1 →
        let entry : Launch :=
          { lid := s2.nextLid, ctx := k.id, part := k.part, grid := LDesc.grid d, teams := LDesc.teams d, level := LDesc.level d,
            scope := LDesc.scope d, preload := LDesc.preload d, nseg := LDesc.nseg d, pal := LDesc.pal d, ngroup := LDesc.ngroup d,
            roles := (LDesc.allRoles d).filter fun r => r.groups != 0, code := LDesc.code d, crec := LDesc.crec d,
            cls := t1.cls, fixd := none, next := 0, ended := 0, fatal := none, lost := false, abandoned := false,
            since := s2.time, miss := none }
        let s3 := (s2.gateNow k.id [(y.dia, sectorsOf y.dia 16, false)]).1.homeWrite y.dia 16 0 y.key 0 false (some k.id)
        let s4 := State.settleFp { s3 with launches := s3.launches ++ [entry], nextLid := s2.nextLid + 1 }
        (∃ s', exec (.launch gd a pd) s = .next s' ∧ s'.moves c e [l] (fun _ => e.next) ∧ (told s4 true).settles s' c) ∧
        ∃ s', exec (.launchw gd a) s = .next s' ∧ s'.moves c e [l] (fun _ => e.next) ∧ s4.settles s' c) ∧
      (free < need → ∃ s', exec (.launch gd a pd) s = .next s' ∧ s'.moves c e [l] (fun _ => e.next) ∧ (told s2 false).settles s' c)) ∧
    (∀ c t g e gd l d a (test : BitVec 1) (pd : BitVec 3) s1 x, s.issues c t g e → actLanes g e gd = [l] → t.performed c.grp l = true →
      g.clean l a 2 → g.val l a 2 % 16 = 0 → g.room l d 2 →
      s.descRead c l (BitVec.ofNat 64 (g.val l a 2)) 16 = .ok (s1, x) → x.poison = false → test = 1 ∨ x.val.testBit 63 = true →
      ∃ s', exec (.lwait gd d a test pd) s = .next s' ∧ s'.moves c e [l] (fun _ => e.next) ∧
        let s2 : State := { s1 with l1 := s1.l1.filter fun z => !(z.core == t.core && !z.ldk) }
        State.settles (s2.updGroup c.tid c.grp fun h => (h.put g l d 2 (x.val % 2 ^ 64)).updThread l fun z =>
          z.setPred (if test = 1 then pd.toNat else 7) (x.val.testBit 63)) s' c) ∧
    (∀ lid l c s1 x, s.launches.find? (·.lid == lid) = some l → s.launchOver l = true → l.miss = none → s.ctx? l.ctx = some c →
      s.placeOf c l.crec (fun r => r.w) 1 = (s1, .at x) → s1.deviceReady l.ctx x.dia 16 = true → c.id = l.ctx →
      (∀ y ∈ s.sits.now, ¬(y.part = l.part ∧ y.kind = 0)) → x.dia % 16 = 0 → x.dia < 2 ^ 48 → x.key ≠ 0 → s1.mends x.dia 0 →
      Memory.wf s1.mem = true → l.ended < 2 ^ 32 → l.fatal.getD 0 < 2 ^ 8 →
      ∃ s', exec (.launchCompletion lid) s = .next s' ∧
        s'.launches = s.launches.filter (fun y => y.lid != lid) ∧ s'.teams.map (·.tid) = (s.teams.filter fun t => t.lid != lid).map (·.tid) ∧
        (s'.homeRead x.dia 16 x.key (s'.tagOf (physOf (s1.pte x.dia) x.dia / 64))).2.val =
          2 ^ 63 + 2 ^ 62 * l.fatal.isSome.toNat + 2 ^ 61 * l.lost.toNat + 2 ^ 60 * l.abandoned.toNat + 2 ^ 32 * l.fatal.getD 0 + l.ended +
            2 ^ 64 * s.time.toNat)

/-- A team's life on a quad: it is placed with its registers at zero, stopped, frozen at the homes, snapshot and saved; a saved
one is restored; its replay ends (R53, R66, R71, R74, R76, R226, R246, R318, R326, R329, R338-R340, R345). What stands in the
opaque sections of a frame is free (log 25), and where a stopped team stands in its level's order is the model's choice (log 70).
-/
def Obligations.TeamLifecycle : Prop :=
  ∀ s : State,
    (∀ tid t, tid ≠ 0 → s.team? tid = some t → t.tid = tid → t.st = .resident → t.stopping = false → t.asked = true → s.stopTurn tid = true →
      ∃ s' t', exec (.stopRequest tid) s = .next s' ∧ s'.team? tid = some t' ∧ t'.stopping = true ∧ t'.acks = [] ∧ t'.palPend = [] ∧
        t'.st = .resident ∧ t'.pal = t.pal ∧ s'.mem = s.mem ∧ (∀ q ∈ s'.engines, ∀ y ∈ q.cmds, y.tid ≠ tid) ∧
        ∀ r ∈ s'.rasters, r.tid = tid → r.queued = false) ∧
    (∀ tid t panel, tid ≠ 0 → s.team? tid = some t → t.st = .resident → t.stopping = true → panel ∈ s.panelsOf t → panel ∉ t.acks →
      exec (.freezeBroadcast tid panel) s = .next (s.setTeam { t with
        acks := t.acks ++ [panel]
        frozen := if t.frozen.contains panel then t.frozen else t.frozen ++ [panel] })) ∧
    (∀ tid t, tid ≠ 0 → s.team? tid = some t → t.tid = tid → t.st = .resident → t.stopping = true → t.snapped = false →
      (∀ panel ∈ s.panelsOf t, panel ∈ t.acks) →
      ∃ s' t', exec (.ifrSnapshot tid) s = .next s' ∧ s'.team? tid = some t' ∧ t'.snapped = true ∧ t'.pal = t.pal ∧ s'.mem = s.mem ∧
        (∀ x ∈ t'.ifr, ∃ y ∈ t.ifr, y.seq = x.seq ∧ y.op = x.op) ∧
        ∀ gr, s.grid? t.core t.quad = some gr → gr.tid = tid → gr.st = .bound → s'.grid? t.core t.quad = some { gr with st := .frozen }) ∧
    (∀ tid t c, tid ≠ 0 → s.team? tid = some t → t.tid = tid → t.st = .resident → t.snapped = true → s.ctx? t.ctx = some c →
      let image := (s.grid? t.core t.quad).filter fun g => g.tid == tid && g.st == .frozen
      let u : Team := { t with gridImage := image }
      s.frameFitsNow c u (!c.ckpt) = true →
      u.frameMoved (s.gateFrame c u false).2 = true →
      (∀ x ∈ s.code, x.holders.Nodup) →
      ∃ s' t', exec (.saveComplete tid) s = .next s' ∧ s'.team? tid = some t' ∧
        t'.st = (if t.evicting then (if s'.teamWaits t' then .evicted else .pending) else .saved) ∧
        t'.groups = t.groups.map (fun g => { g with pipe := none, lanes := g.lanes.map Thread.saveProbe }) ∧ t'.ifr = t.ifr ∧ t'.pal = t.pal ∧ t'.gridImage = image ∧
        (image ≠ none → ∀ gr, s'.grid? t.core t.quad = some gr → gr.tid ≠ tid) ∧ ∀ x ∈ s'.code, tid ∉ x.holders) ∧
    (∀ tid t, tid ≠ 0 → s.team? tid = some t → t.tid = tid → t.st = .resident → t.stopping = false → t.allEnded = false →
      s.allFaultWait t = true →
      ∃ s' t', exec (.teamEviction tid) s = .next s' ∧ s'.team? tid = some t' ∧ t'.stopping = true ∧ t'.evicting = true ∧ s'.mem = s.mem) ∧
    (∀ n l c q place, n.tid ≠ 0 → s.pending.find? (fun m => m.tid == n.tid) = some n → s.team? n.tid = none →
      s.launches.find? (·.lid == n.lid) = some l → n.tid = teamName l.lid l.next → s.ctx? n.ctx = some c → l.ctx = n.ctx → s.turnOf n = true →
      s.bestQuad (s.quadsFor n) = some q → s.framePlace c (frameNeed l.ngroup (l.pal * 4096)) = some place →
      ∃ s' t', exec (.teamPlacement n.tid) s = .next s' ∧ s'.team? n.tid = some t' ∧ t'.st = .resident ∧ (t'.core, t'.quad) = q ∧
        t'.team = l.next ∧ t'.lid = l.lid ∧ t'.palSize = l.pal * 4096 ∧ t'.pal = [] ∧
        t'.groups.length = ((l.roles.map (·.groups)).sum) ∧
        (∀ g ∈ t'.groups, ∃ k r, l.roles[k]? = some r ∧ g.role = k ∧ g.allot = r.allot ∧
          g.lanes = List.replicate 32 (Thread.initial r.allot) ∧ g.gregs = List.replicate 64 Slot.zero ∧
          g.entries = [Entry.at (BitVec.ofNat 64 ((l.code + r.seg) % 2 ^ 44 * 4096 + r.word * 8)) r.prio 0xFFFFFFFF false]) ∧
        ∀ l' ∈ s'.launches, l'.lid = l.lid → ∃ l'' ∈ s.launches, l''.lid = l.lid ∧ l'.next = l''.next + 1) ∧
    (∀ n t c q s0 k s1 f, n.tid ≠ 0 → s.pending.find? (fun m => m.tid == n.tid) = some n → s.team? n.tid = some t → t.tid = n.tid →
      s.ctx? n.ctx = some c → s.turnOf n = true → s.frameFits n = true → s.bestQuad (s.quadsFor n) = some q → s.frameReadable c t = true →
      let rooms := s.rooms.filter fun r => r.tid != n.tid
      State.gateFrame { s with rooms := rooms } c t true = (s0, k) → t.frameMoved k = true →
      State.checkFrame { s0 with rooms := rooms } c { t with moved := 0 } = (s1, some f) →
      ∃ s' t', exec (.teamRestore n.tid) s = .next s' ∧ s'.team? n.tid = some t' ∧ t'.st = .resident ∧ (t'.core, t'.quad) = q ∧
        t'.stopping = false ∧ t'.rp = true ∧ t'.replay = t.seq ∧ t'.groups.length = t.groups.length) ∧
    (∀ tid t, s.team? tid = some t → t.tid = tid → t.rp = true → t.st = .resident → t.stopping = false →
      (∀ x ∈ t.ifr, t.replay ≤ x.seq ∨ x.op = .arrival ∨ x.op = .arrive) →
      ∃ s', exec (.replayEnd tid) s = .next s' ∧ s'.team? tid = some { t with rp := false, frozen := [] } ∧
        (∀ p ∈ s'.panels, ∀ d ∈ p.dup, d.tid ≠ tid) ∧ s'.mem = s.mem)

/-- The sitting table: a switch of its banks takes the shadow bank at once or asks for it, and makes it at the boundary; sittings open
and end at their instants; the gates of channel groups turn (R366-R373, R383). -/
def Obligations.Sittings : Prop :=
  ∀ s : State,
    let fits (cyc : Nat) (b : Bool) : Prop := 1000 ≤ cyc ∧ cyc ≤ 1000000 ∧
      ∀ x ∈ s.sits.bank b, SitEnt.valid x.2 = true → SitEnt.malformed s cyc x.2 = false
    let switched (s' : State) (b : Bool) (cyc at_ : Nat) : Prop :=
      s'.sits.abank = b ∧ s'.sits.want = false ∧ s'.sits.refused = false ∧ s'.sits.begun = true ∧
      s'.sits.boundary = BitVec.ofNat 64 (at_ + 1000 * cyc) ∧ s'.sits.opens = ((s.sits.bank b).filter fun x => SitEnt.valid x.2).map (fun x =>
        (x.1, BitVec.ofNat 64 (at_ + 1000 * SitEnt.start x.2)))
    (∀ v : BitVec 32, v.getLsbD 31 = true → s.sits.want = false →
      (s.sits.begun = false → fits (v.toNat % 2 ^ 20) (!s.sits.abank) →
        ∃ s', exec (.stctlSwitch v) s = .next s' ∧ switched s' (!s.sits.abank) (v.toNat % 2 ^ 20) s.time.toNat) ∧
      (s.sits.begun = true → ∃ s', exec (.stctlSwitch v) s = .next s' ∧ s'.sits.want = true ∧ s'.sits.abank = s.sits.abank ∧
        s'.sits.cycle (!s.sits.abank) = v.toNat % 2 ^ 20 ∧ s'.teams = s.teams ∧ s'.mem = s.mem)) ∧
    (s.sits.want = true → s.sits.begun = true → s.sits.boundary.toNat ≤ s.time.toNat →
      (fits (s.sits.cycle (!s.sits.abank)) (!s.sits.abank) →
        ∃ s', exec .bankSwitch s = .next s' ∧ switched s' (!s.sits.abank) (s.sits.cycle (!s.sits.abank)) s.sits.boundary.toNat) ∧
      (∀ cyc, cyc = s.sits.cycle (!s.sits.abank) → cyc < 1000 ∨ 1000000 < cyc → ∃ s', exec .bankSwitch s = .next s' ∧
        s'.sits.abank = s.sits.abank ∧ s'.sits.want = false ∧ s'.sits.refused = true ∧ s'.sits.opens = s.sits.opens)) ∧
    (∀ k n, s.dueInstant = some n → s.fw.sleep.power = .awake → s.sits.opens.filter (fun o => o.2.toNat == n) = [(k, BitVec.ofNat 64 n)] →
      (∀ y ∈ s.sits.now, y.due.toNat ≠ n) →
      let x := s.sits.opening k n
      ∃ s', exec (.sittingOpening k) s = .next s' ∧ s'.sits.now = s.sits.now ++ [x] ∧
        s'.sits.opens = s.sits.opens.map (fun o => if o.2.toNat = n then (o.1, o.2 + BitVec.ofNat 64 s.sits.cycleNs) else o) ∧
        (x.kind = 3 → ∀ t ∈ s'.teams, t.st = .resident → s'.ruled t.core t.ctx = false → t.tid ≠ 0 → t.asked = true)) ∧
    (∀ k n x, s.dueInstant = some n → (∀ o ∈ s.sits.opens, o.2.toNat ≠ n) → s.sits.now.filter (fun y => y.due.toNat == n) = [x] → x.idx = k →
      let rest := s.sits.now.filter fun y => y.due.toNat != n
      let s1 : State := { s with sits := { s.sits with now := rest } }
      (x.extended = none →
        (s1.overrun x = [] → ∃ s', exec (.sittingEnd k) s = .next s' ∧ s'.sits.now = rest) ∧
        (s1.overrun x ≠ [] → x.policy = 1 → ∃ s' y, exec (.sittingEnd k) s = .next s' ∧ s'.sits.now = rest ++ [y] ∧ y.idx = k ∧
          y.ctx = x.ctx ∧ y.extended = some (x.stop + BitVec.ofNat 64 (1000 * x.grace)) ∧ ∀ j ∈ y.cores, j ∈ x.cores)) ∧
      (x.extended ≠ none → ∃ s', exec (.graceExpiry k) s = .next s' ∧ s'.sits.now = rest ∧
        ∀ t ∈ s'.teams, t.st = .resident → t.tid ≠ 0 → s'.ruled t.core t.ctx = false → t.asked = true)) ∧
    (s.windowEnd.toNat ≤ s.time.toNat → (s.ctxs.map (·.id)).Nodup →
      (s.parts.flatMap fun p => (List.range p.size).map (p.first + ·)).Nodup → ∃ s', exec .gateWindowEnd s = .next s' ∧
        s'.windowEnd = s.windowEnd + 50000 ∧
        ∀ p ∈ s.parts, ∀ j, j < p.size → ∀ c ∈ s.ctxs, c.usable = true → c.part = p.first → c.crit = false →
          let g := (s.gate (p.first + j) c.id).g
          let g' := (s'.gate (p.first + j) c.id).g
          (g' = max 1 (g / 2) ∨ g' = min 16 (g + 1)) ∧
          ((∀ x ∈ s.ctxs, x.crit = true → x.part = p.first → (s.gate (p.first + j) x.id).reads = 0) → g' = min 16 (g + 1))) ∧
    (s.admitEnd.toNat ≤ s.time.toNat → exec .admissionInterval s = .next (State.runPolls { s with
      gates := s.gates.map fun g => { g with used := 0 }
      admitEnd := s.admitEnd + BitVec.ofNat 64 (1000 * ((s.time.toNat - s.admitEnd.toNat) / 1000 + 1)) }))

/-- Health: an armed context that consumed poison goes back to its checkpoint, another loses the launch; a millisecond counts wear
and detector events, a second ages the cores, whose states move only forward; a thermal event lowers clocks; scrub tests take a
Quarantined panel back after three passes; a debug freeze overwrites the keys (R18, R426, R459, R463, R465, R469, R475, R476,
R478). How a rollback that cannot go on ends, and that a context has nothing to go back to before its first checkpoint, are the
model's readings (log 42). -/
def Obligations.Health : Prop :=
  ∀ s : State,
    (∀ (ctx : BitVec 32) c p, s.ctx? ctx = some c → c.id = ctx → (∃ t ∈ s.teams, t.ctx = ctx ∧ t.tid ∈ s.consumptions) →
      s.part? c.part = some p → p.first = c.part → s.late = [] → (∀ y ∈ s.sits.now, ¬(y.part = c.part ∧ y.kind = 0)) →
      (c.armed = true → c.ckDone = true → c.rolled = false → (∀ r ∈ p.log, r.ctx = ctx → r.bad = false) → (∀ t ∈ c.ckTeams, t.ctx = ctx) → (∀ l ∈ c.ckLaunches, l.ctx = ctx) →
        ((p.log.filter fun r => r.ctx == ctx).map (·.idx)).Nodup → Memory.wf s.mem = true →
        ∃ s' c', exec (.rollback ctx.toNat) s = .next s' ∧ s'.ctx? ctx = some c' ∧ c'.rolled = true ∧ c'.ringRead = c.ckRead ∧
          (∀ r ∈ p.log, r.ctx = ctx → Memory.readN s'.mem (64 * r.idx) 64 = r.bytes % 2 ^ 512) ∧
          (∀ a, (∀ r ∈ p.log, r.ctx = ctx → a / 64 ≠ r.idx) → Memory.read s'.mem a = Memory.read s.mem a) ∧
          (s'.teams.filter fun t => t.ctx == ctx).map (fun t => (t.tid, t.groups.length, t.st)) = c.ckTeams.map (fun t =>
            (t.tid, t.groups.length, if t.st = .evicted then .saved else t.st)) ∧
          (s'.launches.filter fun l => l.ctx == ctx).map (·.lid) = c.ckLaunches.map (·.lid)) ∧
      (c.armed = false ∨ c.ckDone = false ∨ c.rolled = true → (s.launches.map (·.lid)).Nodup → ∃ s', exec (.rollback ctx.toNat) s = .next s' ∧ s'.mem = s.mem ∧
        ∀ t ∈ s.teams, t.ctx = ctx → t.tid ∈ s.consumptions → ∀ l ∈ s'.launches, l.lid = t.lid → l.abandoned = true)) ∧
    (s.msNext.toNat ≤ s.time.toNat → ∃ s', exec .millisecond s = .next s' ∧ s'.msNext = s.msNext + 1000000 ∧ s'.teams = s.teams ∧
      (∃ x ∈ s'.fw.events, x.code = 1 ∧ x.arg = 0) ∧
      ∀ core, core < 48 →
        let x := s.lifeOf core
        let y := s'.lifeOf core
        (x.st = .retired → y = x) ∧ x.wacc ≤ y.wacc ∧ y.st = x.st ∧ ((∃ z ∈ s.life, z.core = core) → x.st ≠ .retired →
          (64 < y.slevt → min 55 (x.volt + x.vstep) < 55 → y.vstep = x.vstep + 1) ∧
          (y.slevt ≤ 8 → y.quiet = x.quiet + 1 ∨ (999 ≤ x.quiet ∧ y.quiet = 0)))) ∧
    (s.secNext.toNat ≤ s.time.toNat → ∃ s', exec .second s = .next s' ∧ s'.secNext = s.secNext + 1000000000 ∧ s'.opSecs = s.opSecs + 1 ∧
      (∃ x ∈ s'.fw.events, x.code = 2 ∧ x.arg = 0) ∧ s'.mem = s.mem ∧ (s'.opSecs % 3600 = 0 → s'.lifeStore = s'.life) ∧
      ∀ core, core < 48 → (∃ z ∈ s.life, z.core = core) →
        let x := s.lifeOf core
        let y := s'.lifeOf core
        let rank (w : WearSt) : Nat := match w with | .inService => 0 | .derated => 1 | .drained => 2 | .retired => 3
        rank x.st ≤ rank y.st ∧ (x.st = .retired → y = x) ∧ (x.st ≠ .retired → y.opsec = x.opsec + 1 ∧
          (10000 ≤ y.use → y.st = .retired) ∧ (9500 ≤ y.use → 2 ≤ rank y.st) ∧ (8500 ≤ y.use → 1 ≤ rank y.st) ∧
          (y.use < 8500 → y.st = x.st))) ∧
    (∀ arg, arg < 48 ∨ arg = 255 → ∃ s', exec (.thermal arg) s = .next s' ∧ (∃ x ∈ s'.fw.events, x.code = 11 ∧ x.arg = arg) ∧
      s'.life.map (·.core) = s.life.map (·.core) ∧ (∀ core, (s'.lifeOf core).mhz ≤ (s.lifeOf core).mhz) ∧
      (∀ core, (∃ z ∈ s.life, z.core = core) → arg = 255 ∨ core = arg → 800 < (s.lifeOf core).clock →
        800 ≤ (s'.lifeOf core).clock ∧ (s'.lifeOf core).clock < (s.lifeOf core).clock) ∧
      (∀ core, arg ≠ 255 → core ≠ arg → s'.lifeOf core = s.lifeOf core) ∧ s'.teams = s.teams ∧ s'.mem = s.mem) ∧
    (∀ panel p t, s.phealth.find? (·.num == panel) = some p → p.st = .quarantined → p.scrub = some t → t.toNat ≤ s.time.toNat →
      (2 ≤ p.passrun → ∃ s', exec (.scrubCompletion panel true) s = .next s' ∧
        s'.healthOf panel = { p with st := .inService, passrun := 3, scrub := none }) ∧
      (p.passrun < 2 → ∃ s', exec (.scrubCompletion panel true) s = .next s' ∧
        s'.healthOf panel = { p with passrun := p.passrun + 1, scrub := some (s.time + 200000000) }) ∧
      ∃ s', exec (.scrubCompletion panel false) s = .next s' ∧
        s'.healthOf panel = { p with passrun := 0, scrub := some (s.time + 200000000) }) ∧
    (∀ panel sector x p y, panel < 12 → sector < 15 * 2 ^ 24 → s.diaOf panel (panel * 2 ^ 30 + sector) = none →
      s.sector? (panel * 2 ^ 30 + sector) = some x → s.probeSector (panel * 2 ^ 30 + sector) x.dia 0 = (.corrected p, some y) →
      s.sectors.Pairwise (fun a b => a.idx < b.idx) →
      ∃ s', exec (.memoryScrub panel sector) s = .next s' ∧ s'.sector? (panel * 2 ^ 30 + sector) = some y ∧ s'.mem = s.mem ∧
        (∀ k, k ≠ panel * 2 ^ 30 + sector → s'.sector? k = s.sector? k) ∧ ∀ f ∈ s'.fns, f.num = 0 → 0 < f.ce) ∧
    (s.fw.debug = true → ∃ s', exec .debugFreeze s = .next s' ∧ s'.keys = [] ∧ s'.fw.sleep.power = .frozen ∧ s'.mem = s.mem ∧
      s'.teams = s.teams)

/-! ## The studio controller -/

/-- The controller's stage-B and key instructions: RNGWR writes a page entry that R251 allows and returns the old one; RNGINV drops
range registers, once nothing that they let through is under way, or revokes pages; DIRTYHV reads and clears DIRTY; KSEL fills, empties, tells of key slots and keeps the
declassification lists; DECLS lowers a team's mark in a declassifying segment (R249-R252, R439, R440, R455, R456). -/
def Obligations.PagesAndKeys : Prop :=
  ∀ s : State,
    let controller (c : Cur) : Prop := c.tid = 0
    let told (c : Cur) (l : Nat) (pd : BitVec 3) (p : Bool) (u : State) : State :=
      u.inGroup c fun g => g.updThread l fun t => t.setPred pd.toNat p
    let given (c : Cur) (l : Nat) (d : Reg) (w v : Nat) (u : State) : State := u.inGroup c fun g => g.put g l d w v
    let page (u : State) (a : Nat) : Prop := a < 2 ^ 48 ∧ a % 65536 = 0 ∧ (u.part? (a / 2 ^ 44)).isSome = true
    let owned (u : State) (k : Nat) : Bool := (decide (k < 12) && (u.part? k).isSome) || (decide (16 ≤ k) && decide (k ≤ 271))
    let ready (u : State) (k : Nat) : Bool := u.keys.any fun x => x.slot == k
    (∀ gd d a (pd : BitVec 3), s.inTurn (.rngwr gd d a pd) gd [(a, 4)] controller
      (fun c _ u l => (u.grp c).clean l a 4 ∧ (u.grp c).room l d 2 ∧ page u ((u.grp c).val l a 4 % 2 ^ 64))
      fun (c : Cur) (_ : Team) (u : State) (l : Nat) =>
        let dia : Nat := (u.grp c).val l a 4 % 2 ^ 64
        let new : Nat := (u.grp c).val l a 4 / 2 ^ 64
        let n : Nat := dia / 2 ^ 44 + dia % 2 ^ 44 / 65536 % ((u.part? (dia / 2 ^ 44)).map (·.size)).getD 0
        let i : Nat := dia % 2 ^ 44 / 65536 / ((u.part? (dia / 2 ^ 44)).map (·.size)).getD 0
        let old := (u.panel n).pte i
        let ok : Bool := decide (i < (u.panel n).ptlen ∧ new % 2 ^ 16 = 0 ∧ bitsOf new 61 49 = 0 ∧ bitsOf new 48 40 ≤ 256 ∧
          (new.testBit 63 = false ∨ (bitsOf new 39 36 = n ∧ bitsOf new 35 16 < 15 * 2 ^ 14)) ∧
          (old.getLsbD 63 = false ∨ new.testBit 63 = false ∨ bitsOf new 39 16 = bitsOf old.toNat 39 16))
        if ok then
          told c l pd true (given c l d 2 old.toNat (u.updPanel n fun p => p.setPte i (BitVec.ofNat 64 new)))
        else told c l pd false u) ∧
    (∀ gd a, s.inTurn (.rnginvA gd a) gd [(a, 1)] controller
      (fun c _ u l => (u.grp c).clean l a 1 ∧ u.loose (·.ctx.toNat == (u.grp c).val l a 1) (·.ctx.toNat == (u.grp c).val l a 1)
        (fun t _ => t.ctx.toNat == (u.grp c).val l a 1) = false)
      fun c _ u l => { u with ctxs := u.ctxs.map fun x =>
        if x.valid && x.id.toNat == (u.grp c).val l a 1 then { x with rr := [] } else x }) ∧
    (∀ c t g e gd l a (disc : BitVec 1) (n1 : BitVec 12), s.issues c t g e → c.tid = 0 → actLanes g e gd = [l] → g.clean l a 2 →
      page s (g.val l a 2) →
      let run (d : Nat) : Prop := ∃ i, i ≤ n1.toNat ∧ d = g.val l a 2 + i * 65536 ∧ d / 2 ^ 44 = g.val l a 2 / 2 ^ 44
      ∃ s', exec (.rnginvB gd a disc n1) s = .next s' ∧ s'.moves c e [l] (fun _ => e.next) ∧
        (∀ d, run d → s'.pte d = s.pte d &&& ~~~(1#64 <<< 63)) ∧
        (∀ d, (∀ r, run r → s.home r ≠ s.home d) → s'.pte d = s.pte d) ∧
        (∀ d, run d → pteValid (s.pte d) = true → ∀ x ∈ s'.dirty, x.idx / 1024 ≠ bitsOf (s.pte d).toNat 39 16) ∧
        (∀ d, run d → pteValid (s.pte d) = true → ∀ x ∈ s'.l1, x.dia / 1024 = d / 65536 →
          ∀ p, s.part? (d / 2 ^ 44) = some p → x.core < 4 * p.first ∨ 4 * (p.first + p.size) ≤ x.core) ∧
        (disc = 0 → s'.mem = s.mem ∧ s'.sectors = s.sectors)) ∧
    (∀ c t g e gd l d a (n1 : BitVec 5), s.issues c t g e → c.tid = 0 → actLanes g e gd = [l] → g.clean l a 2 → g.room l d 1 →
      page s (g.val l a 2) →
      let at_ (i : Nat) : Nat := g.val l a 2 + i * 65536
      let among (i : Nat) : Bool := decide (i ≤ n1.toNat) && at_ i / 2 ^ 44 == g.val l a 2 / 2 ^ 44
      ∃ s', exec (.dirtyhv gd d a n1) s = .next s' ∧ s'.moves c e [l] (fun _ => e.next) ∧
        (∀ i, among i = true → pteValid (s.pte (at_ i)) = true → s'.pte (at_ i) = s.pte (at_ i) &&& ~~~(1#64 <<< 62)) ∧
        (∀ x, (∀ i, among i = true → s.home (at_ i) ≠ s.home x) → s'.pte x = s.pte x) ∧
        (s'.grp c).store = (g.put g l d 1 (((List.range 32).map fun i =>
          if among i && pteValid (s.pte (at_ i)) && (s.pte (at_ i)).getLsbD 62 then 2 ^ i else 0).sum)).store ∧
        s'.mem = s.mem ∧ s'.l1 = s.l1) ∧
    (∀ gd (k : BitVec 9) (pd : BitVec 3), s.inTurn (.kselGen gd k pd) gd [] controller (fun _ _ _ _ => True)
      fun c _ u l =>
        let ok := owned u k.toNat && !ready u k.toNat
        let filled : State := { u with
          keys := u.keys ++ [⟨k.toNat, u.nextKey, Config.keyData u.nextKey, Config.keyInteg u.nextKey⟩], nextKey := u.nextKey + 1 }
        told c l pd ok (if !ok then u else if k.toNat < 12 then filled.rekey k.toNat u.nextKey else filled)) ∧
    (∀ gd (k : BitVec 9) (pd : BitVec 3), s.inTurn (.kselZero gd k pd) gd [] controller
      (fun _ _ u _ => owned u k.toNat = true → ∀ y, u.keyOf k.toNat = some y →
        u.loose (·.key == y) (·.key == y) (fun _ p => p.key == some y) = false)
      fun c _ u l =>
        let ok := owned u k.toNat && ready u k.toNat
        told c l pd ok (if ok then { u with keys := u.keys.filter fun x => x.slot != k.toNat } else u)) ∧
    (∀ gd d (k : BitVec 9), s.inTurn (.kselStat gd d k) gd [] controller (fun c _ u l => (u.grp c).room l d 2)
      fun c _ u l => given c l d 2 (ready u k.toNat).toNat u) ∧
    (∀ gd a (k : BitVec 9) (pd : BitVec 3),
      let bytes (c : Cur) (u : State) (l : Nat) (r : State × Nat) : Prop := u.ctlRead ((u.grp c).val l a 2) 48 = .ok r
      let act (f : List (BitVec 384) → BitVec 384 → Option (List (BitVec 384))) (c : Cur) (u : State) (l : Nat) : State :=
        match (if k.toNat < 12 then u.part? k.toNat else none) with
        | none => told c l pd false u
        | some p =>
          let r := match u.ctlRead ((u.grp c).val l a 2) 48 with
            | .ok r => r
            | .error _ => (u, 0)
          match f p.decls (BitVec.ofNat 384 r.2) with
          | some xs => told c l pd true (r.1.updPart k.toNat fun q => { q with decls := xs })
          | none => told c l pd false r.1
      let can (c : Cur) (u : State) (l : Nat) : Prop :=
        (u.grp c).clean l a 2 ∧ (k.toNat < 12 → (u.part? k.toNat).isSome = true →
          u.ctlOrdered c l ((u.grp c).val l a 2) 48 = true ∧ ∃ r, bytes c u l r)
      (∀ p ∈ s.parts, ∀ q ∈ s.parts, p.first = q.first → p = q) →
      s.inTurn (.kselDcl gd a k pd) gd [(a, 2)] controller (fun c _ u l => can c u l)
        (fun c _ u l => act (fun xs h => if h ∉ xs ∧ xs.length < 64 then some (xs ++ [h]) else none) c u l) ∧
      s.inTurn (.kselUndcl gd a k pd) gd [(a, 2)] controller (fun c _ u l => can c u l)
        (fun c _ u l => act (fun xs h => if h ∈ xs then some (xs.erase h) else none) c u l)) ∧
    (∀ gd a, s.inTurn (.decls gd a) gd [(a, 1)] (fun c => c.tid ≠ 0)
      (fun c _ u l => (u.grp c).clean l a 1 ∧ ∃ t e x, u.issuing.map (fun q => q.2.2.2) = some e ∧ u.team? c.tid = some t ∧
        u.segmentAt t e.pc = some x ∧ x.declass = true)
      fun c _ u l => u.updTeam c.tid fun t => { t with cls := clsMeet t.cls (BitVec.ofNat 8 ((u.grp c).val l a 1)) })

/-- The controller's instructions on contexts, in-flight records and fault records, and HALT: CTXSV ends where every save is made,
CTXLD checks the frames and ends the hold, IFRRD reads a dword, FRQPOP takes the head record, FRQACK gives the verdict, HALT ends
the thread's task, after which the controller takes its next event (R243-R245, R333, R354-R359, R502). That CTXLD discards a team
whose frame it refuses, and sets the launch LOST, is the model's reading (log 39). -/
def Obligations.Controller : Prop :=
  ∀ s : State,
    let told (c : Cur) (l : Nat) (pd : BitVec 3) (p : Bool) (u : State) : State :=
      u.inGroup c fun g => g.updThread l fun t => t.setPred pd.toNat p
    let named (u : State) (id : BitVec 32) : Option Ctx := u.ctxs.find? fun k => k.valid && k.id == id
    (∀ c t g e gd l a (hold : BitVec 1) (pd : BitVec 3), s.issues c t g e → c.tid = 0 → actLanes g e gd = [l] → g.clean l a 1 →
      (named s (BitVec.ofNat 32 (g.val l a 1)) = none →
        ∃ s', exec (.ctxsv gd a hold pd) s = .next s' ∧ s'.moves c e [l] (fun _ => e.next) ∧ (told c l pd false s).settles s' c) ∧
      (∀ x, named s (BitVec.ofNat 32 (g.val l a 1)) = some x → (∀ u ∈ s.teams, u.ctx = x.id → u.st ≠ .resident) →
        ∃ s', exec (.ctxsv gd a hold pd) s = .next s' ∧ s'.moves c e [l] (fun _ => e.next) ∧
          (hold = 0 → (told c l pd true s).settles s' c) ∧
          (hold = 1 → e.blocked.getLsbD l = false → (named s' x.id).map (·.held) = some true ∧ (s'.grp c).store = ((told c l pd true s).grp c).store ∧
            (x.usable = true → ∀ u ∈ s'.teams, u.ctx = x.id → u.tid ≠ 0 → u.st ≠ .ended → u.holdFlag = true))) ∧
      (∀ x, named s (BitVec.ofNat 32 (g.val l a 1)) = some x → (∃ u ∈ s.teams, u.ctx = x.id ∧ u.st = .resident) → (∀ u ∈ s.teams, u.tid ≠ 0) →
        e.blocked = 0 →
        ∃ s', exec (.ctxsv gd a hold pd) s = .next s' ∧ (∃ y ∈ (s'.grp c).entries, y.pc = e.pc ∧ y.mask.getLsbD l = true) ∧
          ∀ u ∈ s'.teams, u.ctx = x.id → u.st = .resident → u.asked = true)) ∧
    (∀ c t g e gd l a (pd : BitVec 3), s.issues c t g e → c.tid = 0 → actLanes g e gd = [l] → g.clean l a 1 →
      (named s (BitVec.ofNat 32 (g.val l a 1)) = none →
        ∃ s', exec (.ctxld gd a pd) s = .next s' ∧ s'.moves c e [l] (fun _ => e.next) ∧ (told c l pd false s).settles s' c) ∧
      (∀ x s0 s1 ok, named s (BitVec.ofNat 32 (g.val l a 1)) = some x → (∀ u ∈ s.framed x.id, s.frameReadable x u = true) →
        s.gateFrames x = (s0, true) →
        State.checkFrames { s0 with teams := s0.teams.map fun t => if t.ctx = x.id then { t with moved := 0 } else t } x = (s1, ok) →
        ∃ s', exec (.ctxld gd a pd) s = .next s' ∧ s'.moves c e [l] (fun _ => e.next) ∧
          (told c l pd ok (if x.held then s1.unhold x else s1)).settles s' c ∧
          (x.held = true → (named s' x.id).map (·.held) = some false))) ∧
    (∀ gd d a (dw : BitVec 3) (k : BitVec 9), s.inTurn (.ifrrd gd d a dw k) gd [(a, 4)] (fun c => c.tid = 0)
      (fun c _ u l => (u.grp c).clean l a 4 ∧ (u.grp c).room l d 2)
      fun c _ u l => u.inGroup c fun g =>
        g.put g l d 2 (match (u.named (g.val l a 4)).bind fun t => (t.ifr.find? fun x => x.idx == k.toNat).map fun x => t.ifrDword x dw.toNat with
          | some v => v
          | none => 0)) ∧
    (∀ c t g e gd l d (panel : BitVec 4) (pd : BitVec 3), s.issues c t g e → c.tid = 0 → actLanes g e gd = [l] → g.room l d 8 →
      (((s.part? panel.toNat).map (·.queue)).getD [] = [] →
        ∃ s', exec (.frqpop gd d panel pd) s = .next s' ∧ s'.moves c e [l] (fun _ => e.next) ∧ (told c l pd false s).settles s' c) ∧
      (∀ p r rest, s.part? panel.toNat = some p → p.queue = r :: rest →
        let taken := (told c l pd true (s.inGroup c fun h => h.put h l d 8
          (r.va.toNat + 2 ^ 64 * r.dia + 2 ^ 128 * (r.ctx.toNat * 2 ^ 32 + r.panel * 2 ^ 24 + r.merge * 2 ^ 16 + r.kind) +
            2 ^ 192 * r.time.toNat))).updPart panel.toNat fun q => { q with queue := rest }
        ∃ s', exec (.frqpop gd d panel pd) s = .next s' ∧ s'.moves c e [l] (fun _ => e.next) ∧
          ((∀ q ∈ s.panels, p.first ≤ q.num → q.num < p.first + p.size → ∀ m ∈ q.merges, m.posted = true) → taken.settles s' c) ∧
          (∀ n m, s.panels.filter (fun q => decide (p.first ≤ q.num) && decide (q.num < p.first + p.size) && q.merges.any fun x => !x.posted) =
              [n] → n.merges.filter (fun x => !x.posted) = [m] → (taken.post n.num m).settles s' c))) ∧
    (∀ c t g e gd l a (refuse : BitVec 1) (pd : BitVec 3), s.issues c t g e → c.tid = 0 → actLanes g e gd = [l] → g.clean l a 2 →
      ∀ n i, g.val l a 2 < 2 ^ 48 → s.home (g.val l a 2) = some (n, i) →
      ((∀ m ∈ (s.panel n).merges, m.page = g.val l a 2 / 65536 → m.posted = false) →
        ∃ s', exec (.frqack gd a refuse pd) s = .next s' ∧ s'.moves c e [l] (fun _ => e.next) ∧ (told c l pd false s).settles s' c) ∧
      (∀ m, (s.panel n).merges.find? (fun m => m.page == g.val l a 2 / 65536 && m.posted) = some m →
        (refuse = 1 → ∃ s', exec (.frqack gd a refuse pd) s = .next s' ∧ s'.moves c e [l] (fun _ => e.next) ∧
          (told c l pd true (s.refuseMerge n m.idx)).settles s' c) ∧
        (refuse = 0 → pteValid (s.pte (m.page * 65536)) = true →
          ∃ s', exec (.frqack gd a refuse pd) s = .next s' ∧ s'.moves c e [l] (fun _ => e.next) ∧
            (told c l pd true (s.releaseMerge n m.idx).wakeEvicted).settles s' c) ∧
        (refuse = 0 → pteValid (s.pte (m.page * 65536)) = false →
          ∃ s', exec (.frqack gd a refuse pd) s = .next s' ∧ s'.moves c e [l] (fun _ => e.next) ∧
            (told c l pd true (s.emit n m)).settles s' c))) ∧
    (∀ c t g e gd, s.issues c t g e → c.tid = 0 → (∀ l ∈ actLanes g e gd, t.performed c.grp l = true) →
      ∃ (s' s1 : State), exec (.halt gd) s = .next s' ∧ s' = s1.dispatch ∧
        (∀ l ∈ actLanes g e gd, ((s1.grp c).thread l).live = false ∧ ∀ x ∈ (s1.grp c).entries, x.mask.getLsbD l = false) ∧
        s1.mem = s.mem ∧ s1.teams = s.teams)

/-! ## The display -/

/-- Canvas timings, layer entries, publications, proofs and their states, scan-out, the warp stage and its latch, the state word and
the vehicle attitude (R415, R417-R421, R423, R424, R427, R428, R431, R433-R435, R438, R497). That an event before its instant leaves
the state (log 8), that two entries of equal TIME leave the attitude to entry 0 (log 46), and that an image's state is tested line by
line (log 89) are the model's choices. -/
def Obligations.Display : Prop :=
  ∀ s : State,
    (∀ n c, s.canvas? n = some c → let t := Timing.ofRegs c.regs
      (exec (.canvasApply n) s = .next (s.updCanvas n fun x => { x with refused := false, next := some t }) ∨
        exec (.canvasApply n) s = .next (s.updCanvas n fun x => { x with refused := true })) ∧
      ((∀ x ∈ s.disp.canvases, x.num ≠ n → x.tim = none ∧ x.next = none) → regBits c.regs 0 58 32 = 0 → regBits c.regs 0 61 59 ≠ 7 →
        t.tline ≠ 0 → (t.vact + 2) * t.tline ≤ t.period → s.time.toNat + ((c.tim.map (·.period)).getD 1000000) ≤ t.fs0.toNat →
        t.hact + 1 ≤ 4 * t.tline →
        exec (.canvasApply n) s = .next (s.updCanvas n fun x => { x with refused := false, next := some t })) ∧
      (t.tline = 0 ∨ t.period < (t.vact + 2) * t.tline ∨ t.fs0.toNat < s.time.toNat + ((c.tim.map (·.period)).getD 1000000) ∨
          (t.en = true ∧ 4 * t.tline < t.hact + 1 ∧ ∀ x ∈ s.disp.canvases, ∀ u, x.tim = some u ∨ x.next = some u → u.tline ≠ 0) ∨
          regBits c.regs 0 58 32 ≠ 0 →
        exec (.canvasApply n) s = .next (s.updCanvas n fun x => { x with refused := true }))) ∧
    (∀ n c t f, s.canvas? n = some c → (c.tim = some t ∧ c.next = none ∧ f = c.fcount + 1) ∨ (c.tim = none ∧ c.next = some t ∧ f = 0) →
      (∀ x, s.nextLatch = some x → t.fs f < x.2) →
      (s.time.toNat < t.fs f → exec (.frameStart n) s = .next s) ∧
      (t.fs f ≤ s.time.toNat → c.linesDue (t.fs f) = false → ∃ s', exec (.frameStart n) s = .next s' ∧
        s'.canvas? n = some { c with
          tim := some t, next := none, fcount := f, fscur := BitVec.ofNat 64 (t.fs f), line := 0
          blank := (s.disp.warp.latchOf n (BitVec.ofNat 64 (t.fs f))).any (·.blank) } ∧
        (∀ m, m ≠ n → s'.canvas? m = s.canvas? m) ∧ (∀ m k, m ≠ n → s'.layer? m k = s.layer? m k) ∧ s'.mem = s.mem ∧ s'.teams = s.teams)) ∧
    (∀ n k dw v, dw < 8 → exec (.layerEntryWrite n k dw v) s = .next (s.updLayer n k fun l =>
      { l with regs := l.regs.set dw v, changed := some s.time })) ∧
    (∀ n k c l t, s.canvas? n = some c → s.layer? n k = some l → c.tim = some t → c.next = none → l.changed = none →
      l.proofNext ≤ c.fcount + 1 →
      let f := l.proofNext
      let e := l.ent f
      ((s.time.toNat : Int) < LEnt.proofAt t e f → exec (.proofInstant n k) s = .next s) ∧
      (LEnt.proofAt t e f ≤ (s.time.toNat : Int) → ∃ s' l', exec (.proofInstant n k) s = .next s' ∧ s'.layer? n k = some l' ∧
        l'.proofNext = f + 1 ∧
        (t.en = true → LEnt.valid t e = true → LEnt.safety e = true → l.arbFor ≠ some f → ∀ s1 a pa s2 b pb,
          State.slotTable (s.updLayer n k fun _ => { l with proofNext := f + 1 }) { l with proofNext := f + 1 } 0 f (LEnt.tiles e) = (s1, a, pa) →
          s1.slotTable { l with proofNext := f + 1 } 1 f (LEnt.tiles e) = (s2, b, pb) →
          let broken : Prop := ∃ p q, l.pub? 0 f = some p ∧ l.pub? 1 f = some q ∧
            (p.panel / 6 = q.panel / 6 ∨ p.order = q.order ∨
              max p.atime.toNat q.atime.toNat < min p.atime.toNat q.atime.toNat + 3000000)
          ∃ r, (broken → r = 3) ∧ (¬broken → pa = true ∨ pb = true → r = 4) ∧
            (¬broken → pa = false → pb = false → (a = none ∨ b = none → r = 2) ∧
              ∀ x y, a = some x → b = some y → r = if x = y then 0 else 1) ∧
            l'.result = r ∧ l'.frame = BitVec.ofNat 32 f ∧ l'.fails = (if r = 0 then l.fails else min (l.fails + 1) 65535) ∧
            (l.stencil = false → l'.stencil = decide (r ≠ 0) ∧ (r ≠ 0 → l'.hold = 30 ∧ l'.run = 0) ∧ (f, decide (r = 0)) ∈ l'.decided) ∧
            (l.stencil = true → l'.run = (if r = 0 then min 3 (l.run + 1) else 0) ∧
              let back : Prop := l.hold = 0 ∧ 1 ≤ l.run ∧ r = 0
              (back → l'.stencil = false ∧ (f, true) ∈ l'.decided) ∧
              (¬back → l'.stencil = true ∧ l'.hold = l.hold - 1 ∧ (f, false) ∈ l'.decided)))) ) ∧
    (∀ v, exec (.prfinjWrite v) s = .next { s with disp := { s.disp with
      prfinj := v &&& 0x80FF0FF83F000FFF, injLeft := bitsOf v.toNat 55 48 } }) ∧
    (∀ msg seq word, msg = bytesOf 4 seq ++ bytesOf 4 word ++ bytesOf 4 0 → seq < 2 ^ 32 → word < 2 ^ 32 →
      let whole := msg ++ bytesOf 4 (crc32c msg).toNat
      ((∀ q, s.disp.tell.seq = some q → 1 ≤ ((seq : Int) - q.toNat) % 2 ^ 32 ∧ ((seq : Int) - q.toNat) % 2 ^ 32 < 2 ^ 31) →
        exec (.tellTaleStateWord whole) s = .next { s with disp := { s.disp with
          tell := ⟨some (BitVec.ofNat 32 seq), some (BitVec.ofNat 32 word, s.time)⟩ } }) ∧
      (∀ q, s.disp.tell.seq = some q → ((seq : Int) - q.toNat) % 2 ^ 32 = 0 ∨ 2 ^ 31 ≤ ((seq : Int) - q.toNat) % 2 ^ 32 →
        exec (.tellTaleStateWord whole) s = .next { s with wordRej := min (s.wordRej + 1) 0xFFFFFFFF })) ∧
    (∀ w at_, s.disp.tell.word = some (w, at_) →
      (at_.toNat + 100000000 ≤ s.time.toNat → exec .stateWordExpiry s =
        .next { s with disp := { s.disp with tell := { s.disp.tell with word := none } } }) ∧
      (s.time.toNat < at_.toNat + 100000000 → exec .stateWordExpiry s = .next s)) ∧
    (∀ n c t, s.canvas? n = some c → c.tim = some t → c.next = none → t.en = true → c.line ≤ t.vact → t.lineAt c.fcount c.line ≤ s.time.toNat →
      s.disp.warp.serves n = false →
      let black : BitVec 32 := 0xFF000000
      (s.disp.layers.filter (fun l => l.canvas == n) = [] → exec (.scanOutLine n c.line) s =
        .next (s.updCanvas n fun x => { x with glass := List.replicate (t.hact + 1) black, line := c.line + 1 })) ∧
      (∀ l p, s.disp.layers.filter (fun l => l.canvas == n) = [l] → let e := l.ent c.fcount
        LEnt.valid t e = true → LEnt.safety e = false → c.blank = false → LEnt.y e ≤ c.line → c.line < LEnt.y e + LEnt.h e →
        l.pubs = [p] → p.slot = 0 → (l.entFrom c.fcount).1 ≤ p.frame → p.frame ≤ c.fcount →
        ∃ s' c', exec (.scanOutLine n c.line) s = .next s' ∧ s'.canvas? n = some c' ∧ c'.line = c.line + 1 ∧
          c'.glass.length = t.hact + 1 ∧ (∀ j, j < LEnt.x e ∨ LEnt.x e + LEnt.w e ≤ j → j ≤ t.hact → c'.glass[j]? = some black) ∧
          ∀ j px, (s.readRow p.ctx (p.buf + (c.line - LEnt.y e) * LEnt.pitch e) (LEnt.w e)).2[j]? = some (some px) →
            ∃ g, c'.glass[LEnt.x e + j]? = some g ∧ bitsOf g.toNat 31 24 = 255 ∧
              ∀ q, q < 3 → bitsOf g.toNat (8 * q + 7) (8 * q) =
                (bitsOf px.toNat (8 * q + 7) (8 * q) * bitsOf px.toNat 31 24 + 127) / 255)) ∧
    (∀ dw v, dw ≤ 10 → ∃ w, exec (.warpConfigurationWrite dw v) s =
        .next { s with disp := { s.disp with warp := { s.disp.warp with
          regs := s.disp.warp.regs.set dw w, rewritten := true
          since := if regBits s.disp.warp.cfg 0 63 63 = 1 then s.disp.warp.since else s.time.toNat } } } ∧
      (dw = 0 → w = v &&& 0x87FF0000FFFFFFFF) ∧ (dw = 10 → w = v &&& 0xFFFFFFFF00000000) ∧
      (dw = 2 ∨ dw = 4 ∨ dw = 6 ∨ dw = 8 → w = v &&& 0xFFFFFFFF) ∧ (dw % 2 = 1 → w = v &&& 0x00FFFFFFFFFFFFFF)) ∧
    (∀ fs tl, s.nextLatch = some (fs, tl) → (s.time.toNat < tl → exec .warpLatch s = .next s) ∧
      (tl ≤ s.time.toNat → ∃ s', exec .warpLatch s = .next s' ∧ let w := s.disp.warp
        let w' := s'.disp.warp
        w'.cfg = w.regs ∧ w'.since = tl + 1 ∧ s'.teams = s.teams ∧
        (regBits w.regs 0 63 63 = 0 → w'.latches = w.latches) ∧
        (regBits w.regs 0 63 63 = 1 → w'.latched = true ∧ w'.latches = w.latches ++ [⟨BitVec.ofNat 64 fs, w.regs, w'.mesh, w'.slots, w'.blank⟩] ∧
           w'.rewritten = false ∧ w'.lseq = (if w.rewritten then 1 else w.lseq + 1) ∧
          (∀ k p, k < 2 → w'.slots[k]? = some p →
            (p.stale = true → p.time = 0) ∧
            (p.stale = false → p.time ≠ 0 ∧ p.time.toNat ≤ tl ∧ tl ≤ p.time.toNat + 20000000)) ∧
          (4 ≤ w.slots.length →
            ((∀ k p, k < 2 → w'.slots[k]? = some p → p.stale = false) → w'.stales = w.stales) ∧
            ((∃ k p, k < 2 ∧ w'.slots[k]? = some p ∧ p.stale = true) → w'.stales = min (w.stales + 1) 0xFFFFFFFF))))) ∧
    (∀ msg x c v, s.ctx? x = some c → x = (slotPlace s.disp.warp.cfg 0).1 → v = (slotPlace s.disp.warp.cfg 0).2 →
      msg.length = 16 → let whole := msg ++ bytesOf 4 (crc32c msg).toNat
      (s.time.toNat < msgN msg 0 8 → exec (.attitudeMessage whole) s = .next { s with attRej := min (s.attRej + 1) 0xFFFFFFFF }) ∧
      (∀ s1 a s2 b s3 z, msgN msg 0 8 ≤ s.time.toNat → s.deviceRead x v 8 = (s1, some a) → s1.deviceRead x (v + 32) 8 = (s2, some b) →
        s2.placeFree c (BitVec.ofNat 64 (if b.val < a.val then v + 32 else v)) (fun e => e.w) = (s3, .at z) →
        z.dia % 32 = 0 → z.dia < 2 ^ 48 → z.key ≠ 0 → s3.deviceReady c.id z.dia 32 = true → s3.mends z.dia 0 → Memory.wf s3.mem = true →
        ∃ s', exec (.attitudeMessage whole) s = .next s' ∧ (s'.homeRead z.dia 16 z.key 0).2.val = msgN msg 0 16)) ∧
    (∀ gd d (md : BitVec 1) (slot : BitVec 2) (pd : BitVec 3), s.inTurn (.platch gd d md slot pd) gd [] (fun _ => True)
      (fun c _ u l => (u.grp c).room l d 4)
      fun (c : Cur) (_ : Team) (u : State) (l : Nat) =>
        let w := u.disp.warp
        let put (v : Nat) (p : Bool) (u : State) : State :=
          u.inGroup c fun g => (g.put g l d 4 v).updThread l fun t => t.setPred pd.toNat p
        match (if regBits w.cfg 0 63 63 = 1 ∧ w.latched = true then w.slots[slot.toNat]? else none) with
        | none => put 0 false u
        | some p =>
          put (if md = 0 then ofWords (p.vals.map (·.toNat))
            else p.time.toNat + 2 ^ 64 * (w.lseq % 2 ^ 32) + 2 ^ 96 * (p.stale.toNat + 2 * w.blank.toNat + 4 * (!p.found).toNat)) true
            (if c.tid = 0 then u else u.updTeam c.tid fun t => { t with cls := clsJoin t.cls p.cls })) ∧
    (∀ ctl t g e gd l a (pd : BitVec 3) s1 x, s.issues ctl t g e → ctl.tid ≠ 0 → actLanes g e gd = [l] → g.clean l a 2 →
      g.val l a 2 % 32 = 0 → s.descOnce ctl l (BitVec.ofNat 64 (g.val l a 2)) 32 = .ok (s1, x) → x.poison = false →
      let d : PDesc := BitVec.ofNat 256 x.val
      let told (p : Bool) (u : State) : State := u.inGroup ctl fun h => h.updThread l fun z => z.setPred pd.toNat p
      ∀ c y tm t1, s1.canvas? (PDesc.canvas d) = some c → s1.layer? (PDesc.canvas d) (PDesc.layer d) = some y → c.tim = some tm →
        s1.team? ctl.tid = some t1 →
      let e1 := y.current
      let s2 := s1.putProbe ctl.tid ctl.grp l none
      let goes (f : State) : Prop := ∃ s', exec (.lpub gd a pd) s = .next s' ∧ s'.moves ctl e [l] (fun _ => e.next) ∧ f.settles s' ctl
      (LEnt.valid tm e1 = false ∨ PDesc.malformed d e1 = true ∨ LEnt.publisher e1 (PDesc.slot d) ≠ t1.ctx →
        goes (told false (s2.updLayer (PDesc.canvas d) (PDesc.layer d) fun z => { z with badpub := min (z.badpub + 1) 65535 }))) ∧
      (LEnt.valid tm e1 = true → PDesc.malformed d e1 = false → LEnt.publisher e1 (PDesc.slot d) = t1.ctx →
        clsDominates (LEnt.cls e1) t1.cls = true → t1.performed ctl.grp l = true →
        let f : Int := c.fcount + (PDesc.frame d - BitVec.ofNat 32 c.fcount).toInt
        (tm.en = false ∨ LEnt.proofAt tm e1 f ≤ (s1.time.toNat : Int) ∨ (c.fcount : Int) + 3 < f →
          goes (told false (s2.updLayer (PDesc.canvas d) (PDesc.layer d) fun z => { z with late := min (z.late + 1) 65535 }))) ∧
        (tm.en = true → (s1.time.toNat : Int) < LEnt.proofAt tm e1 f → f ≤ (c.fcount : Int) + 3 →
          goes (told true (s2.updLayer (PDesc.canvas d) (PDesc.layer d) fun z => { z with
            pubs := (z.pubs.filter fun q => !(q.slot == PDesc.slot d && q.frame == f.toNat)) ++
              [⟨PDesc.slot d, f.toNat, t1.ctx, PDesc.buf d, PDesc.sigt d, PDesc.order d, t1.core / 4, s1.launchedAt t1⟩]
            panels := (z.panels.filter fun q => q.1 != PDesc.slot d) ++ [(PDesc.slot d, t1.core / 4)] })))))

/-! ## Host, vehicle network, firmware -/

/-- Camera receivers write frames of the lines they receive and deliver a header; the vehicle network's messages; the staging of
images and boot (R361, R486, R491-R496, R498-R500). The model's choices in it: an event asked for while its condition does not hold
leaves the state (log 8); the order of the staging statuses, and what begin does to the bank (log 48); the boot's choice of banks
(log 49); what a reset and a loss of power keep, device time among it (log 50); that a frame start replaces a frame (log 54). -/
def Obligations.NetworkAndBoot : Prop :=
  ∀ s : State,
    (∀ r c, s.camera? r = some c →
      (∀ dw v, c.en = false → 1 ≤ dw → dw < 4 → exec (.cameraControlWrite r dw v) s =
        .next (s.updCamera r fun _ => { c with regs := c.regs.set dw v })) ∧
      (∀ v : BitVec 64, c.en = false → v.getLsbD 63 = true →
        let x := { c with regs := c.regs.set 0 (v &&& 0xBFFFFFFFFFFFFFFF) }
        let good : Prop := bitsOf v.toNat 55 41 = 0 ∧ regBits x.regs 2 63 48 = 0 ∧ regBits x.regs 3 63 48 = 0 ∧ bitsOf v.toNat 61 58 ≠ 0 ∧
          x.pitch % 256 = 0 ∧ x.width * (if bitsOf v.toNat 57 56 = 0 then 1 else 2) ≤ x.pitch ∧ x.pitch * x.height ≤ x.stride ∧
          x.bdia % 4096 = 0 ∧ x.hdia % 32 = 0 ∧ (s.part? (x.bdia / 2 ^ 44)).isSome = true ∧ (s.part? (x.hdia / 2 ^ 44)).isSome = true ∧
          (s.keyOf (bitsOf v.toNat 40 32)).isSome = true
        0 < c.regs.length →
        (good → exec (.cameraControlWrite r 0 v) s =
          .next (s.updCamera r fun _ => { x with err := false, drops := 0, next := 0, frames := 0, rx := none })) ∧
        (¬good → exec (.cameraControlWrite r 0 v) s =
          .next (s.updCamera r fun _ => { x with regs := c.regs.set 0 (v &&& 0x3FFFFFFFFFFFFFFF), err := true }))) ∧
      (∀ v : BitVec 64, c.en = true → (v.getLsbD 63 = false → exec (.cameraControlWrite r 0 v) s =
          .next (s.updCamera r fun x => { x with regs := x.regs.set 0 (x.regs.getD 0 0 &&& 0x7FFFFFFFFFFFFFFF), rx := none })) ∧
        (∀ dw, dw ≠ 0 ∨ v.getLsbD 63 = true → exec (.cameraControlWrite r dw v) s = .next s)) ∧
      (∀ k, c.en = true → s.keyOf c.key = some k →
        let head := c.hdia + 32 * c.next
        let left (f : CamFrame) : Camera := { c with rx := some f }
        (pteValid (s.pte head) = true → ∃ s', exec (.frameStartPacket r) s = .next s' ∧ s'.mem = s.mem ∧
          s'.camera? r = some (if (s.homeReads k 0 1 head 8).2.val.testBit 63
            then { c with drops := min (c.drops + 1) 0xFFFFFFFF, frames := (c.frames + 1) % 2 ^ 32, rx := none }
            else left ⟨0, false, c.frames, s.time⟩)) ∧
        (∀ f dt bad pix, c.rx = some f → (dt ≠ c.dt → exec (.cameraLinePacket r dt bad pix) s = .next s) ∧
          (dt = c.dt → c.height ≤ f.lines → exec (.cameraLinePacket r dt bad pix) s =
            .next (s.updCamera r fun x => { x with rx := some { f with errf := f.errf || bad } })) ∧
          (dt = c.dt → f.lines < c.height →
            let px := pix.take c.width
            let bytes := match dt with
              | 0 => px.map fun p => p.setWidth 8
              | 1 => px.flatMap fun p => bytesOf 2 (p.toNat % 1024)
              | 2 => px.flatMap fun p => bytesOf 2 (p.toNat % 4096)
              | _ => px.flatMap fun p => bytesOf 2 p.toNat
            let dia := c.bdia + c.stride * c.next + c.pitch * f.lines
            dia % 64 + bytes.length ≤ 64 → bytes ≠ [] → pteValid (s.pte dia) = true → dia < 2 ^ 48 → k ≠ 0 → s.mends dia 0 →
            Memory.wf s.mem = true → ∃ s', exec (.cameraLinePacket r dt bad pix) s = .next s' ∧
              s'.camera? r = some (left { f with lines := f.lines + 1, errf := f.errf || bad }) ∧
              (s'.homeRead dia bytes.length k 0).2.val = ofBytes bytes)) ∧
        (∀ f, c.rx = some f → pteValid (s.pte head) = true → head % 32 = 0 → head < 2 ^ 48 → k ≠ 0 → s.mends head 0 →
          Memory.wf s.mem = true → f.lines < 2 ^ 32 → ∃ s', exec (.frameEndPacket r) s = .next s' ∧
            s'.camera? r = some { c with next := (c.next + 1) % (c.nbuf + 1), frames := (c.frames + 1) % 2 ^ 32, rx := none } ∧
            (s'.homeRead head 32 k 0).2.val = 2 ^ 63 + 2 ^ 62 * f.errf.toNat + (if f.lines < c.height then 2 ^ 61 else 0) + f.fnum % 2 ^ 32 +
              2 ^ 64 * f.tfs.toNat + 2 ^ 128 * s.time.toNat + 2 ^ 224 * f.lines))) ∧
    (∀ port t, s.portUp port = true →
      (s.sits.begun = true ∨ s.fw.timeSet = true → exec (.gptpMessage port t) s = .next (s.raiseEvent 12 port)) ∧
      (s.sits.begun = false → s.fw.timeSet = false → ∃ s', exec (.gptpMessage port t) s = .next s' ∧ s'.time = t ∧ s'.fw.timeSet = true ∧
        s'.teams = s.teams ∧ s'.mem = s.mem)) ∧
    (∀ mctp msg, exec (.spdmMessage mctp msg) s = .next (s.raiseEvent 13 (if mctp then 1 else 0))) ∧
    (∀ port, let dropped : State := { s with ports := s.ports.map fun p =>
        if p.num == port then { p with drops := min (p.drops + 1) 0xFFFFFFFF } else p }
      (s.portUp port = true → exec (.unadmittedFrame port) s = .next dropped ∧
        (∀ msg, stagingForm msg = false → exec (.stagingMessage port msg) s = .next dropped)) ∧
      (s.portUp port = false → exec (.unadmittedFrame port) s = .next s ∧ ∀ msg, exec (.stagingMessage port msg) s = .next s) ∧
      ∀ up, exec (.portLinkChange port up) s = .next { s with ports := s.ports.map fun p => if p.num == port then { p with up := up } else p }) ∧
    (∀ port msg x data, s.portUp port = true → stagingForm msg = true → msgN msg 5 6 < 2 → (msg.drop 16).take (msgN msg 6 8) = data →
      let kind := msgN msg 5 6
      let seq := BitVec.ofNat 32 (msgN msg 12 16)
      (msgN msg 4 5 = 0 → ∃ s', exec (.stagingMessage port msg) s = .next s' ∧ s'.staging? kind = some ⟨kind, [], none, some seq⟩ ∧
        s'.fw.mailbox.status = 0 ∧ s'.fw.nv.image? kind (1 - s.fw.nv.active kind) = none) ∧
      (msgN msg 4 5 = 1 → s.staging? kind = some x → x.seq.map (· + 1) = some seq → data.length ≤ 1024 → msgN msg 8 12 = x.bytes.length →
        ∃ s', exec (.stagingMessage port msg) s = .next s' ∧ s'.staging? kind = some ⟨x.kind, x.bytes ++ data, x.permit, some seq⟩ ∧
          s'.fw.mailbox.status = 0) ∧
      (msgN msg 4 5 ≠ 0 → s.staging? kind = some x → x.seq.map (· + 1) ≠ some seq → ∃ s', exec (.stagingMessage port msg) s = .next s' ∧
        s'.staging? kind = some x ∧ s'.fw.mailbox.status = 1)) ∧
    (∀ kind, kind < 2 →
      (∃ s', exec (.stagingBegin kind) s = .next s' ∧ s'.staging? kind = some ⟨kind, [], none, none⟩ ∧ s'.fw.mailbox.status = 0 ∧
        s'.fw.nv.image? kind (1 - s.fw.nv.active kind) = none ∧ s'.fw.nv.current kind = s.fw.nv.current kind) ∧
      (∀ x, s.staging? kind = some x → let b : Image := x.bytes
        let n := s.fw.nv
        (∀ ofs data, data ≠ [] → data.length ≤ 4096 → ∃ s', exec (.stagingChunk kind ofs data) s = .next s' ∧
          (ofs = b.length → s'.staging? kind = some { x with bytes := b ++ data } ∧ s'.fw.mailbox.status = 0) ∧
          (ofs ≠ b.length → s'.staging? kind = some x ∧ s'.fw.mailbox.status = 1)) ∧
        (∀ data, ∃ s', exec (.stagingPermit kind data) s = .next s' ∧
          (rollbackPermit data kind = true → s'.staging? kind = some { x with permit := some data } ∧ s'.fw.mailbox.status = 0) ∧
          (rollbackPermit data kind = false → s'.staging? kind = some x ∧ s'.fw.mailbox.status = 7)) ∧
        (∃ s', exec (.stagingAbort kind) s = .next s' ∧ s'.staging? kind = none ∧ s'.fw.mailbox.status = 0 ∧ s'.fw.nv = n) ∧
        (∃ s', exec (.stagingEnd kind) s = .next s' ∧ s'.staging? kind = none ∧
          let sized : Prop := 256 ≤ b.length ∧ b.length = 256 + Image.size b ∧ b.length ≤ 2 ^ 24
          let newer : Prop := n.hiver ≤ Image.version b ∨
            ∃ p, x.permit = some p ∧ rollbackPermit p x.kind = true ∧ msgN p 4 8 = Image.version b
          let fits : Prop := ∀ a, n.current x.kind = some a → Image.minors a &&& Image.minors b = Image.minors a
          (sized → Image.correct b x.kind = true → n.svnf ≤ Image.svn b → fits → newer →
            s'.fw.mailbox.status = 0 ∧ s'.fw.nv.image? kind (1 - n.active kind) = some b) ∧
          (¬sized → s'.fw.mailbox.status = 6 ∧ s'.fw.nv = n) ∧
          (sized → Image.correct b x.kind = false → s'.fw.mailbox.status = 2 ∧ s'.fw.nv = n) ∧
          (sized → Image.correct b x.kind = true → Image.svn b < n.svnf → s'.fw.mailbox.status = 3 ∧ s'.fw.nv = n) ∧
          (sized → Image.correct b x.kind = true → n.svnf ≤ Image.svn b → ¬fits → s'.fw.mailbox.status = 4 ∧ s'.fw.nv = n) ∧
          (sized → Image.correct b x.kind = true → n.svnf ≤ Image.svn b → fits → ¬newer → s'.fw.mailbox.status = 5 ∧ s'.fw.nv = n)))) ∧
    (∀ data, exec (.debugPermit data) s = .next (if permitCorrect data [0x53, 0x57, 0x44, 0x50] false = true ∧ msgN data 4 8 = 0 then
      { s with fw := { s.fw with debug := true } } else s)) ∧
    (∀ kind t b, s.fw.healthyBy = some t → kind < 2 → s.fw.nv.image? kind (1 - s.fw.nv.active kind) = some b →
      (s.time.toNat < t.toNat → exec (.bootFallback kind) s = .next s) ∧
      (t.toNat ≤ s.time.toNat → ∃ s', exec (.bootFallback kind) s = .next s' ∧ s'.fw.nv.active kind = 1 - s.fw.nv.active kind ∧
        s'.fw.nv.fallbacks = s.fw.nv.fallbacks + 1 ∧ s'.fw.nv.hiver = s.fw.nv.hiver ∧ s'.ctlImage = ((s'.fw.nv.current 0).map (·.length)).getD 0 ∧
        (∃ e ∈ s'.fw.events, e.code = 0 ∧ e.arg = 0) ∧ s'.mem = s.mem)) ∧
    (let raised (f : Image → Nat) (kind : Nat) : Nat := match s.fw.nv.current kind with
        | some b => if Image.commit b then f b else 0
        | none => 0
      (s.fw.healthyBy = none → exec .firmwareHealthyReport s = .next s) ∧
      (s.fw.healthyBy ≠ none → ∃ s', exec .firmwareHealthyReport s = .next s' ∧ s'.fw.healthyBy = none ∧
        s'.fw.nv.banks = s.fw.nv.banks ∧ s'.fw.nv.active0 = s.fw.nv.active0 ∧ s'.fw.nv.active1 = s.fw.nv.active1 ∧
        s'.fw.nv.hiver = max s.fw.nv.hiver (max (raised Image.version 0) (raised Image.version 1)) ∧
        s'.fw.nv.svnf = max s.fw.nv.svnf (max (raised Image.svn 0) (raised Image.svn 1)) ∧ s'.teams = s.teams ∧ s'.mem = s.mem)) ∧
    (∃ s', exec .deviceReset s = .next s' ∧ s'.time = s.time ∧ s'.teams = [] ∧ s'.ctxs = [] ∧ s'.parts = [] ∧ s'.keys = [] ∧
      s'.fw.sleep.power = .awake ∧ s'.fw.stagings = [] ∧ s'.fw.nv.hiver = s.fw.nv.hiver ∧ s'.fw.nv.svnf = s.fw.nv.svnf ∧
      (∃ e ∈ s'.fw.events, e.code = 0) ∧ (s.dirty = [] → s'.mem = s.mem ∧ s'.sectors = s.sectors) ∧
      (∀ kind, kind < 2 → (∀ b ∈ s.fw.nv.banks, b.pending = false) → s'.fw.nv.current kind = s.fw.nv.current kind) ∧
      s'.ctlImage = ((s'.fw.nv.current 0).map (·.length)).getD 0) ∧
    (∃ s', exec .powerLoss s = .next s' ∧ s'.fw.sleep.power = .off ∧ s'.fw.nv = s.fw.nv ∧ s'.fw.stagings = [] ∧ s'.fw.events = [] ∧
      s'.teams = [] ∧ s'.keys = [] ∧ s'.parts = [])

/-- Partitions are formed and dissolved, engines assigned; a function's registers, its aperture and its reset; deep sleep and waking
(R10, R302, R379, R382, R440, R480-R485, R488-R490, R501). What deep sleep loses (log 51), that an allowed request always succeeds
(log 53) and that a wake before its instant does nothing (log 8) are the model's choices. -/
def Obligations.HostLink : Prop :=
  ∀ s : State,
    (∀ first n (v : BitVec 64), first < 12 → [1, 2, 3, 4, 6, 12][bitsOf v.toNat 62 60]? = some n →
      let run (p : Nat) : Prop := first ≤ p ∧ p < first + n
      (first % n = 0 → first + n ≤ 12 → (∀ p ∈ s.parts, ∀ k, run k → ¬(p.first ≤ k ∧ k < p.first + p.size)) → s.part? first = none →
        s.panelsBusy ((List.range n).map (first + ·)) = false →
        ∃ s' p, exec (.partitionRequest first v) s = .next s' ∧ s'.part? first = some p ∧ p.size = n ∧ p.queue = [] ∧ p.decls = [] ∧ p.log = [] ∧
          p.logcap = bitsOf v.toNat 23 0 ∧ (∀ q ∈ s.parts, q ∈ s'.parts) ∧
          (∀ q ∈ s'.panels, run q.num → q = { Panel.initial q.num with ptlen := bitsOf v.toNat 47 24, scrubAt := q.scrubAt }) ∧
          (∀ q ∈ s.panels, ¬run q.num → q ∈ s'.panels) ∧ (∃ e ∈ s'.fw.events, e.code = 6 ∧ e.arg = first) ∧ s'.mem = s.mem ∧ s'.keys = s.keys ∧
          ∀ r ∈ s'.reqs, r.first = first → r.faults = false) ∧
      (first % n ≠ 0 ∨ 12 < first + n ∨ (∃ p ∈ s.parts, p.first ≤ first ∧ first < p.first + p.size) ∨
          (∃ t ∈ s.teams, t.st = .resident ∧ run (t.core / 4)) →
        exec (.partitionRequest first v) s = .next { s.raiseEvent 6 first with
          reqs := s.reqs.map fun r => if r.first == first then { r with faults := true } else r })) ∧
    (∀ first p, first < 12 → s.part? first = some p → s.panelsBusy ((List.range p.size).map (first + ·)) = false →
      ∃ s', exec (.partitionDissolution first) s = .next s' ∧ s'.part? first = none ∧ (∀ c ∈ s'.ctxs, c.part ≠ first) ∧
        (∀ k ∈ s'.keys, k.slot ≠ first) ∧ (∀ l ∈ s'.launches, l.part ≠ first) ∧
        (∀ q ∈ s'.panels, first ≤ q.num → q.num < first + p.size → q = { Panel.initial q.num with scrubAt := q.scrubAt }) ∧
        ∀ r ∈ s'.reqs, r.first = first → r.dw0 = 0 ∧ r.faults = false) ∧
    (∀ eng (v : BitVec 8), exec (.engineAssignmentWrite eng v) s = .next (if v = 0xFF ∨ (s.part? v.toNat).isSome = true then
      { s with engines := s.engines.map fun e => if e.num = eng ∧ e.cmds = [] then
          { e with part := if (s.part? v.toNat).isSome then some v.toNat else none } else e } else s)) ∧
    (∀ fn, (∃ f ∈ s.fns, f.num = fn ∧ f.ready = true) →
      (∀ (ctx : BitVec 32) c, s.ctx? ctx = some c → c.vf = fn → exec (.rreset fn ctx) s = .next { s with
        ctxs := s.ctxs.map fun x => if x.valid && x.id == ctx then { x with ringReset := true } else x }) ∧
      (∀ ctx : BitVec 32, (∀ c, s.ctx? ctx = some c → c.vf ≠ fn) → exec (.rreset fn ctx) s = .next (s.updFn fn fun f => f.raise 7 ctx)) ∧
      (∀ v : BitVec 64, fn ≠ 0 → exec (.registerWrite fn 0x10 v) s = .next (s.updFn fn fun f => { f with fs := f.fs &&& ~~~(v.setWidth 8) }) ∧
        exec (.registerWrite fn 0x08 v) s = exec (.rreset fn (v.setWidth 32)) s ∧
        ∀ ofs, ofs ≠ 0x08 → ofs ≠ 0x10 → exec (.registerWrite fn ofs v) s = .next s) ∧
      (∀ v : BitVec 64, fn = 0 →
        exec (.registerWrite 0 0x50010 v) s = .next (s.updFn 0 fun f => { f with fs := f.fs &&& ~~~(v.setWidth 8) }) ∧
        (v.getLsbD 31 = true → exec (.registerWrite 0 0x1000 v) s = exec (.stctlSwitch (v.setWidth 32)) s) ∧
        (∀ first, first < 12 → v.getLsbD 63 = true → exec (.registerWrite 0 (0x10000 + 16 * first) v) s = exec (.partitionRequest first v) s) ∧
        (∀ n k dw, n < 6 → k < 16 → dw < 8 →
          exec (.registerWrite 0 (0x21000 + 1024 * n + 64 * k + 8 * dw) v) s = exec (.layerEntryWrite n k dw v) s) ∧
        (∀ n, n < 6 → exec (.registerWrite 0 (0x20000 + 64 * n + 40) v) s = exec (.canvasApply n) s) ∧
        exec (.registerWrite 0 0x30900 v) s = exec (.prfinjWrite v) s ∧
        (∀ dw, dw ≤ 10 → exec (.registerWrite 0 (0x30A00 + 8 * dw) v) s = exec (.warpConfigurationWrite dw v) s) ∧
        (∀ r dw, r < 4 → dw < 8 → exec (.registerWrite 0 (0x70000 + 256 * r + 8 * dw) v) s = exec (.cameraControlWrite r dw v) s) ∧
        exec (.registerWrite 0 0x60008 v) s = .next { s with fw := { s.fw with sleep := { s.fw.sleep with waket := v } } } ∧
        (v.getLsbD 0 = false → exec (.registerWrite 0 0x60000 v) s =
          .next { s with fw := { s.fw with sleep := { s.fw.sleep with wten := v.getLsbD 1 } } }))) ∧
    (∀ fn c ofs n k, 1 ≤ fn → fn ≤ 256 → s.ctxs.find? (fun c => c.usable && c.vf == fn) = some c → 0 < n → ofs % 64 + n ≤ 64 → ofs + n ≤ 2 ^ 36 →
      let dia := c.part * 2 ^ 44 + ofs
      let e := s.pte dia
      (pteValid e = false ∨ pteOwner e ≠ fn ∨ s.keyOf (15 + fn) = none →
        (s.apertureRead fn ofs n).2 = List.replicate n 0xFF ∧
        ∀ data, data.length = n → ∃ s' s'', exec (.apertureRead fn ofs n) s = .next s' ∧ exec (.apertureWrite fn ofs data) s = .next s'' ∧
          s'.mem = s.mem ∧ s''.mem = s.mem ∧ (∀ f ∈ s'.fns, f.num = fn ∨ f.num = 0 → f.fs.getLsbD 6 = true) ∧
          ∀ f ∈ s''.fns, f.num = fn ∨ f.num = 0 → f.fs.getLsbD 6 = true) ∧
      (pteValid e = true → pteOwner e = fn → s.keyOf (15 + fn) = some k →
        (s.apertureRead fn ofs n).2 = bytesOf n (s.homeRead dia n k 0).2.val ∧
        (∃ s', exec (.apertureRead fn ofs n) s = .next s' ∧ s'.mem = s.mem ∧ s'.teams = s.teams) ∧
        ∀ data, data.length = n → dia < 2 ^ 48 → k ≠ 0 → s.mends dia 0 → Memory.wf s.mem = true →
          ∃ s', exec (.apertureWrite fn ofs data) s = .next s' ∧ (s'.homeRead dia n k 0).2.val = ofBytes data ∧ s'.teams = s.teams)) ∧
    (∀ fn, 1 ≤ fn → fn ≤ 256 → (∀ a ∈ s.ctxs, ∀ b ∈ s.ctxs, a.valid = true → b.valid = true → a.id = b.id → a = b) →
      (s.panels.map (·.num)).Nodup → (∀ p ∈ s.panels, p.ptes.Pairwise fun a b => a.1 < b.1) →
      (s.fw.sleep.power = .asleep → exec (.functionLevelReset fn) s =
        .next ((s.raiseEvent 7 fn).updFn fn fun f => { f with ready := false, flrBusy := true })) ∧
      (s.fw.sleep.power ≠ .asleep → ∃ s', exec (.functionLevelReset fn) s = .next s' ∧ (∀ c ∈ s'.ctxs, c.usable = true → c.vf ≠ fn) ∧
        (∀ t ∈ s'.teams, ∀ c ∈ s.ctxs, c.usable = true → c.vf = fn → t.ctx ≠ c.id) ∧
        (∀ l ∈ s'.launches, ∀ c ∈ s.ctxs, c.usable = true → c.vf = fn → l.ctx ≠ c.id) ∧ (∀ k ∈ s'.keys, k.slot ≠ 15 + fn) ∧
        (∀ p ∈ s'.panels, ∀ e ∈ p.ptes, pteOwner e.2 = fn → pteValid e.2 = false) ∧
        ∀ f ∈ s'.fns, f.num = fn → f.flrBusy = false ∧ f.fs = 0)) ∧
    (s.fw.sleep.power = .awake → ∃ s', exec .deepSleep s = .next s' ∧ s'.fw.sleep.power = .entering ∧
      (∀ c ∈ s'.ctxs, c.valid = true → c.held = true) ∧ (∀ t ∈ s'.teams, t.tid ≠ 0 → t.st = .resident → (∃ c ∈ s.ctxs, c.valid = true ∧ t.ctx = c.id) →
        t.asked = true) ∧ ∃ e ∈ s'.fw.events, e.code = 9 ∧ e.arg = 0) ∧
    (s.fw.sleep.power = .entering →
      ((∃ t ∈ s.teams, t.st = .resident) → exec .deepSleep s = .next s) ∧
      ((∀ t ∈ s.teams, t.st ≠ .resident) → s.fw.sleep.early = none → ∃ s', exec .deepSleep s = .next s' ∧ s'.fw.sleep.power = .asleep ∧
        s'.fw.sleep.slpt = s.time ∧ s'.fw.sleep.timed = (if s.fw.sleep.wten then some s.fw.sleep.waket else none) ∧
        s'.keys = s.keys.filter (fun k => decide (k.slot < 12) || (decide (16 ≤ k.slot) && decide (k.slot < 272))) ∧
        s'.mem = s.mem ∧ s'.teams = s.teams ∧ s'.dirty = [] ∧ s'.l1 = [] ∧ s'.code = [])) ∧
    (∀ cause, cause = 1 ∨ (cause = 2 ∧ s.portUp 0 = true) ∨ (cause = 3 ∧ s.portUp 1 = true) →
      let woken (s' : State) (k : Nat) : Prop := s'.fw.sleep.power = .awake ∧ s'.fw.sleep.cause = k ∧ s'.fw.sleep.timed = none ∧
        s'.time = s.time ∧ (∃ e ∈ s'.fw.events, e.code = 10 ∧ e.arg = k) ∧
        ((∀ f ∈ s.fns, f.flrBusy = false) →
          ∀ c ∈ s'.ctxs, c.valid = true → c.id ∉ s.fw.sleep.heldBefore → c.held = false)
      (s.fw.sleep.power = .asleep → ∃ s', exec (.wake cause) s = .next s' ∧ woken s' cause) ∧
      (s.fw.sleep.power = .entering → s.fw.sleep.early = none → exec (.wake cause) s =
        .next { s with fw := { s.fw with sleep := { s.fw.sleep with early := some cause } } }) ∧
      (s.fw.sleep.power = .awake → exec (.wake cause) s = .next s) ∧
      (∀ t, s.fw.sleep.power = .asleep → s.fw.sleep.timed = some t →
        (t.toNat ≤ s.time.toNat → ∃ s', exec .timedWake s = .next s' ∧ woken s' 4) ∧
        (s.time.toNat < t.toNat → exec .timedWake s = .next s)))

/-! ## Encodings, the step, reset -/

/-- Every well-formed instruction that has a word is what its word decodes to, wherever it stands in a sequence of bytes; and a
word is read as an instruction only where the instruction is well formed and its own word is that one, so no other bit is ignored
(R21-R36). Where a table does not say whether a field may be NULL, well-formedness is the model's choice (log 64). -/
def Obligations.RoundTrip : Prop :=
  (∀ i w, i.wf = true → encode i = some w → decode w = .ok i ∧ ∀ bs, decodeBytes (bytesOfWord w ++ bs) = .ok (i, bs)) ∧
  ∀ w i, decode w = .ok i → i.wf = true ∧ encode i = some w

/-- A step in which a group issues runs the instruction that the word at its selected entry's PC decodes to: where the agenda names the
group, and where nothing else can happen and one group alone may issue (the order of agents is the model's own choice, log 1; R36, R60,
R61, R317, R522). And twelve words written out from the tables of chapter 02 are read with every field as the spec reads them. -/
def Obligations.StepRunsDecoded : Prop :=
  (∀ (s : State) t gi ei w i,
    let runs (s0 : State) : Prop :=
      s0.team? t.tid = some t → (t.group gi).choose (s0.eligible exec t gi) = some ei →
        let s1 : State := { s0.updGroup t.tid gi (fun g => g.grow (s0.eligible exec t gi) ei) with cur := some ⟨t.tid, gi, ei⟩ }
        ∀ t1 g e, s1.issuing = some (⟨t.tid, gi, ei⟩, t1, g, e) → (∀ l ∈ lanesOf e.mask, (g.thread l).ptrap = none) →
          (t1.tid = 0 → s1.codeAt t1 e.pc.toNat = true ∧ w = BitVec.ofNat 64 (Memory.readN s1.ctlMem e.pc.toNat 8)) →
          (t1.tid ≠ 0 → ∃ x, s1.segmentAt t1 e.pc = some x ∧ x.resident = true ∧ e.pc.toNat % 4096 / 8 ∉ x.bad ∧
            w = BitVec.ofNat 64 (Memory.readN x.bytes (e.pc.toNat % 4096) 8)) →
          decode w = .ok i → step s = exec i s1
    let calm : State := { s with cur := none, waited := false }
    s.fw.sleep.power = .awake → s.cutting = none → calm.mayDispatch = false →
    (∀ rest, s.agenda = .issue t.tid gi :: rest → (∃ c ∈ State.granted exec { calm with agenda := rest }, c.tid = t.tid ∧ c.grp = gi) →
      runs { calm with agenda := rest }) ∧
    (s.agenda = [] → (∀ r ∈ calm.internal, ∀ u, exec r calm = .next u → u = calm) →
      ∀ c, State.granted exec (calm.elapse 1) = [c] → c.tid = t.tid → c.grp = gi → runs (calm.elapse 1))) ∧
  let v (n : BitVec 7) : Reg := ⟨false, false, .v, n⟩
  let g (n : BitVec 7) : Reg := ⟨false, false, .g, n⟩
  let on (p : BitVec 3) : Guard := ⟨false, p⟩
  decode 0x3070_0803_010F_F001 = .ok (.iadd (on 7) (v 2) (v 3) (v 4) 1) ∧
  decode 0x6370_2001_0080_3200 = .ok (.ffma (on 7) (v 8) (v 1) (v 2) (v 3) 1) ∧
  decode 0xA170_1C02_3FC0_04D2 = .ok (.st (on 7) (v 7) (v 2) Reg.null 4 6 2 2) ∧
  decode 0xA510_2C82_2500_01DA = .ok (.atom (on 1) (v 11) (g 2) (g 20) 0 1 6 3 2) ∧
  decode 0x2028_A01D_3FCF_F000 = .ok (.mov (on 2) ⟨true, false, .v, 40⟩ (v 29) 0) ∧
  decode 0x0B73_FCFF_FFFF_FFFF = .ok (.barg (on 7) Reg.null 0xFFFF 0xFFFF) ∧
  decode 0x9073_FCFF_A007_000A = .ok (.mxon (on 7) 2 1 7 1 2) ∧
  decode 0xC012_2882_230F_F000 = .ok (.copy (on 1) (g 10) (g 2) (g 12) 0 0) ∧
  decode 0xD370_5082_0100_6009 = .ok (.tex (on 7) (v 20) (g 2) (v 4) (v 6) 0 1 1) ∧
  decode 0xE773_FCFF_0000_0081 = .ok (.kselGen (on 7) 16 1) ∧
  decode 0xF770_1008_0000_0001 = .ok (.rngwr (on 7) (v 4) (v 8) 1) ∧
  decode 0xE370_1884_0000_0007 = .ok (.lwait (on 7) (v 6) (g 4) 0 7)

/-- The machine after reset: what the spec gives for reset, a canonical memory, and the invariant that every step keeps. The model's
own: that the agenda is empty, that no image stands in the store and that no launch or team exists (log 1, 3), device time 0 (log 15),
that no sector is dirty in an L2 or held in an L1 (log 12), and empty duplicate tables (log 14). -/
def Obligations.Reset : Prop :=
  let s := State.reset
  s.time = 0 ∧ s.keys = [] ∧ s.parts = [] ∧ s.teams = [] ∧ s.ctxs = [] ∧ s.sectors = [] ∧ s.dirty = [] ∧ s.l1 = [] ∧ s.code = [] ∧ s.grids = [] ∧
  (∀ n, n < 24 → ∃ e ∈ s.engines, e.num = n ∧ e.part = none ∧ e.cmds = []) ∧
  (∀ n, n < 12 → s.panel n = Panel.initial n ∧ (s.panel n).ptlen = 0 ∧ (s.panel n).merges = [] ∧ (s.panel n).tags = [] ∧ (s.panel n).locks = []) ∧
  (∀ n, n < 12 → ∃ p ∈ s.phealth, p.num = n ∧ p.st = .inService) ∧
  (∀ core, core < 48 → (s.lifeOf core).st = .inService ∧ (s.lifeOf core).wacc = 0) ∧
  (∀ fn, fn ≤ 256 → ∃ f ∈ s.fns, f.num = fn ∧ f.ready = true ∧ f.fs = 0 ∧ f.ce = 0 ∧ f.ue = 0 ∧ f.tagm = 0 ∧ f.misdir = 0) ∧
  (∀ n, n < 6 → ∃ c, s.canvas? n = some c ∧ c.tim = none ∧ c.next = none ∧ ∀ k, k < 16 → ∃ l, s.layer? n k = some l ∧ l.regs = List.replicate 8 0 ∧
    l.stencil = false ∧ l.result = 0 ∧ l.fails = 0 ∧ l.badpub = 0 ∧ l.late = 0 ∧ l.arb = 0) ∧
  (∀ r, r < 4 → ∃ c, s.camera? r = some c ∧ c.regs = [0, 0, 0, 0] ∧ c.err = false ∧ c.next = 0 ∧ c.frames = 0 ∧ c.drops = 0) ∧
  s.disp.prfinj = 0 ∧ s.disp.tell = ⟨none, none⟩ ∧ s.disp.warp.regs = List.replicate 11 0 ∧
  s.sits.bank0 = [] ∧ s.sits.bank1 = [] ∧ s.sits.begun = false ∧ s.sits.want = false ∧
  (∃ e ∈ s.fw.events, e.code = 0) ∧ s.fw.stagings = [] ∧ s.fw.sleep.power = .awake ∧ s.fw.debug = false ∧
  Memory.wf s.mem = true ∧ Memory.wf s.ctlMem = true ∧ s.sound

/-- Every step keeps both memories, LPDDR-6 and the controller's own, in their one canonical form. -/
def Obligations.MemoryInvariant : Prop :=
  ∀ s s', Memory.wf s.mem = true → Memory.wf s.ctlMem = true → step s = .next s' → Memory.wf s'.mem = true ∧ Memory.wf s'.ctlMem = true

/-- Every step keeps, of every team, those of checkpoints and the controller's own among them: a group has at most 32 threads; each of
its live threads stands in exactly one entry of the frontier, and no entry is empty (R60); a live thread holds as many registers as
the group is allotted (R76, R108); and the in-flight record holds at most 512 entries (R331). -/
def Obligations.FrontierInvariant : Prop := ∀ s s', s.sound → step s = .next s' → s'.sound
end

