-- ==== Sys2Proof/Laws/Frontier.lean ====
section
/-! SUPPORT. The frontier after an issue: every member stands where its fate takes it. -/

namespace Sys2Proof.Machine

theorem laneBit_get (l : Nat) (h : l < 32) : (laneBit l).getLsbD l = true := by
  simp [laneBit, h]

theorem foldl_or_keep (ls : List Nat) (m : BitVec 32) (l : Nat) (h : m.getLsbD l = true) :
    (ls.foldl (fun m l => m ||| laneBit l) m).getLsbD l = true := by
  induction ls generalizing m with
  | nil => exact h
  | cons x xs ih => exact ih _ (by rw [BitVec.getLsbD_or, h, Bool.true_or])

theorem maskOf_get (ls : List Nat) (l : Nat) (hl : l < 32) (h : l ∈ ls) : (maskOf ls).getLsbD l = true := by
  unfold maskOf
  generalize 0#32 = m
  induction ls generalizing m with
  | nil => cases h
  | cons x xs ih =>
    rcases List.mem_cons.1 h with rfl | h
    · refine foldl_or_keep xs (m ||| laneBit l) l ?_
      rw [BitVec.getLsbD_or, laneBit_get l hl, Bool.or_true]
    · exact ih h _

theorem mem_lanesOf {m : BitVec 32} {l : Nat} : l ∈ lanesOf m ↔ l < 32 ∧ m.getLsbD l = true := by
  simp [lanesOf]

theorem ne_zero_of_get {m : BitVec 32} {l : Nat} (h : m.getLsbD l = true) : (m == 0) = false := by
  rw [beq_eq_false_iff_ne]
  rintro rfl
  simp at h

/-- An entry list has a lane at a place. -/
def hasAt (es : List Entry) (l : Nat) (p : BitVec 64 × BitVec 8) : Prop :=
  ∃ x ∈ es, x.pc = p.1 ∧ x.prio.toNat ≤ p.2.toNat ∧ x.mask.getLsbD l = true

theorem merge_prio (a b : Entry) :
    (a.merge b).prio.toNat ≤ a.prio.toNat ∧ (a.merge b).prio.toNat ≤ b.prio.toNat := by
  simp only [Entry.merge]
  split <;> constructor <;> omega

theorem addEntry_self (es : List Entry) (n : Entry) (l : Nat) (h : n.mask.getLsbD l = true) :
    hasAt (addEntry es n) l (n.pc, n.prio) := by
  induction es with
  | nil =>
    refine ⟨n, ?_, rfl, Nat.le_refl _, h⟩
    unfold addEntry
    rw [ne_zero_of_get h]
    exact List.mem_singleton_self n
  | cons e es ih =>
    simp only [addEntry, ne_zero_of_get h]
    simp only [Bool.false_eq_true, if_false]
    split
    · rename_i hm
      simp only [Entry.mergesWith, Bool.and_eq_true, beq_iff_eq] at hm
      exact ⟨_, List.mem_cons_self, hm.1.1.1, (merge_prio e n).2, by simp [Entry.merge, h]⟩
    · obtain ⟨x, hx, hp⟩ := ih
      exact ⟨x, List.mem_cons_of_mem _ hx, hp⟩

theorem addEntry_keep (es : List Entry) (n : Entry) (l : Nat) (pc : BitVec 64 × BitVec 8) (h : hasAt es l pc) :
    hasAt (addEntry es n) l pc := by
  induction es with
  | nil => obtain ⟨x, hx, _⟩ := h; cases hx
  | cons e es ih =>
    obtain ⟨x, hx, hp, hq, hl⟩ := h
    unfold addEntry
    split
    · exact ⟨x, hx, hp, hq, hl⟩
    · split
      · rcases List.mem_cons.1 hx with rfl | hx
        · exact ⟨_, List.mem_cons_self, hp, Nat.le_trans (merge_prio _ n).1 hq, by simp [Entry.merge, hl]⟩
        · exact ⟨x, List.mem_cons_of_mem _ hx, hp, hq, hl⟩
      · rcases List.mem_cons.1 hx with rfl | hx
        · exact ⟨_, List.mem_cons_self, hp, hq, hl⟩
        · obtain ⟨y, hy, h2⟩ := ih ⟨x, hx, hp, hq, hl⟩
          exact ⟨y, List.mem_cons_of_mem _ hy, h2⟩

theorem foldl_addEntry_keep (ns es : List Entry) (l : Nat) (pc : BitVec 64 × BitVec 8) (h : hasAt es l pc) :
    hasAt (ns.foldl addEntry es) l pc := by
  induction ns generalizing es with
  | nil => exact h
  | cons n ns ih => exact ih _ (addEntry_keep _ _ _ _ h)

theorem foldl_addEntry_self (ns es : List Entry) (n : Entry) (l : Nat) (hn : n ∈ ns) (h : n.mask.getLsbD l = true) :
    hasAt (ns.foldl addEntry es) l (n.pc, n.prio) := by
  induction ns generalizing es with
  | nil => cases hn
  | cons m ns ih =>
    rcases List.mem_cons.1 hn with rfl | hn
    · exact foldl_addEntry_keep ns (addEntry es n) _ _ (addEntry_self _ _ _ h)
    · exact ih _ hn

theorem lanesWith_get (fs : List (Nat × Fate)) (p : Fate → Bool) (l : Nat) (f : Fate) (hl : l < 32) (hm : (l, f) ∈ fs)
    (hp : p f = true) : (lanesWith fs p).getLsbD l = true := by
  apply maskOf_get _ _ hl
  simp only [List.mem_map, List.mem_filter]
  exact ⟨(l, f), ⟨hm, hp⟩, rfl⟩

/-- Where a fate puts a member of an entry, if it stays in the frontier by itself. -/
def Fate.place (e : Entry) : Fate → Option (BitVec 64 × BitVec 8)
  | .next | .yld _ => some e.next
  | .reprio p => some (e.pc + 8, p)
  | .go pc p => some (pc, p)
  | .ret pc => some (pc, e.prio)
  | .stay | .consume | .arrive => some (e.pc, e.prio)
  | .trap _ | .exit => none

/-- Every member stands where its fate puts it. -/
theorem frontierAfter_place (es : List Entry) (e : Entry) (fs : List (Nat × Fate)) (l : Nat) (f : Fate)
    (pc : BitVec 64 × BitVec 8) (hl : l < 32) (hm : (l, f) ∈ fs) (hp : f.place e = some pc) : hasAt (frontierAfter es e fs) l pc := by
  unfold frontierAfter
  have own (n : Entry) (h : Fate.entry e l f = some n) (hn : (n.pc, n.prio) = pc ∧ n.mask = laneBit l) (es3 : List Entry) :
      hasAt ((fs.filterMap fun x => Fate.entry e x.1 x.2).foldl addEntry es3) l pc := by
    have := foldl_addEntry_self (fs.filterMap fun x => Fate.entry e x.1 x.2) es3 n l
      (List.mem_filterMap.2 ⟨(l, f), hm, h⟩) (by rw [hn.2]; exact laneBit_get l hl)
    rwa [hn.1] at this
  cases f with
  | next =>
    cases hp
    apply foldl_addEntry_keep
    apply addEntry_keep
    apply addEntry_keep
    exact addEntry_self _ (Entry.at (e.pc + 8) e.prio (lanesWith fs fun f => f == .next) e.solitary) l
      (lanesWith_get _ _ _ _ hl hm (by simp))
  | go p q => cases hp; exact own _ rfl ⟨rfl, rfl⟩ _
  | ret p => cases hp; exact own _ rfl ⟨rfl, rfl⟩ _
  | reprio p => cases hp; exact own _ rfl ⟨rfl, rfl⟩ _
  | yld n => cases hp; exact own _ rfl ⟨rfl, rfl⟩ _
  | stay =>
    cases hp
    apply foldl_addEntry_keep
    apply addEntry_keep
    exact addEntry_self _ { Entry.at e.pc e.prio (lanesWith fs fun f => f == .stay || f == .consume) e.solitary with
      blocked := _ } l (lanesWith_get _ _ _ _ hl hm (by simp))
  | consume =>
    cases hp
    apply foldl_addEntry_keep
    apply addEntry_keep
    exact addEntry_self _ { Entry.at e.pc e.prio (lanesWith fs fun f => f == .stay || f == .consume) e.solitary with
      blocked := _ } l (lanesWith_get _ _ _ _ hl hm (by simp))
  | arrive =>
    cases hp
    apply foldl_addEntry_keep
    exact addEntry_self _ { Entry.at e.pc e.prio (lanesWith fs fun f => f == .arrive) e.solitary with arrived := true } l
      (lanesWith_get _ _ _ _ hl hm (by simp))
  | trap t => cases hp
  | exit => cases hp

/-! ## A member stands nowhere else -/

/-- Wherever an entry list has a lane, it has it at this place. -/
def onlyAt (es : List Entry) (l : Nat) (p : BitVec 64 × BitVec 8) : Prop :=
  ∀ x ∈ es, x.mask.getLsbD l = true → x.pc = p.1 ∧ x.prio.toNat ≤ p.2.toNat

theorem addEntry_only (es : List Entry) (n : Entry) (l : Nat) (p : BitVec 64 × BitVec 8) (h : onlyAt es l p)
    (hn : n.mask.getLsbD l = true → n.pc = p.1 ∧ n.prio.toNat ≤ p.2.toNat) : onlyAt (addEntry es n) l p := by
  induction es with
  | nil =>
    intro x hx hl
    simp only [addEntry] at hx
    split at hx
    · cases hx
    · rw [List.mem_singleton] at hx; subst hx; exact hn hl
  | cons e es ih =>
    have ht : onlyAt es l p := fun x hx => h x (List.mem_cons_of_mem _ hx)
    intro x hx hl
    simp only [addEntry] at hx
    split at hx
    · exact h x hx hl
    · split at hx
      · rename_i hm
        simp only [Entry.mergesWith, Bool.and_eq_true, beq_iff_eq] at hm
        rcases List.mem_cons.1 hx with rfl | hx
        · have mp := merge_prio e n
          have hor : (e.mask ||| n.mask).getLsbD l = true := hl
          rw [BitVec.getLsbD_or, Bool.or_eq_true] at hor
          rcases hor with h1 | h1
          · have := h e List.mem_cons_self h1
            exact ⟨this.1, Nat.le_trans mp.1 this.2⟩
          · have := hn h1
            exact ⟨hm.1.1.1.trans this.1, Nat.le_trans mp.2 this.2⟩
        · exact ht x hx hl
      · rcases List.mem_cons.1 hx with rfl | hx
        · exact h _ List.mem_cons_self hl
        · exact ih ht x hx hl

theorem foldl_addEntry_only (ns es : List Entry) (l : Nat) (p : BitVec 64 × BitVec 8) (h : onlyAt es l p)
    (hn : ∀ n ∈ ns, n.mask.getLsbD l = true → n.pc = p.1 ∧ n.prio.toNat ≤ p.2.toNat) : onlyAt (ns.foldl addEntry es) l p := by
  induction ns generalizing es with
  | nil => exact h
  | cons n ns ih =>
    exact ih _ (addEntry_only es n l p h (hn n List.mem_cons_self)) fun m hm => hn m (List.mem_cons_of_mem _ hm)

theorem maskOf_mem (ls : List Nat) (l : Nat) (h : (maskOf ls).getLsbD l = true) : l ∈ ls := by
  have key (m : BitVec 32) (h : (ls.foldl (fun m l => m ||| laneBit l) m).getLsbD l = true) : m.getLsbD l = true ∨ l ∈ ls := by
    clear * - h
    induction ls generalizing m with
    | nil => exact .inl h
    | cons x xs ih =>
      rcases ih (m ||| laneBit x) h with h1 | h1
      · rw [BitVec.getLsbD_or, Bool.or_eq_true] at h1
        rcases h1 with h1 | h1
        · exact .inl h1
        · have : l = x := by simp [laneBit] at h1; omega
          exact .inr (this ▸ List.mem_cons_self)
      · exact .inr (List.mem_cons_of_mem _ h1)
  rcases key 0#32 h with h1 | h1
  · simp at h1
  · exact h1

theorem lanesWith_mem (fs : List (Nat × Fate)) (p : Fate → Bool) (l : Nat) (h : (lanesWith fs p).getLsbD l = true) :
    ∃ f, (l, f) ∈ fs ∧ p f = true := by
  have := maskOf_mem _ _ h
  simp only [List.mem_map, List.mem_filter] at this
  obtain ⟨⟨a, f⟩, ⟨h1, h2⟩, rfl⟩ := this
  exact ⟨f, h1, h2⟩

/-- A member that goes on stands only where its fate puts it, if no other entry has it. -/
theorem frontierAfter_only (es : List Entry) (e : Entry) (fs : List (Nat × Fate)) (l : Nat) (f : Fate)
    (pc : BitVec 64 × BitVec 8) (hes : ∀ x ∈ es, x.mask.getLsbD l = false) (hu : ∀ k, (l, k) ∈ fs → k = f)
    (hp : f.place e = some pc) : onlyAt (frontierAfter es e fs) l pc := by
  unfold frontierAfter
  have at_ (p : Fate → Bool) (q : BitVec 64 × BitVec 8) (hq : ∀ k, k = f → p k = true → pc = q)
      (h : (lanesWith fs p).getLsbD l = true) : q.1 = pc.1 ∧ q.2.toNat ≤ pc.2.toNat := by
    obtain ⟨k, h1, h2⟩ := lanesWith_mem _ _ _ h
    rw [hq k (hu k h1) h2]
    exact ⟨rfl, Nat.le_refl _⟩
  apply foldl_addEntry_only
  · apply addEntry_only
    · apply addEntry_only
      · apply addEntry_only
        · intro x hx hl
          obtain ⟨y, hy, rfl⟩ := List.mem_map.1 hx
          have := hes y hy
          rw [show ({ y with yld := y.yld.map fun z => { z with waits := false } } : Entry).mask = y.mask from rfl, this] at hl
          cases hl
        · exact at_ _ (e.pc + 8, e.prio) fun k hk h2 => by
            have h3 : k = .next := by simpa using h2
            rw [← hk, h3] at hp
            exact (Option.some.inj hp).symm
      · exact at_ _ (e.pc, e.prio) fun k hk h2 => by
          have h3 : k = .stay ∨ k = .consume := by simpa using h2
          rw [← hk] at hp
          rcases h3 with rfl | rfl <;> exact (Option.some.inj hp).symm
    · exact at_ _ (e.pc, e.prio) fun k hk h2 => by
        have h3 : k = .arrive := by simpa using h2
        rw [← hk, h3] at hp
        exact (Option.some.inj hp).symm
  · intro n hn hl
    obtain ⟨⟨a, k⟩, h1, h2⟩ := List.mem_filterMap.1 hn
    have bit (m : Entry) (hm : m.mask = laneBit a) (hl : m.mask.getLsbD l = true) : l = a := by
      rw [hm] at hl; simp [laneBit] at hl; omega
    have own (hk : ∀ q, Fate.place e k = some q → q = (n.pc, n.prio)) (hm : n.mask = laneBit a) :
        n.pc = pc.1 ∧ n.prio.toNat ≤ pc.2.toNat := by
      have ha := bit n hm hl
      subst ha
      have hkf := hu k h1
      subst hkf
      rw [hk pc hp]
      exact ⟨rfl, Nat.le_refl _⟩
    cases k with
    | go p q => cases h2; exact own (fun q h => (Option.some.inj h).symm) rfl
    | ret p => cases h2; exact own (fun q h => (Option.some.inj h).symm) rfl
    | reprio p => cases h2; exact own (fun q h => (Option.some.inj h).symm) rfl
    | yld m => cases h2; exact own (fun q h => (Option.some.inj h).symm) rfl
    | next => cases h2
    | stay => cases h2
    | consume => cases h2
    | arrive => cases h2
    | trap t => cases h2
    | exit => cases h2

end Sys2Proof.Machine
end

