-- ==== Sys2Proof/Laws/Issue.lean ====
section
/-! SUPPORT. What an issue does when every member goes on (R62): each stands where its fate takes it, and nothing changes but
what the instruction itself has done. -/

namespace Sys2Proof.Machine

/-! ## Teams -/

/-- The issuing group exists. -/
def State.holds (s : State) (c : Cur) : Prop := ∃ t, s.team? c.tid = some t ∧ t.tid = c.tid ∧ c.grp < t.groups.length

theorem find_map_self (ts : List Team) (t u : Team) (h : ts.find? (·.tid == t.tid) = some u) :
    (ts.map fun x => if x.tid == t.tid then t else x).find? (·.tid == t.tid) = some t := by
  induction ts with
  | nil => simp at h
  | cons x xs ih =>
    simp only [List.map_cons]
    by_cases hx : x.tid == t.tid
    · simp [hx]
    · simp only [hx, Bool.false_eq_true, if_false, List.find?_cons] at h ⊢
      exact ih h

theorem find_map_ne (ts : List Team) (t : Team) (n : Nat) (h : n ≠ t.tid) :
    (ts.map fun x => if x.tid == t.tid then t else x).find? (·.tid == n) = ts.find? (·.tid == n) := by
  induction ts with
  | nil => rfl
  | cons x xs ih =>
    simp only [List.map_cons, List.find?_cons]
    by_cases hx : x.tid == t.tid
    · have h1 : (t.tid == n) = false := by simpa using fun h' => h h'.symm
      have h2 : (x.tid == n) = false := by rw [beq_iff_eq] at hx; rw [hx]; exact h1
      simp only [hx, if_true, h1, h2]
      exact ih
    · simp only [hx, Bool.false_eq_true, if_false, ih]

theorem setTeam_self (s : State) (t u : Team) (h : s.team? t.tid = some u) : (s.setTeam t).team? t.tid = some t := by
  unfold State.setTeam State.team? at *
  by_cases h0 : t.tid == 0
  · simp [h0]
  · simp only [h0, Bool.false_eq_true, if_false] at h ⊢
    exact find_map_self _ _ _ h

theorem setTeam_ne (s : State) (t : Team) (n : Nat) (h : n ≠ t.tid) : (s.setTeam t).team? n = s.team? n := by
  unfold State.setTeam State.team?
  by_cases h0 : t.tid == 0
  · have hn : (n == 0) = false := by rw [beq_iff_eq] at h0; simpa [h0] using h
    simp [h0, hn]
  · simp only [h0, Bool.false_eq_true, if_false]
    split
    · rfl
    · exact find_map_ne _ _ _ h

theorem setTeam_rest (s : State) (t : Team) : (s.setTeam t).rest = s.rest := by
  unfold State.setTeam; split <;> rfl

/-! ## Changes of the issuing group -/

theorem others_refl (s : State) (c : Cur) : s.others s c := ⟨fun _ _ => rfl, rfl, fun _ _ => rfl⟩

theorem others_trans {s s' s'' : State} {c : Cur} (h : s.others s' c) (h' : s'.others s'' c) : s.others s'' c :=
  ⟨fun n hn => (h'.1 n hn).trans (h.1 n hn), h'.2.1.trans h.2.1, fun n hn => (h'.2.2 n hn).trans (h.2.2 n hn)⟩

theorem grp_of {s : State} {c : Cur} {t : Team} (h : s.team? c.tid = some t) : s.grp c = t.group c.grp := by
  unfold State.grp; rw [h]

theorem groupAt_of {s : State} {n gi : Nat} {t : Team} (h : s.team? n = some t) :
    s.groupAt n gi = some { t.group gi with pipe := none } := by
  unfold State.groupAt; rw [h]; rfl

theorem setGroup_self (t : Team) (gi : Nat) (g : Group) (h : gi < t.groups.length) : (t.setGroup gi g).group gi = g := by
  simp [Team.setGroup, Team.group, h]

theorem setGroup_ne (t : Team) (gi k : Nat) (g : Group) (h : k ≠ gi) : (t.setGroup gi g).group k = t.group k := by
  simp [Team.setGroup, Team.group, List.getD_eq_getElem?_getD, List.getElem?_set_ne h.symm]

/-- A state that differs from another in its issuing group only. -/
structure State.regrouped (s s' : State) (c : Cur) (g : Group) : Prop where
  holds : s'.holds c
  grp : s'.grp c = g
  others : s.others s' c
  rest : s'.rest = s.rest

theorem setGroup_regrouped (s : State) (c : Cur) (t : Team) (g : Group) (h : s.team? c.tid = some t) (ht : t.tid = c.tid)
    (hg : c.grp < t.groups.length) : s.regrouped (s.setTeam (t.setGroup c.grp g)) c g := by
  have hid : (t.setGroup c.grp g).tid = c.tid := ht
  have hs : (s.setTeam (t.setGroup c.grp g)).team? c.tid = some (t.setGroup c.grp g) := by
    have := setTeam_self s (t.setGroup c.grp g) t (by rw [hid]; exact h)
    rwa [hid] at this
  refine ⟨⟨_, hs, hid, by simpa [Team.setGroup] using hg⟩, ?_, ⟨fun n hn => ?_, ?_, fun n hn => ?_⟩, setTeam_rest _ _⟩
  · rw [grp_of hs, setGroup_self _ _ _ hg]
  · exact setTeam_ne _ _ _ (by rw [hid]; exact hn)
  · rw [hs, h]; rfl
  · rw [groupAt_of hs, groupAt_of h, setGroup_ne _ _ _ _ hn]

theorem updGroup_regrouped (s : State) (c : Cur) (f : Group → Group) (h : s.holds c) :
    s.regrouped (s.updGroup c.tid c.grp f) c (f (s.grp c)) := by
  obtain ⟨t, h1, h2, h3⟩ := h
  have := setGroup_regrouped s c t (f (t.group c.grp)) h1 h2 h3
  unfold State.updGroup State.updTeam
  rw [h1, grp_of h1]
  exact this

/-! ## The store of a group -/

theorem store_thread (g h : Group) (hs : g.store = h.store) (l : Nat) : (g.thread l).calm = (h.thread l).calm := by
  have := congrArg Group.lanes hs
  simp only [Group.store] at this
  have := congrArg (fun xs : List Thread => xs.getD l Thread.dead.calm) this
  simp only [List.getD_eq_getElem?_getD, List.getElem?_map] at this
  unfold Group.thread
  simp only [List.getD_eq_getElem?_getD]
  cases hg : g.lanes[l]? <;> cases hh : h.lanes[l]? <;> simp_all

theorem ptrap_store (g : Group) (l : Nat) (p : Option PendTrap) :
    (g.updThread l fun t => { t with ptrap := p }).store = g.store := by
  unfold Group.store Group.updThread Group.setThread Group.thread
  simp only [List.map_set, Group.mk.injEq, and_true]
  apply List.ext_getElem?
  intro k
  by_cases hk : l = k
  · subst hk
    by_cases hl : l < g.lanes.length
    · simp [hl, Thread.calm]
    · simp [hl]
  · simp [List.getElem?_set_ne hk]

/-! ## The fates of members that go on -/

/-- A member with this fate stays in the frontier and nothing else becomes of it. -/
def Fate.moves : Fate → Bool
  | .next | .go _ _ | .ret _ | .yld _ | .reprio _ => true
  | _ => false

/-- Only pending traps of the issuing group's threads have changed. -/
structure State.quiet (s s' : State) (c : Cur) : Prop where
  holds : s'.holds c
  store : (s'.grp c).store = (s.grp c).store
  entries : (s'.grp c).entries = (s.grp c).entries
  others : s.others s' c
  rest : s'.rest = s.rest

theorem quiet_refl (s : State) (c : Cur) (h : s.holds c) : s.quiet s c := ⟨h, rfl, rfl, others_refl s c, rfl⟩

theorem quiet_trans {s s' s'' : State} {c : Cur} (h : s.quiet s' c) (h' : s'.quiet s'' c) : s.quiet s'' c :=
  ⟨h'.holds, h'.store.trans h.store, h'.entries.trans h.entries, others_trans h.others h'.others, h'.rest.trans h.rest⟩

theorem applyFate_quiet (s : State) (c : Cur) (e : Entry) (l : Nat) (f : Fate) (h : s.holds c) (hf : f.moves = true) :
    s.quiet (s.applyFate c e l f) c := by
  have upd (p : Option PendTrap) : s.quiet (s.updGroup c.tid c.grp fun g => g.updThread l fun t => { t with ptrap := p }) c := by
    have r := updGroup_regrouped s c (fun g => g.updThread l fun t => { t with ptrap := p }) h
    refine ⟨r.holds, ?_, ?_, r.others, r.rest⟩
    · rw [r.grp, ptrap_store]
    · rw [r.grp]; rfl
  cases f with
  | next => unfold State.applyFate; simp only; split; exacts [upd _, quiet_refl s c h]
  | yld n => unfold State.applyFate; simp only; split; exacts [upd _, quiet_refl s c h]
  | reprio p => unfold State.applyFate; simp only; split; exacts [upd _, quiet_refl s c h]
  | go p q => exact quiet_refl s c h
  | ret p => exact quiet_refl s c h
  | trap t => cases hf
  | stay => cases hf
  | exit => cases hf
  | consume => cases hf
  | arrive => cases hf

theorem foldl_applyFate_quiet (fs : List (Nat × Fate)) (s : State) (c : Cur) (e : Entry) (h : s.holds c)
    (hf : ∀ x ∈ fs, x.2.moves = true) : s.quiet (fs.foldl (fun st x => st.applyFate c e x.1 x.2) s) c := by
  induction fs generalizing s with
  | nil => exact quiet_refl s c h
  | cons x xs ih =>
    have q := applyFate_quiet s c e x.1 x.2 h (hf x List.mem_cons_self)
    exact quiet_trans q (ih _ q.holds fun y hy => hf y (List.mem_cons_of_mem _ hy))

/-! ## What follows an issue in which nothing ends -/

theorem setGrid_quiet (s : State) (c : Cur) (g : Grid) (h : s.holds c) : s.quiet (s.setGrid g) c :=
  ⟨h, rfl, rfl, others_refl s c, rfl⟩

theorem gridSettle_quiet (s : State) (c : Cur) (n : Nat) (h : s.holds c) : s.quiet (s.gridSettle n) c := by
  unfold State.gridSettle
  simp only
  split
  · exact quiet_refl s c h
  · split
    · exact quiet_refl s c h
    · split
      · exact quiet_refl s c h
      · split
        · split
          · exact setGrid_quiet s c _ h
          · split
            · exact quiet_refl s c h
            · exact setGrid_quiet s c _ h
        · split
          · exact setGrid_quiet s c _ h
          · split
            · exact quiet_refl s c h
            · exact setGrid_quiet s c _ h

theorem afterEnds_none (s : State) (tid : Nat) : s.afterEnds tid [] = s.gridSettle tid := rfl

theorem alive_eq (s : State) (c : Cur) (l : Nat) (h : s.holds c) : s.alive c.tid c.grp l = ((s.grp c).thread l).calm.live := by
  obtain ⟨t, h1, _, _⟩ := h
  unfold State.alive
  rw [h1, grp_of h1]
  rfl

theorem fateOf_mem (fs : List (Nat × Fate)) (l : Nat) (f : Fate) (h : fateOf fs l = f) :
    f = .next ∨ (l, f) ∈ fs := by
  unfold fateOf at h
  split at h
  · rename_i x hx
    right
    have := List.find?_some hx
    simp only [beq_iff_eq] at this
    rw [← h, ← this]
    exact List.mem_of_find?_eq_some hx
  · exact .inl h.symm

theorem stillWaits_none (e : Entry) (fs : List (Nat × Fate)) (h : ∀ x ∈ fs, x.2 ≠ .stay) : e.stillWaits fs = false := by
  unfold Entry.stillWaits
  by_cases hb : e.blocked = 0
  · simp [hb]
  · obtain ⟨l, hl⟩ : ∃ l, l ∈ lanesOf e.blocked := by
      by_contra hc
      apply hb
      apply BitVec.eq_of_getLsbD_eq
      intro i hi
      have : i ∉ lanesOf e.blocked := fun h => hc ⟨i, h⟩
      rw [mem_lanesOf] at this
      simpa [hi] using this
    have : (lanesOf e.blocked).all (fun l => fateOf fs l == .stay) = false := by
      rw [List.all_eq_false]
      refine ⟨l, hl, ?_⟩
      rcases fateOf_mem fs l _ rfl with h1 | h1
      · rw [h1]; decide
      · simpa using h _ h1
    simp [this]

/-- An issue in which every member goes on (R62). -/
theorem finishIssue_moves (s : State) (c : Cur) (e : Entry) (fs : List (Nat × Fate)) (h : s.holds c)
    (hf : ∀ x ∈ fs, x.2.moves = true) :
    ((∀ x ∈ (s.grp c).entries.erase e, x.mask &&& e.mask = 0) →
      ∀ l ∈ lanesOf e.mask, ∀ pc, (fateOf fs l).place e = some pc → (finishIssue s c e fs).stands c l pc) ∧
    ((finishIssue s c e fs).grp c).store = (s.grp c).store ∧ s.others (finishIssue s c e fs) c ∧
    (finishIssue s c e fs).rest = s.rest := by
  let fs' := (lanesOf e.mask).map fun l => (l, fateOf fs l)
  let s1 := s.updGroup c.tid c.grp fun g =>
    { g with entries := frontierAfter (g.entries.erase e) e fs', served := s.serve + 1 }
  let s1' : State := { s1 with serve := s.serve + 1 }
  let s2 := fs'.foldl (fun st x => st.applyFate c e x.1 x.2) s1'
  have hfs' : ∀ x ∈ fs', x.2.moves = true := by
    intro x hx
    simp only [fs', List.mem_map] at hx
    obtain ⟨l, _, rfl⟩ := hx
    rcases fateOf_mem fs l _ rfl with h1 | h1
    · simp only [h1]; rfl
    · exact hf _ h1
  have r := updGroup_regrouped s c (fun g =>
    { g with entries := frontierAfter (g.entries.erase e) e fs', served := s.serve + 1 }) h
  have r1 : s1'.holds c := r.holds
  have q2 : s1'.quiet s2 c := foldl_applyFate_quiet fs' s1' c e r1 hfs'
  have hent : (s2.grp c).entries = frontierAfter ((s.grp c).entries.erase e) e fs' := by
    rw [q2.entries]
    show (s1.grp c).entries = _
    rw [r.grp]
  have place (l : Nat) (hl : l ∈ lanesOf e.mask) (pc : BitVec 64 × BitVec 8) (hp : (fateOf fs l).place e = some pc) :
      hasAt (s2.grp c).entries l pc := by
    rw [hent]
    exact frontierAfter_place _ e fs' l (fateOf fs l) pc (mem_lanesOf.1 hl).1 (List.mem_map.2 ⟨l, hl, rfl⟩) hp
  have only (hd : ∀ x ∈ (s.grp c).entries.erase e, x.mask &&& e.mask = 0) (l : Nat) (hl : l ∈ lanesOf e.mask)
      (pc : BitVec 64 × BitVec 8) (hp : (fateOf fs l).place e = some pc) : onlyAt (s2.grp c).entries l pc := by
    rw [hent]
    refine frontierAfter_only _ e fs' l (fateOf fs l) pc (fun x hx => ?_) (fun k hk => ?_) hp
    · have := congrArg (fun m : BitVec 32 => m.getLsbD l) (hd x hx)
      simpa [(mem_lanesOf.1 hl).2] using this
    · obtain ⟨j, _, hj⟩ := List.mem_map.1 hk
      cases hj; rfl
  have hst2 : (s2.grp c).store = (s.grp c).store := by
    rw [q2.store]
    show (s1.grp c).store = _
    rw [r.grp]; rfl
  have hended : (((fs'.map (·.1)).filter fun l => s.alive c.tid c.grp l && !s2.alive c.tid c.grp l).map
      fun l => (c.grp, l)) = [] := by
    rw [List.map_eq_nil_iff, List.filter_eq_nil_iff]
    intro l _
    rw [alive_eq s c l h, alive_eq s2 c l q2.holds, store_thread _ _ hst2 l]
    cases ((s.grp c).thread l).calm.live <;> simp
  have q3 := gridSettle_quiet s2 c c.tid q2.holds
  have hfin : finishIssue s c e fs = { s2.gridSettle c.tid with cur := none, waited := false } := by
    unfold finishIssue
    simp only
    show ({ s2.afterEnds c.tid (((fs'.map (·.1)).filter fun l => s.alive c.tid c.grp l && !s2.alive c.tid c.grp l).map
      fun l => (c.grp, l)) with cur := none, waited := false } : State) = _
    rw [hended, afterEnds_none]
  rw [hfin]
  refine ⟨fun hd l hl pc hp => ?_, ?_, ?_, ?_⟩
  · obtain ⟨x, hx, h2⟩ := place l hl pc hp
    have he : ((s2.gridSettle c.tid).grp c).entries = (s2.grp c).entries := q3.entries
    refine ⟨⟨x, ?_, h2.2.2⟩, fun y hy => ?_⟩
    · show x ∈ ((s2.gridSettle c.tid).grp c).entries
      rw [he]; exact hx
    · have : y ∈ (s2.grp c).entries := by rw [← he]; exact hy
      exact only hd l hl pc hp y this
  · show ((s2.gridSettle c.tid).grp c).store = _
    rw [q3.store, hst2]
  · have o1 : s.others s1' c := r.others
    exact others_trans o1 (others_trans q2.others q3.others)
  · show (s2.gridSettle c.tid).rest = s.rest
    rw [q3.rest, q2.rest]
    exact r.rest

end Sys2Proof.Machine
end

