-- ==== Sys2Proof/Laws/Settle.lean ====
section
/-! SUPPORT. What an issue in which every member goes on leaves of the team's accesses in flight and of the grids. -/

namespace Sys2Proof.Machine

/-- Whether a thread lives, and streams. -/
def Team.pulse (t : Team) (gi l : Nat) : Bool × Bool := (((t.group gi).thread l).live, ((t.group gi).thread l).mx)

/-- Two teams are the same team in the same place, with the same threads alive and streaming and the same accesses in flight. -/
structure Team.kin (t u : Team) : Prop where
  tid : u.tid = t.tid
  core : u.core = t.core
  quad : u.quad = t.quad
  pulse : ∀ gi l, u.pulse gi l = t.pulse gi l
  flight : u.flight = t.flight

theorem kin_refl (t : Team) : t.kin t := ⟨rfl, rfl, rfl, fun _ _ => rfl, rfl⟩

theorem kin_trans {t u v : Team} (h : t.kin u) (k : u.kin v) : t.kin v :=
  ⟨k.tid.trans h.tid, k.core.trans h.core, k.quad.trans h.quad, fun gi l => (k.pulse gi l).trans (h.pulse gi l),
   k.flight.trans h.flight⟩

theorem flight_congr (t u : Team) (hi : u.ifr = t.ifr) (hp : u.palPend = t.palPend) :
    u.flight = t.flight := by
  unfold Team.flight
  rw [hi, hp]

theorem kin_of_same (t u : Team) (h1 : u.tid = t.tid) (h2 : u.core = t.core) (h3 : u.quad = t.quad) (hi : u.ifr = t.ifr)
    (hp : u.palPend = t.palPend) (hl : ∀ gi l, u.pulse gi l = t.pulse gi l) : t.kin u :=
  ⟨h1, h2, h3, hl, flight_congr t u hi hp⟩

theorem thread_set (g : Group) (l : Nat) (f : Thread → Thread) (k : Nat) :
    (g.updThread l f).thread k = if k = l ∧ l < g.lanes.length then f (g.thread l) else g.thread k := by
  unfold Group.updThread Group.setThread Group.thread
  simp only [List.getD_eq_getElem?_getD]
  by_cases hk : l = k
  · subst hk
    by_cases hl : l < g.lanes.length
    · simp [hl]
    · simp [hl]
  · have : ¬(k = l ∧ l < g.lanes.length) := fun h => hk h.1.symm
    simp [List.getElem?_set_ne hk, this]

theorem pulse_setGroup (t : Team) (gi : Nat) (g : Group)
    (hg : ∀ l, (g.thread l).live = ((t.group gi).thread l).live ∧ (g.thread l).mx = ((t.group gi).thread l).mx) (k l : Nat) :
    (t.setGroup gi g).pulse k l = t.pulse k l := by
  unfold Team.pulse
  by_cases hk : k = gi
  · subst hk
    by_cases hl : k < t.groups.length
    · rw [setGroup_self t k g hl, (hg l).1, (hg l).2]
    · have : t.setGroup k g = t := by
        unfold Team.setGroup
        rw [List.set_eq_of_length_le (by omega)]
      rw [this]
  · rw [setGroup_ne t gi k g hk]

theorem kin_setGroup (t : Team) (gi : Nat) (g : Group)
    (hg : ∀ l, (g.thread l).live = ((t.group gi).thread l).live ∧ (g.thread l).mx = ((t.group gi).thread l).mx) :
    t.kin (t.setGroup gi g) :=
  kin_of_same _ _ rfl rfl rfl rfl rfl (pulse_setGroup t gi g hg)

theorem kin_updThread (t : Team) (gi l : Nat) (f : Thread → Thread) (es : List Entry) (sv : Nat)
    (hf : ∀ x : Thread, (f x).live = x.live ∧ (f x).mx = x.mx) :
    t.kin (t.updGroup gi fun g => g.updThread l f) ∧ t.kin (t.updGroup gi fun g => { g with entries := es, served := sv }) := by
  refine ⟨kin_setGroup t gi _ fun k => ?_, kin_setGroup t gi _ fun k => ⟨rfl, rfl⟩⟩
  rw [thread_set]
  split
  · rename_i h
    rw [(hf _).1, (hf _).2, h.1]
    exact ⟨rfl, rfl⟩
  · exact ⟨rfl, rfl⟩

/-! ## States -/

/-- The issuing team is the same but for where its threads stand. -/
def State.keeps (s s' : State) (c : Cur) : Prop :=
  ∃ t t', s.team? c.tid = some t ∧ t.tid = c.tid ∧ s'.team? c.tid = some t' ∧ t.kin t'

theorem keeps_refl (s : State) (c : Cur) (h : s.holds c) : s.keeps s c := by
  obtain ⟨t, h1, h2, _⟩ := h
  exact ⟨t, t, h1, h2, h1, kin_refl t⟩

theorem keeps_trans {s s' s'' : State} {c : Cur} (h : s.keeps s' c) (k : s'.keeps s'' c) : s.keeps s'' c := by
  obtain ⟨t, t', h1, h2, h3, h4⟩ := h
  obtain ⟨u, u', k1, _, k3, k4⟩ := k
  rw [h3] at k1
  cases k1
  exact ⟨t, u', h1, h2, k3, kin_trans h4 k4⟩

theorem setTeam_grids (s : State) (t : Team) : (s.setTeam t).grids = s.grids := by unfold State.setTeam; split <;> rfl

theorem updTeam_grids (s : State) (n : Nat) (f : Team → Team) : (s.updTeam n f).grids = s.grids := by
  unfold State.updTeam; split; exacts [setTeam_grids _ _, rfl]

theorem updTeam_keeps (s : State) (c : Cur) (f : Team → Team) (h : s.holds c) (hf : ∀ t : Team, t.kin (f t)) :
    s.keeps (s.updTeam c.tid f) c := by
  obtain ⟨t, h1, h2, _⟩ := h
  have hid : (f t).tid = c.tid := (hf t).tid.trans h2
  refine ⟨t, f t, h1, h2, ?_, hf t⟩
  unfold State.updTeam
  rw [h1]
  have := setTeam_self s (f t) t (by rw [hid]; exact h1)
  rwa [hid] at this

theorem applyFate_keeps (s : State) (c : Cur) (e : Entry) (l : Nat) (f : Fate) (h : s.holds c) (hf : f.moves = true) :
    s.keeps (s.applyFate c e l f) c ∧ (s.applyFate c e l f).grids = s.grids := by
  have upd (p : Option PendTrap) :
      s.keeps (s.updGroup c.tid c.grp fun g => g.updThread l fun t => { t with ptrap := p }) c ∧
      (s.updGroup c.tid c.grp fun g => g.updThread l fun t => { t with ptrap := p }).grids = s.grids :=
    ⟨updTeam_keeps s c _ h fun t => (kin_updThread t c.grp l (fun t => { t with ptrap := p }) [] 0 fun _ => ⟨rfl, rfl⟩).1, updTeam_grids _ _ _⟩
  have id : s.keeps s c ∧ s.grids = s.grids := ⟨keeps_refl s c h, rfl⟩
  cases f with
  | next => unfold State.applyFate; simp only; split; exacts [upd _, id]
  | yld n => unfold State.applyFate; simp only; split; exacts [upd _, id]
  | reprio p => unfold State.applyFate; simp only; split; exacts [upd _, id]
  | go p q => exact id
  | ret p => exact id
  | trap t => cases hf
  | stay => cases hf
  | exit => cases hf
  | consume => cases hf
  | arrive => cases hf

theorem foldl_applyFate_keeps (fs : List (Nat × Fate)) (s : State) (c : Cur) (e : Entry) (h : s.holds c)
    (hf : ∀ x ∈ fs, x.2.moves = true) :
    s.keeps (fs.foldl (fun st x => st.applyFate c e x.1 x.2) s) c ∧
    (fs.foldl (fun st x => st.applyFate c e x.1 x.2) s).grids = s.grids := by
  induction fs generalizing s with
  | nil => exact ⟨keeps_refl s c h, rfl⟩
  | cons x xs ih =>
    have q := applyFate_quiet s c e x.1 x.2 h (hf x List.mem_cons_self)
    have k := applyFate_keeps s c e x.1 x.2 h (hf x List.mem_cons_self)
    have r := ih _ q.holds fun y hy => hf y (List.mem_cons_of_mem _ hy)
    exact ⟨keeps_trans k.1 r.1, r.2.trans k.2⟩

/-- What becomes of a team's binding depends on its place and its threads only. -/
theorem gridSettle_grids (s u : State) (c : Cur) (h : s.keeps u c) (hg : u.grids = s.grids) :
    (u.gridSettle c.tid).grids = (s.gridSettle c.tid).grids := by
  obtain ⟨t, t', h1, _, h3, k⟩ := h
  have hst (gi l : Nat) : t'.streams gi l = t.streams gi l := by
    have := k.pulse gi l
    unfold Team.pulse at this
    unfold Team.streams
    simp only [Prod.mk.injEq] at this
    simp only [this.1, this.2]
  unfold State.gridSettle State.grid?
  simp only [h1, h3, k.core, k.quad, hst, hg]
  split
  · exact hg
  · split
    · exact hg
    · unfold State.setGrid
      simp only [hg]
      split <;> split <;> first | rfl | (split <;> first | exact hg | rfl)

theorem gridSettle_keeps (s : State) (c : Cur) (n : Nat) (h : s.holds c) : s.keeps (s.gridSettle n) c := by
  have key (g : Grid) : s.keeps (s.setGrid g) c := by
    obtain ⟨t, h1, h2, _⟩ := h
    exact ⟨t, t, h1, h2, h1, kin_refl t⟩
  have id := keeps_refl s c h
  unfold State.gridSettle
  simp only
  split
  · exact id
  · split
    · exact id
    · split
      · exact id
      · split <;> (split; exact key _; split; exact id; exact key _)

/-- After an issue in which every member goes on: the accesses in flight and the grids. -/
theorem finishIssue_keeps (s : State) (c : Cur) (e : Entry) (fs : List (Nat × Fate)) (h : s.holds c)
    (hf : ∀ x ∈ fs, x.2.moves = true) :
    s.keeps (finishIssue s c e fs) c ∧ (finishIssue s c e fs).grids = (s.gridSettle c.tid).grids := by
  let fs' := (lanesOf e.mask).map fun l => (l, fateOf fs l)
  let s1 := s.updGroup c.tid c.grp fun g =>
    { g with entries := frontierAfter (g.entries.erase e) e fs', served := s.serve + 1 }
  let s1' : State := { s1 with serve := s.serve + 1 }
  let s2 := fs'.foldl (fun st x => st.applyFate c e x.1 x.2) s1'
  have hfs' : ∀ x ∈ fs', x.2.moves = true := by
    intro x hx
    simp only [fs', List.mem_map] at hx
    obtain ⟨l, _, rfl⟩ := hx
    rcases fateOf_mem fs l _ rfl with h1 | h1
    · simp only [h1]; rfl
    · exact hf _ h1
  have r := updGroup_regrouped s c (fun g =>
    { g with entries := frontierAfter (g.entries.erase e) e fs', served := s.serve + 1 }) h
  have hh : s1'.holds c := r.holds
  have k1 : s.keeps s1' c := by
    have := updTeam_keeps s c (fun t => t.updGroup c.grp fun g =>
      { g with entries := frontierAfter (g.entries.erase e) e fs', served := s.serve + 1 }) h fun t =>
        kin_setGroup t c.grp _ fun l => ⟨rfl, rfl⟩
    exact this
  have g1 : s1'.grids = s.grids := updTeam_grids _ _ _
  have q2 := foldl_applyFate_quiet fs' s1' c e hh hfs'
  have k2 := foldl_applyFate_keeps fs' s1' c e hh hfs'
  have hst2 : (s2.grp c).store = (s.grp c).store := by
    rw [q2.store]
    show (s1.grp c).store = _
    rw [r.grp]; rfl
  have hended : (((fs'.map (·.1)).filter fun l => s.alive c.tid c.grp l && !s2.alive c.tid c.grp l).map
      fun l => (c.grp, l)) = [] := by
    rw [List.map_eq_nil_iff, List.filter_eq_nil_iff]
    intro l _
    rw [alive_eq s c l h, alive_eq s2 c l q2.holds, store_thread _ _ hst2 l]
    cases ((s.grp c).thread l).calm.live <;> simp
  have kk : s.keeps s2 c := keeps_trans k1 k2.1
  have k4 : s2.keeps (s2.gridSettle c.tid) c := gridSettle_keeps s2 c c.tid q2.holds
  have hfin : finishIssue s c e fs = { s2.gridSettle c.tid with cur := none, waited := false } := by
    unfold finishIssue
    simp only
    show ({ s2.afterEnds c.tid (((fs'.map (·.1)).filter fun l => s.alive c.tid c.grp l && !s2.alive c.tid c.grp l).map
      fun l => (c.grp, l)) with cur := none, waited := false } : State) = _
    rw [hended, afterEnds_none]
  rw [hfin]
  exact ⟨keeps_trans kk k4, gridSettle_grids s s2 c kk (k2.2.trans g1)⟩

/-- An issue in which every member goes on leaves the state settled. -/
theorem finishIssue_settles (s : State) (c : Cur) (e : Entry) (fs : List (Nat × Fate)) (h : s.holds c)
    (hf : ∀ x ∈ fs, x.2.moves = true) : s.settles (finishIssue s c e fs) c := by
  have m := finishIssue_moves s c e fs h hf
  have k := finishIssue_keeps s c e fs h hf
  refine ⟨m.2.1, m.2.2.1, ?_, k.2, m.2.2.2⟩
  obtain ⟨t, t', h1, _, h3, kn⟩ := k.1
  rw [h1, h3, Option.map_some, Option.map_some, kn.flight]

end Sys2Proof.Machine
end

