-- ==== Sys2Proof/Laws/Lanes.lean ====
section
/-! SUPPORT. Instructions that act lane by lane on their group: an issue in which every acting lane has an effect and goes on. -/

namespace Sys2Proof.Machine

theorem actLanes_sub {g : Group} {e : Entry} {gd : Guard} {l : Nat} (h : l ∈ actLanes g e gd) : l ∈ lanesOf e.mask :=
  (List.mem_filter.1 h).1

theorem lanesOf_nodup (m : BitVec 32) : (lanesOf m).Nodup := List.nodup_range.filter _

theorem actLanes_nodup (g : Group) (e : Entry) (gd : Guard) : (actLanes g e gd).Nodup := (lanesOf_nodup _).filter _

/-- A fold in which every lane succeeds. -/
theorem foldLanes_ok {σ : Type} (f : σ → Nat → Except Fate (σ × Fate)) (eff : σ → Nat → σ) (fate : Nat → Fate) (ls : List Nat) (s : σ)
    (h : ∀ pre l post, ls = pre ++ l :: post → f (pre.foldl eff s) l = .ok (eff (pre.foldl eff s) l, fate l)) :
    foldLanes f ls s = (ls.foldl eff s, ls.map fun l => (l, fate l)) := by
  induction ls generalizing s with
  | nil => rfl
  | cons x xs ih =>
    have h0 := h [] x xs rfl
    simp only [List.foldl_nil] at h0
    unfold foldLanes
    rw [h0]
    simp only
    rw [ih (eff s x) fun pre l post hp => h (x :: pre) l post (by rw [hp]; rfl)]
    rfl

theorem fateOf_map (ls : List Nat) (fate : Nat → Fate) (l : Nat) :
    fateOf (ls.map fun k => (k, fate k)) l = if l ∈ ls then fate l else .next := by
  unfold fateOf
  induction ls with
  | nil => simp
  | cons x xs ih =>
    simp only [List.map_cons, List.find?_cons, List.mem_cons]
    by_cases hx : x = l
    · subst hx; simp
    · have : (x == l) = false := by simpa using hx
      have h2 : (l = x) = False := by simpa using fun h => hx h.symm
      simp only [this, h2, false_or]
      exact ih

theorem holds_of_issues {s : State} {c : Cur} {t : Team} {g : Group} {e : Entry} (h : s.issues c t g e) :
    s.team? c.tid = some t ∧ t.group c.grp = g ∧ c.grp < t.groups.length ∧ s.cur = some c := by
  obtain ⟨h1, _, _, _⟩ := h
  unfold State.issuing at h1
  split at h1
  · cases h1
  · rename_i c' hc
    split at h1
    · cases h1
    · rename_i t' ht
      split at h1
      · cases h1
      · rename_i e' he
        cases h1
        refine ⟨ht, rfl, ?_, hc⟩
        by_contra hl
        have : t.group c.grp = Group.empty := by
          unfold Team.group
          rw [List.getD_eq_getElem?_getD, List.getElem?_eq_none (by omega)]
          rfl
        rw [this] at he
        simp [Group.empty] at he

/-- The effects of the acting lanes, each of which goes on, on a state whose issuing group is the one the issue found. -/
theorem finish_spread (s : State) (c : Cur) (t : Team) (g : Group) (e : Entry) (act : List Nat) (fate : Nat → Fate)
    (eff : Group → Nat → Group) (pc : Nat → BitVec 64 × BitVec 8) (hi : s.issues c t g e)
    (hf : ∀ l ∈ act, (fate l).moves = true ∧ (fate l).place e = some (pc l)) (ha : ∀ l ∈ act, l ∈ lanesOf e.mask)
    (hv : ∀ h l k, ((eff h l).thread k).live = (h.thread k).live ∧ ((eff h l).thread k).mx = (h.thread k).mx)
    (hn : ∀ h l, (eff h l).entries = h.entries) :
    s.spread (finishIssue (s.setTeam (t.setGroup c.grp (act.foldl eff g))) c e (act.map fun l => (l, fate l))) c g e act pc
      eff := by
  obtain ⟨h1, h2, h3, _⟩ := holds_of_issues hi
  have r := setGroup_regrouped s c t (act.foldl eff g) h1 hi.2.1 h3
  have hfs : ∀ x ∈ act.map fun l => (l, fate l), x.2.moves = true := by
    intro x hx
    obtain ⟨l, hl, rfl⟩ := List.mem_map.1 hx
    exact (hf l hl).1
  have m := finishIssue_moves _ c e (act.map fun l => (l, fate l)) r.holds hfs
  have f := finishIssue_settles _ c e (act.map fun l => (l, fate l)) r.holds hfs
  have hvf (ls : List Nat) (h : Group) (k : Nat) :
      ((ls.foldl eff h).thread k).live = (h.thread k).live ∧ ((ls.foldl eff h).thread k).mx = (h.thread k).mx := by
    induction ls generalizing h with
    | nil => exact ⟨rfl, rfl⟩
    | cons x xs ih => exact ⟨(ih _).1.trans (hv h x k).1, (ih _).2.trans (hv h x k).2⟩
  have hne (ls : List Nat) (h : Group) : (ls.foldl eff h).entries = h.entries := by
    induction ls generalizing h with
    | nil => rfl
    | cons x xs ih => exact (ih _).trans (hn h x)
  have m1 := m.1 (by rw [r.grp, hne]; exact hi.2.2.2)
  have kn : t.kin (t.setGroup c.grp (act.foldl eff g)) := kin_setGroup t c.grp _ fun l => by rw [h2]; exact hvf act g l
  have hs : (s.setTeam (t.setGroup c.grp (act.foldl eff g))).team? c.tid = some (t.setGroup c.grp (act.foldl eff g)) := by
    have := setTeam_self s (t.setGroup c.grp (act.foldl eff g)) t (by show s.team? t.tid = _; rw [hi.2.1]; exact h1)
    have hid : (t.setGroup c.grp (act.foldl eff g)).tid = c.tid := hi.2.1
    rwa [hid] at this
  refine ⟨⟨fun l hl => m1 l (ha l hl) _ ?_, fun l hl hn => m1 l hl _ ?_⟩, ?_, others_trans r.others m.2.2.1, ?_, ?_,
    m.2.2.2.trans r.rest⟩
  · rw [fateOf_map, if_pos hl]; exact (hf l hl).2
  · rw [fateOf_map, if_neg hn]; rfl
  · rw [m.2.1, r.grp]
  · rw [f.flight, hs, h1, Option.map_some, Option.map_some, kn.flight]
  · rw [f.grids]
    exact gridSettle_grids s _ c ⟨t, _, h1, hi.2.1, hs, kn⟩ (setTeam_grids _ _)

theorem issue_ready (s : State) (gd : Guard) (srcs : List (Reg × Nat)) (ready : State → Cur → List Nat → Bool)
    (run : Cur → Entry → List Nat → State → State × List (Nat × Fate)) (c : Cur) (t : Team) (g : Group) (e : Entry)
    (m : State) (fate : Nat → Fate) (hi : s.issues c t g e)
    (hs : ∀ l ∈ actLanes g e gd, ∀ x ∈ srcs, srcPending g l x.1 x.2 = false)
    (hr : ready s c (actLanes g e gd) = true) (hf : ∀ l ∈ actLanes g e gd, fate l ≠ .stay)
    (hrun : run c e (actLanes g e gd) s = (m, (actLanes g e gd).map fun l => (l, fate l))) :
    issue s gd srcs ready run = .next (finishIssue m c e ((actLanes g e gd).map fun l => (l, fate l))) := by
  unfold issue
  rw [hi.1]
  simp only
  have hp : ((actLanes g e gd).any fun l => srcs.any fun x => srcPending g l x.1 x.2) = false := by
    rw [List.any_eq_false]
    intro l hl
    rw [Bool.not_eq_true, List.any_eq_false]
    intro x hx
    rw [hs l hl x hx]
    simp
  rw [hp, hr, hrun]
  simp only [Bool.false_eq_true, if_false, Bool.not_true]
  have hst : e.stillWaits ((actLanes g e gd).map fun l => (l, fate l)) = false := stillWaits_none _ _ fun x hx => by
    obtain ⟨l, hl, rfl⟩ := List.mem_map.1 hx
    exact hf l hl
  rw [hst]
  simp

theorem ne_stay_of_moves {f : Fate} (h : f.moves = true) : f ≠ .stay := by rintro rfl; cases h

/-- An issue of a lane-by-lane instruction in which every acting lane has its effect and goes on. -/
theorem issue_runG (s : State) (gd : Guard) (srcs : List (Reg × Nat)) (ready : State → Cur → List Nat → Bool)
    (body : Entry → Group → Group → Nat → Except Fate (Group × Fate)) (c : Cur) (t : Team) (g : Group) (e : Entry)
    (fate : Nat → Fate) (eff : Group → Nat → Group) (pc : Nat → BitVec 64 × BitVec 8) (hi : s.issues c t g e)
    (hs : ∀ l ∈ actLanes g e gd, ∀ x ∈ srcs, srcPending g l x.1 x.2 = false)
    (hr : ready s c (actLanes g e gd) = true)
    (hf : ∀ l ∈ actLanes g e gd, (fate l).moves = true ∧ (fate l).place e = some (pc l))
    (hv : ∀ h l k, ((eff h l).thread k).live = (h.thread k).live ∧ ((eff h l).thread k).mx = (h.thread k).mx)
    (hn : ∀ h l, (eff h l).entries = h.entries)
    (hb : ∀ pre l post, actLanes g e gd = pre ++ l :: post →
      body e g (pre.foldl eff g) l = .ok (eff (pre.foldl eff g) l, fate l)) :
    ∃ s', issue s gd srcs ready (runG body) = .next s' ∧ s.spread s' c g e (actLanes g e gd) pc eff := by
  obtain ⟨h1, h2, h3, _⟩ := holds_of_issues hi
  refine ⟨_, issue_ready s gd srcs ready _ c t g e _ fate hi hs hr (fun l hl => ne_stay_of_moves (hf l hl).1) ?_,
    finish_spread s c t g e (actLanes g e gd) fate eff pc hi hf (fun l hl => actLanes_sub hl) hv hn⟩
  unfold runG
  rw [h1]
  simp only
  rw [h2, foldLanes_ok (body e g) eff fate _ g hb]

/-- What every lane finds in its turn, at each split of the list. -/
theorem turns_split {ready : State → Nat → Prop} {eff : State → Nat → State} {ls : List Nat} {s : State}
    (h : turns ready eff ls s) (pre : List Nat) (l : Nat) (post : List Nat) (hp : ls = pre ++ l :: post) :
    ready (pre.foldl eff s) l := by
  induction pre generalizing ls s with
  | nil => subst hp; exact h.1
  | cons x xs ih => subst hp; exact ih h.2 rfl

/-- An issue of an instruction whose effect reaches beyond its group, in which every acting lane has its effect and goes on. -/
theorem issue_runS (s : State) (gd : Guard) (srcs : List (Reg × Nat)) (ready : State → Cur → List Nat → Bool)
    (body : Cur → Entry → State → Nat → Except Fate (State × Fate)) (c : Cur) (t : Team) (g : Group) (e : Entry)
    (rd : State → Nat → Prop) (eff : State → Nat → State) (hi : s.issues c t g e)
    (hs : ∀ l ∈ actLanes g e gd, ∀ x ∈ srcs, srcPending g l x.1 x.2 = false)
    (hr : ready s c (actLanes g e gd) = true)
    (hb : ∀ u l, rd u l → u.holds c → body c e u l = .ok (eff u l, .next) ∧ (eff u l).holds c)
    (hn : ∀ u l, rd u l → u.holds c → ((eff u l).grp c).entries = (u.grp c).entries)
    (ht : turns rd eff (actLanes g e gd) s) :
    ∃ s', issue s gd srcs ready (runS body) = .next s' ∧ s.performs s' c e (actLanes g e gd) eff := by
  obtain ⟨h1, h2, h3, _⟩ := holds_of_issues hi
  have hh : s.holds c := ⟨t, h1, hi.2.1, h3⟩
  have hold (ls : List Nat) (u : State) (hu : u.holds c) (hl : turns rd eff ls u) : (ls.foldl eff u).holds c := by
    induction ls generalizing u with
    | nil => exact hu
    | cons x xs ih => exact ih _ (hb u x hl.1 hu).2 hl.2
  have pres (pre l post) (hp : actLanes g e gd = pre ++ l :: post) : turns rd eff pre s := by
    generalize actLanes g e gd = ls at hp ht
    subst hp
    clear hs hr hold
    revert ht
    generalize s = u
    induction pre generalizing u with
    | nil => intro _; trivial
    | cons x xs ih => intro ht; exact ⟨ht.1, ih _ ht.2⟩
  have same (ls : List Nat) (u : State) (hu : u.holds c) (hl : turns rd eff ls u) :
      ((ls.foldl eff u).grp c).entries = (u.grp c).entries := by
    induction ls generalizing u with
    | nil => rfl
    | cons x xs ih => exact (ih _ (hb u x hl.1 hu).2 hl.2).trans (hn u x hl.1 hu)
  let fs := (actLanes g e gd).map fun l => (l, Fate.next)
  have hfs : ∀ x ∈ fs, x.2.moves = true := by
    intro x hx
    obtain ⟨l, hl, rfl⟩ := List.mem_map.1 hx
    rfl
  have hm := hold _ s hh ht
  have m := finishIssue_moves _ c e fs hm hfs
  have m1 := m.1 (by rw [same _ s hh ht, grp_of h1, h2]; exact hi.2.2.2)
  refine ⟨finishIssue ((actLanes g e gd).foldl eff s) c e fs,
    issue_ready s gd srcs ready _ c t g e _ (fun _ => Fate.next) hi hs hr (fun _ _ => by simp) ?_,
    ⟨fun l hl => m1 l (actLanes_sub hl) _ ?_, fun l hl hn => m1 l hl _ ?_⟩, finishIssue_settles _ c e fs hm hfs⟩
  · exact foldLanes_ok (body c e) eff (fun _ => Fate.next) _ s fun pre l post hp =>
      (hb _ l (turns_split ht pre l post hp) (hold pre s hh (pres pre l post hp))).1
  · rw [fateOf_map, if_pos hl]; rfl
  · rw [fateOf_map, if_neg hn]; rfl

end Sys2Proof.Machine
end

