-- ==== Sys2Proof/Laws/Memory.lean ====
section
/-! SUPPORT. Byte memories: every operation keeps the canonical form; a read finds what was written last. -/

namespace Sys2Proof.Machine

theorem Memory.wfFrom_mono (m : Memory) (lo hi : Nat) (h : lo ≤ hi) (hm : Memory.wfFrom hi m = true) : Memory.wfFrom lo m = true := by
  cases m with
  | nil => rfl
  | cons c m =>
    obtain ⟨a, v⟩ := c
    simp only [Memory.wfFrom, Bool.and_eq_true, decide_eq_true_eq] at hm ⊢
    exact ⟨⟨by omega, hm.1.2⟩, hm.2⟩

theorem Memory.write_wfFrom (m : Memory) (lo a : Nat) (v : BitVec 8) (h : lo ≤ a) (hm : Memory.wfFrom lo m = true) :
    Memory.wfFrom lo (m.write a v) = true := by
  induction m generalizing lo with
  | nil => unfold Memory.write; split <;> simp_all [Memory.wfFrom]
  | cons c m ih =>
    obtain ⟨b, w⟩ := c
    simp only [Memory.wfFrom, Bool.and_eq_true, decide_eq_true_eq, bne_iff_ne] at hm
    unfold Memory.write
    split
    · split
      · simpa [Memory.wfFrom] using hm
      · simp only [Memory.wfFrom, Bool.and_eq_true, decide_eq_true_eq, bne_iff_ne]
        exact ⟨⟨h, ‹_›⟩, ⟨by omega, hm.1.2⟩, hm.2⟩
    · split
      · split
        · exact Memory.wfFrom_mono _ _ _ (by omega) hm.2
        · simp only [Memory.wfFrom, Bool.and_eq_true, decide_eq_true_eq, bne_iff_ne]
          exact ⟨⟨h, ‹_›⟩, Memory.wfFrom_mono _ _ _ (by omega) hm.2⟩
      · simp only [Memory.wfFrom, Bool.and_eq_true, decide_eq_true_eq, bne_iff_ne]
        exact ⟨hm.1, ih _ (by omega) hm.2⟩

/-- A write keeps the canonical form. -/
theorem Memory.write_wf (m : Memory) (a : Nat) (v : BitVec 8) (hm : Memory.wf m = true) : Memory.wf (m.write a v) = true :=
  Memory.write_wfFrom m 0 a v (by omega) hm

/-- A wide write keeps the canonical form. -/
theorem Memory.writeN_wf (m : Memory) (a n v : Nat) (hm : Memory.wf m = true) : Memory.wf (m.writeN a n v) = true := by
  induction n generalizing m a v with
  | zero => exact hm
  | succ n ih => exact ih _ _ _ (m.write_wf a _ hm)

/-- Writing a sequence of bytes keeps the canonical form. -/
theorem Memory.writeBytes_wf (m : Memory) (a : Nat) (bs : List (BitVec 8)) (hm : Memory.wf m = true) :
    Memory.wf (Memory.writeBytes m a bs) = true := by
  induction bs generalizing m a with
  | nil => exact hm
  | cons b bs ih => exact ih _ _ (m.write_wf a b hm)

theorem Memory.read_below (m : Memory) (lo a : Nat) (h : a < lo) (hm : Memory.wfFrom lo m = true) : m.read a = 0 := by
  cases m with
  | nil => rfl
  | cons c m =>
    obtain ⟨b, w⟩ := c
    simp only [Memory.wfFrom, Bool.and_eq_true, decide_eq_true_eq] at hm
    simp only [Memory.read]; rw [if_pos (by omega)]

theorem Memory.read_writeFrom (m : Memory) (lo a k : Nat) (v : BitVec 8) (hm : Memory.wfFrom lo m = true) :
    (m.write a v).read k = if k = a then v else m.read k := by
  induction m generalizing lo with
  | nil =>
    unfold Memory.write
    split
    · rename_i h; subst h; split <;> rfl
    · simp only [Memory.read]
      split
      · rw [if_neg (by omega)]
      · rfl
  | cons c m ih =>
    obtain ⟨b, w⟩ := c
    simp only [Memory.wfFrom, Bool.and_eq_true, decide_eq_true_eq, bne_iff_ne] at hm
    have hb := Memory.read_below m (b + 1)
    unfold Memory.write
    split
    · split
      · rename_i h; subst h
        by_cases hk : k = a
        · subst hk; simp only [Memory.read, if_true]; rw [if_pos (by omega)]
        · simp [hk]
      · simp only [Memory.read]
        by_cases hk : k = a
        · subst hk; simp
        · simp only [hk, if_false]
          by_cases h2 : k < a
          · rw [if_pos h2, if_pos (by omega)]
          · rw [if_neg h2]
    · split
      · rename_i hba; subst hba
        split
        · rename_i h; subst h
          by_cases hk : k = a
          · subst hk; simp only [if_true]; exact hb k (by omega) hm.2
          · simp only [hk, if_false, Memory.read]
            split
            · exact hb k (by omega) hm.2
            · rfl
        · simp only [Memory.read]
          by_cases hk : k = a
          · subst hk; simp
          · simp only [hk, if_false]
      · simp only [Memory.read]
        rw [ih _ hm.2]
        by_cases hk : k = a
        · subst hk; rw [if_neg (by omega), if_neg (by omega)]; simp
        · simp only [hk, if_false]

/-- A read after a write: the byte written, and every other byte as it was. -/
theorem Memory.read_write (m : Memory) (a k : Nat) (v : BitVec 8) (hm : Memory.wf m = true) :
    (m.write a v).read k = if k = a then v else m.read k := Memory.read_writeFrom m 0 a k v hm

/-- A wide write leaves every byte outside it alone. -/
theorem Memory.read_writeN_out (m : Memory) (a n v k : Nat) (hm : Memory.wf m = true) (h : k < a ∨ a + n ≤ k) :
    (m.writeN a n v).read k = m.read k := by
  induction n generalizing m a v with
  | zero => rfl
  | succ n ih =>
    simp only [Memory.writeN]
    rw [ih _ _ _ (m.write_wf a _ hm) (by omega), Memory.read_write _ _ _ _ hm, if_neg (by omega)]

/-- A wide read after the write of the same bytes. -/
theorem Memory.readN_writeN (m : Memory) (a n v : Nat) (hm : Memory.wf m = true) : (m.writeN a n v).readN a n = v % 256 ^ n := by
  induction n generalizing m a v with
  | zero => simp [Memory.readN, Nat.mod_one]
  | succ n ih =>
    simp only [Memory.writeN, Memory.readN]
    rw [ih _ _ _ (m.write_wf a _ hm), Memory.read_writeN_out _ _ _ _ _ (m.write_wf a _ hm) (by omega), Memory.read_write _ _ _ _ hm,
      if_pos rfl, BitVec.toNat_ofNat]
    have h : v % 256 ^ (n + 1) = v % 256 + 256 * (v / 256 % 256 ^ n) := by
      rw [Nat.pow_succ, Nat.mul_comm]; exact Nat.mod_mul
    exact h.symm

end Sys2Proof.Machine
end

