-- ==== Sys2Proof/Laws/Operand.lean ====
section
/-! SUPPORT. Operands: what a source, a destination and an update of a thread come to. -/

namespace Sys2Proof.Machine

/-- A source that is there reads its operand. -/
theorem Group.opnd_of_has {g : Group} {l r w} (h : g.has l r w) : readSrc g l r w = .ok (g.opnd l r w) := by
  obtain ⟨x, hx⟩ := h; unfold Group.opnd; rw [hx]

/-- A destination that is free resolves to its place. -/
theorem Group.dst_of_room {g : Group} {l r w} (h : g.room l r w) : dstReady g l r w = .ok (g.dst l r w) := by
  obtain ⟨x, hx⟩ := h; unfold Group.dst; rw [hx]

/-- A source that is there is not Pending, so no issue waits for it. -/
theorem Group.notPending_of_has {g : Group} {l r w} (h : g.has l r w) : srcPending g l r w = false := by
  obtain ⟨x, hx⟩ := h
  unfold readSrc at hx
  unfold srcPending
  cases hr : resolve g l r w with
  | error f => rfl
  | ok ref =>
    rw [hr] at hx
    simp only [bind, Except.bind] at hx
    unfold readRef at hx
    simp only at hx ⊢
    split at hx
    · cases hx
    · split at hx
      · split at hx <;> cases hx
      · simp_all

/-- A source that is there and not poisoned gives its value to an instruction that would consume poison. -/
theorem Group.readClean_of_clean {g : Group} {l r w} (h : g.clean l r w) : readClean g l r w = .ok (g.val l r w) := by
  unfold readClean
  rw [Group.opnd_of_has h.1]
  show (consumeAll [g.opnd l r w] >>= fun _ => .ok (g.opnd l r w).val) = _
  have h2 : consumeAll [g.opnd l r w] = .ok () := by unfold consumeAll; simp [h.2]
  rw [h2]; rfl

/-- An update of a thread that keeps LIVE and the matrix mark keeps them in every lane. -/
theorem Group.updThread_live_mx (g : Group) (l k : Nat) (f : Thread → Thread) (h : ∀ t : Thread, (f t).live = t.live ∧ (f t).mx = t.mx) :
    ((g.updThread l f).thread k).live = (g.thread k).live ∧ ((g.updThread l f).thread k).mx = (g.thread k).mx := by
  rw [thread_set]; split
  · rename_i hh; rw [hh.1]; exact h _
  · exact ⟨rfl, rfl⟩

/-- A write of register slots ends no thread. -/
theorem putSlots_live_mx (g : Group) (l k : Nat) (r : Ref) (vs) :
    ((putSlots g l r vs).thread k).live = (g.thread k).live ∧ ((putSlots g l r vs).thread k).mx = (g.thread k).mx := by
  unfold putSlots; split
  · exact ⟨rfl, rfl⟩
  · exact Group.updThread_live_mx g l k (fun t => { t with regs := setRange t.regs _ vs }) fun _ => ⟨rfl, rfl⟩
  · exact ⟨rfl, rfl⟩

/-- A write of a predicate keeps everything of the thread but its predicates. -/
theorem Thread.setPred_eq (t : Thread) (k : Nat) (p : Bool) : ∃ q, t.setPred k p = { t with preds := q } := by
  unfold Thread.setPred; split
  · exact ⟨t.preds, rfl⟩
  · exact ⟨_, rfl⟩

end Sys2Proof.Machine
end

