-- ==== Sys2Proof/Laws/PerInstr.lean ====
section
/-! SUPPORT. Instruction by instruction: the decoder's reading of an instruction's word, field by field, is the instruction. -/

set_option linter.unusedSimpArgs false

namespace Sys2Proof

/-- The word of a well-formed instruction is read back as that instruction, with every field. -/
def Laws.Encoding.Statement (i : Instr) : Prop := i.wf = true → ∀ w, encode i = some w → parse w = some i

theorem Reg.ofBits_toBits (r : Reg) : Reg.ofBits r.toBits = r := by
  obtain ⟨i, w, c, n⟩ := r
  cases c <;> cases i <;> cases w <;> revert n <;> decide

theorem Guard.ofBits_toBits (g : Guard) : Guard.ofBits g.toBits = g := by
  obtain ⟨n, p⟩ := g
  cases n <;> revert p <;> decide

/-! ## Fields of a wordRR -/

theorem wordRR_op (op : BitVec 8) (gd : Guard) (d a b c : Reg) (m : BitVec 12) : (wordRR op gd d a b c m).extractLsb' 56 8 = op := by
  simp (disch := omega) only [wordRR, BitVec.extractLsb'_append_eq_of_le, Nat.reduceSub, BitVec.extractLsb'_append_eq_of_add_le, BitVec.extractLsb'_eq_self, Guard.ofBits_toBits, Reg.ofBits_toBits]

theorem wordRR_gd (op : BitVec 8) (gd : Guard) (d a b c : Reg) (m : BitVec 12) : gdOf (wordRR op gd d a b c m) = gd := by
  unfold gdOf
  simp (disch := omega) only [wordRR, BitVec.extractLsb'_append_eq_of_le, Nat.reduceSub, BitVec.extractLsb'_append_eq_of_add_le, BitVec.extractLsb'_eq_self, Guard.ofBits_toBits, Reg.ofBits_toBits]

theorem wordRR_d (op : BitVec 8) (gd : Guard) (d a b c : Reg) (m : BitVec 12) : regAt (wordRR op gd d a b c m) 42 = d := by
  unfold regAt
  simp (disch := omega) only [wordRR, BitVec.extractLsb'_append_eq_of_le, Nat.reduceSub, BitVec.extractLsb'_append_eq_of_add_le, BitVec.extractLsb'_eq_self, Guard.ofBits_toBits, Reg.ofBits_toBits]

theorem wordRR_a (op : BitVec 8) (gd : Guard) (d a b c : Reg) (m : BitVec 12) : regAt (wordRR op gd d a b c m) 32 = a := by
  unfold regAt
  simp (disch := omega) only [wordRR, BitVec.extractLsb'_append_eq_of_le, Nat.reduceSub, BitVec.extractLsb'_append_eq_of_add_le, BitVec.extractLsb'_eq_self, Guard.ofBits_toBits, Reg.ofBits_toBits]

theorem wordRR_b (op : BitVec 8) (gd : Guard) (d a b c : Reg) (m : BitVec 12) : regAt (wordRR op gd d a b c m) 22 = b := by
  unfold regAt
  simp (disch := omega) only [wordRR, BitVec.extractLsb'_append_eq_of_le, Nat.reduceSub, BitVec.extractLsb'_append_eq_of_add_le, BitVec.extractLsb'_eq_self, Guard.ofBits_toBits, Reg.ofBits_toBits]

theorem wordRR_c (op : BitVec 8) (gd : Guard) (d a b c : Reg) (m : BitVec 12) : regAt (wordRR op gd d a b c m) 12 = c := by
  unfold regAt
  simp (disch := omega) only [wordRR, BitVec.extractLsb'_append_eq_of_le, Nat.reduceSub, BitVec.extractLsb'_append_eq_of_add_le, BitVec.extractLsb'_eq_self, Guard.ofBits_toBits, Reg.ofBits_toBits]

theorem wordRR_m (op : BitVec 8) (gd : Guard) (d a b c : Reg) (m : BitVec 12) (lo n : Nat) (h : lo + n ≤ 12) :
    (wordRR op gd d a b c m).extractLsb' lo n = m.extractLsb' lo n :=
  BitVec.extractLsb'_append_eq_of_add_le h

/-! ## Fields of a wordRI -/

theorem wordRI_op (op : BitVec 8) (gd : Guard) (d a : Reg) (m : BitVec 32) : (wordRI op gd d a m).extractLsb' 56 8 = op := by
  simp (disch := omega) only [wordRI, BitVec.extractLsb'_append_eq_of_le, Nat.reduceSub, BitVec.extractLsb'_append_eq_of_add_le, BitVec.extractLsb'_eq_self, Guard.ofBits_toBits, Reg.ofBits_toBits]

theorem wordRI_gd (op : BitVec 8) (gd : Guard) (d a : Reg) (m : BitVec 32) : gdOf (wordRI op gd d a m) = gd := by
  unfold gdOf
  simp (disch := omega) only [wordRI, BitVec.extractLsb'_append_eq_of_le, Nat.reduceSub, BitVec.extractLsb'_append_eq_of_add_le, BitVec.extractLsb'_eq_self, Guard.ofBits_toBits, Reg.ofBits_toBits]

theorem wordRI_d (op : BitVec 8) (gd : Guard) (d a : Reg) (m : BitVec 32) : regAt (wordRI op gd d a m) 42 = d := by
  unfold regAt
  simp (disch := omega) only [wordRI, BitVec.extractLsb'_append_eq_of_le, Nat.reduceSub, BitVec.extractLsb'_append_eq_of_add_le, BitVec.extractLsb'_eq_self, Guard.ofBits_toBits, Reg.ofBits_toBits]

theorem wordRI_a (op : BitVec 8) (gd : Guard) (d a : Reg) (m : BitVec 32) : regAt (wordRI op gd d a m) 32 = a := by
  unfold regAt
  simp (disch := omega) only [wordRI, BitVec.extractLsb'_append_eq_of_le, Nat.reduceSub, BitVec.extractLsb'_append_eq_of_add_le, BitVec.extractLsb'_eq_self, Guard.ofBits_toBits, Reg.ofBits_toBits]

theorem wordRI_m (op : BitVec 8) (gd : Guard) (d a : Reg) (m : BitVec 32) (lo n : Nat) (h : lo + n ≤ 32) :
    (wordRI op gd d a m).extractLsb' lo n = m.extractLsb' lo n :=
  BitVec.extractLsb'_append_eq_of_add_le h

/-! ## Fields of a wordMEM -/

theorem wordMEM_op (op : BitVec 8) (gd : Guard) (t a x : Reg) (m : BitVec 22) : (wordMEM op gd t a x m).extractLsb' 56 8 = op := by
  simp (disch := omega) only [wordMEM, BitVec.extractLsb'_append_eq_of_le, Nat.reduceSub, BitVec.extractLsb'_append_eq_of_add_le, BitVec.extractLsb'_eq_self, Guard.ofBits_toBits, Reg.ofBits_toBits]

theorem wordMEM_gd (op : BitVec 8) (gd : Guard) (t a x : Reg) (m : BitVec 22) : gdOf (wordMEM op gd t a x m) = gd := by
  unfold gdOf
  simp (disch := omega) only [wordMEM, BitVec.extractLsb'_append_eq_of_le, Nat.reduceSub, BitVec.extractLsb'_append_eq_of_add_le, BitVec.extractLsb'_eq_self, Guard.ofBits_toBits, Reg.ofBits_toBits]

theorem wordMEM_t (op : BitVec 8) (gd : Guard) (t a x : Reg) (m : BitVec 22) : regAt (wordMEM op gd t a x m) 42 = t := by
  unfold regAt
  simp (disch := omega) only [wordMEM, BitVec.extractLsb'_append_eq_of_le, Nat.reduceSub, BitVec.extractLsb'_append_eq_of_add_le, BitVec.extractLsb'_eq_self, Guard.ofBits_toBits, Reg.ofBits_toBits]

theorem wordMEM_a (op : BitVec 8) (gd : Guard) (t a x : Reg) (m : BitVec 22) : regAt (wordMEM op gd t a x m) 32 = a := by
  unfold regAt
  simp (disch := omega) only [wordMEM, BitVec.extractLsb'_append_eq_of_le, Nat.reduceSub, BitVec.extractLsb'_append_eq_of_add_le, BitVec.extractLsb'_eq_self, Guard.ofBits_toBits, Reg.ofBits_toBits]

theorem wordMEM_x (op : BitVec 8) (gd : Guard) (t a x : Reg) (m : BitVec 22) : regAt (wordMEM op gd t a x m) 22 = x := by
  unfold regAt
  simp (disch := omega) only [wordMEM, BitVec.extractLsb'_append_eq_of_le, Nat.reduceSub, BitVec.extractLsb'_append_eq_of_add_le, BitVec.extractLsb'_eq_self, Guard.ofBits_toBits, Reg.ofBits_toBits]

theorem wordMEM_m (op : BitVec 8) (gd : Guard) (t a x : Reg) (m : BitVec 22) (lo n : Nat) (h : lo + n ≤ 22) :
    (wordMEM op gd t a x m).extractLsb' lo n = m.extractLsb' lo n :=
  BitVec.extractLsb'_append_eq_of_add_le h

/-! ## Fields of a wordBR -/

theorem wordBR_op (op : BitVec 8) (gd : Guard) (pr : BitVec 8) (a : Reg) (m : BitVec 32) : (wordBR op gd pr a m).extractLsb' 56 8 = op := by
  simp (disch := omega) only [wordBR, BitVec.extractLsb'_append_eq_of_le, Nat.reduceSub, BitVec.extractLsb'_append_eq_of_add_le, BitVec.extractLsb'_eq_self, Guard.ofBits_toBits, Reg.ofBits_toBits]

theorem wordBR_gd (op : BitVec 8) (gd : Guard) (pr : BitVec 8) (a : Reg) (m : BitVec 32) : gdOf (wordBR op gd pr a m) = gd := by
  unfold gdOf
  simp (disch := omega) only [wordBR, BitVec.extractLsb'_append_eq_of_le, Nat.reduceSub, BitVec.extractLsb'_append_eq_of_add_le, BitVec.extractLsb'_eq_self, Guard.ofBits_toBits, Reg.ofBits_toBits]

theorem wordBR_a (op : BitVec 8) (gd : Guard) (pr : BitVec 8) (a : Reg) (m : BitVec 32) : regAt (wordBR op gd pr a m) 32 = a := by
  unfold regAt
  simp (disch := omega) only [wordBR, BitVec.extractLsb'_append_eq_of_le, Nat.reduceSub, BitVec.extractLsb'_append_eq_of_add_le, BitVec.extractLsb'_eq_self, Guard.ofBits_toBits, Reg.ofBits_toBits]

theorem wordBR_pr (op : BitVec 8) (gd : Guard) (pr : BitVec 8) (a : Reg) (m : BitVec 32) : (wordBR op gd pr a m).extractLsb' 44 8 = pr := by
  simp (disch := omega) only [wordBR, BitVec.extractLsb'_append_eq_of_le, Nat.reduceSub, BitVec.extractLsb'_append_eq_of_add_le, BitVec.extractLsb'_eq_self, Guard.ofBits_toBits, Reg.ofBits_toBits]

theorem wordBR_m (op : BitVec 8) (gd : Guard) (pr : BitVec 8) (a : Reg) (m : BitVec 32) (lo n : Nat) (h : lo + n ≤ 32) :
    (wordBR op gd pr a m).extractLsb' lo n = m.extractLsb' lo n :=
  BitVec.extractLsb'_append_eq_of_add_le h

/-! ## The instructions -/

set_option maxRecDepth 20000 in
theorem Laws.Encoding.nop (gd : Guard) : Laws.Encoding.Statement (.nop gd) := by
  intro _ w h
  have ho : w.extractLsb' 56 8 = 0x01#8 := by rw [← Option.some.inj h]; exact wordRI_op ..
  have hp : parse w = some (.nop (gdOf w)) := by unfold parse; rw [ho]; rfl
  rw [hp, ← Option.some.inj h]
  simp (disch := omega) only [wordRI_gd, wordRI_d, wordRI_a, wordRI_m, BitVec.extractLsb'_append_eq_of_le, Nat.reduceSub,
    BitVec.extractLsb'_append_eq_of_add_le, BitVec.extractLsb'_eq_self]

set_option maxRecDepth 20000 in
theorem Laws.Encoding.bra (gd : Guard) (pr : BitVec 8) (disp : BitVec 32) : Laws.Encoding.Statement (.bra gd pr disp) := by
  intro _ w h
  have ho : w.extractLsb' 56 8 = 0x02#8 := by rw [← Option.some.inj h]; exact wordBR_op ..
  have hp : parse w = some (.bra (gdOf w) (w.extractLsb' 44 8) (w.extractLsb' 0 32)) := by unfold parse; rw [ho]; rfl
  rw [hp, ← Option.some.inj h]
  simp (disch := omega) only [wordBR_gd, wordBR_a, wordBR_pr, wordBR_m, BitVec.extractLsb'_append_eq_of_le, Nat.reduceSub,
    BitVec.extractLsb'_append_eq_of_add_le, BitVec.extractLsb'_eq_self]

set_option maxRecDepth 20000 in
theorem Laws.Encoding.brx (gd : Guard) (a : Reg) (pr : BitVec 8) : Laws.Encoding.Statement (.brx gd a pr) := by
  intro _ w h
  have ho : w.extractLsb' 56 8 = 0x03#8 := by rw [← Option.some.inj h]; exact wordBR_op ..
  have hp : parse w = some (.brx (gdOf w) (regAt w 32) (w.extractLsb' 44 8)) := by unfold parse; rw [ho]; rfl
  rw [hp, ← Option.some.inj h]
  simp (disch := omega) only [wordBR_gd, wordBR_a, wordBR_pr, wordBR_m, BitVec.extractLsb'_append_eq_of_le, Nat.reduceSub,
    BitVec.extractLsb'_append_eq_of_add_le, BitVec.extractLsb'_eq_self]

set_option maxRecDepth 20000 in
theorem Laws.Encoding.call (gd : Guard) (pr : BitVec 8) (disp : BitVec 32) : Laws.Encoding.Statement (.call gd pr disp) := by
  intro _ w h
  have ho : w.extractLsb' 56 8 = 0x04#8 := by rw [← Option.some.inj h]; exact wordBR_op ..
  have hp : parse w = some (.call (gdOf w) (w.extractLsb' 44 8) (w.extractLsb' 0 32)) := by unfold parse; rw [ho]; rfl
  rw [hp, ← Option.some.inj h]
  simp (disch := omega) only [wordBR_gd, wordBR_a, wordBR_pr, wordBR_m, BitVec.extractLsb'_append_eq_of_le, Nat.reduceSub,
    BitVec.extractLsb'_append_eq_of_add_le, BitVec.extractLsb'_eq_self]

set_option maxRecDepth 20000 in
theorem Laws.Encoding.callx (gd : Guard) (a : Reg) (pr : BitVec 8) : Laws.Encoding.Statement (.callx gd a pr) := by
  intro _ w h
  have ho : w.extractLsb' 56 8 = 0x05#8 := by rw [← Option.some.inj h]; exact wordBR_op ..
  have hp : parse w = some (.callx (gdOf w) (regAt w 32) (w.extractLsb' 44 8)) := by unfold parse; rw [ho]; rfl
  rw [hp, ← Option.some.inj h]
  simp (disch := omega) only [wordBR_gd, wordBR_a, wordBR_pr, wordBR_m, BitVec.extractLsb'_append_eq_of_le, Nat.reduceSub,
    BitVec.extractLsb'_append_eq_of_add_le, BitVec.extractLsb'_eq_self]

set_option maxRecDepth 20000 in
theorem Laws.Encoding.ret (gd : Guard) (a : Reg) : Laws.Encoding.Statement (.ret gd a) := by
  intro _ w h
  have ho : w.extractLsb' 56 8 = 0x06#8 := by rw [← Option.some.inj h]; exact wordBR_op ..
  have hp : parse w = some (.ret (gdOf w) (regAt w 32)) := by unfold parse; rw [ho]; rfl
  rw [hp, ← Option.some.inj h]
  simp (disch := omega) only [wordBR_gd, wordBR_a, wordBR_pr, wordBR_m, BitVec.extractLsb'_append_eq_of_le, Nat.reduceSub,
    BitVec.extractLsb'_append_eq_of_add_le, BitVec.extractLsb'_eq_self]

set_option maxRecDepth 20000 in
theorem Laws.Encoding.exit (gd : Guard) : Laws.Encoding.Statement (.exit gd) := by
  intro _ w h
  have ho : w.extractLsb' 56 8 = 0x07#8 := by rw [← Option.some.inj h]; exact wordRI_op ..
  have hp : parse w = some (.exit (gdOf w)) := by unfold parse; rw [ho]; rfl
  rw [hp, ← Option.some.inj h]
  simp (disch := omega) only [wordRI_gd, wordRI_d, wordRI_a, wordRI_m, BitVec.extractLsb'_append_eq_of_le, Nat.reduceSub,
    BitVec.extractLsb'_append_eq_of_add_le, BitVec.extractLsb'_eq_self]

set_option maxRecDepth 20000 in
theorem Laws.Encoding.yield (gd : Guard) (cyc : BitVec 16) : Laws.Encoding.Statement (.yield gd cyc) := by
  intro _ w h
  have ho : w.extractLsb' 56 8 = 0x08#8 := by rw [← Option.some.inj h]; exact wordRI_op ..
  have hp : parse w = some (.yield (gdOf w) (w.extractLsb' 0 16)) := by unfold parse; rw [ho]; rfl
  rw [hp, ← Option.some.inj h]
  simp (disch := omega) only [wordRI_gd, wordRI_d, wordRI_a, wordRI_m, BitVec.extractLsb'_append_eq_of_le, Nat.reduceSub,
    BitVec.extractLsb'_append_eq_of_add_le, BitVec.extractLsb'_eq_self]

set_option maxRecDepth 20000 in
theorem Laws.Encoding.prio (gd : Guard) (p : BitVec 8) : Laws.Encoding.Statement (.prio gd p) := by
  intro _ w h
  have ho : w.extractLsb' 56 8 = 0x09#8 := by rw [← Option.some.inj h]; exact wordRI_op ..
  have hp : parse w = some (.prio (gdOf w) (w.extractLsb' 0 8)) := by unfold parse; rw [ho]; rfl
  rw [hp, ← Option.some.inj h]
  simp (disch := omega) only [wordRI_gd, wordRI_d, wordRI_a, wordRI_m, BitVec.extractLsb'_append_eq_of_le, Nat.reduceSub,
    BitVec.extractLsb'_append_eq_of_add_le, BitVec.extractLsb'_eq_self]

set_option maxRecDepth 20000 in
theorem Laws.Encoding.regroup (gd : Guard) (a : Reg) : Laws.Encoding.Statement (.regroup gd a) := by
  intro _ w h
  have ho : w.extractLsb' 56 8 = 0x0A#8 := by rw [← Option.some.inj h]; exact wordRR_op ..
  have hp : parse w = some (.regroup (gdOf w) (regAt w 32)) := by unfold parse; rw [ho]; rfl
  rw [hp, ← Option.some.inj h]
  simp (disch := omega) only [wordRR_gd, wordRR_d, wordRR_a, wordRR_b, wordRR_c, wordRR_m, BitVec.extractLsb'_append_eq_of_le, Nat.reduceSub,
    BitVec.extractLsb'_append_eq_of_add_le, BitVec.extractLsb'_eq_self]

set_option maxRecDepth 20000 in
theorem Laws.Encoding.barg (gd : Guard) (a : Reg) (hi : BitVec 16) (lo : BitVec 16) : Laws.Encoding.Statement (.barg gd a hi lo) := by
  intro _ w h
  have ho : w.extractLsb' 56 8 = 0x0B#8 := by rw [← Option.some.inj h]; exact wordRI_op ..
  have hp : parse w = some (.barg (gdOf w) (regAt w 32) (w.extractLsb' 16 16) (w.extractLsb' 0 16)) := by unfold parse; rw [ho]; rfl
  rw [hp, ← Option.some.inj h]
  simp (disch := omega) only [wordRI_gd, wordRI_d, wordRI_a, wordRI_m, BitVec.extractLsb'_append_eq_of_le, Nat.reduceSub,
    BitVec.extractLsb'_append_eq_of_add_le, BitVec.extractLsb'_eq_self]

set_option maxRecDepth 20000 in
theorem Laws.Encoding.bart (gd : Guard) (a : Reg) (gm : BitVec 16) : Laws.Encoding.Statement (.bart gd a gm) := by
  intro _ w h
  have ho : w.extractLsb' 56 8 = 0x0C#8 := by rw [← Option.some.inj h]; exact wordRI_op ..
  have hp : parse w = some (.bart (gdOf w) (regAt w 32) (w.extractLsb' 0 16)) := by unfold parse; rw [ho]; rfl
  rw [hp, ← Option.some.inj h]
  simp (disch := omega) only [wordRI_gd, wordRI_d, wordRI_a, wordRI_m, BitVec.extractLsb'_append_eq_of_le, Nat.reduceSub,
    BitVec.extractLsb'_append_eq_of_add_le, BitVec.extractLsb'_eq_self]

set_option maxRecDepth 20000 in
theorem Laws.Encoding.arrive (gd : Guard) (d : Reg) (a : Reg) (ofs : BitVec 16) : Laws.Encoding.Statement (.arrive gd d a ofs) := by
  intro _ w h
  have ho : w.extractLsb' 56 8 = 0x0D#8 := by rw [← Option.some.inj h]; exact wordRI_op ..
  have hp : parse w = some (.arrive (gdOf w) (regAt w 42) (regAt w 32) (w.extractLsb' 0 16)) := by unfold parse; rw [ho]; rfl
  rw [hp, ← Option.some.inj h]
  simp (disch := omega) only [wordRI_gd, wordRI_d, wordRI_a, wordRI_m, BitVec.extractLsb'_append_eq_of_le, Nat.reduceSub,
    BitVec.extractLsb'_append_eq_of_add_le, BitVec.extractLsb'_eq_self]

set_option maxRecDepth 20000 in
theorem Laws.Encoding.await (gd : Guard) (a : Reg) (test : BitVec 1) (pd : BitVec 3) (ofs : BitVec 16) : Laws.Encoding.Statement (.await gd a test pd ofs) := by
  intro _ w h
  have ho : w.extractLsb' 56 8 = 0x0E#8 := by rw [← Option.some.inj h]; exact wordRI_op ..
  have hp : parse w = some (.await (gdOf w) (regAt w 32) (w.extractLsb' 19 1) (w.extractLsb' 16 3) (w.extractLsb' 0 16)) := by unfold parse; rw [ho]; rfl
  rw [hp, ← Option.some.inj h]
  simp (disch := omega) only [wordRI_gd, wordRI_d, wordRI_a, wordRI_m, BitVec.extractLsb'_append_eq_of_le, Nat.reduceSub,
    BitVec.extractLsb'_append_eq_of_add_le, BitVec.extractLsb'_eq_self]

set_option maxRecDepth 20000 in
theorem Laws.Encoding.vote (gd : Guard) (d : Reg) (c : Reg) (pd : BitVec 3) (op : BitVec 2) (neg : BitVec 1) (pa : BitVec 3) : Laws.Encoding.Statement (.vote gd d c pd op neg pa) := by
  intro _ w h
  have ho : w.extractLsb' 56 8 = 0x0F#8 := by rw [← Option.some.inj h]; exact wordRR_op ..
  have hp : parse w = some (.vote (gdOf w) (regAt w 42) (regAt w 12) (w.extractLsb' 6 3) (w.extractLsb' 4 2) (w.extractLsb' 3 1) (w.extractLsb' 0 3)) := by unfold parse; rw [ho]; rfl
  rw [hp, ← Option.some.inj h]
  simp (disch := omega) only [wordRR_gd, wordRR_d, wordRR_a, wordRR_b, wordRR_c, wordRR_m, BitVec.extractLsb'_append_eq_of_le, Nat.reduceSub,
    BitVec.extractLsb'_append_eq_of_add_le, BitVec.extractLsb'_eq_self]

set_option maxRecDepth 20000 in
theorem Laws.Encoding.elect (gd : Guard) (d : Reg) (c : Reg) (pd : BitVec 3) : Laws.Encoding.Statement (.elect gd d c pd) := by
  intro _ w h
  have ho : w.extractLsb' 56 8 = 0x10#8 := by rw [← Option.some.inj h]; exact wordRR_op ..
  have hp : parse w = some (.elect (gdOf w) (regAt w 42) (regAt w 12) (w.extractLsb' 0 3)) := by unfold parse; rw [ho]; rfl
  rw [hp, ← Option.some.inj h]
  simp (disch := omega) only [wordRR_gd, wordRR_d, wordRR_a, wordRR_b, wordRR_c, wordRR_m, BitVec.extractLsb'_append_eq_of_le, Nat.reduceSub,
    BitVec.extractLsb'_append_eq_of_add_le, BitVec.extractLsb'_eq_self]

set_option maxRecDepth 20000 in
theorem Laws.Encoding.shfl (gd : Guard) (d : Reg) (a : Reg) (b : Reg) (c : Reg) (mode : BitVec 2) (pd : BitVec 3) : Laws.Encoding.Statement (.shfl gd d a b c mode pd) := by
  intro _ w h
  have ho : w.extractLsb' 56 8 = 0x11#8 := by rw [← Option.some.inj h]; exact wordRR_op ..
  have hp : parse w = some (.shfl (gdOf w) (regAt w 42) (regAt w 32) (regAt w 22) (regAt w 12) (w.extractLsb' 3 2) (w.extractLsb' 0 3)) := by unfold parse; rw [ho]; rfl
  rw [hp, ← Option.some.inj h]
  simp (disch := omega) only [wordRR_gd, wordRR_d, wordRR_a, wordRR_b, wordRR_c, wordRR_m, BitVec.extractLsb'_append_eq_of_le, Nat.reduceSub,
    BitVec.extractLsb'_append_eq_of_add_le, BitVec.extractLsb'_eq_self]

set_option maxRecDepth 20000 in
theorem Laws.Encoding.redg (gd : Guard) (d : Reg) (a : Reg) (c : Reg) (op : BitVec 4) : Laws.Encoding.Statement (.redg gd d a c op) := by
  intro _ w h
  have ho : w.extractLsb' 56 8 = 0x12#8 := by rw [← Option.some.inj h]; exact wordRR_op ..
  have hp : parse w = some (.redg (gdOf w) (regAt w 42) (regAt w 32) (regAt w 12) (w.extractLsb' 0 4)) := by unfold parse; rw [ho]; rfl
  rw [hp, ← Option.some.inj h]
  simp (disch := omega) only [wordRR_gd, wordRR_d, wordRR_a, wordRR_b, wordRR_c, wordRR_m, BitVec.extractLsb'_append_eq_of_le, Nat.reduceSub,
    BitVec.extractLsb'_append_eq_of_add_le, BitVec.extractLsb'_eq_self]

set_option maxRecDepth 20000 in
theorem Laws.Encoding.scang (gd : Guard) (d : Reg) (a : Reg) (c : Reg) (excl : BitVec 1) (op : BitVec 4) : Laws.Encoding.Statement (.scang gd d a c excl op) := by
  intro _ w h
  have ho : w.extractLsb' 56 8 = 0x13#8 := by rw [← Option.some.inj h]; exact wordRR_op ..
  have hp : parse w = some (.scang (gdOf w) (regAt w 42) (regAt w 32) (regAt w 12) (w.extractLsb' 4 1) (w.extractLsb' 0 4)) := by unfold parse; rw [ho]; rfl
  rw [hp, ← Option.some.inj h]
  simp (disch := omega) only [wordRR_gd, wordRR_d, wordRR_a, wordRR_b, wordRR_c, wordRR_m, BitVec.extractLsb'_append_eq_of_le, Nat.reduceSub,
    BitVec.extractLsb'_append_eq_of_add_le, BitVec.extractLsb'_eq_self]

set_option maxRecDepth 20000 in
theorem Laws.Encoding.matchG (gd : Guard) (d : Reg) (a : Reg) (c : Reg) (b64 : BitVec 1) (pd : BitVec 3) : Laws.Encoding.Statement (.matchG gd d a c b64 pd) := by
  intro _ w h
  have ho : w.extractLsb' 56 8 = 0x14#8 := by rw [← Option.some.inj h]; exact wordRR_op ..
  have hp : parse w = some (.matchG (gdOf w) (regAt w 42) (regAt w 32) (regAt w 12) (w.extractLsb' 3 1) (w.extractLsb' 0 3)) := by unfold parse; rw [ho]; rfl
  rw [hp, ← Option.some.inj h]
  simp (disch := omega) only [wordRR_gd, wordRR_d, wordRR_a, wordRR_b, wordRR_c, wordRR_m, BitVec.extractLsb'_append_eq_of_le, Nat.reduceSub,
    BitVec.extractLsb'_append_eq_of_add_le, BitVec.extractLsb'_eq_self]

set_option maxRecDepth 20000 in
theorem Laws.Encoding.waitt (gd : Guard) (a : Reg) : Laws.Encoding.Statement (.waitt gd a) := by
  intro _ w h
  have ho : w.extractLsb' 56 8 = 0x15#8 := by rw [← Option.some.inj h]; exact wordRI_op ..
  have hp : parse w = some (.waitt (gdOf w) (regAt w 32)) := by unfold parse; rw [ho]; rfl
  rw [hp, ← Option.some.inj h]
  simp (disch := omega) only [wordRI_gd, wordRI_d, wordRI_a, wordRI_m, BitVec.extractLsb'_append_eq_of_le, Nat.reduceSub,
    BitVec.extractLsb'_append_eq_of_add_le, BitVec.extractLsb'_eq_self]

set_option maxRecDepth 20000 in
theorem Laws.Encoding.mov (gd : Guard) (d : Reg) (a : Reg) (size : BitVec 2) : Laws.Encoding.Statement (.mov gd d a size) := by
  intro _ w h
  have ho : w.extractLsb' 56 8 = 0x20#8 := by rw [← Option.some.inj h]; exact wordRR_op ..
  have hp : parse w = some (.mov (gdOf w) (regAt w 42) (regAt w 32) (w.extractLsb' 0 2)) := by unfold parse; rw [ho]; rfl
  rw [hp, ← Option.some.inj h]
  simp (disch := omega) only [wordRR_gd, wordRR_d, wordRR_a, wordRR_b, wordRR_c, wordRR_m, BitVec.extractLsb'_append_eq_of_le, Nat.reduceSub,
    BitVec.extractLsb'_append_eq_of_add_le, BitVec.extractLsb'_eq_self]

set_option maxRecDepth 20000 in
theorem Laws.Encoding.movi (gd : Guard) (d : Reg) (imm : BitVec 32) : Laws.Encoding.Statement (.movi gd d imm) := by
  intro _ w h
  have ho : w.extractLsb' 56 8 = 0x21#8 := by rw [← Option.some.inj h]; exact wordRI_op ..
  have hp : parse w = some (.movi (gdOf w) (regAt w 42) (w.extractLsb' 0 32)) := by unfold parse; rw [ho]; rfl
  rw [hp, ← Option.some.inj h]
  simp (disch := omega) only [wordRI_gd, wordRI_d, wordRI_a, wordRI_m, BitVec.extractLsb'_append_eq_of_le, Nat.reduceSub,
    BitVec.extractLsb'_append_eq_of_add_le, BitVec.extractLsb'_eq_self]

set_option maxRecDepth 20000 in
theorem Laws.Encoding.movg (gd : Guard) (d : Reg) (a : Reg) (first : BitVec 1) (lane : BitVec 5) : Laws.Encoding.Statement (.movg gd d a first lane) := by
  intro _ w h
  have ho : w.extractLsb' 56 8 = 0x22#8 := by rw [← Option.some.inj h]; exact wordRR_op ..
  have hp : parse w = some (.movg (gdOf w) (regAt w 42) (regAt w 32) (w.extractLsb' 5 1) (w.extractLsb' 0 5)) := by unfold parse; rw [ho]; rfl
  rw [hp, ← Option.some.inj h]
  simp (disch := omega) only [wordRR_gd, wordRR_d, wordRR_a, wordRR_b, wordRR_c, wordRR_m, BitVec.extractLsb'_append_eq_of_le, Nat.reduceSub,
    BitVec.extractLsb'_append_eq_of_add_le, BitVec.extractLsb'_eq_self]

set_option maxRecDepth 20000 in
theorem Laws.Encoding.sel (gd : Guard) (d : Reg) (a : Reg) (b : Reg) (size : BitVec 1) (neg : BitVec 1) (pc : BitVec 3) : Laws.Encoding.Statement (.sel gd d a b size neg pc) := by
  intro _ w h
  have ho : w.extractLsb' 56 8 = 0x23#8 := by rw [← Option.some.inj h]; exact wordRR_op ..
  have hp : parse w = some (.sel (gdOf w) (regAt w 42) (regAt w 32) (regAt w 22) (w.extractLsb' 4 1) (w.extractLsb' 3 1) (w.extractLsb' 0 3)) := by unfold parse; rw [ho]; rfl
  rw [hp, ← Option.some.inj h]
  simp (disch := omega) only [wordRR_gd, wordRR_d, wordRR_a, wordRR_b, wordRR_c, wordRR_m, BitVec.extractLsb'_append_eq_of_le, Nat.reduceSub,
    BitVec.extractLsb'_append_eq_of_add_le, BitVec.extractLsb'_eq_self]

set_option maxRecDepth 20000 in
theorem Laws.Encoding.pset (gd : Guard) (a : Reg) (b : Reg) (test : BitVec 2) (pd : BitVec 3) : Laws.Encoding.Statement (.pset gd a b test pd) := by
  intro _ w h
  have ho : w.extractLsb' 56 8 = 0x24#8 := by rw [← Option.some.inj h]; exact wordRR_op ..
  have hp : parse w = some (.pset (gdOf w) (regAt w 32) (regAt w 22) (w.extractLsb' 3 2) (w.extractLsb' 0 3)) := by unfold parse; rw [ho]; rfl
  rw [hp, ← Option.some.inj h]
  simp (disch := omega) only [wordRR_gd, wordRR_d, wordRR_a, wordRR_b, wordRR_c, wordRR_m, BitVec.extractLsb'_append_eq_of_le, Nat.reduceSub,
    BitVec.extractLsb'_append_eq_of_add_le, BitVec.extractLsb'_eq_self]

set_option maxRecDepth 20000 in
theorem Laws.Encoding.plop (gd : Guard) (op : BitVec 3) (pd : BitVec 3) (pa : BitVec 3) (pb : BitVec 3) : Laws.Encoding.Statement (.plop gd op pd pa pb) := by
  intro _ w h
  have ho : w.extractLsb' 56 8 = 0x25#8 := by rw [← Option.some.inj h]; exact wordRR_op ..
  have hp : parse w = some (.plop (gdOf w) (w.extractLsb' 9 3) (w.extractLsb' 6 3) (w.extractLsb' 3 3) (w.extractLsb' 0 3)) := by unfold parse; rw [ho]; rfl
  rw [hp, ← Option.some.inj h]
  simp (disch := omega) only [wordRR_gd, wordRR_d, wordRR_a, wordRR_b, wordRR_c, wordRR_m, BitVec.extractLsb'_append_eq_of_le, Nat.reduceSub,
    BitVec.extractLsb'_append_eq_of_add_le, BitVec.extractLsb'_eq_self]

set_option maxRecDepth 20000 in
theorem Laws.Encoding.p2v (gd : Guard) (d : Reg) : Laws.Encoding.Statement (.p2v gd d) := by
  intro _ w h
  have ho : w.extractLsb' 56 8 = 0x26#8 := by rw [← Option.some.inj h]; exact wordRR_op ..
  have hp : parse w = some (.p2v (gdOf w) (regAt w 42)) := by unfold parse; rw [ho]; rfl
  rw [hp, ← Option.some.inj h]
  simp (disch := omega) only [wordRR_gd, wordRR_d, wordRR_a, wordRR_b, wordRR_c, wordRR_m, BitVec.extractLsb'_append_eq_of_le, Nat.reduceSub,
    BitVec.extractLsb'_append_eq_of_add_le, BitVec.extractLsb'_eq_self]

set_option maxRecDepth 20000 in
theorem Laws.Encoding.v2p (gd : Guard) (a : Reg) (mask : BitVec 7) : Laws.Encoding.Statement (.v2p gd a mask) := by
  intro _ w h
  have ho : w.extractLsb' 56 8 = 0x27#8 := by rw [← Option.some.inj h]; exact wordRR_op ..
  have hp : parse w = some (.v2p (gdOf w) (regAt w 32) (w.extractLsb' 0 7)) := by unfold parse; rw [ho]; rfl
  rw [hp, ← Option.some.inj h]
  simp (disch := omega) only [wordRR_gd, wordRR_d, wordRR_a, wordRR_b, wordRR_c, wordRR_m, BitVec.extractLsb'_append_eq_of_le, Nat.reduceSub,
    BitVec.extractLsb'_append_eq_of_add_le, BitVec.extractLsb'_eq_self]

set_option maxRecDepth 20000 in
theorem Laws.Encoding.wbase (gd : Guard) (a : Reg) (rel : BitVec 1) (delta : BitVec 16) : Laws.Encoding.Statement (.wbase gd a rel delta) := by
  intro _ w h
  have ho : w.extractLsb' 56 8 = 0x28#8 := by rw [← Option.some.inj h]; exact wordRI_op ..
  have hp : parse w = some (.wbase (gdOf w) (regAt w 32) (w.extractLsb' 31 1) (w.extractLsb' 0 16)) := by unfold parse; rw [ho]; rfl
  rw [hp, ← Option.some.inj h]
  simp (disch := omega) only [wordRI_gd, wordRI_d, wordRI_a, wordRI_m, BitVec.extractLsb'_append_eq_of_le, Nat.reduceSub,
    BitVec.extractLsb'_append_eq_of_add_le, BitVec.extractLsb'_eq_self]

set_option maxRecDepth 20000 in
theorem Laws.Encoding.ixset (gd : Guard) (a : Reg) (imm : BitVec 32) : Laws.Encoding.Statement (.ixset gd a imm) := by
  intro _ w h
  have ho : w.extractLsb' 56 8 = 0x29#8 := by rw [← Option.some.inj h]; exact wordRI_op ..
  have hp : parse w = some (.ixset (gdOf w) (regAt w 32) (w.extractLsb' 0 32)) := by unfold parse; rw [ho]; rfl
  rw [hp, ← Option.some.inj h]
  simp (disch := omega) only [wordRI_gd, wordRI_d, wordRI_a, wordRI_m, BitVec.extractLsb'_append_eq_of_le, Nat.reduceSub,
    BitVec.extractLsb'_append_eq_of_add_le, BitVec.extractLsb'_eq_self]

set_option maxRecDepth 20000 in
theorem Laws.Encoding.ixadd (gd : Guard) (a : Reg) (imm : BitVec 32) : Laws.Encoding.Statement (.ixadd gd a imm) := by
  intro _ w h
  have ho : w.extractLsb' 56 8 = 0x2A#8 := by rw [← Option.some.inj h]; exact wordRI_op ..
  have hp : parse w = some (.ixadd (gdOf w) (regAt w 32) (w.extractLsb' 0 32)) := by unfold parse; rw [ho]; rfl
  rw [hp, ← Option.some.inj h]
  simp (disch := omega) only [wordRI_gd, wordRI_d, wordRI_a, wordRI_m, BitVec.extractLsb'_append_eq_of_le, Nat.reduceSub,
    BitVec.extractLsb'_append_eq_of_add_le, BitVec.extractLsb'_eq_self]

set_option maxRecDepth 20000 in
theorem Laws.Encoding.srd (gd : Guard) (d : Reg) (sr : BitVec 16) : Laws.Encoding.Statement (.srd gd d sr) := by
  intro _ w h
  have ho : w.extractLsb' 56 8 = 0x2B#8 := by rw [← Option.some.inj h]; exact wordRI_op ..
  have hp : parse w = some (.srd (gdOf w) (regAt w 42) (w.extractLsb' 16 16)) := by unfold parse; rw [ho]; rfl
  rw [hp, ← Option.some.inj h]
  simp (disch := omega) only [wordRI_gd, wordRI_d, wordRI_a, wordRI_m, BitVec.extractLsb'_append_eq_of_le, Nat.reduceSub,
    BitVec.extractLsb'_append_eq_of_add_le, BitVec.extractLsb'_eq_self]

set_option maxRecDepth 20000 in
theorem Laws.Encoding.swr (gd : Guard) (a : Reg) (sr : BitVec 16) : Laws.Encoding.Statement (.swr gd a sr) := by
  intro _ w h
  have ho : w.extractLsb' 56 8 = 0x2C#8 := by rw [← Option.some.inj h]; exact wordRI_op ..
  have hp : parse w = some (.swr (gdOf w) (regAt w 32) (w.extractLsb' 16 16)) := by unfold parse; rw [ho]; rfl
  rw [hp, ← Option.some.inj h]
  simp (disch := omega) only [wordRI_gd, wordRI_d, wordRI_a, wordRI_m, BitVec.extractLsb'_append_eq_of_le, Nat.reduceSub,
    BitVec.extractLsb'_append_eq_of_add_le, BitVec.extractLsb'_eq_self]

set_option maxRecDepth 20000 in
theorem Laws.Encoding.empty (gd : Guard) (d : Reg) (size : BitVec 2) : Laws.Encoding.Statement (.empty gd d size) := by
  intro _ w h
  have ho : w.extractLsb' 56 8 = 0x2D#8 := by rw [← Option.some.inj h]; exact wordRR_op ..
  have hp : parse w = some (.empty (gdOf w) (regAt w 42) (w.extractLsb' 0 2)) := by unfold parse; rw [ho]; rfl
  rw [hp, ← Option.some.inj h]
  simp (disch := omega) only [wordRR_gd, wordRR_d, wordRR_a, wordRR_b, wordRR_c, wordRR_m, BitVec.extractLsb'_append_eq_of_le, Nat.reduceSub,
    BitVec.extractLsb'_append_eq_of_add_le, BitVec.extractLsb'_eq_self]

set_option maxRecDepth 20000 in
theorem Laws.Encoding.tfull (gd : Guard) (a : Reg) (test : BitVec 2) (pd : BitVec 3) : Laws.Encoding.Statement (.tfull gd a test pd) := by
  intro _ w h
  have ho : w.extractLsb' 56 8 = 0x2E#8 := by rw [← Option.some.inj h]; exact wordRR_op ..
  have hp : parse w = some (.tfull (gdOf w) (regAt w 32) (w.extractLsb' 3 2) (w.extractLsb' 0 3)) := by unfold parse; rw [ho]; rfl
  rw [hp, ← Option.some.inj h]
  simp (disch := omega) only [wordRR_gd, wordRR_d, wordRR_a, wordRR_b, wordRR_c, wordRR_m, BitVec.extractLsb'_append_eq_of_le, Nat.reduceSub,
    BitVec.extractLsb'_append_eq_of_add_le, BitVec.extractLsb'_eq_self]

set_option maxRecDepth 20000 in
theorem Laws.Encoding.allot (gd : Guard) (n : BitVec 8) (pd : BitVec 3) : Laws.Encoding.Statement (.allot gd n pd) := by
  intro _ w h
  have ho : w.extractLsb' 56 8 = 0x2F#8 := by rw [← Option.some.inj h]; exact wordRI_op ..
  have hp : parse w = some (.allot (gdOf w) (w.extractLsb' 3 8) (w.extractLsb' 0 3)) := by unfold parse; rw [ho]; rfl
  rw [hp, ← Option.some.inj h]
  simp (disch := omega) only [wordRI_gd, wordRI_d, wordRI_a, wordRI_m, BitVec.extractLsb'_append_eq_of_le, Nat.reduceSub,
    BitVec.extractLsb'_append_eq_of_add_le, BitVec.extractLsb'_eq_self]

set_option maxRecDepth 20000 in
theorem Laws.Encoding.iadd (gd : Guard) (d : Reg) (a : Reg) (b : Reg) (sat : BitVec 2) : Laws.Encoding.Statement (.iadd gd d a b sat) := by
  intro _ w h
  have ho : w.extractLsb' 56 8 = 0x30#8 := by rw [← Option.some.inj h]; exact wordRR_op ..
  have hp : parse w = some (.iadd (gdOf w) (regAt w 42) (regAt w 32) (regAt w 22) (w.extractLsb' 0 2)) := by unfold parse; rw [ho]; rfl
  rw [hp, ← Option.some.inj h]
  simp (disch := omega) only [wordRR_gd, wordRR_d, wordRR_a, wordRR_b, wordRR_c, wordRR_m, BitVec.extractLsb'_append_eq_of_le, Nat.reduceSub,
    BitVec.extractLsb'_append_eq_of_add_le, BitVec.extractLsb'_eq_self]

set_option maxRecDepth 20000 in
theorem Laws.Encoding.isub (gd : Guard) (d : Reg) (a : Reg) (b : Reg) (sat : BitVec 2) : Laws.Encoding.Statement (.isub gd d a b sat) := by
  intro _ w h
  have ho : w.extractLsb' 56 8 = 0x31#8 := by rw [← Option.some.inj h]; exact wordRR_op ..
  have hp : parse w = some (.isub (gdOf w) (regAt w 42) (regAt w 32) (regAt w 22) (w.extractLsb' 0 2)) := by unfold parse; rw [ho]; rfl
  rw [hp, ← Option.some.inj h]
  simp (disch := omega) only [wordRR_gd, wordRR_d, wordRR_a, wordRR_b, wordRR_c, wordRR_m, BitVec.extractLsb'_append_eq_of_le, Nat.reduceSub,
    BitVec.extractLsb'_append_eq_of_add_le, BitVec.extractLsb'_eq_self]

set_option maxRecDepth 20000 in
theorem Laws.Encoding.iadd3 (gd : Guard) (d : Reg) (a : Reg) (b : Reg) (c : Reg) (sat : BitVec 2) : Laws.Encoding.Statement (.iadd3 gd d a b c sat) := by
  intro _ w h
  have ho : w.extractLsb' 56 8 = 0x32#8 := by rw [← Option.some.inj h]; exact wordRR_op ..
  have hp : parse w = some (.iadd3 (gdOf w) (regAt w 42) (regAt w 32) (regAt w 22) (regAt w 12) (w.extractLsb' 0 2)) := by unfold parse; rw [ho]; rfl
  rw [hp, ← Option.some.inj h]
  simp (disch := omega) only [wordRR_gd, wordRR_d, wordRR_a, wordRR_b, wordRR_c, wordRR_m, BitVec.extractLsb'_append_eq_of_le, Nat.reduceSub,
    BitVec.extractLsb'_append_eq_of_add_le, BitVec.extractLsb'_eq_self]

set_option maxRecDepth 20000 in
theorem Laws.Encoding.imul (gd : Guard) (d : Reg) (a : Reg) (b : Reg) (sat : BitVec 2) : Laws.Encoding.Statement (.imul gd d a b sat) := by
  intro _ w h
  have ho : w.extractLsb' 56 8 = 0x33#8 := by rw [← Option.some.inj h]; exact wordRR_op ..
  have hp : parse w = some (.imul (gdOf w) (regAt w 42) (regAt w 32) (regAt w 22) (w.extractLsb' 0 2)) := by unfold parse; rw [ho]; rfl
  rw [hp, ← Option.some.inj h]
  simp (disch := omega) only [wordRR_gd, wordRR_d, wordRR_a, wordRR_b, wordRR_c, wordRR_m, BitVec.extractLsb'_append_eq_of_le, Nat.reduceSub,
    BitVec.extractLsb'_append_eq_of_add_le, BitVec.extractLsb'_eq_self]

set_option maxRecDepth 20000 in
theorem Laws.Encoding.imulh (gd : Guard) (d : Reg) (a : Reg) (b : Reg) (sgn : BitVec 2) : Laws.Encoding.Statement (.imulh gd d a b sgn) := by
  intro _ w h
  have ho : w.extractLsb' 56 8 = 0x34#8 := by rw [← Option.some.inj h]; exact wordRR_op ..
  have hp : parse w = some (.imulh (gdOf w) (regAt w 42) (regAt w 32) (regAt w 22) (w.extractLsb' 0 2)) := by unfold parse; rw [ho]; rfl
  rw [hp, ← Option.some.inj h]
  simp (disch := omega) only [wordRR_gd, wordRR_d, wordRR_a, wordRR_b, wordRR_c, wordRR_m, BitVec.extractLsb'_append_eq_of_le, Nat.reduceSub,
    BitVec.extractLsb'_append_eq_of_add_le, BitVec.extractLsb'_eq_self]

set_option maxRecDepth 20000 in
theorem Laws.Encoding.imad (gd : Guard) (d : Reg) (a : Reg) (b : Reg) (c : Reg) (sat : BitVec 2) : Laws.Encoding.Statement (.imad gd d a b c sat) := by
  intro _ w h
  have ho : w.extractLsb' 56 8 = 0x35#8 := by rw [← Option.some.inj h]; exact wordRR_op ..
  have hp : parse w = some (.imad (gdOf w) (regAt w 42) (regAt w 32) (regAt w 22) (regAt w 12) (w.extractLsb' 0 2)) := by unfold parse; rw [ho]; rfl
  rw [hp, ← Option.some.inj h]
  simp (disch := omega) only [wordRR_gd, wordRR_d, wordRR_a, wordRR_b, wordRR_c, wordRR_m, BitVec.extractLsb'_append_eq_of_le, Nat.reduceSub,
    BitVec.extractLsb'_append_eq_of_add_le, BitVec.extractLsb'_eq_self]

set_option maxRecDepth 20000 in
theorem Laws.Encoding.imin (gd : Guard) (d : Reg) (a : Reg) (b : Reg) (u : BitVec 1) : Laws.Encoding.Statement (.imin gd d a b u) := by
  intro _ w h
  have ho : w.extractLsb' 56 8 = 0x36#8 := by rw [← Option.some.inj h]; exact wordRR_op ..
  have hp : parse w = some (.imin (gdOf w) (regAt w 42) (regAt w 32) (regAt w 22) (w.extractLsb' 0 1)) := by unfold parse; rw [ho]; rfl
  rw [hp, ← Option.some.inj h]
  simp (disch := omega) only [wordRR_gd, wordRR_d, wordRR_a, wordRR_b, wordRR_c, wordRR_m, BitVec.extractLsb'_append_eq_of_le, Nat.reduceSub,
    BitVec.extractLsb'_append_eq_of_add_le, BitVec.extractLsb'_eq_self]

set_option maxRecDepth 20000 in
theorem Laws.Encoding.imax (gd : Guard) (d : Reg) (a : Reg) (b : Reg) (u : BitVec 1) : Laws.Encoding.Statement (.imax gd d a b u) := by
  intro _ w h
  have ho : w.extractLsb' 56 8 = 0x37#8 := by rw [← Option.some.inj h]; exact wordRR_op ..
  have hp : parse w = some (.imax (gdOf w) (regAt w 42) (regAt w 32) (regAt w 22) (w.extractLsb' 0 1)) := by unfold parse; rw [ho]; rfl
  rw [hp, ← Option.some.inj h]
  simp (disch := omega) only [wordRR_gd, wordRR_d, wordRR_a, wordRR_b, wordRR_c, wordRR_m, BitVec.extractLsb'_append_eq_of_le, Nat.reduceSub,
    BitVec.extractLsb'_append_eq_of_add_le, BitVec.extractLsb'_eq_self]

set_option maxRecDepth 20000 in
theorem Laws.Encoding.iabs (gd : Guard) (d : Reg) (a : Reg) (s1 : BitVec 1) : Laws.Encoding.Statement (.iabs gd d a s1) := by
  intro _ w h
  have ho : w.extractLsb' 56 8 = 0x38#8 := by rw [← Option.some.inj h]; exact wordRR_op ..
  have hp : parse w = some (.iabs (gdOf w) (regAt w 42) (regAt w 32) (w.extractLsb' 0 1)) := by unfold parse; rw [ho]; rfl
  rw [hp, ← Option.some.inj h]
  simp (disch := omega) only [wordRR_gd, wordRR_d, wordRR_a, wordRR_b, wordRR_c, wordRR_m, BitVec.extractLsb'_append_eq_of_le, Nat.reduceSub,
    BitVec.extractLsb'_append_eq_of_add_le, BitVec.extractLsb'_eq_self]

set_option maxRecDepth 20000 in
theorem Laws.Encoding.ineg (gd : Guard) (d : Reg) (a : Reg) (s1 : BitVec 1) : Laws.Encoding.Statement (.ineg gd d a s1) := by
  intro _ w h
  have ho : w.extractLsb' 56 8 = 0x39#8 := by rw [← Option.some.inj h]; exact wordRR_op ..
  have hp : parse w = some (.ineg (gdOf w) (regAt w 42) (regAt w 32) (w.extractLsb' 0 1)) := by unfold parse; rw [ho]; rfl
  rw [hp, ← Option.some.inj h]
  simp (disch := omega) only [wordRR_gd, wordRR_d, wordRR_a, wordRR_b, wordRR_c, wordRR_m, BitVec.extractLsb'_append_eq_of_le, Nat.reduceSub,
    BitVec.extractLsb'_append_eq_of_add_le, BitVec.extractLsb'_eq_self]

set_option maxRecDepth 20000 in
theorem Laws.Encoding.and (gd : Guard) (d : Reg) (a : Reg) (b : Reg) : Laws.Encoding.Statement (.and gd d a b) := by
  intro _ w h
  have ho : w.extractLsb' 56 8 = 0x3A#8 := by rw [← Option.some.inj h]; exact wordRR_op ..
  have hp : parse w = some (.and (gdOf w) (regAt w 42) (regAt w 32) (regAt w 22)) := by unfold parse; rw [ho]; rfl
  rw [hp, ← Option.some.inj h]
  simp (disch := omega) only [wordRR_gd, wordRR_d, wordRR_a, wordRR_b, wordRR_c, wordRR_m, BitVec.extractLsb'_append_eq_of_le, Nat.reduceSub,
    BitVec.extractLsb'_append_eq_of_add_le, BitVec.extractLsb'_eq_self]

set_option maxRecDepth 20000 in
theorem Laws.Encoding.or (gd : Guard) (d : Reg) (a : Reg) (b : Reg) : Laws.Encoding.Statement (.or gd d a b) := by
  intro _ w h
  have ho : w.extractLsb' 56 8 = 0x3B#8 := by rw [← Option.some.inj h]; exact wordRR_op ..
  have hp : parse w = some (.or (gdOf w) (regAt w 42) (regAt w 32) (regAt w 22)) := by unfold parse; rw [ho]; rfl
  rw [hp, ← Option.some.inj h]
  simp (disch := omega) only [wordRR_gd, wordRR_d, wordRR_a, wordRR_b, wordRR_c, wordRR_m, BitVec.extractLsb'_append_eq_of_le, Nat.reduceSub,
    BitVec.extractLsb'_append_eq_of_add_le, BitVec.extractLsb'_eq_self]

set_option maxRecDepth 20000 in
theorem Laws.Encoding.xor (gd : Guard) (d : Reg) (a : Reg) (b : Reg) : Laws.Encoding.Statement (.xor gd d a b) := by
  intro _ w h
  have ho : w.extractLsb' 56 8 = 0x3C#8 := by rw [← Option.some.inj h]; exact wordRR_op ..
  have hp : parse w = some (.xor (gdOf w) (regAt w 42) (regAt w 32) (regAt w 22)) := by unfold parse; rw [ho]; rfl
  rw [hp, ← Option.some.inj h]
  simp (disch := omega) only [wordRR_gd, wordRR_d, wordRR_a, wordRR_b, wordRR_c, wordRR_m, BitVec.extractLsb'_append_eq_of_le, Nat.reduceSub,
    BitVec.extractLsb'_append_eq_of_add_le, BitVec.extractLsb'_eq_self]

set_option maxRecDepth 20000 in
theorem Laws.Encoding.andn (gd : Guard) (d : Reg) (a : Reg) (b : Reg) : Laws.Encoding.Statement (.andn gd d a b) := by
  intro _ w h
  have ho : w.extractLsb' 56 8 = 0x3D#8 := by rw [← Option.some.inj h]; exact wordRR_op ..
  have hp : parse w = some (.andn (gdOf w) (regAt w 42) (regAt w 32) (regAt w 22)) := by unfold parse; rw [ho]; rfl
  rw [hp, ← Option.some.inj h]
  simp (disch := omega) only [wordRR_gd, wordRR_d, wordRR_a, wordRR_b, wordRR_c, wordRR_m, BitVec.extractLsb'_append_eq_of_le, Nat.reduceSub,
    BitVec.extractLsb'_append_eq_of_add_le, BitVec.extractLsb'_eq_self]

set_option maxRecDepth 20000 in
theorem Laws.Encoding.not (gd : Guard) (d : Reg) (a : Reg) : Laws.Encoding.Statement (.not gd d a) := by
  intro _ w h
  have ho : w.extractLsb' 56 8 = 0x3E#8 := by rw [← Option.some.inj h]; exact wordRR_op ..
  have hp : parse w = some (.not (gdOf w) (regAt w 42) (regAt w 32)) := by unfold parse; rw [ho]; rfl
  rw [hp, ← Option.some.inj h]
  simp (disch := omega) only [wordRR_gd, wordRR_d, wordRR_a, wordRR_b, wordRR_c, wordRR_m, BitVec.extractLsb'_append_eq_of_le, Nat.reduceSub,
    BitVec.extractLsb'_append_eq_of_add_le, BitVec.extractLsb'_eq_self]

set_option maxRecDepth 20000 in
theorem Laws.Encoding.lop3 (gd : Guard) (d : Reg) (a : Reg) (b : Reg) (c : Reg) (lut : BitVec 8) : Laws.Encoding.Statement (.lop3 gd d a b c lut) := by
  intro _ w h
  have ho : w.extractLsb' 56 8 = 0x3F#8 := by rw [← Option.some.inj h]; exact wordRR_op ..
  have hp : parse w = some (.lop3 (gdOf w) (regAt w 42) (regAt w 32) (regAt w 22) (regAt w 12) (w.extractLsb' 0 8)) := by unfold parse; rw [ho]; rfl
  rw [hp, ← Option.some.inj h]
  simp (disch := omega) only [wordRR_gd, wordRR_d, wordRR_a, wordRR_b, wordRR_c, wordRR_m, BitVec.extractLsb'_append_eq_of_le, Nat.reduceSub,
    BitVec.extractLsb'_append_eq_of_add_le, BitVec.extractLsb'_eq_self]

set_option maxRecDepth 20000 in
theorem Laws.Encoding.shl (gd : Guard) (d : Reg) (a : Reg) (b : Reg) (wrap : BitVec 1) : Laws.Encoding.Statement (.shl gd d a b wrap) := by
  intro _ w h
  have ho : w.extractLsb' 56 8 = 0x40#8 := by rw [← Option.some.inj h]; exact wordRR_op ..
  have hp : parse w = some (.shl (gdOf w) (regAt w 42) (regAt w 32) (regAt w 22) (w.extractLsb' 0 1)) := by unfold parse; rw [ho]; rfl
  rw [hp, ← Option.some.inj h]
  simp (disch := omega) only [wordRR_gd, wordRR_d, wordRR_a, wordRR_b, wordRR_c, wordRR_m, BitVec.extractLsb'_append_eq_of_le, Nat.reduceSub,
    BitVec.extractLsb'_append_eq_of_add_le, BitVec.extractLsb'_eq_self]

set_option maxRecDepth 20000 in
theorem Laws.Encoding.shr (gd : Guard) (d : Reg) (a : Reg) (b : Reg) (wrap : BitVec 1) : Laws.Encoding.Statement (.shr gd d a b wrap) := by
  intro _ w h
  have ho : w.extractLsb' 56 8 = 0x41#8 := by rw [← Option.some.inj h]; exact wordRR_op ..
  have hp : parse w = some (.shr (gdOf w) (regAt w 42) (regAt w 32) (regAt w 22) (w.extractLsb' 0 1)) := by unfold parse; rw [ho]; rfl
  rw [hp, ← Option.some.inj h]
  simp (disch := omega) only [wordRR_gd, wordRR_d, wordRR_a, wordRR_b, wordRR_c, wordRR_m, BitVec.extractLsb'_append_eq_of_le, Nat.reduceSub,
    BitVec.extractLsb'_append_eq_of_add_le, BitVec.extractLsb'_eq_self]

set_option maxRecDepth 20000 in
theorem Laws.Encoding.sar (gd : Guard) (d : Reg) (a : Reg) (b : Reg) (wrap : BitVec 1) : Laws.Encoding.Statement (.sar gd d a b wrap) := by
  intro _ w h
  have ho : w.extractLsb' 56 8 = 0x42#8 := by rw [← Option.some.inj h]; exact wordRR_op ..
  have hp : parse w = some (.sar (gdOf w) (regAt w 42) (regAt w 32) (regAt w 22) (w.extractLsb' 0 1)) := by unfold parse; rw [ho]; rfl
  rw [hp, ← Option.some.inj h]
  simp (disch := omega) only [wordRR_gd, wordRR_d, wordRR_a, wordRR_b, wordRR_c, wordRR_m, BitVec.extractLsb'_append_eq_of_le, Nat.reduceSub,
    BitVec.extractLsb'_append_eq_of_add_le, BitVec.extractLsb'_eq_self]

set_option maxRecDepth 20000 in
theorem Laws.Encoding.rotl (gd : Guard) (d : Reg) (a : Reg) (b : Reg) : Laws.Encoding.Statement (.rotl gd d a b) := by
  intro _ w h
  have ho : w.extractLsb' 56 8 = 0x43#8 := by rw [← Option.some.inj h]; exact wordRR_op ..
  have hp : parse w = some (.rotl (gdOf w) (regAt w 42) (regAt w 32) (regAt w 22)) := by unfold parse; rw [ho]; rfl
  rw [hp, ← Option.some.inj h]
  simp (disch := omega) only [wordRR_gd, wordRR_d, wordRR_a, wordRR_b, wordRR_c, wordRR_m, BitVec.extractLsb'_append_eq_of_le, Nat.reduceSub,
    BitVec.extractLsb'_append_eq_of_add_le, BitVec.extractLsb'_eq_self]

set_option maxRecDepth 20000 in
theorem Laws.Encoding.fshl (gd : Guard) (d : Reg) (a : Reg) (b : Reg) (c : Reg) : Laws.Encoding.Statement (.fshl gd d a b c) := by
  intro _ w h
  have ho : w.extractLsb' 56 8 = 0x44#8 := by rw [← Option.some.inj h]; exact wordRR_op ..
  have hp : parse w = some (.fshl (gdOf w) (regAt w 42) (regAt w 32) (regAt w 22) (regAt w 12)) := by unfold parse; rw [ho]; rfl
  rw [hp, ← Option.some.inj h]
  simp (disch := omega) only [wordRR_gd, wordRR_d, wordRR_a, wordRR_b, wordRR_c, wordRR_m, BitVec.extractLsb'_append_eq_of_le, Nat.reduceSub,
    BitVec.extractLsb'_append_eq_of_add_le, BitVec.extractLsb'_eq_self]

set_option maxRecDepth 20000 in
theorem Laws.Encoding.popc (gd : Guard) (d : Reg) (a : Reg) : Laws.Encoding.Statement (.popc gd d a) := by
  intro _ w h
  have ho : w.extractLsb' 56 8 = 0x45#8 := by rw [← Option.some.inj h]; exact wordRR_op ..
  have hp : parse w = some (.popc (gdOf w) (regAt w 42) (regAt w 32)) := by unfold parse; rw [ho]; rfl
  rw [hp, ← Option.some.inj h]
  simp (disch := omega) only [wordRR_gd, wordRR_d, wordRR_a, wordRR_b, wordRR_c, wordRR_m, BitVec.extractLsb'_append_eq_of_le, Nat.reduceSub,
    BitVec.extractLsb'_append_eq_of_add_le, BitVec.extractLsb'_eq_self]

set_option maxRecDepth 20000 in
theorem Laws.Encoding.clz (gd : Guard) (d : Reg) (a : Reg) : Laws.Encoding.Statement (.clz gd d a) := by
  intro _ w h
  have ho : w.extractLsb' 56 8 = 0x46#8 := by rw [← Option.some.inj h]; exact wordRR_op ..
  have hp : parse w = some (.clz (gdOf w) (regAt w 42) (regAt w 32)) := by unfold parse; rw [ho]; rfl
  rw [hp, ← Option.some.inj h]
  simp (disch := omega) only [wordRR_gd, wordRR_d, wordRR_a, wordRR_b, wordRR_c, wordRR_m, BitVec.extractLsb'_append_eq_of_le, Nat.reduceSub,
    BitVec.extractLsb'_append_eq_of_add_le, BitVec.extractLsb'_eq_self]

set_option maxRecDepth 20000 in
theorem Laws.Encoding.brev (gd : Guard) (d : Reg) (a : Reg) : Laws.Encoding.Statement (.brev gd d a) := by
  intro _ w h
  have ho : w.extractLsb' 56 8 = 0x47#8 := by rw [← Option.some.inj h]; exact wordRR_op ..
  have hp : parse w = some (.brev (gdOf w) (regAt w 42) (regAt w 32)) := by unfold parse; rw [ho]; rfl
  rw [hp, ← Option.some.inj h]
  simp (disch := omega) only [wordRR_gd, wordRR_d, wordRR_a, wordRR_b, wordRR_c, wordRR_m, BitVec.extractLsb'_append_eq_of_le, Nat.reduceSub,
    BitVec.extractLsb'_append_eq_of_add_le, BitVec.extractLsb'_eq_self]

set_option maxRecDepth 20000 in
theorem Laws.Encoding.bfe (gd : Guard) (d : Reg) (a : Reg) (b : Reg) (sx : BitVec 1) : Laws.Encoding.Statement (.bfe gd d a b sx) := by
  intro _ w h
  have ho : w.extractLsb' 56 8 = 0x48#8 := by rw [← Option.some.inj h]; exact wordRR_op ..
  have hp : parse w = some (.bfe (gdOf w) (regAt w 42) (regAt w 32) (regAt w 22) (w.extractLsb' 0 1)) := by unfold parse; rw [ho]; rfl
  rw [hp, ← Option.some.inj h]
  simp (disch := omega) only [wordRR_gd, wordRR_d, wordRR_a, wordRR_b, wordRR_c, wordRR_m, BitVec.extractLsb'_append_eq_of_le, Nat.reduceSub,
    BitVec.extractLsb'_append_eq_of_add_le, BitVec.extractLsb'_eq_self]

set_option maxRecDepth 20000 in
theorem Laws.Encoding.bfi (gd : Guard) (d : Reg) (a : Reg) (b : Reg) (c : Reg) : Laws.Encoding.Statement (.bfi gd d a b c) := by
  intro _ w h
  have ho : w.extractLsb' 56 8 = 0x49#8 := by rw [← Option.some.inj h]; exact wordRR_op ..
  have hp : parse w = some (.bfi (gdOf w) (regAt w 42) (regAt w 32) (regAt w 22) (regAt w 12)) := by unfold parse; rw [ho]; rfl
  rw [hp, ← Option.some.inj h]
  simp (disch := omega) only [wordRR_gd, wordRR_d, wordRR_a, wordRR_b, wordRR_c, wordRR_m, BitVec.extractLsb'_append_eq_of_le, Nat.reduceSub,
    BitVec.extractLsb'_append_eq_of_add_le, BitVec.extractLsb'_eq_self]

set_option maxRecDepth 20000 in
theorem Laws.Encoding.isetp (gd : Guard) (a : Reg) (b : Reg) (cmp : BitVec 3) (u : BitVec 1) (b64 : BitVec 1) (pd : BitVec 3) : Laws.Encoding.Statement (.isetp gd a b cmp u b64 pd) := by
  intro _ w h
  have ho : w.extractLsb' 56 8 = 0x4A#8 := by rw [← Option.some.inj h]; exact wordRR_op ..
  have hp : parse w = some (.isetp (gdOf w) (regAt w 32) (regAt w 22) (w.extractLsb' 9 3) (w.extractLsb' 8 1) (w.extractLsb' 7 1) (w.extractLsb' 0 3)) := by unfold parse; rw [ho]; rfl
  rw [hp, ← Option.some.inj h]
  simp (disch := omega) only [wordRR_gd, wordRR_d, wordRR_a, wordRR_b, wordRR_c, wordRR_m, BitVec.extractLsb'_append_eq_of_le, Nat.reduceSub,
    BitVec.extractLsb'_append_eq_of_add_le, BitVec.extractLsb'_eq_self]

set_option maxRecDepth 20000 in
theorem Laws.Encoding.icsub (gd : Guard) (d : Reg) (a : Reg) (b : Reg) (pd : BitVec 3) : Laws.Encoding.Statement (.icsub gd d a b pd) := by
  intro _ w h
  have ho : w.extractLsb' 56 8 = 0x4B#8 := by rw [← Option.some.inj h]; exact wordRR_op ..
  have hp : parse w = some (.icsub (gdOf w) (regAt w 42) (regAt w 32) (regAt w 22) (w.extractLsb' 0 3)) := by unfold parse; rw [ho]; rfl
  rw [hp, ← Option.some.inj h]
  simp (disch := omega) only [wordRR_gd, wordRR_d, wordRR_a, wordRR_b, wordRR_c, wordRR_m, BitVec.extractLsb'_append_eq_of_le, Nat.reduceSub,
    BitVec.extractLsb'_append_eq_of_add_le, BitVec.extractLsb'_eq_self]

set_option maxRecDepth 20000 in
theorem Laws.Encoding.iadd64 (gd : Guard) (d : Reg) (a : Reg) (b : Reg) : Laws.Encoding.Statement (.iadd64 gd d a b) := by
  intro _ w h
  have ho : w.extractLsb' 56 8 = 0x4C#8 := by rw [← Option.some.inj h]; exact wordRR_op ..
  have hp : parse w = some (.iadd64 (gdOf w) (regAt w 42) (regAt w 32) (regAt w 22)) := by unfold parse; rw [ho]; rfl
  rw [hp, ← Option.some.inj h]
  simp (disch := omega) only [wordRR_gd, wordRR_d, wordRR_a, wordRR_b, wordRR_c, wordRR_m, BitVec.extractLsb'_append_eq_of_le, Nat.reduceSub,
    BitVec.extractLsb'_append_eq_of_add_le, BitVec.extractLsb'_eq_self]

set_option maxRecDepth 20000 in
theorem Laws.Encoding.isub64 (gd : Guard) (d : Reg) (a : Reg) (b : Reg) : Laws.Encoding.Statement (.isub64 gd d a b) := by
  intro _ w h
  have ho : w.extractLsb' 56 8 = 0x4D#8 := by rw [← Option.some.inj h]; exact wordRR_op ..
  have hp : parse w = some (.isub64 (gdOf w) (regAt w 42) (regAt w 32) (regAt w 22)) := by unfold parse; rw [ho]; rfl
  rw [hp, ← Option.some.inj h]
  simp (disch := omega) only [wordRR_gd, wordRR_d, wordRR_a, wordRR_b, wordRR_c, wordRR_m, BitVec.extractLsb'_append_eq_of_le, Nat.reduceSub,
    BitVec.extractLsb'_append_eq_of_add_le, BitVec.extractLsb'_eq_self]

set_option maxRecDepth 20000 in
theorem Laws.Encoding.imulw (gd : Guard) (d : Reg) (a : Reg) (b : Reg) (sgn : BitVec 2) : Laws.Encoding.Statement (.imulw gd d a b sgn) := by
  intro _ w h
  have ho : w.extractLsb' 56 8 = 0x4E#8 := by rw [← Option.some.inj h]; exact wordRR_op ..
  have hp : parse w = some (.imulw (gdOf w) (regAt w 42) (regAt w 32) (regAt w 22) (w.extractLsb' 0 2)) := by unfold parse; rw [ho]; rfl
  rw [hp, ← Option.some.inj h]
  simp (disch := omega) only [wordRR_gd, wordRR_d, wordRR_a, wordRR_b, wordRR_c, wordRR_m, BitVec.extractLsb'_append_eq_of_le, Nat.reduceSub,
    BitVec.extractLsb'_append_eq_of_add_le, BitVec.extractLsb'_eq_self]

set_option maxRecDepth 20000 in
theorem Laws.Encoding.lea (gd : Guard) (d : Reg) (a : Reg) (b : Reg) (sx : BitVec 1) (sh : BitVec 3) : Laws.Encoding.Statement (.lea gd d a b sx sh) := by
  intro _ w h
  have ho : w.extractLsb' 56 8 = 0x4F#8 := by rw [← Option.some.inj h]; exact wordRR_op ..
  have hp : parse w = some (.lea (gdOf w) (regAt w 42) (regAt w 32) (regAt w 22) (w.extractLsb' 3 1) (w.extractLsb' 0 3)) := by unfold parse; rw [ho]; rfl
  rw [hp, ← Option.some.inj h]
  simp (disch := omega) only [wordRR_gd, wordRR_d, wordRR_a, wordRR_b, wordRR_c, wordRR_m, BitVec.extractLsb'_append_eq_of_le, Nat.reduceSub,
    BitVec.extractLsb'_append_eq_of_add_le, BitVec.extractLsb'_eq_self]

set_option maxRecDepth 20000 in
theorem Laws.Encoding.isat (gd : Guard) (d : Reg) (a : Reg) (u : BitVec 1) (ty : BitVec 4) : Laws.Encoding.Statement (.isat gd d a u ty) := by
  intro _ w h
  have ho : w.extractLsb' 56 8 = 0x50#8 := by rw [← Option.some.inj h]; exact wordRR_op ..
  have hp : parse w = some (.isat (gdOf w) (regAt w 42) (regAt w 32) (w.extractLsb' 4 1) (w.extractLsb' 0 4)) := by unfold parse; rw [ho]; rfl
  rw [hp, ← Option.some.inj h]
  simp (disch := omega) only [wordRR_gd, wordRR_d, wordRR_a, wordRR_b, wordRR_c, wordRR_m, BitVec.extractLsb'_append_eq_of_le, Nat.reduceSub,
    BitVec.extractLsb'_append_eq_of_add_le, BitVec.extractLsb'_eq_self]

set_option maxRecDepth 20000 in
theorem Laws.Encoding.idp4 (gd : Guard) (d : Reg) (a : Reg) (b : Reg) (c : Reg) (sat : BitVec 1) (au : BitVec 1) (bu : BitVec 1) : Laws.Encoding.Statement (.idp4 gd d a b c sat au bu) := by
  intro _ w h
  have ho : w.extractLsb' 56 8 = 0x51#8 := by rw [← Option.some.inj h]; exact wordRR_op ..
  have hp : parse w = some (.idp4 (gdOf w) (regAt w 42) (regAt w 32) (regAt w 22) (regAt w 12) (w.extractLsb' 2 1) (w.extractLsb' 1 1) (w.extractLsb' 0 1)) := by unfold parse; rw [ho]; rfl
  rw [hp, ← Option.some.inj h]
  simp (disch := omega) only [wordRR_gd, wordRR_d, wordRR_a, wordRR_b, wordRR_c, wordRR_m, BitVec.extractLsb'_append_eq_of_le, Nat.reduceSub,
    BitVec.extractLsb'_append_eq_of_add_le, BitVec.extractLsb'_eq_self]

set_option maxRecDepth 20000 in
theorem Laws.Encoding.fadd (gd : Guard) (d : Reg) (a : Reg) (b : Reg) (rnd : BitVec 3) : Laws.Encoding.Statement (.fadd gd d a b rnd) := by
  intro _ w h
  have ho : w.extractLsb' 56 8 = 0x60#8 := by rw [← Option.some.inj h]; exact wordRR_op ..
  have hp : parse w = some (.fadd (gdOf w) (regAt w 42) (regAt w 32) (regAt w 22) (w.extractLsb' 9 3)) := by unfold parse; rw [ho]; rfl
  rw [hp, ← Option.some.inj h]
  simp (disch := omega) only [wordRR_gd, wordRR_d, wordRR_a, wordRR_b, wordRR_c, wordRR_m, BitVec.extractLsb'_append_eq_of_le, Nat.reduceSub,
    BitVec.extractLsb'_append_eq_of_add_le, BitVec.extractLsb'_eq_self]

set_option maxRecDepth 20000 in
theorem Laws.Encoding.fsub (gd : Guard) (d : Reg) (a : Reg) (b : Reg) (rnd : BitVec 3) : Laws.Encoding.Statement (.fsub gd d a b rnd) := by
  intro _ w h
  have ho : w.extractLsb' 56 8 = 0x61#8 := by rw [← Option.some.inj h]; exact wordRR_op ..
  have hp : parse w = some (.fsub (gdOf w) (regAt w 42) (regAt w 32) (regAt w 22) (w.extractLsb' 9 3)) := by unfold parse; rw [ho]; rfl
  rw [hp, ← Option.some.inj h]
  simp (disch := omega) only [wordRR_gd, wordRR_d, wordRR_a, wordRR_b, wordRR_c, wordRR_m, BitVec.extractLsb'_append_eq_of_le, Nat.reduceSub,
    BitVec.extractLsb'_append_eq_of_add_le, BitVec.extractLsb'_eq_self]

set_option maxRecDepth 20000 in
theorem Laws.Encoding.fmul (gd : Guard) (d : Reg) (a : Reg) (b : Reg) (rnd : BitVec 3) : Laws.Encoding.Statement (.fmul gd d a b rnd) := by
  intro _ w h
  have ho : w.extractLsb' 56 8 = 0x62#8 := by rw [← Option.some.inj h]; exact wordRR_op ..
  have hp : parse w = some (.fmul (gdOf w) (regAt w 42) (regAt w 32) (regAt w 22) (w.extractLsb' 9 3)) := by unfold parse; rw [ho]; rfl
  rw [hp, ← Option.some.inj h]
  simp (disch := omega) only [wordRR_gd, wordRR_d, wordRR_a, wordRR_b, wordRR_c, wordRR_m, BitVec.extractLsb'_append_eq_of_le, Nat.reduceSub,
    BitVec.extractLsb'_append_eq_of_add_le, BitVec.extractLsb'_eq_self]

set_option maxRecDepth 20000 in
theorem Laws.Encoding.ffma (gd : Guard) (d : Reg) (a : Reg) (b : Reg) (c : Reg) (rnd : BitVec 3) : Laws.Encoding.Statement (.ffma gd d a b c rnd) := by
  intro _ w h
  have ho : w.extractLsb' 56 8 = 0x63#8 := by rw [← Option.some.inj h]; exact wordRR_op ..
  have hp : parse w = some (.ffma (gdOf w) (regAt w 42) (regAt w 32) (regAt w 22) (regAt w 12) (w.extractLsb' 9 3)) := by unfold parse; rw [ho]; rfl
  rw [hp, ← Option.some.inj h]
  simp (disch := omega) only [wordRR_gd, wordRR_d, wordRR_a, wordRR_b, wordRR_c, wordRR_m, BitVec.extractLsb'_append_eq_of_le, Nat.reduceSub,
    BitVec.extractLsb'_append_eq_of_add_le, BitVec.extractLsb'_eq_self]

set_option maxRecDepth 20000 in
theorem Laws.Encoding.fmin (gd : Guard) (d : Reg) (a : Reg) (b : Reg) : Laws.Encoding.Statement (.fmin gd d a b) := by
  intro _ w h
  have ho : w.extractLsb' 56 8 = 0x64#8 := by rw [← Option.some.inj h]; exact wordRR_op ..
  have hp : parse w = some (.fmin (gdOf w) (regAt w 42) (regAt w 32) (regAt w 22)) := by unfold parse; rw [ho]; rfl
  rw [hp, ← Option.some.inj h]
  simp (disch := omega) only [wordRR_gd, wordRR_d, wordRR_a, wordRR_b, wordRR_c, wordRR_m, BitVec.extractLsb'_append_eq_of_le, Nat.reduceSub,
    BitVec.extractLsb'_append_eq_of_add_le, BitVec.extractLsb'_eq_self]

set_option maxRecDepth 20000 in
theorem Laws.Encoding.fmax (gd : Guard) (d : Reg) (a : Reg) (b : Reg) : Laws.Encoding.Statement (.fmax gd d a b) := by
  intro _ w h
  have ho : w.extractLsb' 56 8 = 0x65#8 := by rw [← Option.some.inj h]; exact wordRR_op ..
  have hp : parse w = some (.fmax (gdOf w) (regAt w 42) (regAt w 32) (regAt w 22)) := by unfold parse; rw [ho]; rfl
  rw [hp, ← Option.some.inj h]
  simp (disch := omega) only [wordRR_gd, wordRR_d, wordRR_a, wordRR_b, wordRR_c, wordRR_m, BitVec.extractLsb'_append_eq_of_le, Nat.reduceSub,
    BitVec.extractLsb'_append_eq_of_add_le, BitVec.extractLsb'_eq_self]

set_option maxRecDepth 20000 in
theorem Laws.Encoding.fminp (gd : Guard) (d : Reg) (a : Reg) (b : Reg) : Laws.Encoding.Statement (.fminp gd d a b) := by
  intro _ w h
  have ho : w.extractLsb' 56 8 = 0x66#8 := by rw [← Option.some.inj h]; exact wordRR_op ..
  have hp : parse w = some (.fminp (gdOf w) (regAt w 42) (regAt w 32) (regAt w 22)) := by unfold parse; rw [ho]; rfl
  rw [hp, ← Option.some.inj h]
  simp (disch := omega) only [wordRR_gd, wordRR_d, wordRR_a, wordRR_b, wordRR_c, wordRR_m, BitVec.extractLsb'_append_eq_of_le, Nat.reduceSub,
    BitVec.extractLsb'_append_eq_of_add_le, BitVec.extractLsb'_eq_self]

set_option maxRecDepth 20000 in
theorem Laws.Encoding.fmaxp (gd : Guard) (d : Reg) (a : Reg) (b : Reg) : Laws.Encoding.Statement (.fmaxp gd d a b) := by
  intro _ w h
  have ho : w.extractLsb' 56 8 = 0x67#8 := by rw [← Option.some.inj h]; exact wordRR_op ..
  have hp : parse w = some (.fmaxp (gdOf w) (regAt w 42) (regAt w 32) (regAt w 22)) := by unfold parse; rw [ho]; rfl
  rw [hp, ← Option.some.inj h]
  simp (disch := omega) only [wordRR_gd, wordRR_d, wordRR_a, wordRR_b, wordRR_c, wordRR_m, BitVec.extractLsb'_append_eq_of_le, Nat.reduceSub,
    BitVec.extractLsb'_append_eq_of_add_le, BitVec.extractLsb'_eq_self]

set_option maxRecDepth 20000 in
theorem Laws.Encoding.fabs (gd : Guard) (d : Reg) (a : Reg) : Laws.Encoding.Statement (.fabs gd d a) := by
  intro _ w h
  have ho : w.extractLsb' 56 8 = 0x68#8 := by rw [← Option.some.inj h]; exact wordRR_op ..
  have hp : parse w = some (.fabs (gdOf w) (regAt w 42) (regAt w 32)) := by unfold parse; rw [ho]; rfl
  rw [hp, ← Option.some.inj h]
  simp (disch := omega) only [wordRR_gd, wordRR_d, wordRR_a, wordRR_b, wordRR_c, wordRR_m, BitVec.extractLsb'_append_eq_of_le, Nat.reduceSub,
    BitVec.extractLsb'_append_eq_of_add_le, BitVec.extractLsb'_eq_self]

set_option maxRecDepth 20000 in
theorem Laws.Encoding.fneg (gd : Guard) (d : Reg) (a : Reg) : Laws.Encoding.Statement (.fneg gd d a) := by
  intro _ w h
  have ho : w.extractLsb' 56 8 = 0x69#8 := by rw [← Option.some.inj h]; exact wordRR_op ..
  have hp : parse w = some (.fneg (gdOf w) (regAt w 42) (regAt w 32)) := by unfold parse; rw [ho]; rfl
  rw [hp, ← Option.some.inj h]
  simp (disch := omega) only [wordRR_gd, wordRR_d, wordRR_a, wordRR_b, wordRR_c, wordRR_m, BitVec.extractLsb'_append_eq_of_le, Nat.reduceSub,
    BitVec.extractLsb'_append_eq_of_add_le, BitVec.extractLsb'_eq_self]

set_option maxRecDepth 20000 in
theorem Laws.Encoding.fsetp (gd : Guard) (a : Reg) (b : Reg) (cmp : BitVec 3) (pd : BitVec 3) : Laws.Encoding.Statement (.fsetp gd a b cmp pd) := by
  intro _ w h
  have ho : w.extractLsb' 56 8 = 0x6A#8 := by rw [← Option.some.inj h]; exact wordRR_op ..
  have hp : parse w = some (.fsetp (gdOf w) (regAt w 32) (regAt w 22) (w.extractLsb' 9 3) (w.extractLsb' 0 3)) := by unfold parse; rw [ho]; rfl
  rw [hp, ← Option.some.inj h]
  simp (disch := omega) only [wordRR_gd, wordRR_d, wordRR_a, wordRR_b, wordRR_c, wordRR_m, BitVec.extractLsb'_append_eq_of_le, Nat.reduceSub,
    BitVec.extractLsb'_append_eq_of_add_le, BitVec.extractLsb'_eq_self]

set_option maxRecDepth 20000 in
theorem Laws.Encoding.fclass (gd : Guard) (d : Reg) (a : Reg) : Laws.Encoding.Statement (.fclass gd d a) := by
  intro _ w h
  have ho : w.extractLsb' 56 8 = 0x6B#8 := by rw [← Option.some.inj h]; exact wordRR_op ..
  have hp : parse w = some (.fclass (gdOf w) (regAt w 42) (regAt w 32)) := by unfold parse; rw [ho]; rfl
  rw [hp, ← Option.some.inj h]
  simp (disch := omega) only [wordRR_gd, wordRR_d, wordRR_a, wordRR_b, wordRR_c, wordRR_m, BitVec.extractLsb'_append_eq_of_le, Nat.reduceSub,
    BitVec.extractLsb'_append_eq_of_add_le, BitVec.extractLsb'_eq_self]

set_option maxRecDepth 20000 in
theorem Laws.Encoding.frnd (gd : Guard) (d : Reg) (a : Reg) (rnd : BitVec 3) : Laws.Encoding.Statement (.frnd gd d a rnd) := by
  intro _ w h
  have ho : w.extractLsb' 56 8 = 0x6C#8 := by rw [← Option.some.inj h]; exact wordRR_op ..
  have hp : parse w = some (.frnd (gdOf w) (regAt w 42) (regAt w 32) (w.extractLsb' 9 3)) := by unfold parse; rw [ho]; rfl
  rw [hp, ← Option.some.inj h]
  simp (disch := omega) only [wordRR_gd, wordRR_d, wordRR_a, wordRR_b, wordRR_c, wordRR_m, BitVec.extractLsb'_append_eq_of_le, Nat.reduceSub,
    BitVec.extractLsb'_append_eq_of_add_le, BitVec.extractLsb'_eq_self]

set_option maxRecDepth 20000 in
theorem Laws.Encoding.fdiv (gd : Guard) (d : Reg) (a : Reg) (b : Reg) (rnd : BitVec 3) : Laws.Encoding.Statement (.fdiv gd d a b rnd) := by
  intro _ w h
  have ho : w.extractLsb' 56 8 = 0x6D#8 := by rw [← Option.some.inj h]; exact wordRR_op ..
  have hp : parse w = some (.fdiv (gdOf w) (regAt w 42) (regAt w 32) (regAt w 22) (w.extractLsb' 9 3)) := by unfold parse; rw [ho]; rfl
  rw [hp, ← Option.some.inj h]
  simp (disch := omega) only [wordRR_gd, wordRR_d, wordRR_a, wordRR_b, wordRR_c, wordRR_m, BitVec.extractLsb'_append_eq_of_le, Nat.reduceSub,
    BitVec.extractLsb'_append_eq_of_add_le, BitVec.extractLsb'_eq_self]

set_option maxRecDepth 20000 in
theorem Laws.Encoding.fsqrt (gd : Guard) (d : Reg) (a : Reg) (rnd : BitVec 3) : Laws.Encoding.Statement (.fsqrt gd d a rnd) := by
  intro _ w h
  have ho : w.extractLsb' 56 8 = 0x6E#8 := by rw [← Option.some.inj h]; exact wordRR_op ..
  have hp : parse w = some (.fsqrt (gdOf w) (regAt w 42) (regAt w 32) (w.extractLsb' 9 3)) := by unfold parse; rw [ho]; rfl
  rw [hp, ← Option.some.inj h]
  simp (disch := omega) only [wordRR_gd, wordRR_d, wordRR_a, wordRR_b, wordRR_c, wordRR_m, BitVec.extractLsb'_append_eq_of_le, Nat.reduceSub,
    BitVec.extractLsb'_append_eq_of_add_le, BitVec.extractLsb'_eq_self]

set_option maxRecDepth 20000 in
theorem Laws.Encoding.frcp (gd : Guard) (d : Reg) (a : Reg) (rnd : BitVec 3) : Laws.Encoding.Statement (.frcp gd d a rnd) := by
  intro _ w h
  have ho : w.extractLsb' 56 8 = 0x6F#8 := by rw [← Option.some.inj h]; exact wordRR_op ..
  have hp : parse w = some (.frcp (gdOf w) (regAt w 42) (regAt w 32) (w.extractLsb' 9 3)) := by unfold parse; rw [ho]; rfl
  rw [hp, ← Option.some.inj h]
  simp (disch := omega) only [wordRR_gd, wordRR_d, wordRR_a, wordRR_b, wordRR_c, wordRR_m, BitVec.extractLsb'_append_eq_of_le, Nat.reduceSub,
    BitVec.extractLsb'_append_eq_of_add_le, BitVec.extractLsb'_eq_self]

set_option maxRecDepth 20000 in
theorem Laws.Encoding.frsq (gd : Guard) (d : Reg) (a : Reg) : Laws.Encoding.Statement (.frsq gd d a) := by
  intro _ w h
  have ho : w.extractLsb' 56 8 = 0x70#8 := by rw [← Option.some.inj h]; exact wordRR_op ..
  have hp : parse w = some (.frsq (gdOf w) (regAt w 42) (regAt w 32)) := by unfold parse; rw [ho]; rfl
  rw [hp, ← Option.some.inj h]
  simp (disch := omega) only [wordRR_gd, wordRR_d, wordRR_a, wordRR_b, wordRR_c, wordRR_m, BitVec.extractLsb'_append_eq_of_le, Nat.reduceSub,
    BitVec.extractLsb'_append_eq_of_add_le, BitVec.extractLsb'_eq_self]

set_option maxRecDepth 20000 in
theorem Laws.Encoding.fexp2 (gd : Guard) (d : Reg) (a : Reg) : Laws.Encoding.Statement (.fexp2 gd d a) := by
  intro _ w h
  have ho : w.extractLsb' 56 8 = 0x71#8 := by rw [← Option.some.inj h]; exact wordRR_op ..
  have hp : parse w = some (.fexp2 (gdOf w) (regAt w 42) (regAt w 32)) := by unfold parse; rw [ho]; rfl
  rw [hp, ← Option.some.inj h]
  simp (disch := omega) only [wordRR_gd, wordRR_d, wordRR_a, wordRR_b, wordRR_c, wordRR_m, BitVec.extractLsb'_append_eq_of_le, Nat.reduceSub,
    BitVec.extractLsb'_append_eq_of_add_le, BitVec.extractLsb'_eq_self]

set_option maxRecDepth 20000 in
theorem Laws.Encoding.flog2 (gd : Guard) (d : Reg) (a : Reg) : Laws.Encoding.Statement (.flog2 gd d a) := by
  intro _ w h
  have ho : w.extractLsb' 56 8 = 0x72#8 := by rw [← Option.some.inj h]; exact wordRR_op ..
  have hp : parse w = some (.flog2 (gdOf w) (regAt w 42) (regAt w 32)) := by unfold parse; rw [ho]; rfl
  rw [hp, ← Option.some.inj h]
  simp (disch := omega) only [wordRR_gd, wordRR_d, wordRR_a, wordRR_b, wordRR_c, wordRR_m, BitVec.extractLsb'_append_eq_of_le, Nat.reduceSub,
    BitVec.extractLsb'_append_eq_of_add_le, BitVec.extractLsb'_eq_self]

set_option maxRecDepth 20000 in
theorem Laws.Encoding.fsinpi (gd : Guard) (d : Reg) (a : Reg) : Laws.Encoding.Statement (.fsinpi gd d a) := by
  intro _ w h
  have ho : w.extractLsb' 56 8 = 0x73#8 := by rw [← Option.some.inj h]; exact wordRR_op ..
  have hp : parse w = some (.fsinpi (gdOf w) (regAt w 42) (regAt w 32)) := by unfold parse; rw [ho]; rfl
  rw [hp, ← Option.some.inj h]
  simp (disch := omega) only [wordRR_gd, wordRR_d, wordRR_a, wordRR_b, wordRR_c, wordRR_m, BitVec.extractLsb'_append_eq_of_le, Nat.reduceSub,
    BitVec.extractLsb'_append_eq_of_add_le, BitVec.extractLsb'_eq_self]

set_option maxRecDepth 20000 in
theorem Laws.Encoding.fcospi (gd : Guard) (d : Reg) (a : Reg) : Laws.Encoding.Statement (.fcospi gd d a) := by
  intro _ w h
  have ho : w.extractLsb' 56 8 = 0x74#8 := by rw [← Option.some.inj h]; exact wordRR_op ..
  have hp : parse w = some (.fcospi (gdOf w) (regAt w 42) (regAt w 32)) := by unfold parse; rw [ho]; rfl
  rw [hp, ← Option.some.inj h]
  simp (disch := omega) only [wordRR_gd, wordRR_d, wordRR_a, wordRR_b, wordRR_c, wordRR_m, BitVec.extractLsb'_append_eq_of_le, Nat.reduceSub,
    BitVec.extractLsb'_append_eq_of_add_le, BitVec.extractLsb'_eq_self]

set_option maxRecDepth 20000 in
theorem Laws.Encoding.ftanh (gd : Guard) (d : Reg) (a : Reg) : Laws.Encoding.Statement (.ftanh gd d a) := by
  intro _ w h
  have ho : w.extractLsb' 56 8 = 0x75#8 := by rw [← Option.some.inj h]; exact wordRR_op ..
  have hp : parse w = some (.ftanh (gdOf w) (regAt w 42) (regAt w 32)) := by unfold parse; rw [ho]; rfl
  rw [hp, ← Option.some.inj h]
  simp (disch := omega) only [wordRR_gd, wordRR_d, wordRR_a, wordRR_b, wordRR_c, wordRR_m, BitVec.extractLsb'_append_eq_of_le, Nat.reduceSub,
    BitVec.extractLsb'_append_eq_of_add_le, BitVec.extractLsb'_eq_self]

set_option maxRecDepth 20000 in
theorem Laws.Encoding.hadd2 (gd : Guard) (d : Reg) (a : Reg) (b : Reg) (rnd : BitVec 3) (ty : BitVec 4) : Laws.Encoding.Statement (.hadd2 gd d a b rnd ty) := by
  intro _ w h
  have ho : w.extractLsb' 56 8 = 0x76#8 := by rw [← Option.some.inj h]; exact wordRR_op ..
  have hp : parse w = some (.hadd2 (gdOf w) (regAt w 42) (regAt w 32) (regAt w 22) (w.extractLsb' 9 3) (w.extractLsb' 0 4)) := by unfold parse; rw [ho]; rfl
  rw [hp, ← Option.some.inj h]
  simp (disch := omega) only [wordRR_gd, wordRR_d, wordRR_a, wordRR_b, wordRR_c, wordRR_m, BitVec.extractLsb'_append_eq_of_le, Nat.reduceSub,
    BitVec.extractLsb'_append_eq_of_add_le, BitVec.extractLsb'_eq_self]

set_option maxRecDepth 20000 in
theorem Laws.Encoding.hmul2 (gd : Guard) (d : Reg) (a : Reg) (b : Reg) (rnd : BitVec 3) (ty : BitVec 4) : Laws.Encoding.Statement (.hmul2 gd d a b rnd ty) := by
  intro _ w h
  have ho : w.extractLsb' 56 8 = 0x77#8 := by rw [← Option.some.inj h]; exact wordRR_op ..
  have hp : parse w = some (.hmul2 (gdOf w) (regAt w 42) (regAt w 32) (regAt w 22) (w.extractLsb' 9 3) (w.extractLsb' 0 4)) := by unfold parse; rw [ho]; rfl
  rw [hp, ← Option.some.inj h]
  simp (disch := omega) only [wordRR_gd, wordRR_d, wordRR_a, wordRR_b, wordRR_c, wordRR_m, BitVec.extractLsb'_append_eq_of_le, Nat.reduceSub,
    BitVec.extractLsb'_append_eq_of_add_le, BitVec.extractLsb'_eq_self]

set_option maxRecDepth 20000 in
theorem Laws.Encoding.hfma2 (gd : Guard) (d : Reg) (a : Reg) (b : Reg) (c : Reg) (rnd : BitVec 3) (ty : BitVec 4) : Laws.Encoding.Statement (.hfma2 gd d a b c rnd ty) := by
  intro _ w h
  have ho : w.extractLsb' 56 8 = 0x78#8 := by rw [← Option.some.inj h]; exact wordRR_op ..
  have hp : parse w = some (.hfma2 (gdOf w) (regAt w 42) (regAt w 32) (regAt w 22) (regAt w 12) (w.extractLsb' 9 3) (w.extractLsb' 0 4)) := by unfold parse; rw [ho]; rfl
  rw [hp, ← Option.some.inj h]
  simp (disch := omega) only [wordRR_gd, wordRR_d, wordRR_a, wordRR_b, wordRR_c, wordRR_m, BitVec.extractLsb'_append_eq_of_le, Nat.reduceSub,
    BitVec.extractLsb'_append_eq_of_add_le, BitVec.extractLsb'_eq_self]

set_option maxRecDepth 20000 in
theorem Laws.Encoding.fcvt (gd : Guard) (d : Reg) (a : Reg) (rnd : BitVec 3) (dst : BitVec 4) (src : BitVec 4) : Laws.Encoding.Statement (.fcvt gd d a rnd dst src) := by
  intro _ w h
  have ho : w.extractLsb' 56 8 = 0x79#8 := by rw [← Option.some.inj h]; exact wordRR_op ..
  have hp : parse w = some (.fcvt (gdOf w) (regAt w 42) (regAt w 32) (w.extractLsb' 9 3) (w.extractLsb' 4 4) (w.extractLsb' 0 4)) := by unfold parse; rw [ho]; rfl
  rw [hp, ← Option.some.inj h]
  simp (disch := omega) only [wordRR_gd, wordRR_d, wordRR_a, wordRR_b, wordRR_c, wordRR_m, BitVec.extractLsb'_append_eq_of_le, Nat.reduceSub,
    BitVec.extractLsb'_append_eq_of_add_le, BitVec.extractLsb'_eq_self]

set_option maxRecDepth 20000 in
theorem Laws.Encoding.f2i (gd : Guard) (d : Reg) (a : Reg) (rnd : BitVec 3) (dst : BitVec 4) : Laws.Encoding.Statement (.f2i gd d a rnd dst) := by
  intro _ w h
  have ho : w.extractLsb' 56 8 = 0x7A#8 := by rw [← Option.some.inj h]; exact wordRR_op ..
  have hp : parse w = some (.f2i (gdOf w) (regAt w 42) (regAt w 32) (w.extractLsb' 9 3) (w.extractLsb' 0 4)) := by unfold parse; rw [ho]; rfl
  rw [hp, ← Option.some.inj h]
  simp (disch := omega) only [wordRR_gd, wordRR_d, wordRR_a, wordRR_b, wordRR_c, wordRR_m, BitVec.extractLsb'_append_eq_of_le, Nat.reduceSub,
    BitVec.extractLsb'_append_eq_of_add_le, BitVec.extractLsb'_eq_self]

set_option maxRecDepth 20000 in
theorem Laws.Encoding.i2f (gd : Guard) (d : Reg) (a : Reg) (rnd : BitVec 3) (dst : BitVec 4) (src : BitVec 4) : Laws.Encoding.Statement (.i2f gd d a rnd dst src) := by
  intro _ w h
  have ho : w.extractLsb' 56 8 = 0x7B#8 := by rw [← Option.some.inj h]; exact wordRR_op ..
  have hp : parse w = some (.i2f (gdOf w) (regAt w 42) (regAt w 32) (w.extractLsb' 9 3) (w.extractLsb' 4 4) (w.extractLsb' 0 4)) := by unfold parse; rw [ho]; rfl
  rw [hp, ← Option.some.inj h]
  simp (disch := omega) only [wordRR_gd, wordRR_d, wordRR_a, wordRR_b, wordRR_c, wordRR_m, BitVec.extractLsb'_append_eq_of_le, Nat.reduceSub,
    BitVec.extractLsb'_append_eq_of_add_le, BitVec.extractLsb'_eq_self]

set_option maxRecDepth 20000 in
theorem Laws.Encoding.qcvt (gd : Guard) (d : Reg) (a : Reg) (b : Reg) (rnd : BitVec 3) (ty : BitVec 4) : Laws.Encoding.Statement (.qcvt gd d a b rnd ty) := by
  intro _ w h
  have ho : w.extractLsb' 56 8 = 0x7C#8 := by rw [← Option.some.inj h]; exact wordRR_op ..
  have hp : parse w = some (.qcvt (gdOf w) (regAt w 42) (regAt w 32) (regAt w 22) (w.extractLsb' 9 3) (w.extractLsb' 0 4)) := by unfold parse; rw [ho]; rfl
  rw [hp, ← Option.some.inj h]
  simp (disch := omega) only [wordRR_gd, wordRR_d, wordRR_a, wordRR_b, wordRR_c, wordRR_m, BitVec.extractLsb'_append_eq_of_le, Nat.reduceSub,
    BitVec.extractLsb'_append_eq_of_add_le, BitVec.extractLsb'_eq_self]

set_option maxRecDepth 20000 in
theorem Laws.Encoding.qdeq (gd : Guard) (d : Reg) (a : Reg) (b : Reg) (rnd : BitVec 3) (ty : BitVec 4) (el : BitVec 3) : Laws.Encoding.Statement (.qdeq gd d a b rnd ty el) := by
  intro _ w h
  have ho : w.extractLsb' 56 8 = 0x7D#8 := by rw [← Option.some.inj h]; exact wordRR_op ..
  have hp : parse w = some (.qdeq (gdOf w) (regAt w 42) (regAt w 32) (regAt w 22) (w.extractLsb' 9 3) (w.extractLsb' 4 4) (w.extractLsb' 0 3)) := by unfold parse; rw [ho]; rfl
  rw [hp, ← Option.some.inj h]
  simp (disch := omega) only [wordRR_gd, wordRR_d, wordRR_a, wordRR_b, wordRR_c, wordRR_m, BitVec.extractLsb'_append_eq_of_le, Nat.reduceSub,
    BitVec.extractLsb'_append_eq_of_add_le, BitVec.extractLsb'_eq_self]

set_option maxRecDepth 20000 in
theorem Laws.Encoding.qscale (gd : Guard) (d : Reg) (a : Reg) (am : BitVec 1) (ty : BitVec 4) : Laws.Encoding.Statement (.qscale gd d a am ty) := by
  intro _ w h
  have ho : w.extractLsb' 56 8 = 0x7E#8 := by rw [← Option.some.inj h]; exact wordRR_op ..
  have hp : parse w = some (.qscale (gdOf w) (regAt w 42) (regAt w 32) (w.extractLsb' 4 1) (w.extractLsb' 0 4)) := by unfold parse; rw [ho]; rfl
  rw [hp, ← Option.some.inj h]
  simp (disch := omega) only [wordRR_gd, wordRR_d, wordRR_a, wordRR_b, wordRR_c, wordRR_m, BitVec.extractLsb'_append_eq_of_le, Nat.reduceSub,
    BitVec.extractLsb'_append_eq_of_add_le, BitVec.extractLsb'_eq_self]

set_option maxRecDepth 20000 in
theorem Laws.Encoding.mxon (gd : Guard) (shape : BitVec 2) (scaled : BitVec 1) (ty : BitVec 4) (try_ : BitVec 1) (pd : BitVec 3) : Laws.Encoding.Statement (.mxon gd shape scaled ty try_ pd) := by
  intro _ w h
  have ho : w.extractLsb' 56 8 = 0x90#8 := by rw [← Option.some.inj h]; exact wordRI_op ..
  have hp : parse w = some (.mxon (gdOf w) (w.extractLsb' 30 2) (w.extractLsb' 29 1) (w.extractLsb' 16 4) (w.extractLsb' 3 1) (w.extractLsb' 0 3)) := by unfold parse; rw [ho]; rfl
  rw [hp, ← Option.some.inj h]
  simp (disch := omega) only [wordRI_gd, wordRI_d, wordRI_a, wordRI_m, BitVec.extractLsb'_append_eq_of_le, Nat.reduceSub,
    BitVec.extractLsb'_append_eq_of_add_le, BitVec.extractLsb'_eq_self]

set_option maxRecDepth 20000 in
theorem Laws.Encoding.mxoff (gd : Guard) : Laws.Encoding.Statement (.mxoff gd) := by
  intro _ w h
  have ho : w.extractLsb' 56 8 = 0x91#8 := by rw [← Option.some.inj h]; exact wordRI_op ..
  have hp : parse w = some (.mxoff (gdOf w)) := by unfold parse; rw [ho]; rfl
  rw [hp, ← Option.some.inj h]
  simp (disch := omega) only [wordRI_gd, wordRI_d, wordRI_a, wordRI_m, BitVec.extractLsb'_append_eq_of_le, Nat.reduceSub,
    BitVec.extractLsb'_append_eq_of_add_le, BitVec.extractLsb'_eq_self]

set_option maxRecDepth 20000 in
theorem Laws.Encoding.mxsync (gd : Guard) : Laws.Encoding.Statement (.mxsync gd) := by
  intro _ w h
  have ho : w.extractLsb' 56 8 = 0x92#8 := by rw [← Option.some.inj h]; exact wordRI_op ..
  have hp : parse w = some (.mxsync (gdOf w)) := by unfold parse; rw [ho]; rfl
  rw [hp, ← Option.some.inj h]
  simp (disch := omega) only [wordRI_gd, wordRI_d, wordRI_a, wordRI_m, BitVec.extractLsb'_append_eq_of_le, Nat.reduceSub,
    BitVec.extractLsb'_append_eq_of_add_le, BitVec.extractLsb'_eq_self]

set_option maxRecDepth 20000 in
theorem Laws.Encoding.mxclr (gd : Guard) : Laws.Encoding.Statement (.mxclr gd) := by
  intro _ w h
  have ho : w.extractLsb' 56 8 = 0x93#8 := by rw [← Option.some.inj h]; exact wordRR_op ..
  have hp : parse w = some (.mxclr (gdOf w)) := by unfold parse; rw [ho]; rfl
  rw [hp, ← Option.some.inj h]
  simp (disch := omega) only [wordRR_gd, wordRR_d, wordRR_a, wordRR_b, wordRR_c, wordRR_m, BitVec.extractLsb'_append_eq_of_le, Nat.reduceSub,
    BitVec.extractLsb'_append_eq_of_add_le, BitVec.extractLsb'_eq_self]

set_option maxRecDepth 20000 in
theorem Laws.Encoding.stld (gd : Guard) (a : Reg) (ofs : BitVec 12) : Laws.Encoding.Statement (.stld gd a ofs) := by
  intro _ w h
  have ho : w.extractLsb' 56 8 = 0x94#8 := by rw [← Option.some.inj h]; exact wordRR_op ..
  have hp : parse w = some (.stld (gdOf w) (regAt w 32) (w.extractLsb' 0 12)) := by unfold parse; rw [ho]; rfl
  rw [hp, ← Option.some.inj h]
  simp (disch := omega) only [wordRR_gd, wordRR_d, wordRR_a, wordRR_b, wordRR_c, wordRR_m, BitVec.extractLsb'_append_eq_of_le, Nat.reduceSub,
    BitVec.extractLsb'_append_eq_of_add_le, BitVec.extractLsb'_eq_self]

set_option maxRecDepth 20000 in
theorem Laws.Encoding.stswap (gd : Guard) : Laws.Encoding.Statement (.stswap gd) := by
  intro _ w h
  have ho : w.extractLsb' 56 8 = 0x95#8 := by rw [← Option.some.inj h]; exact wordRI_op ..
  have hp : parse w = some (.stswap (gdOf w)) := by unfold parse; rw [ho]; rfl
  rw [hp, ← Option.some.inj h]
  simp (disch := omega) only [wordRI_gd, wordRI_d, wordRI_a, wordRI_m, BitVec.extractLsb'_append_eq_of_le, Nat.reduceSub,
    BitVec.extractLsb'_append_eq_of_add_le, BitVec.extractLsb'_eq_self]

set_option maxRecDepth 20000 in
theorem Laws.Encoding.mma (gd : Guard) (a : Reg) : Laws.Encoding.Statement (.mma gd a) := by
  intro _ w h
  have ho : w.extractLsb' 56 8 = 0x96#8 := by rw [← Option.some.inj h]; exact wordRR_op ..
  have hp : parse w = some (.mma (gdOf w) (regAt w 32)) := by unfold parse; rw [ho]; rfl
  rw [hp, ← Option.some.inj h]
  simp (disch := omega) only [wordRR_gd, wordRR_d, wordRR_a, wordRR_b, wordRR_c, wordRR_m, BitVec.extractLsb'_append_eq_of_le, Nat.reduceSub,
    BitVec.extractLsb'_append_eq_of_add_le, BitVec.extractLsb'_eq_self]

set_option maxRecDepth 20000 in
theorem Laws.Encoding.mmas (gd : Guard) (a : Reg) (b : Reg) : Laws.Encoding.Statement (.mmas gd a b) := by
  intro _ w h
  have ho : w.extractLsb' 56 8 = 0x97#8 := by rw [← Option.some.inj h]; exact wordRR_op ..
  have hp : parse w = some (.mmas (gdOf w) (regAt w 32) (regAt w 22)) := by unfold parse; rw [ho]; rfl
  rw [hp, ← Option.some.inj h]
  simp (disch := omega) only [wordRR_gd, wordRR_d, wordRR_a, wordRR_b, wordRR_c, wordRR_m, BitVec.extractLsb'_append_eq_of_le, Nat.reduceSub,
    BitVec.extractLsb'_append_eq_of_add_le, BitVec.extractLsb'_eq_self]

set_option maxRecDepth 20000 in
theorem Laws.Encoding.mxrd (gd : Guard) (d : Reg) (a : Reg) (size : BitVec 2) : Laws.Encoding.Statement (.mxrd gd d a size) := by
  intro _ w h
  have ho : w.extractLsb' 56 8 = 0x98#8 := by rw [← Option.some.inj h]; exact wordRR_op ..
  have hp : parse w = some (.mxrd (gdOf w) (regAt w 42) (regAt w 32) (w.extractLsb' 0 2)) := by unfold parse; rw [ho]; rfl
  rw [hp, ← Option.some.inj h]
  simp (disch := omega) only [wordRR_gd, wordRR_d, wordRR_a, wordRR_b, wordRR_c, wordRR_m, BitVec.extractLsb'_append_eq_of_le, Nat.reduceSub,
    BitVec.extractLsb'_append_eq_of_add_le, BitVec.extractLsb'_eq_self]

set_option maxRecDepth 20000 in
theorem Laws.Encoding.mxst (gd : Guard) (t : Reg) (a : Reg) (x : Reg) (ofs : BitVec 14) (scope : BitVec 3) (ord : BitVec 2) (sz : BitVec 3) : Laws.Encoding.Statement (.mxst gd t a x ofs scope ord sz) := by
  intro _ w h
  have ho : w.extractLsb' 56 8 = 0x99#8 := by rw [← Option.some.inj h]; exact wordMEM_op ..
  have hp : parse w = some (.mxst (gdOf w) (regAt w 42) (regAt w 32) (regAt w 22) (w.extractLsb' 8 14) (w.extractLsb' 5 3) (w.extractLsb' 3 2) (w.extractLsb' 0 3)) := by unfold parse; rw [ho]; rfl
  rw [hp, ← Option.some.inj h]
  simp (disch := omega) only [wordMEM_gd, wordMEM_t, wordMEM_a, wordMEM_x, wordMEM_m, BitVec.extractLsb'_append_eq_of_le, Nat.reduceSub,
    BitVec.extractLsb'_append_eq_of_add_le, BitVec.extractLsb'_eq_self]

set_option maxRecDepth 20000 in
theorem Laws.Encoding.ld (gd : Guard) (t : Reg) (a : Reg) (x : Reg) (ofs : BitVec 14) (scope : BitVec 3) (ord : BitVec 2) (sz : BitVec 3) : Laws.Encoding.Statement (.ld gd t a x ofs scope ord sz) := by
  intro _ w h
  have ho : w.extractLsb' 56 8 = 0xA0#8 := by rw [← Option.some.inj h]; exact wordMEM_op ..
  have hp : parse w = some (.ld (gdOf w) (regAt w 42) (regAt w 32) (regAt w 22) (w.extractLsb' 8 14) (w.extractLsb' 5 3) (w.extractLsb' 3 2) (w.extractLsb' 0 3)) := by unfold parse; rw [ho]; rfl
  rw [hp, ← Option.some.inj h]
  simp (disch := omega) only [wordMEM_gd, wordMEM_t, wordMEM_a, wordMEM_x, wordMEM_m, BitVec.extractLsb'_append_eq_of_le, Nat.reduceSub,
    BitVec.extractLsb'_append_eq_of_add_le, BitVec.extractLsb'_eq_self]

set_option maxRecDepth 20000 in
theorem Laws.Encoding.st (gd : Guard) (t : Reg) (a : Reg) (x : Reg) (ofs : BitVec 14) (scope : BitVec 3) (ord : BitVec 2) (sz : BitVec 3) : Laws.Encoding.Statement (.st gd t a x ofs scope ord sz) := by
  intro _ w h
  have ho : w.extractLsb' 56 8 = 0xA1#8 := by rw [← Option.some.inj h]; exact wordMEM_op ..
  have hp : parse w = some (.st (gdOf w) (regAt w 42) (regAt w 32) (regAt w 22) (w.extractLsb' 8 14) (w.extractLsb' 5 3) (w.extractLsb' 3 2) (w.extractLsb' 0 3)) := by unfold parse; rw [ho]; rfl
  rw [hp, ← Option.some.inj h]
  simp (disch := omega) only [wordMEM_gd, wordMEM_t, wordMEM_a, wordMEM_x, wordMEM_m, BitVec.extractLsb'_append_eq_of_le, Nat.reduceSub,
    BitVec.extractLsb'_append_eq_of_add_le, BitVec.extractLsb'_eq_self]

set_option maxRecDepth 20000 in
theorem Laws.Encoding.ldp (gd : Guard) (t : Reg) (a : Reg) (x : Reg) (ofs : BitVec 14) (scope : BitVec 3) (ord : BitVec 2) (sz : BitVec 3) : Laws.Encoding.Statement (.ldp gd t a x ofs scope ord sz) := by
  intro _ w h
  have ho : w.extractLsb' 56 8 = 0xA2#8 := by rw [← Option.some.inj h]; exact wordMEM_op ..
  have hp : parse w = some (.ldp (gdOf w) (regAt w 42) (regAt w 32) (regAt w 22) (w.extractLsb' 8 14) (w.extractLsb' 5 3) (w.extractLsb' 3 2) (w.extractLsb' 0 3)) := by unfold parse; rw [ho]; rfl
  rw [hp, ← Option.some.inj h]
  simp (disch := omega) only [wordMEM_gd, wordMEM_t, wordMEM_a, wordMEM_x, wordMEM_m, BitVec.extractLsb'_append_eq_of_le, Nat.reduceSub,
    BitVec.extractLsb'_append_eq_of_add_le, BitVec.extractLsb'_eq_self]

set_option maxRecDepth 20000 in
theorem Laws.Encoding.stp (gd : Guard) (t : Reg) (a : Reg) (x : Reg) (ofs : BitVec 14) (scope : BitVec 3) (ord : BitVec 2) (sz : BitVec 3) : Laws.Encoding.Statement (.stp gd t a x ofs scope ord sz) := by
  intro _ w h
  have ho : w.extractLsb' 56 8 = 0xA3#8 := by rw [← Option.some.inj h]; exact wordMEM_op ..
  have hp : parse w = some (.stp (gdOf w) (regAt w 42) (regAt w 32) (regAt w 22) (w.extractLsb' 8 14) (w.extractLsb' 5 3) (w.extractLsb' 3 2) (w.extractLsb' 0 3)) := by unfold parse; rw [ho]; rfl
  rw [hp, ← Option.some.inj h]
  simp (disch := omega) only [wordMEM_gd, wordMEM_t, wordMEM_a, wordMEM_x, wordMEM_m, BitVec.extractLsb'_append_eq_of_le, Nat.reduceSub,
    BitVec.extractLsb'_append_eq_of_add_le, BitVec.extractLsb'_eq_self]

set_option maxRecDepth 20000 in
theorem Laws.Encoding.ldk (gd : Guard) (t : Reg) (a : Reg) (x : Reg) (ofs : BitVec 14) (sz : BitVec 3) : Laws.Encoding.Statement (.ldk gd t a x ofs sz) := by
  intro _ w h
  have ho : w.extractLsb' 56 8 = 0xA4#8 := by rw [← Option.some.inj h]; exact wordMEM_op ..
  have hp : parse w = some (.ldk (gdOf w) (regAt w 42) (regAt w 32) (regAt w 22) (w.extractLsb' 8 14) (w.extractLsb' 0 3)) := by unfold parse; rw [ho]; rfl
  rw [hp, ← Option.some.inj h]
  simp (disch := omega) only [wordMEM_gd, wordMEM_t, wordMEM_a, wordMEM_x, wordMEM_m, BitVec.extractLsb'_append_eq_of_le, Nat.reduceSub,
    BitVec.extractLsb'_append_eq_of_add_le, BitVec.extractLsb'_eq_self]

set_option maxRecDepth 20000 in
theorem Laws.Encoding.atom (gd : Guard) (t : Reg) (a : Reg) (x : Reg) (aop : BitVec 5) (aofs : BitVec 9) (scope : BitVec 3) (ord : BitVec 2) (sz : BitVec 3) : Laws.Encoding.Statement (.atom gd t a x aop aofs scope ord sz) := by
  intro _ w h
  have ho : w.extractLsb' 56 8 = 0xA5#8 := by rw [← Option.some.inj h]; exact wordMEM_op ..
  have hp : parse w = some (.atom (gdOf w) (regAt w 42) (regAt w 32) (regAt w 22) (w.extractLsb' 17 5) (w.extractLsb' 8 9) (w.extractLsb' 5 3) (w.extractLsb' 3 2) (w.extractLsb' 0 3)) := by unfold parse; rw [ho]; rfl
  rw [hp, ← Option.some.inj h]
  simp (disch := omega) only [wordMEM_gd, wordMEM_t, wordMEM_a, wordMEM_x, wordMEM_m, BitVec.extractLsb'_append_eq_of_le, Nat.reduceSub,
    BitVec.extractLsb'_append_eq_of_add_le, BitVec.extractLsb'_eq_self]

set_option maxRecDepth 20000 in
theorem Laws.Encoding.acas (gd : Guard) (t : Reg) (a : Reg) (x : Reg) (ofs : BitVec 14) (scope : BitVec 3) (ord : BitVec 2) (sz : BitVec 3) : Laws.Encoding.Statement (.acas gd t a x ofs scope ord sz) := by
  intro _ w h
  have ho : w.extractLsb' 56 8 = 0xA6#8 := by rw [← Option.some.inj h]; exact wordMEM_op ..
  have hp : parse w = some (.acas (gdOf w) (regAt w 42) (regAt w 32) (regAt w 22) (w.extractLsb' 8 14) (w.extractLsb' 5 3) (w.extractLsb' 3 2) (w.extractLsb' 0 3)) := by unfold parse; rw [ho]; rfl
  rw [hp, ← Option.some.inj h]
  simp (disch := omega) only [wordMEM_gd, wordMEM_t, wordMEM_a, wordMEM_x, wordMEM_m, BitVec.extractLsb'_append_eq_of_le, Nat.reduceSub,
    BitVec.extractLsb'_append_eq_of_add_le, BitVec.extractLsb'_eq_self]

set_option maxRecDepth 20000 in
theorem Laws.Encoding.red (gd : Guard) (a : Reg) (x : Reg) (aop : BitVec 5) (aofs : BitVec 9) (scope : BitVec 3) (ord : BitVec 2) (sz : BitVec 3) : Laws.Encoding.Statement (.red gd a x aop aofs scope ord sz) := by
  intro _ w h
  have ho : w.extractLsb' 56 8 = 0xA7#8 := by rw [← Option.some.inj h]; exact wordMEM_op ..
  have hp : parse w = some (.red (gdOf w) (regAt w 32) (regAt w 22) (w.extractLsb' 17 5) (w.extractLsb' 8 9) (w.extractLsb' 5 3) (w.extractLsb' 3 2) (w.extractLsb' 0 3)) := by unfold parse; rw [ho]; rfl
  rw [hp, ← Option.some.inj h]
  simp (disch := omega) only [wordMEM_gd, wordMEM_t, wordMEM_a, wordMEM_x, wordMEM_m, BitVec.extractLsb'_append_eq_of_le, Nat.reduceSub,
    BitVec.extractLsb'_append_eq_of_add_le, BitVec.extractLsb'_eq_self]

set_option maxRecDepth 20000 in
theorem Laws.Encoding.atomp (gd : Guard) (t : Reg) (a : Reg) (x : Reg) (aop : BitVec 5) (aofs : BitVec 9) (scope : BitVec 3) (ord : BitVec 2) (sz : BitVec 3) : Laws.Encoding.Statement (.atomp gd t a x aop aofs scope ord sz) := by
  intro _ w h
  have ho : w.extractLsb' 56 8 = 0xA8#8 := by rw [← Option.some.inj h]; exact wordMEM_op ..
  have hp : parse w = some (.atomp (gdOf w) (regAt w 42) (regAt w 32) (regAt w 22) (w.extractLsb' 17 5) (w.extractLsb' 8 9) (w.extractLsb' 5 3) (w.extractLsb' 3 2) (w.extractLsb' 0 3)) := by unfold parse; rw [ho]; rfl
  rw [hp, ← Option.some.inj h]
  simp (disch := omega) only [wordMEM_gd, wordMEM_t, wordMEM_a, wordMEM_x, wordMEM_m, BitVec.extractLsb'_append_eq_of_le, Nat.reduceSub,
    BitVec.extractLsb'_append_eq_of_add_le, BitVec.extractLsb'_eq_self]

set_option maxRecDepth 20000 in
theorem Laws.Encoding.acasp (gd : Guard) (t : Reg) (a : Reg) (x : Reg) (ofs : BitVec 14) (scope : BitVec 3) (ord : BitVec 2) (sz : BitVec 3) : Laws.Encoding.Statement (.acasp gd t a x ofs scope ord sz) := by
  intro _ w h
  have ho : w.extractLsb' 56 8 = 0xA9#8 := by rw [← Option.some.inj h]; exact wordMEM_op ..
  have hp : parse w = some (.acasp (gdOf w) (regAt w 42) (regAt w 32) (regAt w 22) (w.extractLsb' 8 14) (w.extractLsb' 5 3) (w.extractLsb' 3 2) (w.extractLsb' 0 3)) := by unfold parse; rw [ho]; rfl
  rw [hp, ← Option.some.inj h]
  simp (disch := omega) only [wordMEM_gd, wordMEM_t, wordMEM_a, wordMEM_x, wordMEM_m, BitVec.extractLsb'_append_eq_of_le, Nat.reduceSub,
    BitVec.extractLsb'_append_eq_of_add_le, BitVec.extractLsb'_eq_self]

set_option maxRecDepth 20000 in
theorem Laws.Encoding.fence (gd : Guard) (scope : BitVec 3) (ord : BitVec 2) : Laws.Encoding.Statement (.fence gd scope ord) := by
  intro _ w h
  have ho : w.extractLsb' 56 8 = 0xAA#8 := by rw [← Option.some.inj h]; exact wordRI_op ..
  have hp : parse w = some (.fence (gdOf w) (w.extractLsb' 5 3) (w.extractLsb' 3 2)) := by unfold parse; rw [ho]; rfl
  rw [hp, ← Option.some.inj h]
  simp (disch := omega) only [wordRI_gd, wordRI_d, wordRI_a, wordRI_m, BitVec.extractLsb'_append_eq_of_le, Nat.reduceSub,
    BitVec.extractLsb'_append_eq_of_add_le, BitVec.extractLsb'_eq_self]

set_option maxRecDepth 20000 in
theorem Laws.Encoding.pref (gd : Guard) (a : Reg) (x : Reg) (ofs : BitVec 14) (scope : BitVec 3) (sz : BitVec 3) : Laws.Encoding.Statement (.pref gd a x ofs scope sz) := by
  intro _ w h
  have ho : w.extractLsb' 56 8 = 0xAB#8 := by rw [← Option.some.inj h]; exact wordMEM_op ..
  have hp : parse w = some (.pref (gdOf w) (regAt w 32) (regAt w 22) (w.extractLsb' 8 14) (w.extractLsb' 5 3) (w.extractLsb' 0 3)) := by unfold parse; rw [ho]; rfl
  rw [hp, ← Option.some.inj h]
  simp (disch := omega) only [wordMEM_gd, wordMEM_t, wordMEM_a, wordMEM_x, wordMEM_m, BitVec.extractLsb'_append_eq_of_le, Nat.reduceSub,
    BitVec.extractLsb'_append_eq_of_add_le, BitVec.extractLsb'_eq_self]

set_option maxRecDepth 20000 in
theorem Laws.Encoding.cflush (gd : Guard) (a : Reg) (x : Reg) (ofs : BitVec 14) (scope : BitVec 3) (sz : BitVec 3) : Laws.Encoding.Statement (.cflush gd a x ofs scope sz) := by
  intro _ w h
  have ho : w.extractLsb' 56 8 = 0xAC#8 := by rw [← Option.some.inj h]; exact wordMEM_op ..
  have hp : parse w = some (.cflush (gdOf w) (regAt w 32) (regAt w 22) (w.extractLsb' 8 14) (w.extractLsb' 5 3) (w.extractLsb' 0 3)) := by unfold parse; rw [ho]; rfl
  rw [hp, ← Option.some.inj h]
  simp (disch := omega) only [wordMEM_gd, wordMEM_t, wordMEM_a, wordMEM_x, wordMEM_m, BitVec.extractLsb'_append_eq_of_le, Nat.reduceSub,
    BitVec.extractLsb'_append_eq_of_add_le, BitVec.extractLsb'_eq_self]

set_option maxRecDepth 20000 in
theorem Laws.Encoding.tagrd (gd : Guard) (t : Reg) (a : Reg) (x : Reg) (ofs : BitVec 14) (sz : BitVec 3) : Laws.Encoding.Statement (.tagrd gd t a x ofs sz) := by
  intro _ w h
  have ho : w.extractLsb' 56 8 = 0xAD#8 := by rw [← Option.some.inj h]; exact wordMEM_op ..
  have hp : parse w = some (.tagrd (gdOf w) (regAt w 42) (regAt w 32) (regAt w 22) (w.extractLsb' 8 14) (w.extractLsb' 0 3)) := by unfold parse; rw [ho]; rfl
  rw [hp, ← Option.some.inj h]
  simp (disch := omega) only [wordMEM_gd, wordMEM_t, wordMEM_a, wordMEM_x, wordMEM_m, BitVec.extractLsb'_append_eq_of_le, Nat.reduceSub,
    BitVec.extractLsb'_append_eq_of_add_le, BitVec.extractLsb'_eq_self]

set_option maxRecDepth 20000 in
theorem Laws.Encoding.tagwr (gd : Guard) (t : Reg) (a : Reg) (x : Reg) (ofs : BitVec 14) (sz : BitVec 3) : Laws.Encoding.Statement (.tagwr gd t a x ofs sz) := by
  intro _ w h
  have ho : w.extractLsb' 56 8 = 0xAE#8 := by rw [← Option.some.inj h]; exact wordMEM_op ..
  have hp : parse w = some (.tagwr (gdOf w) (regAt w 42) (regAt w 32) (regAt w 22) (w.extractLsb' 8 14) (w.extractLsb' 0 3)) := by unfold parse; rw [ho]; rfl
  rw [hp, ← Option.some.inj h]
  simp (disch := omega) only [wordMEM_gd, wordMEM_t, wordMEM_a, wordMEM_x, wordMEM_m, BitVec.extractLsb'_append_eq_of_le, Nat.reduceSub,
    BitVec.extractLsb'_append_eq_of_add_le, BitVec.extractLsb'_eq_self]

set_option maxRecDepth 20000 in
theorem Laws.Encoding.copy (gd : Guard) (d : Reg) (a : Reg) (b : Reg) (tmpl : BitVec 6) (hnd : BitVec 5) : Laws.Encoding.Statement (.copy gd d a b tmpl hnd) := by
  intro _ w h
  have ho : w.extractLsb' 56 8 = 0xC0#8 := by rw [← Option.some.inj h]; exact wordRR_op ..
  have hp : parse w = some (.copy (gdOf w) (regAt w 42) (regAt w 32) (regAt w 22) (w.extractLsb' 6 6) (w.extractLsb' 1 5)) := by unfold parse; rw [ho]; rfl
  rw [hp, ← Option.some.inj h]
  simp (disch := omega) only [wordRR_gd, wordRR_d, wordRR_a, wordRR_b, wordRR_c, wordRR_m, BitVec.extractLsb'_append_eq_of_le, Nat.reduceSub,
    BitVec.extractLsb'_append_eq_of_add_le, BitVec.extractLsb'_eq_self]

set_option maxRecDepth 20000 in
theorem Laws.Encoding.copym (gd : Guard) (d : Reg) (a : Reg) (b : Reg) (tmpl : BitVec 6) (hnd : BitVec 5) : Laws.Encoding.Statement (.copym gd d a b tmpl hnd) := by
  intro _ w h
  have ho : w.extractLsb' 56 8 = 0xC1#8 := by rw [← Option.some.inj h]; exact wordRR_op ..
  have hp : parse w = some (.copym (gdOf w) (regAt w 42) (regAt w 32) (regAt w 22) (w.extractLsb' 6 6) (w.extractLsb' 1 5)) := by unfold parse; rw [ho]; rfl
  rw [hp, ← Option.some.inj h]
  simp (disch := omega) only [wordRR_gd, wordRR_d, wordRR_a, wordRR_b, wordRR_c, wordRR_m, BitVec.extractLsb'_append_eq_of_le, Nat.reduceSub,
    BitVec.extractLsb'_append_eq_of_add_le, BitVec.extractLsb'_eq_self]

set_option maxRecDepth 20000 in
theorem Laws.Encoding.hwait (gd : Guard) (hnd : BitVec 5) (pd : BitVec 3) : Laws.Encoding.Statement (.hwait gd hnd pd) := by
  intro _ w h
  have ho : w.extractLsb' 56 8 = 0xC2#8 := by rw [← Option.some.inj h]; exact wordRI_op ..
  have hp : parse w = some (.hwait (gdOf w) (w.extractLsb' 3 5) (w.extractLsb' 0 3)) := by unfold parse; rw [ho]; rfl
  rw [hp, ← Option.some.inj h]
  simp (disch := omega) only [wordRI_gd, wordRI_d, wordRI_a, wordRI_m, BitVec.extractLsb'_append_eq_of_le, Nat.reduceSub,
    BitVec.extractLsb'_append_eq_of_add_le, BitVec.extractLsb'_eq_self]

set_option maxRecDepth 20000 in
theorem Laws.Encoding.hrel (gd : Guard) (hnd : BitVec 5) : Laws.Encoding.Statement (.hrel gd hnd) := by
  intro _ w h
  have ho : w.extractLsb' 56 8 = 0xC3#8 := by rw [← Option.some.inj h]; exact wordRI_op ..
  have hp : parse w = some (.hrel (gdOf w) (w.extractLsb' 3 5)) := by unfold parse; rw [ho]; rfl
  rw [hp, ← Option.some.inj h]
  simp (disch := omega) only [wordRI_gd, wordRI_d, wordRI_a, wordRI_m, BitVec.extractLsb'_append_eq_of_le, Nat.reduceSub,
    BitVec.extractLsb'_append_eq_of_add_le, BitVec.extractLsb'_eq_self]

set_option maxRecDepth 20000 in
theorem Laws.Encoding.hstat (gd : Guard) (d : Reg) (hnd : BitVec 5) : Laws.Encoding.Statement (.hstat gd d hnd) := by
  intro _ w h
  have ho : w.extractLsb' 56 8 = 0xC4#8 := by rw [← Option.some.inj h]; exact wordRI_op ..
  have hp : parse w = some (.hstat (gdOf w) (regAt w 42) (w.extractLsb' 3 5)) := by unfold parse; rw [ho]; rfl
  rw [hp, ← Option.some.inj h]
  simp (disch := omega) only [wordRI_gd, wordRI_d, wordRI_a, wordRI_m, BitVec.extractLsb'_append_eq_of_le, Nat.reduceSub,
    BitVec.extractLsb'_append_eq_of_add_le, BitVec.extractLsb'_eq_self]

set_option maxRecDepth 20000 in
theorem Laws.Encoding.cfetch (gd : Guard) (a : Reg) (pd : BitVec 3) : Laws.Encoding.Statement (.cfetch gd a pd) := by
  intro _ w h
  have ho : w.extractLsb' 56 8 = 0xC5#8 := by rw [← Option.some.inj h]; exact wordRI_op ..
  have hp : parse w = some (.cfetch (gdOf w) (regAt w 32) (w.extractLsb' 0 3)) := by unfold parse; rw [ho]; rfl
  rw [hp, ← Option.some.inj h]
  simp (disch := omega) only [wordRI_gd, wordRI_d, wordRI_a, wordRI_m, BitVec.extractLsb'_append_eq_of_le, Nat.reduceSub,
    BitVec.extractLsb'_append_eq_of_add_le, BitVec.extractLsb'_eq_self]

set_option maxRecDepth 20000 in
theorem Laws.Encoding.cwait (gd : Guard) (a : Reg) : Laws.Encoding.Statement (.cwait gd a) := by
  intro _ w h
  have ho : w.extractLsb' 56 8 = 0xC6#8 := by rw [← Option.some.inj h]; exact wordRI_op ..
  have hp : parse w = some (.cwait (gdOf w) (regAt w 32)) := by unfold parse; rw [ho]; rfl
  rw [hp, ← Option.some.inj h]
  simp (disch := omega) only [wordRI_gd, wordRI_d, wordRI_a, wordRI_m, BitVec.extractLsb'_append_eq_of_le, Nat.reduceSub,
    BitVec.extractLsb'_append_eq_of_add_le, BitVec.extractLsb'_eq_self]

set_option maxRecDepth 20000 in
theorem Laws.Encoding.jmpf (gd : Guard) (a : Reg) (pr : BitVec 8) (disp : BitVec 32) : Laws.Encoding.Statement (.jmpf gd a pr disp) := by
  intro _ w h
  have ho : w.extractLsb' 56 8 = 0xC7#8 := by rw [← Option.some.inj h]; exact wordBR_op ..
  have hp : parse w = some (.jmpf (gdOf w) (regAt w 32) (w.extractLsb' 44 8) (w.extractLsb' 0 32)) := by unfold parse; rw [ho]; rfl
  rw [hp, ← Option.some.inj h]
  simp (disch := omega) only [wordBR_gd, wordBR_a, wordBR_pr, wordBR_m, BitVec.extractLsb'_append_eq_of_le, Nat.reduceSub,
    BitVec.extractLsb'_append_eq_of_add_le, BitVec.extractLsb'_eq_self]

set_option maxRecDepth 20000 in
theorem Laws.Encoding.callf (gd : Guard) (a : Reg) (pr : BitVec 8) (disp : BitVec 32) : Laws.Encoding.Statement (.callf gd a pr disp) := by
  intro _ w h
  have ho : w.extractLsb' 56 8 = 0xC8#8 := by rw [← Option.some.inj h]; exact wordBR_op ..
  have hp : parse w = some (.callf (gdOf w) (regAt w 32) (w.extractLsb' 44 8) (w.extractLsb' 0 32)) := by unfold parse; rw [ho]; rfl
  rw [hp, ← Option.some.inj h]
  simp (disch := omega) only [wordBR_gd, wordBR_a, wordBR_pr, wordBR_m, BitVec.extractLsb'_append_eq_of_le, Nat.reduceSub,
    BitVec.extractLsb'_append_eq_of_add_le, BitVec.extractLsb'_eq_self]

set_option maxRecDepth 20000 in
theorem Laws.Encoding.cevict (gd : Guard) (a : Reg) : Laws.Encoding.Statement (.cevict gd a) := by
  intro _ w h
  have ho : w.extractLsb' 56 8 = 0xC9#8 := by rw [← Option.some.inj h]; exact wordRI_op ..
  have hp : parse w = some (.cevict (gdOf w) (regAt w 32)) := by unfold parse; rw [ho]; rfl
  rw [hp, ← Option.some.inj h]
  simp (disch := omega) only [wordRI_gd, wordRI_d, wordRI_a, wordRI_m, BitVec.extractLsb'_append_eq_of_le, Nat.reduceSub,
    BitVec.extractLsb'_append_eq_of_add_le, BitVec.extractLsb'_eq_self]

set_option maxRecDepth 20000 in
theorem Laws.Encoding.rast (gd : Guard) (d : Reg) (a : Reg) (hnd : BitVec 5) : Laws.Encoding.Statement (.rast gd d a hnd) := by
  intro _ w h
  have ho : w.extractLsb' 56 8 = 0xD0#8 := by rw [← Option.some.inj h]; exact wordRR_op ..
  have hp : parse w = some (.rast (gdOf w) (regAt w 42) (regAt w 32) (w.extractLsb' 1 5)) := by unfold parse; rw [ho]; rfl
  rw [hp, ← Option.some.inj h]
  simp (disch := omega) only [wordRR_gd, wordRR_d, wordRR_a, wordRR_b, wordRR_c, wordRR_m, BitVec.extractLsb'_append_eq_of_le, Nat.reduceSub,
    BitVec.extractLsb'_append_eq_of_add_le, BitVec.extractLsb'_eq_self]

set_option maxRecDepth 20000 in
theorem Laws.Encoding.visld (gd : Guard) (d : Reg) (a : Reg) (b : Reg) (pos : BitVec 1) : Laws.Encoding.Statement (.visld gd d a b pos) := by
  intro _ w h
  have ho : w.extractLsb' 56 8 = 0xD1#8 := by rw [← Option.some.inj h]; exact wordRR_op ..
  have hp : parse w = some (.visld (gdOf w) (regAt w 42) (regAt w 32) (regAt w 22) (w.extractLsb' 0 1)) := by unfold parse; rw [ho]; rfl
  rw [hp, ← Option.some.inj h]
  simp (disch := omega) only [wordRR_gd, wordRR_d, wordRR_a, wordRR_b, wordRR_c, wordRR_m, BitVec.extractLsb'_append_eq_of_le, Nat.reduceSub,
    BitVec.extractLsb'_append_eq_of_add_le, BitVec.extractLsb'_eq_self]

set_option maxRecDepth 20000 in
theorem Laws.Encoding.bary (gd : Guard) (d : Reg) (a : Reg) (b : Reg) (c : Reg) : Laws.Encoding.Statement (.bary gd d a b c) := by
  intro _ w h
  have ho : w.extractLsb' 56 8 = 0xD2#8 := by rw [← Option.some.inj h]; exact wordRR_op ..
  have hp : parse w = some (.bary (gdOf w) (regAt w 42) (regAt w 32) (regAt w 22) (regAt w 12)) := by unfold parse; rw [ho]; rfl
  rw [hp, ← Option.some.inj h]
  simp (disch := omega) only [wordRR_gd, wordRR_d, wordRR_a, wordRR_b, wordRR_c, wordRR_m, BitVec.extractLsb'_append_eq_of_le, Nat.reduceSub,
    BitVec.extractLsb'_append_eq_of_add_le, BitVec.extractLsb'_eq_self]

set_option maxRecDepth 20000 in
theorem Laws.Encoding.tex (gd : Guard) (d : Reg) (a : Reg) (b : Reg) (c : Reg) (nm : BitVec 1) (lin : BitVec 1) (pd : BitVec 3) : Laws.Encoding.Statement (.tex gd d a b c nm lin pd) := by
  intro _ w h
  have ho : w.extractLsb' 56 8 = 0xD3#8 := by rw [← Option.some.inj h]; exact wordRR_op ..
  have hp : parse w = some (.tex (gdOf w) (regAt w 42) (regAt w 32) (regAt w 22) (regAt w 12) (w.extractLsb' 4 1) (w.extractLsb' 3 1) (w.extractLsb' 0 3)) := by unfold parse; rw [ho]; rfl
  rw [hp, ← Option.some.inj h]
  simp (disch := omega) only [wordRR_gd, wordRR_d, wordRR_a, wordRR_b, wordRR_c, wordRR_m, BitVec.extractLsb'_append_eq_of_le, Nat.reduceSub,
    BitVec.extractLsb'_append_eq_of_add_le, BitVec.extractLsb'_eq_self]

set_option maxRecDepth 20000 in
theorem Laws.Encoding.texg (gd : Guard) (d : Reg) (a : Reg) (b : Reg) (c : Reg) (comp : BitVec 2) (nm : BitVec 1) (pd : BitVec 3) : Laws.Encoding.Statement (.texg gd d a b c comp nm pd) := by
  intro _ w h
  have ho : w.extractLsb' 56 8 = 0xD4#8 := by rw [← Option.some.inj h]; exact wordRR_op ..
  have hp : parse w = some (.texg (gdOf w) (regAt w 42) (regAt w 32) (regAt w 22) (regAt w 12) (w.extractLsb' 5 2) (w.extractLsb' 4 1) (w.extractLsb' 0 3)) := by unfold parse; rw [ho]; rfl
  rw [hp, ← Option.some.inj h]
  simp (disch := omega) only [wordRR_gd, wordRR_d, wordRR_a, wordRR_b, wordRR_c, wordRR_m, BitVec.extractLsb'_append_eq_of_le, Nat.reduceSub,
    BitVec.extractLsb'_append_eq_of_add_le, BitVec.extractLsb'_eq_self]

set_option maxRecDepth 20000 in
theorem Laws.Encoding.texq (gd : Guard) (d : Reg) (a : Reg) (c : Reg) : Laws.Encoding.Statement (.texq gd d a c) := by
  intro _ w h
  have ho : w.extractLsb' 56 8 = 0xD5#8 := by rw [← Option.some.inj h]; exact wordRR_op ..
  have hp : parse w = some (.texq (gdOf w) (regAt w 42) (regAt w 32) (regAt w 12)) := by unfold parse; rw [ho]; rfl
  rw [hp, ← Option.some.inj h]
  simp (disch := omega) only [wordRR_gd, wordRR_d, wordRR_a, wordRR_b, wordRR_c, wordRR_m, BitVec.extractLsb'_append_eq_of_le, Nat.reduceSub,
    BitVec.extractLsb'_append_eq_of_add_le, BitVec.extractLsb'_eq_self]

set_option maxRecDepth 20000 in
theorem Laws.Encoding.rsmark (gd : Guard) (a : Reg) : Laws.Encoding.Statement (.rsmark gd a) := by
  intro _ w h
  have ho : w.extractLsb' 56 8 = 0xD6#8 := by rw [← Option.some.inj h]; exact wordRR_op ..
  have hp : parse w = some (.rsmark (gdOf w) (regAt w 32)) := by unfold parse; rw [ho]; rfl
  rw [hp, ← Option.some.inj h]
  simp (disch := omega) only [wordRR_gd, wordRR_d, wordRR_a, wordRR_b, wordRR_c, wordRR_m, BitVec.extractLsb'_append_eq_of_le, Nat.reduceSub,
    BitVec.extractLsb'_append_eq_of_add_le, BitVec.extractLsb'_eq_self]

set_option maxRecDepth 20000 in
theorem Laws.Encoding.rtbox (gd : Guard) (d : Reg) (a : Reg) (b : Reg) (c : Reg) (pd : BitVec 3) : Laws.Encoding.Statement (.rtbox gd d a b c pd) := by
  intro _ w h
  have ho : w.extractLsb' 56 8 = 0xD7#8 := by rw [← Option.some.inj h]; exact wordRR_op ..
  have hp : parse w = some (.rtbox (gdOf w) (regAt w 42) (regAt w 32) (regAt w 22) (regAt w 12) (w.extractLsb' 0 3)) := by unfold parse; rw [ho]; rfl
  rw [hp, ← Option.some.inj h]
  simp (disch := omega) only [wordRR_gd, wordRR_d, wordRR_a, wordRR_b, wordRR_c, wordRR_m, BitVec.extractLsb'_append_eq_of_le, Nat.reduceSub,
    BitVec.extractLsb'_append_eq_of_add_le, BitVec.extractLsb'_eq_self]

set_option maxRecDepth 20000 in
theorem Laws.Encoding.rttri (gd : Guard) (d : Reg) (a : Reg) (b : Reg) (c : Reg) (cull : BitVec 2) (pd : BitVec 3) : Laws.Encoding.Statement (.rttri gd d a b c cull pd) := by
  intro _ w h
  have ho : w.extractLsb' 56 8 = 0xD8#8 := by rw [← Option.some.inj h]; exact wordRR_op ..
  have hp : parse w = some (.rttri (gdOf w) (regAt w 42) (regAt w 32) (regAt w 22) (regAt w 12) (w.extractLsb' 3 2) (w.extractLsb' 0 3)) := by unfold parse; rw [ho]; rfl
  rw [hp, ← Option.some.inj h]
  simp (disch := omega) only [wordRR_gd, wordRR_d, wordRR_a, wordRR_b, wordRR_c, wordRR_m, BitVec.extractLsb'_append_eq_of_le, Nat.reduceSub,
    BitVec.extractLsb'_append_eq_of_add_le, BitVec.extractLsb'_eq_self]

set_option maxRecDepth 20000 in
theorem Laws.Encoding.rtxf (gd : Guard) (d : Reg) (a : Reg) (c : Reg) (dir : BitVec 1) : Laws.Encoding.Statement (.rtxf gd d a c dir) := by
  intro _ w h
  have ho : w.extractLsb' 56 8 = 0xD9#8 := by rw [← Option.some.inj h]; exact wordRR_op ..
  have hp : parse w = some (.rtxf (gdOf w) (regAt w 42) (regAt w 32) (regAt w 12) (w.extractLsb' 0 1)) := by unfold parse; rw [ho]; rfl
  rw [hp, ← Option.some.inj h]
  simp (disch := omega) only [wordRR_gd, wordRR_d, wordRR_a, wordRR_b, wordRR_c, wordRR_m, BitVec.extractLsb'_append_eq_of_le, Nat.reduceSub,
    BitVec.extractLsb'_append_eq_of_add_le, BitVec.extractLsb'_eq_self]

set_option maxRecDepth 20000 in
theorem Laws.Encoding.sig (gd : Guard) (d : Reg) (a : Reg) : Laws.Encoding.Statement (.sig gd d a) := by
  intro _ w h
  have ho : w.extractLsb' 56 8 = 0xDA#8 := by rw [← Option.some.inj h]; exact wordRR_op ..
  have hp : parse w = some (.sig (gdOf w) (regAt w 42) (regAt w 32)) := by unfold parse; rw [ho]; rfl
  rw [hp, ← Option.some.inj h]
  simp (disch := omega) only [wordRR_gd, wordRR_d, wordRR_a, wordRR_b, wordRR_c, wordRR_m, BitVec.extractLsb'_append_eq_of_le, Nat.reduceSub,
    BitVec.extractLsb'_append_eq_of_add_le, BitVec.extractLsb'_eq_self]

set_option maxRecDepth 20000 in
theorem Laws.Encoding.sigend (gd : Guard) (a : Reg) (b : Reg) (c : Reg) : Laws.Encoding.Statement (.sigend gd a b c) := by
  intro _ w h
  have ho : w.extractLsb' 56 8 = 0xDB#8 := by rw [← Option.some.inj h]; exact wordRR_op ..
  have hp : parse w = some (.sigend (gdOf w) (regAt w 32) (regAt w 22) (regAt w 12)) := by unfold parse; rw [ho]; rfl
  rw [hp, ← Option.some.inj h]
  simp (disch := omega) only [wordRR_gd, wordRR_d, wordRR_a, wordRR_b, wordRR_c, wordRR_m, BitVec.extractLsb'_append_eq_of_le, Nat.reduceSub,
    BitVec.extractLsb'_append_eq_of_add_le, BitVec.extractLsb'_eq_self]

set_option maxRecDepth 20000 in
theorem Laws.Encoding.time (gd : Guard) (d : Reg) : Laws.Encoding.Statement (.time gd d) := by
  intro _ w h
  have ho : w.extractLsb' 56 8 = 0xE0#8 := by rw [← Option.some.inj h]; exact wordRI_op ..
  have hp : parse w = some (.time (gdOf w) (regAt w 42)) := by unfold parse; rw [ho]; rfl
  rw [hp, ← Option.some.inj h]
  simp (disch := omega) only [wordRI_gd, wordRI_d, wordRI_a, wordRI_m, BitVec.extractLsb'_append_eq_of_le, Nat.reduceSub,
    BitVec.extractLsb'_append_eq_of_add_le, BitVec.extractLsb'_eq_self]

set_option maxRecDepth 20000 in
theorem Laws.Encoding.launch (gd : Guard) (a : Reg) (pd : BitVec 3) : Laws.Encoding.Statement (.launch gd a pd) := by
  intro _ w h
  have ho : w.extractLsb' 56 8 = 0xE1#8 := by rw [← Option.some.inj h]; exact wordRI_op ..
  have hp : parse w = some (.launch (gdOf w) (regAt w 32) (w.extractLsb' 0 3)) := by unfold parse; rw [ho]; rfl
  rw [hp, ← Option.some.inj h]
  simp (disch := omega) only [wordRI_gd, wordRI_d, wordRI_a, wordRI_m, BitVec.extractLsb'_append_eq_of_le, Nat.reduceSub,
    BitVec.extractLsb'_append_eq_of_add_le, BitVec.extractLsb'_eq_self]

set_option maxRecDepth 20000 in
theorem Laws.Encoding.launchw (gd : Guard) (a : Reg) : Laws.Encoding.Statement (.launchw gd a) := by
  intro _ w h
  have ho : w.extractLsb' 56 8 = 0xE2#8 := by rw [← Option.some.inj h]; exact wordRI_op ..
  have hp : parse w = some (.launchw (gdOf w) (regAt w 32)) := by unfold parse; rw [ho]; rfl
  rw [hp, ← Option.some.inj h]
  simp (disch := omega) only [wordRI_gd, wordRI_d, wordRI_a, wordRI_m, BitVec.extractLsb'_append_eq_of_le, Nat.reduceSub,
    BitVec.extractLsb'_append_eq_of_add_le, BitVec.extractLsb'_eq_self]

set_option maxRecDepth 20000 in
theorem Laws.Encoding.lwait (gd : Guard) (d : Reg) (a : Reg) (test : BitVec 1) (pd : BitVec 3) : Laws.Encoding.Statement (.lwait gd d a test pd) := by
  intro _ w h
  have ho : w.extractLsb' 56 8 = 0xE3#8 := by rw [← Option.some.inj h]; exact wordRI_op ..
  have hp : parse w = some (.lwait (gdOf w) (regAt w 42) (regAt w 32) (w.extractLsb' 3 1) (w.extractLsb' 0 3)) := by unfold parse; rw [ho]; rfl
  rw [hp, ← Option.some.inj h]
  simp (disch := omega) only [wordRI_gd, wordRI_d, wordRI_a, wordRI_m, BitVec.extractLsb'_append_eq_of_le, Nat.reduceSub,
    BitVec.extractLsb'_append_eq_of_add_le, BitVec.extractLsb'_eq_self]

set_option maxRecDepth 20000 in
theorem Laws.Encoding.lpub (gd : Guard) (a : Reg) (pd : BitVec 3) : Laws.Encoding.Statement (.lpub gd a pd) := by
  intro _ w h
  have ho : w.extractLsb' 56 8 = 0xE4#8 := by rw [← Option.some.inj h]; exact wordRI_op ..
  have hp : parse w = some (.lpub (gdOf w) (regAt w 32) (w.extractLsb' 0 3)) := by unfold parse; rw [ho]; rfl
  rw [hp, ← Option.some.inj h]
  simp (disch := omega) only [wordRI_gd, wordRI_d, wordRI_a, wordRI_m, BitVec.extractLsb'_append_eq_of_le, Nat.reduceSub,
    BitVec.extractLsb'_append_eq_of_add_le, BitVec.extractLsb'_eq_self]

set_option maxRecDepth 20000 in
theorem Laws.Encoding.platch (gd : Guard) (d : Reg) (md : BitVec 1) (slot : BitVec 2) (pd : BitVec 3) : Laws.Encoding.Statement (.platch gd d md slot pd) := by
  intro _ w h
  have ho : w.extractLsb' 56 8 = 0xE5#8 := by rw [← Option.some.inj h]; exact wordRI_op ..
  have hp : parse w = some (.platch (gdOf w) (regAt w 42) (w.extractLsb' 16 1) (w.extractLsb' 3 2) (w.extractLsb' 0 3)) := by unfold parse; rw [ho]; rfl
  rw [hp, ← Option.some.inj h]
  simp (disch := omega) only [wordRI_gd, wordRI_d, wordRI_a, wordRI_m, BitVec.extractLsb'_append_eq_of_le, Nat.reduceSub,
    BitVec.extractLsb'_append_eq_of_add_le, BitVec.extractLsb'_eq_self]

set_option maxRecDepth 20000 in
theorem Laws.Encoding.decls (gd : Guard) (a : Reg) : Laws.Encoding.Statement (.decls gd a) := by
  intro _ w h
  have ho : w.extractLsb' 56 8 = 0xE6#8 := by rw [← Option.some.inj h]; exact wordRI_op ..
  have hp : parse w = some (.decls (gdOf w) (regAt w 32)) := by unfold parse; rw [ho]; rfl
  rw [hp, ← Option.some.inj h]
  simp (disch := omega) only [wordRI_gd, wordRI_d, wordRI_a, wordRI_m, BitVec.extractLsb'_append_eq_of_le, Nat.reduceSub,
    BitVec.extractLsb'_append_eq_of_add_le, BitVec.extractLsb'_eq_self]

set_option maxRecDepth 20000 in
theorem Laws.Encoding.kselGen (gd : Guard) (slot : BitVec 9) (pd : BitVec 3) : Laws.Encoding.Statement (.kselGen gd slot pd) := by
  intro _ w h
  have ho : w.extractLsb' 56 8 = 0xE7#8 := by rw [← Option.some.inj h]; exact wordRI_op ..
  have hk : w.extractLsb' 16 3 = 0#3 := by
    rw [← Option.some.inj h, wordRI_m _ _ _ _ _ _ _ (by omega)]
    simp (disch := omega) only [BitVec.extractLsb'_append_eq_of_le, Nat.reduceSub, BitVec.extractLsb'_append_eq_of_add_le, BitVec.extractLsb'_eq_self]
  have hp : parse w = some (.kselGen (gdOf w) (w.extractLsb' 3 9) (w.extractLsb' 0 3)) := by
    unfold parse; rw [ho]; simp only [BitVec.toNat_ofNat]; show (match (w.extractLsb' 16 3).toNat with | _ => _) = _; rw [hk]; rfl
  rw [hp, ← Option.some.inj h]
  simp (disch := omega) only [wordRI_gd, wordRI_d, wordRI_a, wordRI_m, BitVec.extractLsb'_append_eq_of_le, Nat.reduceSub,
    BitVec.extractLsb'_append_eq_of_add_le, BitVec.extractLsb'_eq_self]

set_option maxRecDepth 20000 in
theorem Laws.Encoding.kselZero (gd : Guard) (slot : BitVec 9) (pd : BitVec 3) : Laws.Encoding.Statement (.kselZero gd slot pd) := by
  intro _ w h
  have ho : w.extractLsb' 56 8 = 0xE7#8 := by rw [← Option.some.inj h]; exact wordRI_op ..
  have hk : w.extractLsb' 16 3 = 1#3 := by
    rw [← Option.some.inj h, wordRI_m _ _ _ _ _ _ _ (by omega)]
    simp (disch := omega) only [BitVec.extractLsb'_append_eq_of_le, Nat.reduceSub, BitVec.extractLsb'_append_eq_of_add_le, BitVec.extractLsb'_eq_self]
  have hp : parse w = some (.kselZero (gdOf w) (w.extractLsb' 3 9) (w.extractLsb' 0 3)) := by
    unfold parse; rw [ho]; simp only [BitVec.toNat_ofNat]; show (match (w.extractLsb' 16 3).toNat with | _ => _) = _; rw [hk]; rfl
  rw [hp, ← Option.some.inj h]
  simp (disch := omega) only [wordRI_gd, wordRI_d, wordRI_a, wordRI_m, BitVec.extractLsb'_append_eq_of_le, Nat.reduceSub,
    BitVec.extractLsb'_append_eq_of_add_le, BitVec.extractLsb'_eq_self]

set_option maxRecDepth 20000 in
theorem Laws.Encoding.kselDcl (gd : Guard) (a : Reg) (slot : BitVec 9) (pd : BitVec 3) : Laws.Encoding.Statement (.kselDcl gd a slot pd) := by
  intro _ w h
  have ho : w.extractLsb' 56 8 = 0xE7#8 := by rw [← Option.some.inj h]; exact wordRI_op ..
  have hk : w.extractLsb' 16 3 = 2#3 := by
    rw [← Option.some.inj h, wordRI_m _ _ _ _ _ _ _ (by omega)]
    simp (disch := omega) only [BitVec.extractLsb'_append_eq_of_le, Nat.reduceSub, BitVec.extractLsb'_append_eq_of_add_le, BitVec.extractLsb'_eq_self]
  have hp : parse w = some (.kselDcl (gdOf w) (regAt w 32) (w.extractLsb' 3 9) (w.extractLsb' 0 3)) := by
    unfold parse; rw [ho]; simp only [BitVec.toNat_ofNat]; show (match (w.extractLsb' 16 3).toNat with | _ => _) = _; rw [hk]; rfl
  rw [hp, ← Option.some.inj h]
  simp (disch := omega) only [wordRI_gd, wordRI_d, wordRI_a, wordRI_m, BitVec.extractLsb'_append_eq_of_le, Nat.reduceSub,
    BitVec.extractLsb'_append_eq_of_add_le, BitVec.extractLsb'_eq_self]

set_option maxRecDepth 20000 in
theorem Laws.Encoding.kselUndcl (gd : Guard) (a : Reg) (slot : BitVec 9) (pd : BitVec 3) : Laws.Encoding.Statement (.kselUndcl gd a slot pd) := by
  intro _ w h
  have ho : w.extractLsb' 56 8 = 0xE7#8 := by rw [← Option.some.inj h]; exact wordRI_op ..
  have hk : w.extractLsb' 16 3 = 3#3 := by
    rw [← Option.some.inj h, wordRI_m _ _ _ _ _ _ _ (by omega)]
    simp (disch := omega) only [BitVec.extractLsb'_append_eq_of_le, Nat.reduceSub, BitVec.extractLsb'_append_eq_of_add_le, BitVec.extractLsb'_eq_self]
  have hp : parse w = some (.kselUndcl (gdOf w) (regAt w 32) (w.extractLsb' 3 9) (w.extractLsb' 0 3)) := by
    unfold parse; rw [ho]; simp only [BitVec.toNat_ofNat]; show (match (w.extractLsb' 16 3).toNat with | _ => _) = _; rw [hk]; rfl
  rw [hp, ← Option.some.inj h]
  simp (disch := omega) only [wordRI_gd, wordRI_d, wordRI_a, wordRI_m, BitVec.extractLsb'_append_eq_of_le, Nat.reduceSub,
    BitVec.extractLsb'_append_eq_of_add_le, BitVec.extractLsb'_eq_self]

set_option maxRecDepth 20000 in
theorem Laws.Encoding.kselStat (gd : Guard) (d : Reg) (slot : BitVec 9) : Laws.Encoding.Statement (.kselStat gd d slot) := by
  intro _ w h
  have ho : w.extractLsb' 56 8 = 0xE7#8 := by rw [← Option.some.inj h]; exact wordRI_op ..
  have hk : w.extractLsb' 16 3 = 4#3 := by
    rw [← Option.some.inj h, wordRI_m _ _ _ _ _ _ _ (by omega)]
    simp (disch := omega) only [BitVec.extractLsb'_append_eq_of_le, Nat.reduceSub, BitVec.extractLsb'_append_eq_of_add_le, BitVec.extractLsb'_eq_self]
  have hp : parse w = some (.kselStat (gdOf w) (regAt w 42) (w.extractLsb' 3 9)) := by
    unfold parse; rw [ho]; simp only [BitVec.toNat_ofNat]; show (match (w.extractLsb' 16 3).toNat with | _ => _) = _; rw [hk]; rfl
  rw [hp, ← Option.some.inj h]
  simp (disch := omega) only [wordRI_gd, wordRI_d, wordRI_a, wordRI_m, BitVec.extractLsb'_append_eq_of_le, Nat.reduceSub,
    BitVec.extractLsb'_append_eq_of_add_le, BitVec.extractLsb'_eq_self]

set_option maxRecDepth 20000 in
theorem Laws.Encoding.trap (gd : Guard) (a : Reg) (w64 : BitVec 1) (code : BitVec 16) : Laws.Encoding.Statement (.trap gd a w64 code) := by
  intro _ w h
  have ho : w.extractLsb' 56 8 = 0xF0#8 := by rw [← Option.some.inj h]; exact wordRI_op ..
  have hp : parse w = some (.trap (gdOf w) (regAt w 32) (w.extractLsb' 16 1) (w.extractLsb' 0 16)) := by unfold parse; rw [ho]; rfl
  rw [hp, ← Option.some.inj h]
  simp (disch := omega) only [wordRI_gd, wordRI_d, wordRI_a, wordRI_m, BitVec.extractLsb'_append_eq_of_le, Nat.reduceSub,
    BitVec.extractLsb'_append_eq_of_add_le, BitVec.extractLsb'_eq_self]

set_option maxRecDepth 20000 in
theorem Laws.Encoding.rte (gd : Guard) : Laws.Encoding.Statement (.rte gd) := by
  intro _ w h
  have ho : w.extractLsb' 56 8 = 0xF1#8 := by rw [← Option.some.inj h]; exact wordRI_op ..
  have hp : parse w = some (.rte (gdOf w)) := by unfold parse; rw [ho]; rfl
  rw [hp, ← Option.some.inj h]
  simp (disch := omega) only [wordRI_gd, wordRI_d, wordRI_a, wordRI_m, BitVec.extractLsb'_append_eq_of_le, Nat.reduceSub,
    BitVec.extractLsb'_append_eq_of_add_le, BitVec.extractLsb'_eq_self]

set_option maxRecDepth 20000 in
theorem Laws.Encoding.ctxsv (gd : Guard) (a : Reg) (hold : BitVec 1) (pd : BitVec 3) : Laws.Encoding.Statement (.ctxsv gd a hold pd) := by
  intro _ w h
  have ho : w.extractLsb' 56 8 = 0xF2#8 := by rw [← Option.some.inj h]; exact wordRI_op ..
  have hp : parse w = some (.ctxsv (gdOf w) (regAt w 32) (w.extractLsb' 16 1) (w.extractLsb' 0 3)) := by unfold parse; rw [ho]; rfl
  rw [hp, ← Option.some.inj h]
  simp (disch := omega) only [wordRI_gd, wordRI_d, wordRI_a, wordRI_m, BitVec.extractLsb'_append_eq_of_le, Nat.reduceSub,
    BitVec.extractLsb'_append_eq_of_add_le, BitVec.extractLsb'_eq_self]

set_option maxRecDepth 20000 in
theorem Laws.Encoding.ctxld (gd : Guard) (a : Reg) (pd : BitVec 3) : Laws.Encoding.Statement (.ctxld gd a pd) := by
  intro _ w h
  have ho : w.extractLsb' 56 8 = 0xF3#8 := by rw [← Option.some.inj h]; exact wordRI_op ..
  have hp : parse w = some (.ctxld (gdOf w) (regAt w 32) (w.extractLsb' 0 3)) := by unfold parse; rw [ho]; rfl
  rw [hp, ← Option.some.inj h]
  simp (disch := omega) only [wordRI_gd, wordRI_d, wordRI_a, wordRI_m, BitVec.extractLsb'_append_eq_of_le, Nat.reduceSub,
    BitVec.extractLsb'_append_eq_of_add_le, BitVec.extractLsb'_eq_self]

set_option maxRecDepth 20000 in
theorem Laws.Encoding.ifrrd (gd : Guard) (d : Reg) (a : Reg) (dw : BitVec 3) (ent : BitVec 9) : Laws.Encoding.Statement (.ifrrd gd d a dw ent) := by
  intro _ w h
  have ho : w.extractLsb' 56 8 = 0xF4#8 := by rw [← Option.some.inj h]; exact wordRI_op ..
  have hp : parse w = some (.ifrrd (gdOf w) (regAt w 42) (regAt w 32) (w.extractLsb' 9 3) (w.extractLsb' 0 9)) := by unfold parse; rw [ho]; rfl
  rw [hp, ← Option.some.inj h]
  simp (disch := omega) only [wordRI_gd, wordRI_d, wordRI_a, wordRI_m, BitVec.extractLsb'_append_eq_of_le, Nat.reduceSub,
    BitVec.extractLsb'_append_eq_of_add_le, BitVec.extractLsb'_eq_self]

set_option maxRecDepth 20000 in
theorem Laws.Encoding.frqpop (gd : Guard) (d : Reg) (panel : BitVec 4) (pd : BitVec 3) : Laws.Encoding.Statement (.frqpop gd d panel pd) := by
  intro _ w h
  have ho : w.extractLsb' 56 8 = 0xF5#8 := by rw [← Option.some.inj h]; exact wordRI_op ..
  have hp : parse w = some (.frqpop (gdOf w) (regAt w 42) (w.extractLsb' 4 4) (w.extractLsb' 0 3)) := by unfold parse; rw [ho]; rfl
  rw [hp, ← Option.some.inj h]
  simp (disch := omega) only [wordRI_gd, wordRI_d, wordRI_a, wordRI_m, BitVec.extractLsb'_append_eq_of_le, Nat.reduceSub,
    BitVec.extractLsb'_append_eq_of_add_le, BitVec.extractLsb'_eq_self]

set_option maxRecDepth 20000 in
theorem Laws.Encoding.frqack (gd : Guard) (a : Reg) (refuse : BitVec 1) (pd : BitVec 3) : Laws.Encoding.Statement (.frqack gd a refuse pd) := by
  intro _ w h
  have ho : w.extractLsb' 56 8 = 0xF6#8 := by rw [← Option.some.inj h]; exact wordRI_op ..
  have hp : parse w = some (.frqack (gdOf w) (regAt w 32) (w.extractLsb' 16 1) (w.extractLsb' 0 3)) := by unfold parse; rw [ho]; rfl
  rw [hp, ← Option.some.inj h]
  simp (disch := omega) only [wordRI_gd, wordRI_d, wordRI_a, wordRI_m, BitVec.extractLsb'_append_eq_of_le, Nat.reduceSub,
    BitVec.extractLsb'_append_eq_of_add_le, BitVec.extractLsb'_eq_self]

set_option maxRecDepth 20000 in
theorem Laws.Encoding.rngwr (gd : Guard) (d : Reg) (a : Reg) (pd : BitVec 3) : Laws.Encoding.Statement (.rngwr gd d a pd) := by
  intro _ w h
  have ho : w.extractLsb' 56 8 = 0xF7#8 := by rw [← Option.some.inj h]; exact wordRI_op ..
  have hp : parse w = some (.rngwr (gdOf w) (regAt w 42) (regAt w 32) (w.extractLsb' 0 3)) := by unfold parse; rw [ho]; rfl
  rw [hp, ← Option.some.inj h]
  simp (disch := omega) only [wordRI_gd, wordRI_d, wordRI_a, wordRI_m, BitVec.extractLsb'_append_eq_of_le, Nat.reduceSub,
    BitVec.extractLsb'_append_eq_of_add_le, BitVec.extractLsb'_eq_self]

set_option maxRecDepth 20000 in
theorem Laws.Encoding.rnginvA (gd : Guard) (a : Reg) : Laws.Encoding.Statement (.rnginvA gd a) := by
  intro _ w h
  have ho : w.extractLsb' 56 8 = 0xF8#8 := by rw [← Option.some.inj h]; exact wordRI_op ..
  have hk : w.extractLsb' 16 1 = 0#1 := by
    rw [← Option.some.inj h, wordRI_m _ _ _ _ _ _ _ (by omega)]
    simp (disch := omega) only [BitVec.extractLsb'_append_eq_of_le, Nat.reduceSub, BitVec.extractLsb'_append_eq_of_add_le, BitVec.extractLsb'_eq_self]
  have hp : parse w = some (.rnginvA (gdOf w) (regAt w 32)) := by
    unfold parse; rw [ho]; simp only [BitVec.toNat_ofNat]; show (match (w.extractLsb' 16 1).toNat with | _ => _) = _; rw [hk]; rfl
  rw [hp, ← Option.some.inj h]
  simp (disch := omega) only [wordRI_gd, wordRI_d, wordRI_a, wordRI_m, BitVec.extractLsb'_append_eq_of_le, Nat.reduceSub,
    BitVec.extractLsb'_append_eq_of_add_le, BitVec.extractLsb'_eq_self]

set_option maxRecDepth 20000 in
theorem Laws.Encoding.rnginvB (gd : Guard) (a : Reg) (disc : BitVec 1) (n1 : BitVec 12) : Laws.Encoding.Statement (.rnginvB gd a disc n1) := by
  intro _ w h
  have ho : w.extractLsb' 56 8 = 0xF8#8 := by rw [← Option.some.inj h]; exact wordRI_op ..
  have hk : w.extractLsb' 16 1 = 1#1 := by
    rw [← Option.some.inj h, wordRI_m _ _ _ _ _ _ _ (by omega)]
    simp (disch := omega) only [BitVec.extractLsb'_append_eq_of_le, Nat.reduceSub, BitVec.extractLsb'_append_eq_of_add_le, BitVec.extractLsb'_eq_self]
  have hp : parse w = some (.rnginvB (gdOf w) (regAt w 32) (w.extractLsb' 12 1) (w.extractLsb' 0 12)) := by
    unfold parse; rw [ho]; simp only [BitVec.toNat_ofNat]; show (match (w.extractLsb' 16 1).toNat with | _ => _) = _; rw [hk]; rfl
  rw [hp, ← Option.some.inj h]
  simp (disch := omega) only [wordRI_gd, wordRI_d, wordRI_a, wordRI_m, BitVec.extractLsb'_append_eq_of_le, Nat.reduceSub,
    BitVec.extractLsb'_append_eq_of_add_le, BitVec.extractLsb'_eq_self]

set_option maxRecDepth 20000 in
theorem Laws.Encoding.dirtyhv (gd : Guard) (d : Reg) (a : Reg) (n1 : BitVec 5) : Laws.Encoding.Statement (.dirtyhv gd d a n1) := by
  intro _ w h
  have ho : w.extractLsb' 56 8 = 0xF9#8 := by rw [← Option.some.inj h]; exact wordRI_op ..
  have hp : parse w = some (.dirtyhv (gdOf w) (regAt w 42) (regAt w 32) (w.extractLsb' 0 5)) := by unfold parse; rw [ho]; rfl
  rw [hp, ← Option.some.inj h]
  simp (disch := omega) only [wordRI_gd, wordRI_d, wordRI_a, wordRI_m, BitVec.extractLsb'_append_eq_of_le, Nat.reduceSub,
    BitVec.extractLsb'_append_eq_of_add_le, BitVec.extractLsb'_eq_self]

set_option maxRecDepth 20000 in
theorem Laws.Encoding.halt (gd : Guard) : Laws.Encoding.Statement (.halt gd) := by
  intro _ w h
  have ho : w.extractLsb' 56 8 = 0xFA#8 := by rw [← Option.some.inj h]; exact wordRI_op ..
  have hp : parse w = some (.halt (gdOf w)) := by unfold parse; rw [ho]; rfl
  rw [hp, ← Option.some.inj h]
  simp (disch := omega) only [wordRI_gd, wordRI_d, wordRI_a, wordRI_m, BitVec.extractLsb'_append_eq_of_le, Nat.reduceSub,
    BitVec.extractLsb'_append_eq_of_add_le, BitVec.extractLsb'_eq_self]

theorem Laws.Encoding.yieldExpiry (tid : Nat) (grp : Nat) (ent : Nat) : Laws.Encoding.Statement (.yieldExpiry tid grp ent) := by
  intro _ _ h; cases h

theorem Laws.Encoding.regroupCompletion (tid : Nat) : Laws.Encoding.Statement (.regroupCompletion tid) := by
  intro _ _ h; cases h

theorem Laws.Encoding.waittRelease (tid : Nat) (grp : Nat) (lane : Nat) : Laws.Encoding.Statement (.waittRelease tid grp lane) := by
  intro _ _ h; cases h

theorem Laws.Encoding.producerCompletion (tid : Nat) (op : Nat) (lane : Nat) : Laws.Encoding.Statement (.producerCompletion tid op lane) := by
  intro _ _ h; cases h

theorem Laws.Encoding.mxsyncFold (tid : Nat) (grp : Nat) (lane : Nat) : Laws.Encoding.Statement (.mxsyncFold tid grp lane) := by
  intro _ _ h; cases h

theorem Laws.Encoding.planeReady (core : Nat) (quad : Nat) : Laws.Encoding.Statement (.planeReady core quad) := by
  intro _ _ h; cases h

theorem Laws.Encoding.stswapCompletion (core : Nat) (quad : Nat) : Laws.Encoding.Statement (.stswapCompletion core quad) := by
  intro _ _ h; cases h

theorem Laws.Encoding.gridSwitchEnd (core : Nat) (quad : Nat) : Laws.Encoding.Statement (.gridSwitchEnd core quad) := by
  intro _ _ h; cases h

theorem Laws.Encoding.accessAtHome (tid : Nat) (op : Nat) (lane : Nat) (piece : Nat) : Laws.Encoding.Statement (.accessAtHome tid op lane piece) := by
  intro _ _ h; cases h

theorem Laws.Encoding.copyBeat (eng : Nat) (beat : Nat) : Laws.Encoding.Statement (.copyBeat eng beat) := by
  intro _ _ h; cases h

theorem Laws.Encoding.handleDrainEnd (tid : Nat) (hnd : Nat) : Laws.Encoding.Statement (.handleDrainEnd tid hnd) := by
  intro _ _ h; cases h

theorem Laws.Encoding.codeFetchCompletion (core : Nat) (seg : Nat) : Laws.Encoding.Statement (.codeFetchCompletion core seg) := by
  intro _ _ h; cases h

theorem Laws.Encoding.rasterCommand (panel : Nat) : Laws.Encoding.Statement (.rasterCommand panel) := by
  intro _ _ h; cases h

theorem Laws.Encoding.residencyRequest (k : Nat) : Laws.Encoding.Statement (.residencyRequest k) := by
  intro _ _ h; cases h

theorem Laws.Encoding.teamPlacement (tid : Nat) : Laws.Encoding.Statement (.teamPlacement tid) := by
  intro _ _ h; cases h

theorem Laws.Encoding.stopRequest (tid : Nat) : Laws.Encoding.Statement (.stopRequest tid) := by
  intro _ _ h; cases h

theorem Laws.Encoding.freezeBroadcast (tid : Nat) (panel : Nat) : Laws.Encoding.Statement (.freezeBroadcast tid panel) := by
  intro _ _ h; cases h

theorem Laws.Encoding.ifrSnapshot (tid : Nat) : Laws.Encoding.Statement (.ifrSnapshot tid) := by
  intro _ _ h; cases h

theorem Laws.Encoding.saveComplete (tid : Nat) : Laws.Encoding.Statement (.saveComplete tid) := by
  intro _ _ h; cases h

theorem Laws.Encoding.teamEviction (tid : Nat) : Laws.Encoding.Statement (.teamEviction tid) := by
  intro _ _ h; cases h

theorem Laws.Encoding.teamRestore (tid : Nat) : Laws.Encoding.Statement (.teamRestore tid) := by
  intro _ _ h; cases h

theorem Laws.Encoding.replayEnd (tid : Nat) : Laws.Encoding.Statement (.replayEnd tid) := by
  intro _ _ h; cases h

theorem Laws.Encoding.rollback (ctx : Nat) : Laws.Encoding.Statement (.rollback ctx) := by
  intro _ _ h; cases h

theorem Laws.Encoding.launchCompletion (lid : Nat) : Laws.Encoding.Statement (.launchCompletion lid) := by
  intro _ _ h; cases h

theorem Laws.Encoding.sittingOpening (k : Nat) : Laws.Encoding.Statement (.sittingOpening k) := by
  intro _ _ h; cases h

theorem Laws.Encoding.sittingEnd (k : Nat) : Laws.Encoding.Statement (.sittingEnd k) := by
  intro _ _ h; cases h

theorem Laws.Encoding.graceExpiry (k : Nat) : Laws.Encoding.Statement (.graceExpiry k) := by
  intro _ _ h; cases h

theorem Laws.Encoding.stctlSwitch (v : BitVec 32) : Laws.Encoding.Statement (.stctlSwitch v) := by
  intro _ _ h; cases h

theorem Laws.Encoding.frameStart (canvas : Nat) : Laws.Encoding.Statement (.frameStart canvas) := by
  intro _ _ h; cases h

theorem Laws.Encoding.scanOutLine (canvas : Nat) (line : Nat) : Laws.Encoding.Statement (.scanOutLine canvas line) := by
  intro _ _ h; cases h

theorem Laws.Encoding.proofInstant (canvas : Nat) (layer : Nat) : Laws.Encoding.Statement (.proofInstant canvas layer) := by
  intro _ _ h; cases h

theorem Laws.Encoding.scrubCompletion (panel : Nat) (pass : Bool) : Laws.Encoding.Statement (.scrubCompletion panel pass) := by
  intro _ _ h; cases h

theorem Laws.Encoding.tellTaleStateWord (msg : List (BitVec 8)) : Laws.Encoding.Statement (.tellTaleStateWord msg) := by
  intro _ _ h; cases h

theorem Laws.Encoding.attitudeMessage (msg : List (BitVec 8)) : Laws.Encoding.Statement (.attitudeMessage msg) := by
  intro _ _ h; cases h

theorem Laws.Encoding.gptpMessage (port : Nat) (t : BitVec 64) : Laws.Encoding.Statement (.gptpMessage port t) := by
  intro _ _ h; cases h

theorem Laws.Encoding.spdmMessage (mctp : Bool) (msg : List (BitVec 8)) : Laws.Encoding.Statement (.spdmMessage mctp msg) := by
  intro _ _ h; cases h

theorem Laws.Encoding.stagingMessage (port : Nat) (msg : List (BitVec 8)) : Laws.Encoding.Statement (.stagingMessage port msg) := by
  intro _ _ h; cases h

theorem Laws.Encoding.unadmittedFrame (port : Nat) : Laws.Encoding.Statement (.unadmittedFrame port) := by
  intro _ _ h; cases h

theorem Laws.Encoding.frameStartPacket (r : Nat) : Laws.Encoding.Statement (.frameStartPacket r) := by
  intro _ _ h; cases h

theorem Laws.Encoding.cameraLinePacket (r : Nat) (dt : Nat) (bad : Bool) (pix : List (BitVec 16)) : Laws.Encoding.Statement (.cameraLinePacket r dt bad pix) := by
  intro _ _ h; cases h

theorem Laws.Encoding.frameEndPacket (r : Nat) : Laws.Encoding.Statement (.frameEndPacket r) := by
  intro _ _ h; cases h

theorem Laws.Encoding.cameraControlWrite (r : Nat) (dw : Nat) (v : BitVec 64) : Laws.Encoding.Statement (.cameraControlWrite r dw v) := by
  intro _ _ h; cases h

theorem Laws.Encoding.canvasApply (canvas : Nat) : Laws.Encoding.Statement (.canvasApply canvas) := by
  intro _ _ h; cases h

theorem Laws.Encoding.layerEntryWrite (canvas : Nat) (layer : Nat) (dw : Nat) (v : BitVec 64) : Laws.Encoding.Statement (.layerEntryWrite canvas layer dw v) := by
  intro _ _ h; cases h

theorem Laws.Encoding.warpConfigurationWrite (dw : Nat) (v : BitVec 64) : Laws.Encoding.Statement (.warpConfigurationWrite dw v) := by
  intro _ _ h; cases h

theorem Laws.Encoding.prfinjWrite (v : BitVec 64) : Laws.Encoding.Statement (.prfinjWrite v) := by
  intro _ _ h; cases h

theorem Laws.Encoding.partitionRequest (first : Nat) (v : BitVec 64) : Laws.Encoding.Statement (.partitionRequest first v) := by
  intro _ _ h; cases h

theorem Laws.Encoding.partitionDissolution (first : Nat) : Laws.Encoding.Statement (.partitionDissolution first) := by
  intro _ _ h; cases h

theorem Laws.Encoding.engineAssignmentWrite (eng : Nat) (v : BitVec 8) : Laws.Encoding.Statement (.engineAssignmentWrite eng v) := by
  intro _ _ h; cases h

theorem Laws.Encoding.rreset (fn : Nat) (ctx : BitVec 32) : Laws.Encoding.Statement (.rreset fn ctx) := by
  intro _ _ h; cases h

theorem Laws.Encoding.apertureRead (fn : Nat) (ofs : Nat) (n : Nat) : Laws.Encoding.Statement (.apertureRead fn ofs n) := by
  intro _ _ h; cases h

theorem Laws.Encoding.apertureWrite (fn : Nat) (ofs : Nat) (data : List (BitVec 8)) : Laws.Encoding.Statement (.apertureWrite fn ofs data) := by
  intro _ _ h; cases h

theorem Laws.Encoding.functionLevelReset (fn : Nat) : Laws.Encoding.Statement (.functionLevelReset fn) := by
  intro _ _ h; cases h

theorem Laws.Encoding.stagingBegin (kind : Nat) : Laws.Encoding.Statement (.stagingBegin kind) := by
  intro _ _ h; cases h

theorem Laws.Encoding.stagingChunk (kind : Nat) (ofs : Nat) (data : List (BitVec 8)) : Laws.Encoding.Statement (.stagingChunk kind ofs data) := by
  intro _ _ h; cases h

theorem Laws.Encoding.stagingPermit (kind : Nat) (data : List (BitVec 8)) : Laws.Encoding.Statement (.stagingPermit kind data) := by
  intro _ _ h; cases h

theorem Laws.Encoding.stagingEnd (kind : Nat) : Laws.Encoding.Statement (.stagingEnd kind) := by
  intro _ _ h; cases h

theorem Laws.Encoding.stagingAbort (kind : Nat) : Laws.Encoding.Statement (.stagingAbort kind) := by
  intro _ _ h; cases h

theorem Laws.Encoding.wake (cause : Nat) : Laws.Encoding.Statement (.wake cause) := by
  intro _ _ h; cases h

theorem Laws.Encoding.bootFallback (kind : Nat) : Laws.Encoding.Statement (.bootFallback kind) := by
  intro _ _ h; cases h

theorem Laws.Encoding.thermal (arg : Nat) : Laws.Encoding.Statement (.thermal arg) := by
  intro _ _ h; cases h

theorem Laws.Encoding.memoryScrub (panel : Nat) (sector : Nat) : Laws.Encoding.Statement (.memoryScrub panel sector) := by
  intro _ _ h; cases h

theorem Laws.Encoding.registerWrite (fn : Nat) (ofs : Nat) (v : BitVec 64) : Laws.Encoding.Statement (.registerWrite fn ofs v) := by
  intro _ _ h; cases h

theorem Laws.Encoding.gridStepPass (tid : Nat) (grp : Nat) (lane : Nat) : Laws.Encoding.Statement (.gridStepPass tid grp lane) := by
  intro _ _ h; cases h

set_option maxRecDepth 20000 in
theorem Laws.Encoding.illegalOpcode (w : BitVec 64) : Laws.Encoding.Statement (.illegalOpcode w) := by
  intro hw x h
  obtain rfl := Option.some.inj h
  have hn : opAssigned (w.extractLsb' 56 8) = false := by simpa [Instr.wf] using hw
  generalize ho : w.extractLsb' 56 8 = op at hn
  unfold parse
  rw [ho]
  split <;> rename_i h1
  all_goals first
    | rfl
    | (exfalso
       rw [show op = BitVec.ofNat 8 op.toNat by simp, h1] at hn
       exact absurd hn (by decide))

theorem Laws.Encoding.portLinkChange (port : Nat) (up : Bool) : Laws.Encoding.Statement (.portLinkChange port up) := by
  intro _ _ h; cases h

theorem Laws.Encoding.debugPermit (data : List (BitVec 8)) : Laws.Encoding.Statement (.debugPermit data) := by
  intro _ _ h; cases h

theorem Laws.Encoding.bankSwitch : Laws.Encoding.Statement (.bankSwitch) := by
  intro _ _ h; cases h

theorem Laws.Encoding.gateWindowEnd : Laws.Encoding.Statement (.gateWindowEnd) := by
  intro _ _ h; cases h

theorem Laws.Encoding.admissionInterval : Laws.Encoding.Statement (.admissionInterval) := by
  intro _ _ h; cases h

theorem Laws.Encoding.warpLatch : Laws.Encoding.Statement (.warpLatch) := by
  intro _ _ h; cases h

theorem Laws.Encoding.stateWordExpiry : Laws.Encoding.Statement (.stateWordExpiry) := by
  intro _ _ h; cases h

theorem Laws.Encoding.deepSleep : Laws.Encoding.Statement (.deepSleep) := by
  intro _ _ h; cases h

theorem Laws.Encoding.timedWake : Laws.Encoding.Statement (.timedWake) := by
  intro _ _ h; cases h

theorem Laws.Encoding.deviceReset : Laws.Encoding.Statement (.deviceReset) := by
  intro _ _ h; cases h

theorem Laws.Encoding.debugFreeze : Laws.Encoding.Statement (.debugFreeze) := by
  intro _ _ h; cases h

theorem Laws.Encoding.millisecond : Laws.Encoding.Statement (.millisecond) := by
  intro _ _ h; cases h

theorem Laws.Encoding.second : Laws.Encoding.Statement (.second) := by
  intro _ _ h; cases h

theorem Laws.Encoding.codeAbsent : Laws.Encoding.Statement (.codeAbsent) := by
  intro _ _ h; cases h

theorem Laws.Encoding.powerLoss : Laws.Encoding.Statement (.powerLoss) := by
  intro _ _ h; cases h

theorem Laws.Encoding.firmwareHealthyReport : Laws.Encoding.Statement (.firmwareHealthyReport) := by
  intro _ _ h; cases h

end Sys2Proof
end

