-- ==== Sys2Proof/Laws/State.lean ====
section
/-! SUPPORT. What each update of the machine does to each field: the field it changes, and the others as they were. -/

namespace Sys2Proof.Machine

/-! ## updPart -/

@[simp] theorem State.updPart_agenda (s : State) (first : Nat) (f : Partition → Partition) : (s.updPart first f).agenda = s.agenda := rfl
@[simp] theorem State.updPart_cur (s : State) (first : Nat) (f : Partition → Partition) : (s.updPart first f).cur = s.cur := rfl
@[simp] theorem State.updPart_waited (s : State) (first : Nat) (f : Partition → Partition) : (s.updPart first f).waited = s.waited := rfl
@[simp] theorem State.updPart_cutting (s : State) (first : Nat) (f : Partition → Partition) : (s.updPart first f).cutting = s.cutting := rfl
@[simp] theorem State.updPart_fresh (s : State) (first : Nat) (f : Partition → Partition) : (s.updPart first f).fresh = s.fresh := rfl
@[simp] theorem State.updPart_serve (s : State) (first : Nat) (f : Partition → Partition) : (s.updPart first f).serve = s.serve := rfl
@[simp] theorem State.updPart_consumptions (s : State) (first : Nat) (f : Partition → Partition) : (s.updPart first f).consumptions = s.consumptions := rfl
@[simp] theorem State.updPart_teams (s : State) (first : Nat) (f : Partition → Partition) : (s.updPart first f).teams = s.teams := rfl
@[simp] theorem State.updPart_ctl (s : State) (first : Nat) (f : Partition → Partition) : (s.updPart first f).ctl = s.ctl := rfl
@[simp] theorem State.updPart_grids (s : State) (first : Nat) (f : Partition → Partition) : (s.updPart first f).grids = s.grids := rfl
@[simp] theorem State.updPart_ctxs (s : State) (first : Nat) (f : Partition → Partition) : (s.updPart first f).ctxs = s.ctxs := rfl
@[simp] theorem State.updPart_launches (s : State) (first : Nat) (f : Partition → Partition) : (s.updPart first f).launches = s.launches := rfl
@[simp] theorem State.updPart_nextLid (s : State) (first : Nat) (f : Partition → Partition) : (s.updPart first f).nextLid = s.nextLid := rfl
@[simp] theorem State.updPart_engines (s : State) (first : Nat) (f : Partition → Partition) : (s.updPart first f).engines = s.engines := rfl
@[simp] theorem State.updPart_parked (s : State) (first : Nat) (f : Partition → Partition) : (s.updPart first f).parked = s.parked := rfl
@[simp] theorem State.updPart_posts (s : State) (first : Nat) (f : Partition → Partition) : (s.updPart first f).posts = s.posts := rfl
@[simp] theorem State.updPart_rasters (s : State) (first : Nat) (f : Partition → Partition) : (s.updPart first f).rasters = s.rasters := rfl
@[simp] theorem State.updPart_resReqs (s : State) (first : Nat) (f : Partition → Partition) : (s.updPart first f).resReqs = s.resReqs := rfl
@[simp] theorem State.updPart_sits (s : State) (first : Nat) (f : Partition → Partition) : (s.updPart first f).sits = s.sits := rfl
@[simp] theorem State.updPart_rooms (s : State) (first : Nat) (f : Partition → Partition) : (s.updPart first f).rooms = s.rooms := rfl
@[simp] theorem State.updPart_life (s : State) (first : Nat) (f : Partition → Partition) : (s.updPart first f).life = s.life := rfl
@[simp] theorem State.updPart_lifeStore (s : State) (first : Nat) (f : Partition → Partition) : (s.updPart first f).lifeStore = s.lifeStore := rfl
@[simp] theorem State.updPart_phealth (s : State) (first : Nat) (f : Partition → Partition) : (s.updPart first f).phealth = s.phealth := rfl
@[simp] theorem State.updPart_gates (s : State) (first : Nat) (f : Partition → Partition) : (s.updPart first f).gates = s.gates := rfl
@[simp] theorem State.updPart_windowEnd (s : State) (first : Nat) (f : Partition → Partition) : (s.updPart first f).windowEnd = s.windowEnd := rfl
@[simp] theorem State.updPart_admitEnd (s : State) (first : Nat) (f : Partition → Partition) : (s.updPart first f).admitEnd = s.admitEnd := rfl
@[simp] theorem State.updPart_fns (s : State) (first : Nat) (f : Partition → Partition) : (s.updPart first f).fns = s.fns := rfl
@[simp] theorem State.updPart_mem (s : State) (first : Nat) (f : Partition → Partition) : (s.updPart first f).mem = s.mem := rfl
@[simp] theorem State.updPart_sectors (s : State) (first : Nat) (f : Partition → Partition) : (s.updPart first f).sectors = s.sectors := rfl
@[simp] theorem State.updPart_dirty (s : State) (first : Nat) (f : Partition → Partition) : (s.updPart first f).dirty = s.dirty := rfl
@[simp] theorem State.updPart_l1 (s : State) (first : Nat) (f : Partition → Partition) : (s.updPart first f).l1 = s.l1 := rfl
@[simp] theorem State.updPart_panels (s : State) (first : Nat) (f : Partition → Partition) : (s.updPart first f).panels = s.panels := rfl
@[simp] theorem State.updPart_parts (s : State) (first : Nat) (f : Partition → Partition) : (s.updPart first f).parts = s.parts.map fun p => if p.first == first then f p else p := rfl
@[simp] theorem State.updPart_keys (s : State) (first : Nat) (f : Partition → Partition) : (s.updPart first f).keys = s.keys := rfl
@[simp] theorem State.updPart_nextKey (s : State) (first : Nat) (f : Partition → Partition) : (s.updPart first f).nextKey = s.nextKey := rfl
@[simp] theorem State.updPart_code (s : State) (first : Nat) (f : Partition → Partition) : (s.updPart first f).code = s.code := rfl
@[simp] theorem State.updPart_ctlMem (s : State) (first : Nat) (f : Partition → Partition) : (s.updPart first f).ctlMem = s.ctlMem := rfl
@[simp] theorem State.updPart_ctlImage (s : State) (first : Nat) (f : Partition → Partition) : (s.updPart first f).ctlImage = s.ctlImage := rfl
@[simp] theorem State.updPart_ctlCnt (s : State) (first : Nat) (f : Partition → Partition) : (s.updPart first f).ctlCnt = s.ctlCnt := rfl
@[simp] theorem State.updPart_ctlPoison (s : State) (first : Nat) (f : Partition → Partition) : (s.updPart first f).ctlPoison = s.ctlPoison := rfl
@[simp] theorem State.updPart_ctlCause (s : State) (first : Nat) (f : Partition → Partition) : (s.updPart first f).ctlCause = s.ctlCause := rfl
@[simp] theorem State.updPart_ctlPc (s : State) (first : Nat) (f : Partition → Partition) : (s.updPart first f).ctlPc = s.ctlPc := rfl
@[simp] theorem State.updPart_disp (s : State) (first : Nat) (f : Partition → Partition) : (s.updPart first f).disp = s.disp := rfl
@[simp] theorem State.updPart_ports (s : State) (first : Nat) (f : Partition → Partition) : (s.updPart first f).ports = s.ports := rfl
@[simp] theorem State.updPart_attRej (s : State) (first : Nat) (f : Partition → Partition) : (s.updPart first f).attRej = s.attRej := rfl
@[simp] theorem State.updPart_wordRej (s : State) (first : Nat) (f : Partition → Partition) : (s.updPart first f).wordRej = s.wordRej := rfl
@[simp] theorem State.updPart_cams (s : State) (first : Nat) (f : Partition → Partition) : (s.updPart first f).cams = s.cams := rfl
@[simp] theorem State.updPart_fw (s : State) (first : Nat) (f : Partition → Partition) : (s.updPart first f).fw = s.fw := rfl
@[simp] theorem State.updPart_reqs (s : State) (first : Nat) (f : Partition → Partition) : (s.updPart first f).reqs = s.reqs := rfl
@[simp] theorem State.updPart_msNext (s : State) (first : Nat) (f : Partition → Partition) : (s.updPart first f).msNext = s.msNext := rfl
@[simp] theorem State.updPart_secNext (s : State) (first : Nat) (f : Partition → Partition) : (s.updPart first f).secNext = s.secNext := rfl
@[simp] theorem State.updPart_opSecs (s : State) (first : Nat) (f : Partition → Partition) : (s.updPart first f).opSecs = s.opSecs := rfl
@[simp] theorem State.updPart_late (s : State) (first : Nat) (f : Partition → Partition) : (s.updPart first f).late = s.late := rfl
@[simp] theorem State.updPart_polls (s : State) (first : Nat) (f : Partition → Partition) : (s.updPart first f).polls = s.polls := rfl
@[simp] theorem State.updPart_scrubEnd (s : State) (first : Nat) (f : Partition → Partition) : (s.updPart first f).scrubEnd = s.scrubEnd := rfl
@[simp] theorem State.updPart_time (s : State) (first : Nat) (f : Partition → Partition) : (s.updPart first f).time = s.time := rfl

/-! ## updPanel -/

@[simp] theorem State.updPanel_agenda (s : State) (n : Nat) (f : Panel → Panel) : (s.updPanel n f).agenda = s.agenda := rfl
@[simp] theorem State.updPanel_cur (s : State) (n : Nat) (f : Panel → Panel) : (s.updPanel n f).cur = s.cur := rfl
@[simp] theorem State.updPanel_waited (s : State) (n : Nat) (f : Panel → Panel) : (s.updPanel n f).waited = s.waited := rfl
@[simp] theorem State.updPanel_cutting (s : State) (n : Nat) (f : Panel → Panel) : (s.updPanel n f).cutting = s.cutting := rfl
@[simp] theorem State.updPanel_fresh (s : State) (n : Nat) (f : Panel → Panel) : (s.updPanel n f).fresh = s.fresh := rfl
@[simp] theorem State.updPanel_serve (s : State) (n : Nat) (f : Panel → Panel) : (s.updPanel n f).serve = s.serve := rfl
@[simp] theorem State.updPanel_consumptions (s : State) (n : Nat) (f : Panel → Panel) : (s.updPanel n f).consumptions = s.consumptions := rfl
@[simp] theorem State.updPanel_teams (s : State) (n : Nat) (f : Panel → Panel) : (s.updPanel n f).teams = s.teams := rfl
@[simp] theorem State.updPanel_ctl (s : State) (n : Nat) (f : Panel → Panel) : (s.updPanel n f).ctl = s.ctl := rfl
@[simp] theorem State.updPanel_grids (s : State) (n : Nat) (f : Panel → Panel) : (s.updPanel n f).grids = s.grids := rfl
@[simp] theorem State.updPanel_ctxs (s : State) (n : Nat) (f : Panel → Panel) : (s.updPanel n f).ctxs = s.ctxs := rfl
@[simp] theorem State.updPanel_launches (s : State) (n : Nat) (f : Panel → Panel) : (s.updPanel n f).launches = s.launches := rfl
@[simp] theorem State.updPanel_nextLid (s : State) (n : Nat) (f : Panel → Panel) : (s.updPanel n f).nextLid = s.nextLid := rfl
@[simp] theorem State.updPanel_engines (s : State) (n : Nat) (f : Panel → Panel) : (s.updPanel n f).engines = s.engines := rfl
@[simp] theorem State.updPanel_parked (s : State) (n : Nat) (f : Panel → Panel) : (s.updPanel n f).parked = s.parked := rfl
@[simp] theorem State.updPanel_posts (s : State) (n : Nat) (f : Panel → Panel) : (s.updPanel n f).posts = s.posts := rfl
@[simp] theorem State.updPanel_rasters (s : State) (n : Nat) (f : Panel → Panel) : (s.updPanel n f).rasters = s.rasters := rfl
@[simp] theorem State.updPanel_resReqs (s : State) (n : Nat) (f : Panel → Panel) : (s.updPanel n f).resReqs = s.resReqs := rfl
@[simp] theorem State.updPanel_sits (s : State) (n : Nat) (f : Panel → Panel) : (s.updPanel n f).sits = s.sits := rfl
@[simp] theorem State.updPanel_rooms (s : State) (n : Nat) (f : Panel → Panel) : (s.updPanel n f).rooms = s.rooms := rfl
@[simp] theorem State.updPanel_life (s : State) (n : Nat) (f : Panel → Panel) : (s.updPanel n f).life = s.life := rfl
@[simp] theorem State.updPanel_lifeStore (s : State) (n : Nat) (f : Panel → Panel) : (s.updPanel n f).lifeStore = s.lifeStore := rfl
@[simp] theorem State.updPanel_phealth (s : State) (n : Nat) (f : Panel → Panel) : (s.updPanel n f).phealth = s.phealth := rfl
@[simp] theorem State.updPanel_gates (s : State) (n : Nat) (f : Panel → Panel) : (s.updPanel n f).gates = s.gates := rfl
@[simp] theorem State.updPanel_windowEnd (s : State) (n : Nat) (f : Panel → Panel) : (s.updPanel n f).windowEnd = s.windowEnd := rfl
@[simp] theorem State.updPanel_admitEnd (s : State) (n : Nat) (f : Panel → Panel) : (s.updPanel n f).admitEnd = s.admitEnd := rfl
@[simp] theorem State.updPanel_fns (s : State) (n : Nat) (f : Panel → Panel) : (s.updPanel n f).fns = s.fns := rfl
@[simp] theorem State.updPanel_mem (s : State) (n : Nat) (f : Panel → Panel) : (s.updPanel n f).mem = s.mem := rfl
@[simp] theorem State.updPanel_sectors (s : State) (n : Nat) (f : Panel → Panel) : (s.updPanel n f).sectors = s.sectors := rfl
@[simp] theorem State.updPanel_dirty (s : State) (n : Nat) (f : Panel → Panel) : (s.updPanel n f).dirty = s.dirty := rfl
@[simp] theorem State.updPanel_l1 (s : State) (n : Nat) (f : Panel → Panel) : (s.updPanel n f).l1 = s.l1 := rfl
@[simp] theorem State.updPanel_panels (s : State) (n : Nat) (f : Panel → Panel) : (s.updPanel n f).panels = s.panels.map fun p => if p.num == n then f p else p := rfl
@[simp] theorem State.updPanel_parts (s : State) (n : Nat) (f : Panel → Panel) : (s.updPanel n f).parts = s.parts := rfl
@[simp] theorem State.updPanel_keys (s : State) (n : Nat) (f : Panel → Panel) : (s.updPanel n f).keys = s.keys := rfl
@[simp] theorem State.updPanel_nextKey (s : State) (n : Nat) (f : Panel → Panel) : (s.updPanel n f).nextKey = s.nextKey := rfl
@[simp] theorem State.updPanel_code (s : State) (n : Nat) (f : Panel → Panel) : (s.updPanel n f).code = s.code := rfl
@[simp] theorem State.updPanel_ctlMem (s : State) (n : Nat) (f : Panel → Panel) : (s.updPanel n f).ctlMem = s.ctlMem := rfl
@[simp] theorem State.updPanel_ctlImage (s : State) (n : Nat) (f : Panel → Panel) : (s.updPanel n f).ctlImage = s.ctlImage := rfl
@[simp] theorem State.updPanel_ctlCnt (s : State) (n : Nat) (f : Panel → Panel) : (s.updPanel n f).ctlCnt = s.ctlCnt := rfl
@[simp] theorem State.updPanel_ctlPoison (s : State) (n : Nat) (f : Panel → Panel) : (s.updPanel n f).ctlPoison = s.ctlPoison := rfl
@[simp] theorem State.updPanel_ctlCause (s : State) (n : Nat) (f : Panel → Panel) : (s.updPanel n f).ctlCause = s.ctlCause := rfl
@[simp] theorem State.updPanel_ctlPc (s : State) (n : Nat) (f : Panel → Panel) : (s.updPanel n f).ctlPc = s.ctlPc := rfl
@[simp] theorem State.updPanel_disp (s : State) (n : Nat) (f : Panel → Panel) : (s.updPanel n f).disp = s.disp := rfl
@[simp] theorem State.updPanel_ports (s : State) (n : Nat) (f : Panel → Panel) : (s.updPanel n f).ports = s.ports := rfl
@[simp] theorem State.updPanel_attRej (s : State) (n : Nat) (f : Panel → Panel) : (s.updPanel n f).attRej = s.attRej := rfl
@[simp] theorem State.updPanel_wordRej (s : State) (n : Nat) (f : Panel → Panel) : (s.updPanel n f).wordRej = s.wordRej := rfl
@[simp] theorem State.updPanel_cams (s : State) (n : Nat) (f : Panel → Panel) : (s.updPanel n f).cams = s.cams := rfl
@[simp] theorem State.updPanel_fw (s : State) (n : Nat) (f : Panel → Panel) : (s.updPanel n f).fw = s.fw := rfl
@[simp] theorem State.updPanel_reqs (s : State) (n : Nat) (f : Panel → Panel) : (s.updPanel n f).reqs = s.reqs := rfl
@[simp] theorem State.updPanel_msNext (s : State) (n : Nat) (f : Panel → Panel) : (s.updPanel n f).msNext = s.msNext := rfl
@[simp] theorem State.updPanel_secNext (s : State) (n : Nat) (f : Panel → Panel) : (s.updPanel n f).secNext = s.secNext := rfl
@[simp] theorem State.updPanel_opSecs (s : State) (n : Nat) (f : Panel → Panel) : (s.updPanel n f).opSecs = s.opSecs := rfl
@[simp] theorem State.updPanel_late (s : State) (n : Nat) (f : Panel → Panel) : (s.updPanel n f).late = s.late := rfl
@[simp] theorem State.updPanel_polls (s : State) (n : Nat) (f : Panel → Panel) : (s.updPanel n f).polls = s.polls := rfl
@[simp] theorem State.updPanel_scrubEnd (s : State) (n : Nat) (f : Panel → Panel) : (s.updPanel n f).scrubEnd = s.scrubEnd := rfl
@[simp] theorem State.updPanel_time (s : State) (n : Nat) (f : Panel → Panel) : (s.updPanel n f).time = s.time := rfl

/-! ## updFn -/

@[simp] theorem State.updFn_agenda (s : State) (n : Nat) (f : Fn → Fn) : (s.updFn n f).agenda = s.agenda := rfl
@[simp] theorem State.updFn_cur (s : State) (n : Nat) (f : Fn → Fn) : (s.updFn n f).cur = s.cur := rfl
@[simp] theorem State.updFn_waited (s : State) (n : Nat) (f : Fn → Fn) : (s.updFn n f).waited = s.waited := rfl
@[simp] theorem State.updFn_cutting (s : State) (n : Nat) (f : Fn → Fn) : (s.updFn n f).cutting = s.cutting := rfl
@[simp] theorem State.updFn_fresh (s : State) (n : Nat) (f : Fn → Fn) : (s.updFn n f).fresh = s.fresh := rfl
@[simp] theorem State.updFn_serve (s : State) (n : Nat) (f : Fn → Fn) : (s.updFn n f).serve = s.serve := rfl
@[simp] theorem State.updFn_consumptions (s : State) (n : Nat) (f : Fn → Fn) : (s.updFn n f).consumptions = s.consumptions := rfl
@[simp] theorem State.updFn_teams (s : State) (n : Nat) (f : Fn → Fn) : (s.updFn n f).teams = s.teams := rfl
@[simp] theorem State.updFn_ctl (s : State) (n : Nat) (f : Fn → Fn) : (s.updFn n f).ctl = s.ctl := rfl
@[simp] theorem State.updFn_grids (s : State) (n : Nat) (f : Fn → Fn) : (s.updFn n f).grids = s.grids := rfl
@[simp] theorem State.updFn_ctxs (s : State) (n : Nat) (f : Fn → Fn) : (s.updFn n f).ctxs = s.ctxs := rfl
@[simp] theorem State.updFn_launches (s : State) (n : Nat) (f : Fn → Fn) : (s.updFn n f).launches = s.launches := rfl
@[simp] theorem State.updFn_nextLid (s : State) (n : Nat) (f : Fn → Fn) : (s.updFn n f).nextLid = s.nextLid := rfl
@[simp] theorem State.updFn_engines (s : State) (n : Nat) (f : Fn → Fn) : (s.updFn n f).engines = s.engines := rfl
@[simp] theorem State.updFn_parked (s : State) (n : Nat) (f : Fn → Fn) : (s.updFn n f).parked = s.parked := rfl
@[simp] theorem State.updFn_posts (s : State) (n : Nat) (f : Fn → Fn) : (s.updFn n f).posts = s.posts := rfl
@[simp] theorem State.updFn_rasters (s : State) (n : Nat) (f : Fn → Fn) : (s.updFn n f).rasters = s.rasters := rfl
@[simp] theorem State.updFn_resReqs (s : State) (n : Nat) (f : Fn → Fn) : (s.updFn n f).resReqs = s.resReqs := rfl
@[simp] theorem State.updFn_sits (s : State) (n : Nat) (f : Fn → Fn) : (s.updFn n f).sits = s.sits := rfl
@[simp] theorem State.updFn_rooms (s : State) (n : Nat) (f : Fn → Fn) : (s.updFn n f).rooms = s.rooms := rfl
@[simp] theorem State.updFn_life (s : State) (n : Nat) (f : Fn → Fn) : (s.updFn n f).life = s.life := rfl
@[simp] theorem State.updFn_lifeStore (s : State) (n : Nat) (f : Fn → Fn) : (s.updFn n f).lifeStore = s.lifeStore := rfl
@[simp] theorem State.updFn_phealth (s : State) (n : Nat) (f : Fn → Fn) : (s.updFn n f).phealth = s.phealth := rfl
@[simp] theorem State.updFn_gates (s : State) (n : Nat) (f : Fn → Fn) : (s.updFn n f).gates = s.gates := rfl
@[simp] theorem State.updFn_windowEnd (s : State) (n : Nat) (f : Fn → Fn) : (s.updFn n f).windowEnd = s.windowEnd := rfl
@[simp] theorem State.updFn_admitEnd (s : State) (n : Nat) (f : Fn → Fn) : (s.updFn n f).admitEnd = s.admitEnd := rfl
@[simp] theorem State.updFn_fns (s : State) (n : Nat) (f : Fn → Fn) : (s.updFn n f).fns = s.fns.map fun x => if x.num == n then f x else x := rfl
@[simp] theorem State.updFn_mem (s : State) (n : Nat) (f : Fn → Fn) : (s.updFn n f).mem = s.mem := rfl
@[simp] theorem State.updFn_sectors (s : State) (n : Nat) (f : Fn → Fn) : (s.updFn n f).sectors = s.sectors := rfl
@[simp] theorem State.updFn_dirty (s : State) (n : Nat) (f : Fn → Fn) : (s.updFn n f).dirty = s.dirty := rfl
@[simp] theorem State.updFn_l1 (s : State) (n : Nat) (f : Fn → Fn) : (s.updFn n f).l1 = s.l1 := rfl
@[simp] theorem State.updFn_panels (s : State) (n : Nat) (f : Fn → Fn) : (s.updFn n f).panels = s.panels := rfl
@[simp] theorem State.updFn_parts (s : State) (n : Nat) (f : Fn → Fn) : (s.updFn n f).parts = s.parts := rfl
@[simp] theorem State.updFn_keys (s : State) (n : Nat) (f : Fn → Fn) : (s.updFn n f).keys = s.keys := rfl
@[simp] theorem State.updFn_nextKey (s : State) (n : Nat) (f : Fn → Fn) : (s.updFn n f).nextKey = s.nextKey := rfl
@[simp] theorem State.updFn_code (s : State) (n : Nat) (f : Fn → Fn) : (s.updFn n f).code = s.code := rfl
@[simp] theorem State.updFn_ctlMem (s : State) (n : Nat) (f : Fn → Fn) : (s.updFn n f).ctlMem = s.ctlMem := rfl
@[simp] theorem State.updFn_ctlImage (s : State) (n : Nat) (f : Fn → Fn) : (s.updFn n f).ctlImage = s.ctlImage := rfl
@[simp] theorem State.updFn_ctlCnt (s : State) (n : Nat) (f : Fn → Fn) : (s.updFn n f).ctlCnt = s.ctlCnt := rfl
@[simp] theorem State.updFn_ctlPoison (s : State) (n : Nat) (f : Fn → Fn) : (s.updFn n f).ctlPoison = s.ctlPoison := rfl
@[simp] theorem State.updFn_ctlCause (s : State) (n : Nat) (f : Fn → Fn) : (s.updFn n f).ctlCause = s.ctlCause := rfl
@[simp] theorem State.updFn_ctlPc (s : State) (n : Nat) (f : Fn → Fn) : (s.updFn n f).ctlPc = s.ctlPc := rfl
@[simp] theorem State.updFn_disp (s : State) (n : Nat) (f : Fn → Fn) : (s.updFn n f).disp = s.disp := rfl
@[simp] theorem State.updFn_ports (s : State) (n : Nat) (f : Fn → Fn) : (s.updFn n f).ports = s.ports := rfl
@[simp] theorem State.updFn_attRej (s : State) (n : Nat) (f : Fn → Fn) : (s.updFn n f).attRej = s.attRej := rfl
@[simp] theorem State.updFn_wordRej (s : State) (n : Nat) (f : Fn → Fn) : (s.updFn n f).wordRej = s.wordRej := rfl
@[simp] theorem State.updFn_cams (s : State) (n : Nat) (f : Fn → Fn) : (s.updFn n f).cams = s.cams := rfl
@[simp] theorem State.updFn_fw (s : State) (n : Nat) (f : Fn → Fn) : (s.updFn n f).fw = s.fw := rfl
@[simp] theorem State.updFn_reqs (s : State) (n : Nat) (f : Fn → Fn) : (s.updFn n f).reqs = s.reqs := rfl
@[simp] theorem State.updFn_msNext (s : State) (n : Nat) (f : Fn → Fn) : (s.updFn n f).msNext = s.msNext := rfl
@[simp] theorem State.updFn_secNext (s : State) (n : Nat) (f : Fn → Fn) : (s.updFn n f).secNext = s.secNext := rfl
@[simp] theorem State.updFn_opSecs (s : State) (n : Nat) (f : Fn → Fn) : (s.updFn n f).opSecs = s.opSecs := rfl
@[simp] theorem State.updFn_late (s : State) (n : Nat) (f : Fn → Fn) : (s.updFn n f).late = s.late := rfl
@[simp] theorem State.updFn_polls (s : State) (n : Nat) (f : Fn → Fn) : (s.updFn n f).polls = s.polls := rfl
@[simp] theorem State.updFn_scrubEnd (s : State) (n : Nat) (f : Fn → Fn) : (s.updFn n f).scrubEnd = s.scrubEnd := rfl
@[simp] theorem State.updFn_time (s : State) (n : Nat) (f : Fn → Fn) : (s.updFn n f).time = s.time := rfl

/-! ## updLaunch -/

@[simp] theorem State.updLaunch_agenda (s : State) (lid : Nat) (f : Launch → Launch) : (s.updLaunch lid f).agenda = s.agenda := rfl
@[simp] theorem State.updLaunch_cur (s : State) (lid : Nat) (f : Launch → Launch) : (s.updLaunch lid f).cur = s.cur := rfl
@[simp] theorem State.updLaunch_waited (s : State) (lid : Nat) (f : Launch → Launch) : (s.updLaunch lid f).waited = s.waited := rfl
@[simp] theorem State.updLaunch_cutting (s : State) (lid : Nat) (f : Launch → Launch) : (s.updLaunch lid f).cutting = s.cutting := rfl
@[simp] theorem State.updLaunch_fresh (s : State) (lid : Nat) (f : Launch → Launch) : (s.updLaunch lid f).fresh = s.fresh := rfl
@[simp] theorem State.updLaunch_serve (s : State) (lid : Nat) (f : Launch → Launch) : (s.updLaunch lid f).serve = s.serve := rfl
@[simp] theorem State.updLaunch_consumptions (s : State) (lid : Nat) (f : Launch → Launch) : (s.updLaunch lid f).consumptions = s.consumptions := rfl
@[simp] theorem State.updLaunch_teams (s : State) (lid : Nat) (f : Launch → Launch) : (s.updLaunch lid f).teams = s.teams := rfl
@[simp] theorem State.updLaunch_ctl (s : State) (lid : Nat) (f : Launch → Launch) : (s.updLaunch lid f).ctl = s.ctl := rfl
@[simp] theorem State.updLaunch_grids (s : State) (lid : Nat) (f : Launch → Launch) : (s.updLaunch lid f).grids = s.grids := rfl
@[simp] theorem State.updLaunch_ctxs (s : State) (lid : Nat) (f : Launch → Launch) : (s.updLaunch lid f).ctxs = s.ctxs := rfl
@[simp] theorem State.updLaunch_nextLid (s : State) (lid : Nat) (f : Launch → Launch) : (s.updLaunch lid f).nextLid = s.nextLid := rfl
@[simp] theorem State.updLaunch_engines (s : State) (lid : Nat) (f : Launch → Launch) : (s.updLaunch lid f).engines = s.engines := rfl
@[simp] theorem State.updLaunch_parked (s : State) (lid : Nat) (f : Launch → Launch) : (s.updLaunch lid f).parked = s.parked := rfl
@[simp] theorem State.updLaunch_posts (s : State) (lid : Nat) (f : Launch → Launch) : (s.updLaunch lid f).posts = s.posts := rfl
@[simp] theorem State.updLaunch_rasters (s : State) (lid : Nat) (f : Launch → Launch) : (s.updLaunch lid f).rasters = s.rasters := rfl
@[simp] theorem State.updLaunch_resReqs (s : State) (lid : Nat) (f : Launch → Launch) : (s.updLaunch lid f).resReqs = s.resReqs := rfl
@[simp] theorem State.updLaunch_sits (s : State) (lid : Nat) (f : Launch → Launch) : (s.updLaunch lid f).sits = s.sits := rfl
@[simp] theorem State.updLaunch_rooms (s : State) (lid : Nat) (f : Launch → Launch) : (s.updLaunch lid f).rooms = s.rooms := rfl
@[simp] theorem State.updLaunch_life (s : State) (lid : Nat) (f : Launch → Launch) : (s.updLaunch lid f).life = s.life := rfl
@[simp] theorem State.updLaunch_lifeStore (s : State) (lid : Nat) (f : Launch → Launch) : (s.updLaunch lid f).lifeStore = s.lifeStore := rfl
@[simp] theorem State.updLaunch_phealth (s : State) (lid : Nat) (f : Launch → Launch) : (s.updLaunch lid f).phealth = s.phealth := rfl
@[simp] theorem State.updLaunch_gates (s : State) (lid : Nat) (f : Launch → Launch) : (s.updLaunch lid f).gates = s.gates := rfl
@[simp] theorem State.updLaunch_windowEnd (s : State) (lid : Nat) (f : Launch → Launch) : (s.updLaunch lid f).windowEnd = s.windowEnd := rfl
@[simp] theorem State.updLaunch_admitEnd (s : State) (lid : Nat) (f : Launch → Launch) : (s.updLaunch lid f).admitEnd = s.admitEnd := rfl
@[simp] theorem State.updLaunch_fns (s : State) (lid : Nat) (f : Launch → Launch) : (s.updLaunch lid f).fns = s.fns := rfl
@[simp] theorem State.updLaunch_mem (s : State) (lid : Nat) (f : Launch → Launch) : (s.updLaunch lid f).mem = s.mem := rfl
@[simp] theorem State.updLaunch_sectors (s : State) (lid : Nat) (f : Launch → Launch) : (s.updLaunch lid f).sectors = s.sectors := rfl
@[simp] theorem State.updLaunch_dirty (s : State) (lid : Nat) (f : Launch → Launch) : (s.updLaunch lid f).dirty = s.dirty := rfl
@[simp] theorem State.updLaunch_l1 (s : State) (lid : Nat) (f : Launch → Launch) : (s.updLaunch lid f).l1 = s.l1 := rfl
@[simp] theorem State.updLaunch_panels (s : State) (lid : Nat) (f : Launch → Launch) : (s.updLaunch lid f).panels = s.panels := rfl
@[simp] theorem State.updLaunch_parts (s : State) (lid : Nat) (f : Launch → Launch) : (s.updLaunch lid f).parts = s.parts := rfl
@[simp] theorem State.updLaunch_keys (s : State) (lid : Nat) (f : Launch → Launch) : (s.updLaunch lid f).keys = s.keys := rfl
@[simp] theorem State.updLaunch_nextKey (s : State) (lid : Nat) (f : Launch → Launch) : (s.updLaunch lid f).nextKey = s.nextKey := rfl
@[simp] theorem State.updLaunch_code (s : State) (lid : Nat) (f : Launch → Launch) : (s.updLaunch lid f).code = s.code := rfl
@[simp] theorem State.updLaunch_ctlMem (s : State) (lid : Nat) (f : Launch → Launch) : (s.updLaunch lid f).ctlMem = s.ctlMem := rfl
@[simp] theorem State.updLaunch_ctlImage (s : State) (lid : Nat) (f : Launch → Launch) : (s.updLaunch lid f).ctlImage = s.ctlImage := rfl
@[simp] theorem State.updLaunch_ctlCnt (s : State) (lid : Nat) (f : Launch → Launch) : (s.updLaunch lid f).ctlCnt = s.ctlCnt := rfl
@[simp] theorem State.updLaunch_ctlPoison (s : State) (lid : Nat) (f : Launch → Launch) : (s.updLaunch lid f).ctlPoison = s.ctlPoison := rfl
@[simp] theorem State.updLaunch_ctlCause (s : State) (lid : Nat) (f : Launch → Launch) : (s.updLaunch lid f).ctlCause = s.ctlCause := rfl
@[simp] theorem State.updLaunch_ctlPc (s : State) (lid : Nat) (f : Launch → Launch) : (s.updLaunch lid f).ctlPc = s.ctlPc := rfl
@[simp] theorem State.updLaunch_disp (s : State) (lid : Nat) (f : Launch → Launch) : (s.updLaunch lid f).disp = s.disp := rfl
@[simp] theorem State.updLaunch_ports (s : State) (lid : Nat) (f : Launch → Launch) : (s.updLaunch lid f).ports = s.ports := rfl
@[simp] theorem State.updLaunch_attRej (s : State) (lid : Nat) (f : Launch → Launch) : (s.updLaunch lid f).attRej = s.attRej := rfl
@[simp] theorem State.updLaunch_wordRej (s : State) (lid : Nat) (f : Launch → Launch) : (s.updLaunch lid f).wordRej = s.wordRej := rfl
@[simp] theorem State.updLaunch_cams (s : State) (lid : Nat) (f : Launch → Launch) : (s.updLaunch lid f).cams = s.cams := rfl
@[simp] theorem State.updLaunch_fw (s : State) (lid : Nat) (f : Launch → Launch) : (s.updLaunch lid f).fw = s.fw := rfl
@[simp] theorem State.updLaunch_reqs (s : State) (lid : Nat) (f : Launch → Launch) : (s.updLaunch lid f).reqs = s.reqs := rfl
@[simp] theorem State.updLaunch_msNext (s : State) (lid : Nat) (f : Launch → Launch) : (s.updLaunch lid f).msNext = s.msNext := rfl
@[simp] theorem State.updLaunch_secNext (s : State) (lid : Nat) (f : Launch → Launch) : (s.updLaunch lid f).secNext = s.secNext := rfl
@[simp] theorem State.updLaunch_opSecs (s : State) (lid : Nat) (f : Launch → Launch) : (s.updLaunch lid f).opSecs = s.opSecs := rfl
@[simp] theorem State.updLaunch_late (s : State) (lid : Nat) (f : Launch → Launch) : (s.updLaunch lid f).late = s.late := rfl
@[simp] theorem State.updLaunch_polls (s : State) (lid : Nat) (f : Launch → Launch) : (s.updLaunch lid f).polls = s.polls := rfl
@[simp] theorem State.updLaunch_scrubEnd (s : State) (lid : Nat) (f : Launch → Launch) : (s.updLaunch lid f).scrubEnd = s.scrubEnd := rfl
@[simp] theorem State.updLaunch_time (s : State) (lid : Nat) (f : Launch → Launch) : (s.updLaunch lid f).time = s.time := rfl

/-! ## updCtx -/

@[simp] theorem State.updCtx_agenda (s : State) (id : BitVec 32) (f : Ctx → Ctx) : (s.updCtx id f).agenda = s.agenda := rfl
@[simp] theorem State.updCtx_cur (s : State) (id : BitVec 32) (f : Ctx → Ctx) : (s.updCtx id f).cur = s.cur := rfl
@[simp] theorem State.updCtx_waited (s : State) (id : BitVec 32) (f : Ctx → Ctx) : (s.updCtx id f).waited = s.waited := rfl
@[simp] theorem State.updCtx_cutting (s : State) (id : BitVec 32) (f : Ctx → Ctx) : (s.updCtx id f).cutting = s.cutting := rfl
@[simp] theorem State.updCtx_fresh (s : State) (id : BitVec 32) (f : Ctx → Ctx) : (s.updCtx id f).fresh = s.fresh := rfl
@[simp] theorem State.updCtx_serve (s : State) (id : BitVec 32) (f : Ctx → Ctx) : (s.updCtx id f).serve = s.serve := rfl
@[simp] theorem State.updCtx_consumptions (s : State) (id : BitVec 32) (f : Ctx → Ctx) : (s.updCtx id f).consumptions = s.consumptions := rfl
@[simp] theorem State.updCtx_teams (s : State) (id : BitVec 32) (f : Ctx → Ctx) : (s.updCtx id f).teams = s.teams := rfl
@[simp] theorem State.updCtx_ctl (s : State) (id : BitVec 32) (f : Ctx → Ctx) : (s.updCtx id f).ctl = s.ctl := rfl
@[simp] theorem State.updCtx_grids (s : State) (id : BitVec 32) (f : Ctx → Ctx) : (s.updCtx id f).grids = s.grids := rfl
@[simp] theorem State.updCtx_ctxs (s : State) (id : BitVec 32) (f : Ctx → Ctx) : (s.updCtx id f).ctxs = s.ctxs.map fun c => if c.valid && c.id == id then f c else c := rfl
@[simp] theorem State.updCtx_launches (s : State) (id : BitVec 32) (f : Ctx → Ctx) : (s.updCtx id f).launches = s.launches := rfl
@[simp] theorem State.updCtx_nextLid (s : State) (id : BitVec 32) (f : Ctx → Ctx) : (s.updCtx id f).nextLid = s.nextLid := rfl
@[simp] theorem State.updCtx_engines (s : State) (id : BitVec 32) (f : Ctx → Ctx) : (s.updCtx id f).engines = s.engines := rfl
@[simp] theorem State.updCtx_parked (s : State) (id : BitVec 32) (f : Ctx → Ctx) : (s.updCtx id f).parked = s.parked := rfl
@[simp] theorem State.updCtx_posts (s : State) (id : BitVec 32) (f : Ctx → Ctx) : (s.updCtx id f).posts = s.posts := rfl
@[simp] theorem State.updCtx_rasters (s : State) (id : BitVec 32) (f : Ctx → Ctx) : (s.updCtx id f).rasters = s.rasters := rfl
@[simp] theorem State.updCtx_resReqs (s : State) (id : BitVec 32) (f : Ctx → Ctx) : (s.updCtx id f).resReqs = s.resReqs := rfl
@[simp] theorem State.updCtx_sits (s : State) (id : BitVec 32) (f : Ctx → Ctx) : (s.updCtx id f).sits = s.sits := rfl
@[simp] theorem State.updCtx_rooms (s : State) (id : BitVec 32) (f : Ctx → Ctx) : (s.updCtx id f).rooms = s.rooms := rfl
@[simp] theorem State.updCtx_life (s : State) (id : BitVec 32) (f : Ctx → Ctx) : (s.updCtx id f).life = s.life := rfl
@[simp] theorem State.updCtx_lifeStore (s : State) (id : BitVec 32) (f : Ctx → Ctx) : (s.updCtx id f).lifeStore = s.lifeStore := rfl
@[simp] theorem State.updCtx_phealth (s : State) (id : BitVec 32) (f : Ctx → Ctx) : (s.updCtx id f).phealth = s.phealth := rfl
@[simp] theorem State.updCtx_gates (s : State) (id : BitVec 32) (f : Ctx → Ctx) : (s.updCtx id f).gates = s.gates := rfl
@[simp] theorem State.updCtx_windowEnd (s : State) (id : BitVec 32) (f : Ctx → Ctx) : (s.updCtx id f).windowEnd = s.windowEnd := rfl
@[simp] theorem State.updCtx_admitEnd (s : State) (id : BitVec 32) (f : Ctx → Ctx) : (s.updCtx id f).admitEnd = s.admitEnd := rfl
@[simp] theorem State.updCtx_fns (s : State) (id : BitVec 32) (f : Ctx → Ctx) : (s.updCtx id f).fns = s.fns := rfl
@[simp] theorem State.updCtx_mem (s : State) (id : BitVec 32) (f : Ctx → Ctx) : (s.updCtx id f).mem = s.mem := rfl
@[simp] theorem State.updCtx_sectors (s : State) (id : BitVec 32) (f : Ctx → Ctx) : (s.updCtx id f).sectors = s.sectors := rfl
@[simp] theorem State.updCtx_dirty (s : State) (id : BitVec 32) (f : Ctx → Ctx) : (s.updCtx id f).dirty = s.dirty := rfl
@[simp] theorem State.updCtx_l1 (s : State) (id : BitVec 32) (f : Ctx → Ctx) : (s.updCtx id f).l1 = s.l1 := rfl
@[simp] theorem State.updCtx_panels (s : State) (id : BitVec 32) (f : Ctx → Ctx) : (s.updCtx id f).panels = s.panels := rfl
@[simp] theorem State.updCtx_parts (s : State) (id : BitVec 32) (f : Ctx → Ctx) : (s.updCtx id f).parts = s.parts := rfl
@[simp] theorem State.updCtx_keys (s : State) (id : BitVec 32) (f : Ctx → Ctx) : (s.updCtx id f).keys = s.keys := rfl
@[simp] theorem State.updCtx_nextKey (s : State) (id : BitVec 32) (f : Ctx → Ctx) : (s.updCtx id f).nextKey = s.nextKey := rfl
@[simp] theorem State.updCtx_code (s : State) (id : BitVec 32) (f : Ctx → Ctx) : (s.updCtx id f).code = s.code := rfl
@[simp] theorem State.updCtx_ctlMem (s : State) (id : BitVec 32) (f : Ctx → Ctx) : (s.updCtx id f).ctlMem = s.ctlMem := rfl
@[simp] theorem State.updCtx_ctlImage (s : State) (id : BitVec 32) (f : Ctx → Ctx) : (s.updCtx id f).ctlImage = s.ctlImage := rfl
@[simp] theorem State.updCtx_ctlCnt (s : State) (id : BitVec 32) (f : Ctx → Ctx) : (s.updCtx id f).ctlCnt = s.ctlCnt := rfl
@[simp] theorem State.updCtx_ctlPoison (s : State) (id : BitVec 32) (f : Ctx → Ctx) : (s.updCtx id f).ctlPoison = s.ctlPoison := rfl
@[simp] theorem State.updCtx_ctlCause (s : State) (id : BitVec 32) (f : Ctx → Ctx) : (s.updCtx id f).ctlCause = s.ctlCause := rfl
@[simp] theorem State.updCtx_ctlPc (s : State) (id : BitVec 32) (f : Ctx → Ctx) : (s.updCtx id f).ctlPc = s.ctlPc := rfl
@[simp] theorem State.updCtx_disp (s : State) (id : BitVec 32) (f : Ctx → Ctx) : (s.updCtx id f).disp = s.disp := rfl
@[simp] theorem State.updCtx_ports (s : State) (id : BitVec 32) (f : Ctx → Ctx) : (s.updCtx id f).ports = s.ports := rfl
@[simp] theorem State.updCtx_attRej (s : State) (id : BitVec 32) (f : Ctx → Ctx) : (s.updCtx id f).attRej = s.attRej := rfl
@[simp] theorem State.updCtx_wordRej (s : State) (id : BitVec 32) (f : Ctx → Ctx) : (s.updCtx id f).wordRej = s.wordRej := rfl
@[simp] theorem State.updCtx_cams (s : State) (id : BitVec 32) (f : Ctx → Ctx) : (s.updCtx id f).cams = s.cams := rfl
@[simp] theorem State.updCtx_fw (s : State) (id : BitVec 32) (f : Ctx → Ctx) : (s.updCtx id f).fw = s.fw := rfl
@[simp] theorem State.updCtx_reqs (s : State) (id : BitVec 32) (f : Ctx → Ctx) : (s.updCtx id f).reqs = s.reqs := rfl
@[simp] theorem State.updCtx_msNext (s : State) (id : BitVec 32) (f : Ctx → Ctx) : (s.updCtx id f).msNext = s.msNext := rfl
@[simp] theorem State.updCtx_secNext (s : State) (id : BitVec 32) (f : Ctx → Ctx) : (s.updCtx id f).secNext = s.secNext := rfl
@[simp] theorem State.updCtx_opSecs (s : State) (id : BitVec 32) (f : Ctx → Ctx) : (s.updCtx id f).opSecs = s.opSecs := rfl
@[simp] theorem State.updCtx_late (s : State) (id : BitVec 32) (f : Ctx → Ctx) : (s.updCtx id f).late = s.late := rfl
@[simp] theorem State.updCtx_polls (s : State) (id : BitVec 32) (f : Ctx → Ctx) : (s.updCtx id f).polls = s.polls := rfl
@[simp] theorem State.updCtx_scrubEnd (s : State) (id : BitVec 32) (f : Ctx → Ctx) : (s.updCtx id f).scrubEnd = s.scrubEnd := rfl
@[simp] theorem State.updCtx_time (s : State) (id : BitVec 32) (f : Ctx → Ctx) : (s.updCtx id f).time = s.time := rfl

/-! ## updCanvas -/

@[simp] theorem State.updCanvas_agenda (s : State) (n : Nat) (f : Canvas → Canvas) : (s.updCanvas n f).agenda = s.agenda := rfl
@[simp] theorem State.updCanvas_cur (s : State) (n : Nat) (f : Canvas → Canvas) : (s.updCanvas n f).cur = s.cur := rfl
@[simp] theorem State.updCanvas_waited (s : State) (n : Nat) (f : Canvas → Canvas) : (s.updCanvas n f).waited = s.waited := rfl
@[simp] theorem State.updCanvas_cutting (s : State) (n : Nat) (f : Canvas → Canvas) : (s.updCanvas n f).cutting = s.cutting := rfl
@[simp] theorem State.updCanvas_fresh (s : State) (n : Nat) (f : Canvas → Canvas) : (s.updCanvas n f).fresh = s.fresh := rfl
@[simp] theorem State.updCanvas_serve (s : State) (n : Nat) (f : Canvas → Canvas) : (s.updCanvas n f).serve = s.serve := rfl
@[simp] theorem State.updCanvas_consumptions (s : State) (n : Nat) (f : Canvas → Canvas) : (s.updCanvas n f).consumptions = s.consumptions := rfl
@[simp] theorem State.updCanvas_teams (s : State) (n : Nat) (f : Canvas → Canvas) : (s.updCanvas n f).teams = s.teams := rfl
@[simp] theorem State.updCanvas_ctl (s : State) (n : Nat) (f : Canvas → Canvas) : (s.updCanvas n f).ctl = s.ctl := rfl
@[simp] theorem State.updCanvas_grids (s : State) (n : Nat) (f : Canvas → Canvas) : (s.updCanvas n f).grids = s.grids := rfl
@[simp] theorem State.updCanvas_ctxs (s : State) (n : Nat) (f : Canvas → Canvas) : (s.updCanvas n f).ctxs = s.ctxs := rfl
@[simp] theorem State.updCanvas_launches (s : State) (n : Nat) (f : Canvas → Canvas) : (s.updCanvas n f).launches = s.launches := rfl
@[simp] theorem State.updCanvas_nextLid (s : State) (n : Nat) (f : Canvas → Canvas) : (s.updCanvas n f).nextLid = s.nextLid := rfl
@[simp] theorem State.updCanvas_engines (s : State) (n : Nat) (f : Canvas → Canvas) : (s.updCanvas n f).engines = s.engines := rfl
@[simp] theorem State.updCanvas_parked (s : State) (n : Nat) (f : Canvas → Canvas) : (s.updCanvas n f).parked = s.parked := rfl
@[simp] theorem State.updCanvas_posts (s : State) (n : Nat) (f : Canvas → Canvas) : (s.updCanvas n f).posts = s.posts := rfl
@[simp] theorem State.updCanvas_rasters (s : State) (n : Nat) (f : Canvas → Canvas) : (s.updCanvas n f).rasters = s.rasters := rfl
@[simp] theorem State.updCanvas_resReqs (s : State) (n : Nat) (f : Canvas → Canvas) : (s.updCanvas n f).resReqs = s.resReqs := rfl
@[simp] theorem State.updCanvas_sits (s : State) (n : Nat) (f : Canvas → Canvas) : (s.updCanvas n f).sits = s.sits := rfl
@[simp] theorem State.updCanvas_rooms (s : State) (n : Nat) (f : Canvas → Canvas) : (s.updCanvas n f).rooms = s.rooms := rfl
@[simp] theorem State.updCanvas_life (s : State) (n : Nat) (f : Canvas → Canvas) : (s.updCanvas n f).life = s.life := rfl
@[simp] theorem State.updCanvas_lifeStore (s : State) (n : Nat) (f : Canvas → Canvas) : (s.updCanvas n f).lifeStore = s.lifeStore := rfl
@[simp] theorem State.updCanvas_phealth (s : State) (n : Nat) (f : Canvas → Canvas) : (s.updCanvas n f).phealth = s.phealth := rfl
@[simp] theorem State.updCanvas_gates (s : State) (n : Nat) (f : Canvas → Canvas) : (s.updCanvas n f).gates = s.gates := rfl
@[simp] theorem State.updCanvas_windowEnd (s : State) (n : Nat) (f : Canvas → Canvas) : (s.updCanvas n f).windowEnd = s.windowEnd := rfl
@[simp] theorem State.updCanvas_admitEnd (s : State) (n : Nat) (f : Canvas → Canvas) : (s.updCanvas n f).admitEnd = s.admitEnd := rfl
@[simp] theorem State.updCanvas_fns (s : State) (n : Nat) (f : Canvas → Canvas) : (s.updCanvas n f).fns = s.fns := rfl
@[simp] theorem State.updCanvas_mem (s : State) (n : Nat) (f : Canvas → Canvas) : (s.updCanvas n f).mem = s.mem := rfl
@[simp] theorem State.updCanvas_sectors (s : State) (n : Nat) (f : Canvas → Canvas) : (s.updCanvas n f).sectors = s.sectors := rfl
@[simp] theorem State.updCanvas_dirty (s : State) (n : Nat) (f : Canvas → Canvas) : (s.updCanvas n f).dirty = s.dirty := rfl
@[simp] theorem State.updCanvas_l1 (s : State) (n : Nat) (f : Canvas → Canvas) : (s.updCanvas n f).l1 = s.l1 := rfl
@[simp] theorem State.updCanvas_panels (s : State) (n : Nat) (f : Canvas → Canvas) : (s.updCanvas n f).panels = s.panels := rfl
@[simp] theorem State.updCanvas_parts (s : State) (n : Nat) (f : Canvas → Canvas) : (s.updCanvas n f).parts = s.parts := rfl
@[simp] theorem State.updCanvas_keys (s : State) (n : Nat) (f : Canvas → Canvas) : (s.updCanvas n f).keys = s.keys := rfl
@[simp] theorem State.updCanvas_nextKey (s : State) (n : Nat) (f : Canvas → Canvas) : (s.updCanvas n f).nextKey = s.nextKey := rfl
@[simp] theorem State.updCanvas_code (s : State) (n : Nat) (f : Canvas → Canvas) : (s.updCanvas n f).code = s.code := rfl
@[simp] theorem State.updCanvas_ctlMem (s : State) (n : Nat) (f : Canvas → Canvas) : (s.updCanvas n f).ctlMem = s.ctlMem := rfl
@[simp] theorem State.updCanvas_ctlImage (s : State) (n : Nat) (f : Canvas → Canvas) : (s.updCanvas n f).ctlImage = s.ctlImage := rfl
@[simp] theorem State.updCanvas_ctlCnt (s : State) (n : Nat) (f : Canvas → Canvas) : (s.updCanvas n f).ctlCnt = s.ctlCnt := rfl
@[simp] theorem State.updCanvas_ctlPoison (s : State) (n : Nat) (f : Canvas → Canvas) : (s.updCanvas n f).ctlPoison = s.ctlPoison := rfl
@[simp] theorem State.updCanvas_ctlCause (s : State) (n : Nat) (f : Canvas → Canvas) : (s.updCanvas n f).ctlCause = s.ctlCause := rfl
@[simp] theorem State.updCanvas_ctlPc (s : State) (n : Nat) (f : Canvas → Canvas) : (s.updCanvas n f).ctlPc = s.ctlPc := rfl
@[simp] theorem State.updCanvas_ports (s : State) (n : Nat) (f : Canvas → Canvas) : (s.updCanvas n f).ports = s.ports := rfl
@[simp] theorem State.updCanvas_attRej (s : State) (n : Nat) (f : Canvas → Canvas) : (s.updCanvas n f).attRej = s.attRej := rfl
@[simp] theorem State.updCanvas_wordRej (s : State) (n : Nat) (f : Canvas → Canvas) : (s.updCanvas n f).wordRej = s.wordRej := rfl
@[simp] theorem State.updCanvas_cams (s : State) (n : Nat) (f : Canvas → Canvas) : (s.updCanvas n f).cams = s.cams := rfl
@[simp] theorem State.updCanvas_fw (s : State) (n : Nat) (f : Canvas → Canvas) : (s.updCanvas n f).fw = s.fw := rfl
@[simp] theorem State.updCanvas_reqs (s : State) (n : Nat) (f : Canvas → Canvas) : (s.updCanvas n f).reqs = s.reqs := rfl
@[simp] theorem State.updCanvas_msNext (s : State) (n : Nat) (f : Canvas → Canvas) : (s.updCanvas n f).msNext = s.msNext := rfl
@[simp] theorem State.updCanvas_secNext (s : State) (n : Nat) (f : Canvas → Canvas) : (s.updCanvas n f).secNext = s.secNext := rfl
@[simp] theorem State.updCanvas_opSecs (s : State) (n : Nat) (f : Canvas → Canvas) : (s.updCanvas n f).opSecs = s.opSecs := rfl
@[simp] theorem State.updCanvas_late (s : State) (n : Nat) (f : Canvas → Canvas) : (s.updCanvas n f).late = s.late := rfl
@[simp] theorem State.updCanvas_polls (s : State) (n : Nat) (f : Canvas → Canvas) : (s.updCanvas n f).polls = s.polls := rfl
@[simp] theorem State.updCanvas_scrubEnd (s : State) (n : Nat) (f : Canvas → Canvas) : (s.updCanvas n f).scrubEnd = s.scrubEnd := rfl
@[simp] theorem State.updCanvas_time (s : State) (n : Nat) (f : Canvas → Canvas) : (s.updCanvas n f).time = s.time := rfl

/-! ## updLayer -/

@[simp] theorem State.updLayer_agenda (s : State) (n k : Nat) (f : Layer → Layer) : (s.updLayer n k f).agenda = s.agenda := rfl
@[simp] theorem State.updLayer_cur (s : State) (n k : Nat) (f : Layer → Layer) : (s.updLayer n k f).cur = s.cur := rfl
@[simp] theorem State.updLayer_waited (s : State) (n k : Nat) (f : Layer → Layer) : (s.updLayer n k f).waited = s.waited := rfl
@[simp] theorem State.updLayer_cutting (s : State) (n k : Nat) (f : Layer → Layer) : (s.updLayer n k f).cutting = s.cutting := rfl
@[simp] theorem State.updLayer_fresh (s : State) (n k : Nat) (f : Layer → Layer) : (s.updLayer n k f).fresh = s.fresh := rfl
@[simp] theorem State.updLayer_serve (s : State) (n k : Nat) (f : Layer → Layer) : (s.updLayer n k f).serve = s.serve := rfl
@[simp] theorem State.updLayer_consumptions (s : State) (n k : Nat) (f : Layer → Layer) : (s.updLayer n k f).consumptions = s.consumptions := rfl
@[simp] theorem State.updLayer_teams (s : State) (n k : Nat) (f : Layer → Layer) : (s.updLayer n k f).teams = s.teams := rfl
@[simp] theorem State.updLayer_ctl (s : State) (n k : Nat) (f : Layer → Layer) : (s.updLayer n k f).ctl = s.ctl := rfl
@[simp] theorem State.updLayer_grids (s : State) (n k : Nat) (f : Layer → Layer) : (s.updLayer n k f).grids = s.grids := rfl
@[simp] theorem State.updLayer_ctxs (s : State) (n k : Nat) (f : Layer → Layer) : (s.updLayer n k f).ctxs = s.ctxs := rfl
@[simp] theorem State.updLayer_launches (s : State) (n k : Nat) (f : Layer → Layer) : (s.updLayer n k f).launches = s.launches := rfl
@[simp] theorem State.updLayer_nextLid (s : State) (n k : Nat) (f : Layer → Layer) : (s.updLayer n k f).nextLid = s.nextLid := rfl
@[simp] theorem State.updLayer_engines (s : State) (n k : Nat) (f : Layer → Layer) : (s.updLayer n k f).engines = s.engines := rfl
@[simp] theorem State.updLayer_parked (s : State) (n k : Nat) (f : Layer → Layer) : (s.updLayer n k f).parked = s.parked := rfl
@[simp] theorem State.updLayer_posts (s : State) (n k : Nat) (f : Layer → Layer) : (s.updLayer n k f).posts = s.posts := rfl
@[simp] theorem State.updLayer_rasters (s : State) (n k : Nat) (f : Layer → Layer) : (s.updLayer n k f).rasters = s.rasters := rfl
@[simp] theorem State.updLayer_resReqs (s : State) (n k : Nat) (f : Layer → Layer) : (s.updLayer n k f).resReqs = s.resReqs := rfl
@[simp] theorem State.updLayer_sits (s : State) (n k : Nat) (f : Layer → Layer) : (s.updLayer n k f).sits = s.sits := rfl
@[simp] theorem State.updLayer_rooms (s : State) (n k : Nat) (f : Layer → Layer) : (s.updLayer n k f).rooms = s.rooms := rfl
@[simp] theorem State.updLayer_life (s : State) (n k : Nat) (f : Layer → Layer) : (s.updLayer n k f).life = s.life := rfl
@[simp] theorem State.updLayer_lifeStore (s : State) (n k : Nat) (f : Layer → Layer) : (s.updLayer n k f).lifeStore = s.lifeStore := rfl
@[simp] theorem State.updLayer_phealth (s : State) (n k : Nat) (f : Layer → Layer) : (s.updLayer n k f).phealth = s.phealth := rfl
@[simp] theorem State.updLayer_gates (s : State) (n k : Nat) (f : Layer → Layer) : (s.updLayer n k f).gates = s.gates := rfl
@[simp] theorem State.updLayer_windowEnd (s : State) (n k : Nat) (f : Layer → Layer) : (s.updLayer n k f).windowEnd = s.windowEnd := rfl
@[simp] theorem State.updLayer_admitEnd (s : State) (n k : Nat) (f : Layer → Layer) : (s.updLayer n k f).admitEnd = s.admitEnd := rfl
@[simp] theorem State.updLayer_fns (s : State) (n k : Nat) (f : Layer → Layer) : (s.updLayer n k f).fns = s.fns := rfl
@[simp] theorem State.updLayer_mem (s : State) (n k : Nat) (f : Layer → Layer) : (s.updLayer n k f).mem = s.mem := rfl
@[simp] theorem State.updLayer_sectors (s : State) (n k : Nat) (f : Layer → Layer) : (s.updLayer n k f).sectors = s.sectors := rfl
@[simp] theorem State.updLayer_dirty (s : State) (n k : Nat) (f : Layer → Layer) : (s.updLayer n k f).dirty = s.dirty := rfl
@[simp] theorem State.updLayer_l1 (s : State) (n k : Nat) (f : Layer → Layer) : (s.updLayer n k f).l1 = s.l1 := rfl
@[simp] theorem State.updLayer_panels (s : State) (n k : Nat) (f : Layer → Layer) : (s.updLayer n k f).panels = s.panels := rfl
@[simp] theorem State.updLayer_parts (s : State) (n k : Nat) (f : Layer → Layer) : (s.updLayer n k f).parts = s.parts := rfl
@[simp] theorem State.updLayer_keys (s : State) (n k : Nat) (f : Layer → Layer) : (s.updLayer n k f).keys = s.keys := rfl
@[simp] theorem State.updLayer_nextKey (s : State) (n k : Nat) (f : Layer → Layer) : (s.updLayer n k f).nextKey = s.nextKey := rfl
@[simp] theorem State.updLayer_code (s : State) (n k : Nat) (f : Layer → Layer) : (s.updLayer n k f).code = s.code := rfl
@[simp] theorem State.updLayer_ctlMem (s : State) (n k : Nat) (f : Layer → Layer) : (s.updLayer n k f).ctlMem = s.ctlMem := rfl
@[simp] theorem State.updLayer_ctlImage (s : State) (n k : Nat) (f : Layer → Layer) : (s.updLayer n k f).ctlImage = s.ctlImage := rfl
@[simp] theorem State.updLayer_ctlCnt (s : State) (n k : Nat) (f : Layer → Layer) : (s.updLayer n k f).ctlCnt = s.ctlCnt := rfl
@[simp] theorem State.updLayer_ctlPoison (s : State) (n k : Nat) (f : Layer → Layer) : (s.updLayer n k f).ctlPoison = s.ctlPoison := rfl
@[simp] theorem State.updLayer_ctlCause (s : State) (n k : Nat) (f : Layer → Layer) : (s.updLayer n k f).ctlCause = s.ctlCause := rfl
@[simp] theorem State.updLayer_ctlPc (s : State) (n k : Nat) (f : Layer → Layer) : (s.updLayer n k f).ctlPc = s.ctlPc := rfl
@[simp] theorem State.updLayer_ports (s : State) (n k : Nat) (f : Layer → Layer) : (s.updLayer n k f).ports = s.ports := rfl
@[simp] theorem State.updLayer_attRej (s : State) (n k : Nat) (f : Layer → Layer) : (s.updLayer n k f).attRej = s.attRej := rfl
@[simp] theorem State.updLayer_wordRej (s : State) (n k : Nat) (f : Layer → Layer) : (s.updLayer n k f).wordRej = s.wordRej := rfl
@[simp] theorem State.updLayer_cams (s : State) (n k : Nat) (f : Layer → Layer) : (s.updLayer n k f).cams = s.cams := rfl
@[simp] theorem State.updLayer_fw (s : State) (n k : Nat) (f : Layer → Layer) : (s.updLayer n k f).fw = s.fw := rfl
@[simp] theorem State.updLayer_reqs (s : State) (n k : Nat) (f : Layer → Layer) : (s.updLayer n k f).reqs = s.reqs := rfl
@[simp] theorem State.updLayer_msNext (s : State) (n k : Nat) (f : Layer → Layer) : (s.updLayer n k f).msNext = s.msNext := rfl
@[simp] theorem State.updLayer_secNext (s : State) (n k : Nat) (f : Layer → Layer) : (s.updLayer n k f).secNext = s.secNext := rfl
@[simp] theorem State.updLayer_opSecs (s : State) (n k : Nat) (f : Layer → Layer) : (s.updLayer n k f).opSecs = s.opSecs := rfl
@[simp] theorem State.updLayer_late (s : State) (n k : Nat) (f : Layer → Layer) : (s.updLayer n k f).late = s.late := rfl
@[simp] theorem State.updLayer_polls (s : State) (n k : Nat) (f : Layer → Layer) : (s.updLayer n k f).polls = s.polls := rfl
@[simp] theorem State.updLayer_scrubEnd (s : State) (n k : Nat) (f : Layer → Layer) : (s.updLayer n k f).scrubEnd = s.scrubEnd := rfl
@[simp] theorem State.updLayer_time (s : State) (n k : Nat) (f : Layer → Layer) : (s.updLayer n k f).time = s.time := rfl

/-! ## setFw -/

@[simp] theorem State.setFw_agenda (s : State) (f : Firmware → Firmware) : (s.setFw f).agenda = s.agenda := rfl
@[simp] theorem State.setFw_cur (s : State) (f : Firmware → Firmware) : (s.setFw f).cur = s.cur := rfl
@[simp] theorem State.setFw_waited (s : State) (f : Firmware → Firmware) : (s.setFw f).waited = s.waited := rfl
@[simp] theorem State.setFw_cutting (s : State) (f : Firmware → Firmware) : (s.setFw f).cutting = s.cutting := rfl
@[simp] theorem State.setFw_fresh (s : State) (f : Firmware → Firmware) : (s.setFw f).fresh = s.fresh := rfl
@[simp] theorem State.setFw_serve (s : State) (f : Firmware → Firmware) : (s.setFw f).serve = s.serve := rfl
@[simp] theorem State.setFw_consumptions (s : State) (f : Firmware → Firmware) : (s.setFw f).consumptions = s.consumptions := rfl
@[simp] theorem State.setFw_teams (s : State) (f : Firmware → Firmware) : (s.setFw f).teams = s.teams := rfl
@[simp] theorem State.setFw_ctl (s : State) (f : Firmware → Firmware) : (s.setFw f).ctl = s.ctl := rfl
@[simp] theorem State.setFw_grids (s : State) (f : Firmware → Firmware) : (s.setFw f).grids = s.grids := rfl
@[simp] theorem State.setFw_ctxs (s : State) (f : Firmware → Firmware) : (s.setFw f).ctxs = s.ctxs := rfl
@[simp] theorem State.setFw_launches (s : State) (f : Firmware → Firmware) : (s.setFw f).launches = s.launches := rfl
@[simp] theorem State.setFw_nextLid (s : State) (f : Firmware → Firmware) : (s.setFw f).nextLid = s.nextLid := rfl
@[simp] theorem State.setFw_engines (s : State) (f : Firmware → Firmware) : (s.setFw f).engines = s.engines := rfl
@[simp] theorem State.setFw_parked (s : State) (f : Firmware → Firmware) : (s.setFw f).parked = s.parked := rfl
@[simp] theorem State.setFw_posts (s : State) (f : Firmware → Firmware) : (s.setFw f).posts = s.posts := rfl
@[simp] theorem State.setFw_rasters (s : State) (f : Firmware → Firmware) : (s.setFw f).rasters = s.rasters := rfl
@[simp] theorem State.setFw_resReqs (s : State) (f : Firmware → Firmware) : (s.setFw f).resReqs = s.resReqs := rfl
@[simp] theorem State.setFw_sits (s : State) (f : Firmware → Firmware) : (s.setFw f).sits = s.sits := rfl
@[simp] theorem State.setFw_rooms (s : State) (f : Firmware → Firmware) : (s.setFw f).rooms = s.rooms := rfl
@[simp] theorem State.setFw_life (s : State) (f : Firmware → Firmware) : (s.setFw f).life = s.life := rfl
@[simp] theorem State.setFw_lifeStore (s : State) (f : Firmware → Firmware) : (s.setFw f).lifeStore = s.lifeStore := rfl
@[simp] theorem State.setFw_phealth (s : State) (f : Firmware → Firmware) : (s.setFw f).phealth = s.phealth := rfl
@[simp] theorem State.setFw_gates (s : State) (f : Firmware → Firmware) : (s.setFw f).gates = s.gates := rfl
@[simp] theorem State.setFw_windowEnd (s : State) (f : Firmware → Firmware) : (s.setFw f).windowEnd = s.windowEnd := rfl
@[simp] theorem State.setFw_admitEnd (s : State) (f : Firmware → Firmware) : (s.setFw f).admitEnd = s.admitEnd := rfl
@[simp] theorem State.setFw_fns (s : State) (f : Firmware → Firmware) : (s.setFw f).fns = s.fns := rfl
@[simp] theorem State.setFw_mem (s : State) (f : Firmware → Firmware) : (s.setFw f).mem = s.mem := rfl
@[simp] theorem State.setFw_sectors (s : State) (f : Firmware → Firmware) : (s.setFw f).sectors = s.sectors := rfl
@[simp] theorem State.setFw_dirty (s : State) (f : Firmware → Firmware) : (s.setFw f).dirty = s.dirty := rfl
@[simp] theorem State.setFw_l1 (s : State) (f : Firmware → Firmware) : (s.setFw f).l1 = s.l1 := rfl
@[simp] theorem State.setFw_panels (s : State) (f : Firmware → Firmware) : (s.setFw f).panels = s.panels := rfl
@[simp] theorem State.setFw_parts (s : State) (f : Firmware → Firmware) : (s.setFw f).parts = s.parts := rfl
@[simp] theorem State.setFw_keys (s : State) (f : Firmware → Firmware) : (s.setFw f).keys = s.keys := rfl
@[simp] theorem State.setFw_nextKey (s : State) (f : Firmware → Firmware) : (s.setFw f).nextKey = s.nextKey := rfl
@[simp] theorem State.setFw_code (s : State) (f : Firmware → Firmware) : (s.setFw f).code = s.code := rfl
@[simp] theorem State.setFw_ctlMem (s : State) (f : Firmware → Firmware) : (s.setFw f).ctlMem = s.ctlMem := rfl
@[simp] theorem State.setFw_ctlImage (s : State) (f : Firmware → Firmware) : (s.setFw f).ctlImage = s.ctlImage := rfl
@[simp] theorem State.setFw_ctlCnt (s : State) (f : Firmware → Firmware) : (s.setFw f).ctlCnt = s.ctlCnt := rfl
@[simp] theorem State.setFw_ctlPoison (s : State) (f : Firmware → Firmware) : (s.setFw f).ctlPoison = s.ctlPoison := rfl
@[simp] theorem State.setFw_ctlCause (s : State) (f : Firmware → Firmware) : (s.setFw f).ctlCause = s.ctlCause := rfl
@[simp] theorem State.setFw_ctlPc (s : State) (f : Firmware → Firmware) : (s.setFw f).ctlPc = s.ctlPc := rfl
@[simp] theorem State.setFw_disp (s : State) (f : Firmware → Firmware) : (s.setFw f).disp = s.disp := rfl
@[simp] theorem State.setFw_ports (s : State) (f : Firmware → Firmware) : (s.setFw f).ports = s.ports := rfl
@[simp] theorem State.setFw_attRej (s : State) (f : Firmware → Firmware) : (s.setFw f).attRej = s.attRej := rfl
@[simp] theorem State.setFw_wordRej (s : State) (f : Firmware → Firmware) : (s.setFw f).wordRej = s.wordRej := rfl
@[simp] theorem State.setFw_cams (s : State) (f : Firmware → Firmware) : (s.setFw f).cams = s.cams := rfl
@[simp] theorem State.setFw_fw (s : State) (f : Firmware → Firmware) : (s.setFw f).fw = f s.fw := rfl
@[simp] theorem State.setFw_reqs (s : State) (f : Firmware → Firmware) : (s.setFw f).reqs = s.reqs := rfl
@[simp] theorem State.setFw_msNext (s : State) (f : Firmware → Firmware) : (s.setFw f).msNext = s.msNext := rfl
@[simp] theorem State.setFw_secNext (s : State) (f : Firmware → Firmware) : (s.setFw f).secNext = s.secNext := rfl
@[simp] theorem State.setFw_opSecs (s : State) (f : Firmware → Firmware) : (s.setFw f).opSecs = s.opSecs := rfl
@[simp] theorem State.setFw_late (s : State) (f : Firmware → Firmware) : (s.setFw f).late = s.late := rfl
@[simp] theorem State.setFw_polls (s : State) (f : Firmware → Firmware) : (s.setFw f).polls = s.polls := rfl
@[simp] theorem State.setFw_scrubEnd (s : State) (f : Firmware → Firmware) : (s.setFw f).scrubEnd = s.scrubEnd := rfl
@[simp] theorem State.setFw_time (s : State) (f : Firmware → Firmware) : (s.setFw f).time = s.time := rfl

/-! ## setSits -/

@[simp] theorem State.setSits_agenda (s : State) (f : Sittings → Sittings) : (s.setSits f).agenda = s.agenda := rfl
@[simp] theorem State.setSits_cur (s : State) (f : Sittings → Sittings) : (s.setSits f).cur = s.cur := rfl
@[simp] theorem State.setSits_waited (s : State) (f : Sittings → Sittings) : (s.setSits f).waited = s.waited := rfl
@[simp] theorem State.setSits_cutting (s : State) (f : Sittings → Sittings) : (s.setSits f).cutting = s.cutting := rfl
@[simp] theorem State.setSits_fresh (s : State) (f : Sittings → Sittings) : (s.setSits f).fresh = s.fresh := rfl
@[simp] theorem State.setSits_serve (s : State) (f : Sittings → Sittings) : (s.setSits f).serve = s.serve := rfl
@[simp] theorem State.setSits_consumptions (s : State) (f : Sittings → Sittings) : (s.setSits f).consumptions = s.consumptions := rfl
@[simp] theorem State.setSits_teams (s : State) (f : Sittings → Sittings) : (s.setSits f).teams = s.teams := rfl
@[simp] theorem State.setSits_ctl (s : State) (f : Sittings → Sittings) : (s.setSits f).ctl = s.ctl := rfl
@[simp] theorem State.setSits_grids (s : State) (f : Sittings → Sittings) : (s.setSits f).grids = s.grids := rfl
@[simp] theorem State.setSits_ctxs (s : State) (f : Sittings → Sittings) : (s.setSits f).ctxs = s.ctxs := rfl
@[simp] theorem State.setSits_launches (s : State) (f : Sittings → Sittings) : (s.setSits f).launches = s.launches := rfl
@[simp] theorem State.setSits_nextLid (s : State) (f : Sittings → Sittings) : (s.setSits f).nextLid = s.nextLid := rfl
@[simp] theorem State.setSits_engines (s : State) (f : Sittings → Sittings) : (s.setSits f).engines = s.engines := rfl
@[simp] theorem State.setSits_parked (s : State) (f : Sittings → Sittings) : (s.setSits f).parked = s.parked := rfl
@[simp] theorem State.setSits_posts (s : State) (f : Sittings → Sittings) : (s.setSits f).posts = s.posts := rfl
@[simp] theorem State.setSits_rasters (s : State) (f : Sittings → Sittings) : (s.setSits f).rasters = s.rasters := rfl
@[simp] theorem State.setSits_resReqs (s : State) (f : Sittings → Sittings) : (s.setSits f).resReqs = s.resReqs := rfl
@[simp] theorem State.setSits_sits (s : State) (f : Sittings → Sittings) : (s.setSits f).sits = f s.sits := rfl
@[simp] theorem State.setSits_rooms (s : State) (f : Sittings → Sittings) : (s.setSits f).rooms = s.rooms := rfl
@[simp] theorem State.setSits_life (s : State) (f : Sittings → Sittings) : (s.setSits f).life = s.life := rfl
@[simp] theorem State.setSits_lifeStore (s : State) (f : Sittings → Sittings) : (s.setSits f).lifeStore = s.lifeStore := rfl
@[simp] theorem State.setSits_phealth (s : State) (f : Sittings → Sittings) : (s.setSits f).phealth = s.phealth := rfl
@[simp] theorem State.setSits_gates (s : State) (f : Sittings → Sittings) : (s.setSits f).gates = s.gates := rfl
@[simp] theorem State.setSits_windowEnd (s : State) (f : Sittings → Sittings) : (s.setSits f).windowEnd = s.windowEnd := rfl
@[simp] theorem State.setSits_admitEnd (s : State) (f : Sittings → Sittings) : (s.setSits f).admitEnd = s.admitEnd := rfl
@[simp] theorem State.setSits_fns (s : State) (f : Sittings → Sittings) : (s.setSits f).fns = s.fns := rfl
@[simp] theorem State.setSits_mem (s : State) (f : Sittings → Sittings) : (s.setSits f).mem = s.mem := rfl
@[simp] theorem State.setSits_sectors (s : State) (f : Sittings → Sittings) : (s.setSits f).sectors = s.sectors := rfl
@[simp] theorem State.setSits_dirty (s : State) (f : Sittings → Sittings) : (s.setSits f).dirty = s.dirty := rfl
@[simp] theorem State.setSits_l1 (s : State) (f : Sittings → Sittings) : (s.setSits f).l1 = s.l1 := rfl
@[simp] theorem State.setSits_panels (s : State) (f : Sittings → Sittings) : (s.setSits f).panels = s.panels := rfl
@[simp] theorem State.setSits_parts (s : State) (f : Sittings → Sittings) : (s.setSits f).parts = s.parts := rfl
@[simp] theorem State.setSits_keys (s : State) (f : Sittings → Sittings) : (s.setSits f).keys = s.keys := rfl
@[simp] theorem State.setSits_nextKey (s : State) (f : Sittings → Sittings) : (s.setSits f).nextKey = s.nextKey := rfl
@[simp] theorem State.setSits_code (s : State) (f : Sittings → Sittings) : (s.setSits f).code = s.code := rfl
@[simp] theorem State.setSits_ctlMem (s : State) (f : Sittings → Sittings) : (s.setSits f).ctlMem = s.ctlMem := rfl
@[simp] theorem State.setSits_ctlImage (s : State) (f : Sittings → Sittings) : (s.setSits f).ctlImage = s.ctlImage := rfl
@[simp] theorem State.setSits_ctlCnt (s : State) (f : Sittings → Sittings) : (s.setSits f).ctlCnt = s.ctlCnt := rfl
@[simp] theorem State.setSits_ctlPoison (s : State) (f : Sittings → Sittings) : (s.setSits f).ctlPoison = s.ctlPoison := rfl
@[simp] theorem State.setSits_ctlCause (s : State) (f : Sittings → Sittings) : (s.setSits f).ctlCause = s.ctlCause := rfl
@[simp] theorem State.setSits_ctlPc (s : State) (f : Sittings → Sittings) : (s.setSits f).ctlPc = s.ctlPc := rfl
@[simp] theorem State.setSits_disp (s : State) (f : Sittings → Sittings) : (s.setSits f).disp = s.disp := rfl
@[simp] theorem State.setSits_ports (s : State) (f : Sittings → Sittings) : (s.setSits f).ports = s.ports := rfl
@[simp] theorem State.setSits_attRej (s : State) (f : Sittings → Sittings) : (s.setSits f).attRej = s.attRej := rfl
@[simp] theorem State.setSits_wordRej (s : State) (f : Sittings → Sittings) : (s.setSits f).wordRej = s.wordRej := rfl
@[simp] theorem State.setSits_cams (s : State) (f : Sittings → Sittings) : (s.setSits f).cams = s.cams := rfl
@[simp] theorem State.setSits_fw (s : State) (f : Sittings → Sittings) : (s.setSits f).fw = s.fw := rfl
@[simp] theorem State.setSits_reqs (s : State) (f : Sittings → Sittings) : (s.setSits f).reqs = s.reqs := rfl
@[simp] theorem State.setSits_msNext (s : State) (f : Sittings → Sittings) : (s.setSits f).msNext = s.msNext := rfl
@[simp] theorem State.setSits_secNext (s : State) (f : Sittings → Sittings) : (s.setSits f).secNext = s.secNext := rfl
@[simp] theorem State.setSits_opSecs (s : State) (f : Sittings → Sittings) : (s.setSits f).opSecs = s.opSecs := rfl
@[simp] theorem State.setSits_late (s : State) (f : Sittings → Sittings) : (s.setSits f).late = s.late := rfl
@[simp] theorem State.setSits_polls (s : State) (f : Sittings → Sittings) : (s.setSits f).polls = s.polls := rfl
@[simp] theorem State.setSits_scrubEnd (s : State) (f : Sittings → Sittings) : (s.setSits f).scrubEnd = s.scrubEnd := rfl
@[simp] theorem State.setSits_time (s : State) (f : Sittings → Sittings) : (s.setSits f).time = s.time := rfl

/-! ## updLife -/

@[simp] theorem State.updLife_agenda (s : State) (core : Nat) (f : Life → Life) : (s.updLife core f).agenda = s.agenda := rfl
@[simp] theorem State.updLife_cur (s : State) (core : Nat) (f : Life → Life) : (s.updLife core f).cur = s.cur := rfl
@[simp] theorem State.updLife_waited (s : State) (core : Nat) (f : Life → Life) : (s.updLife core f).waited = s.waited := rfl
@[simp] theorem State.updLife_cutting (s : State) (core : Nat) (f : Life → Life) : (s.updLife core f).cutting = s.cutting := rfl
@[simp] theorem State.updLife_fresh (s : State) (core : Nat) (f : Life → Life) : (s.updLife core f).fresh = s.fresh := rfl
@[simp] theorem State.updLife_serve (s : State) (core : Nat) (f : Life → Life) : (s.updLife core f).serve = s.serve := rfl
@[simp] theorem State.updLife_consumptions (s : State) (core : Nat) (f : Life → Life) : (s.updLife core f).consumptions = s.consumptions := rfl
@[simp] theorem State.updLife_teams (s : State) (core : Nat) (f : Life → Life) : (s.updLife core f).teams = s.teams := rfl
@[simp] theorem State.updLife_ctl (s : State) (core : Nat) (f : Life → Life) : (s.updLife core f).ctl = s.ctl := rfl
@[simp] theorem State.updLife_grids (s : State) (core : Nat) (f : Life → Life) : (s.updLife core f).grids = s.grids := rfl
@[simp] theorem State.updLife_ctxs (s : State) (core : Nat) (f : Life → Life) : (s.updLife core f).ctxs = s.ctxs := rfl
@[simp] theorem State.updLife_launches (s : State) (core : Nat) (f : Life → Life) : (s.updLife core f).launches = s.launches := rfl
@[simp] theorem State.updLife_nextLid (s : State) (core : Nat) (f : Life → Life) : (s.updLife core f).nextLid = s.nextLid := rfl
@[simp] theorem State.updLife_engines (s : State) (core : Nat) (f : Life → Life) : (s.updLife core f).engines = s.engines := rfl
@[simp] theorem State.updLife_parked (s : State) (core : Nat) (f : Life → Life) : (s.updLife core f).parked = s.parked := rfl
@[simp] theorem State.updLife_posts (s : State) (core : Nat) (f : Life → Life) : (s.updLife core f).posts = s.posts := rfl
@[simp] theorem State.updLife_rasters (s : State) (core : Nat) (f : Life → Life) : (s.updLife core f).rasters = s.rasters := rfl
@[simp] theorem State.updLife_resReqs (s : State) (core : Nat) (f : Life → Life) : (s.updLife core f).resReqs = s.resReqs := rfl
@[simp] theorem State.updLife_sits (s : State) (core : Nat) (f : Life → Life) : (s.updLife core f).sits = s.sits := rfl
@[simp] theorem State.updLife_rooms (s : State) (core : Nat) (f : Life → Life) : (s.updLife core f).rooms = s.rooms := rfl
@[simp] theorem State.updLife_lifeStore (s : State) (core : Nat) (f : Life → Life) : (s.updLife core f).lifeStore = s.lifeStore := rfl
@[simp] theorem State.updLife_phealth (s : State) (core : Nat) (f : Life → Life) : (s.updLife core f).phealth = s.phealth := rfl
@[simp] theorem State.updLife_gates (s : State) (core : Nat) (f : Life → Life) : (s.updLife core f).gates = s.gates := rfl
@[simp] theorem State.updLife_windowEnd (s : State) (core : Nat) (f : Life → Life) : (s.updLife core f).windowEnd = s.windowEnd := rfl
@[simp] theorem State.updLife_admitEnd (s : State) (core : Nat) (f : Life → Life) : (s.updLife core f).admitEnd = s.admitEnd := rfl
@[simp] theorem State.updLife_fns (s : State) (core : Nat) (f : Life → Life) : (s.updLife core f).fns = s.fns := rfl
@[simp] theorem State.updLife_mem (s : State) (core : Nat) (f : Life → Life) : (s.updLife core f).mem = s.mem := rfl
@[simp] theorem State.updLife_sectors (s : State) (core : Nat) (f : Life → Life) : (s.updLife core f).sectors = s.sectors := rfl
@[simp] theorem State.updLife_dirty (s : State) (core : Nat) (f : Life → Life) : (s.updLife core f).dirty = s.dirty := rfl
@[simp] theorem State.updLife_l1 (s : State) (core : Nat) (f : Life → Life) : (s.updLife core f).l1 = s.l1 := rfl
@[simp] theorem State.updLife_panels (s : State) (core : Nat) (f : Life → Life) : (s.updLife core f).panels = s.panels := rfl
@[simp] theorem State.updLife_parts (s : State) (core : Nat) (f : Life → Life) : (s.updLife core f).parts = s.parts := rfl
@[simp] theorem State.updLife_keys (s : State) (core : Nat) (f : Life → Life) : (s.updLife core f).keys = s.keys := rfl
@[simp] theorem State.updLife_nextKey (s : State) (core : Nat) (f : Life → Life) : (s.updLife core f).nextKey = s.nextKey := rfl
@[simp] theorem State.updLife_code (s : State) (core : Nat) (f : Life → Life) : (s.updLife core f).code = s.code := rfl
@[simp] theorem State.updLife_ctlMem (s : State) (core : Nat) (f : Life → Life) : (s.updLife core f).ctlMem = s.ctlMem := rfl
@[simp] theorem State.updLife_ctlImage (s : State) (core : Nat) (f : Life → Life) : (s.updLife core f).ctlImage = s.ctlImage := rfl
@[simp] theorem State.updLife_ctlCnt (s : State) (core : Nat) (f : Life → Life) : (s.updLife core f).ctlCnt = s.ctlCnt := rfl
@[simp] theorem State.updLife_ctlPoison (s : State) (core : Nat) (f : Life → Life) : (s.updLife core f).ctlPoison = s.ctlPoison := rfl
@[simp] theorem State.updLife_ctlCause (s : State) (core : Nat) (f : Life → Life) : (s.updLife core f).ctlCause = s.ctlCause := rfl
@[simp] theorem State.updLife_ctlPc (s : State) (core : Nat) (f : Life → Life) : (s.updLife core f).ctlPc = s.ctlPc := rfl
@[simp] theorem State.updLife_disp (s : State) (core : Nat) (f : Life → Life) : (s.updLife core f).disp = s.disp := rfl
@[simp] theorem State.updLife_ports (s : State) (core : Nat) (f : Life → Life) : (s.updLife core f).ports = s.ports := rfl
@[simp] theorem State.updLife_attRej (s : State) (core : Nat) (f : Life → Life) : (s.updLife core f).attRej = s.attRej := rfl
@[simp] theorem State.updLife_wordRej (s : State) (core : Nat) (f : Life → Life) : (s.updLife core f).wordRej = s.wordRej := rfl
@[simp] theorem State.updLife_cams (s : State) (core : Nat) (f : Life → Life) : (s.updLife core f).cams = s.cams := rfl
@[simp] theorem State.updLife_fw (s : State) (core : Nat) (f : Life → Life) : (s.updLife core f).fw = s.fw := rfl
@[simp] theorem State.updLife_reqs (s : State) (core : Nat) (f : Life → Life) : (s.updLife core f).reqs = s.reqs := rfl
@[simp] theorem State.updLife_msNext (s : State) (core : Nat) (f : Life → Life) : (s.updLife core f).msNext = s.msNext := rfl
@[simp] theorem State.updLife_secNext (s : State) (core : Nat) (f : Life → Life) : (s.updLife core f).secNext = s.secNext := rfl
@[simp] theorem State.updLife_opSecs (s : State) (core : Nat) (f : Life → Life) : (s.updLife core f).opSecs = s.opSecs := rfl
@[simp] theorem State.updLife_late (s : State) (core : Nat) (f : Life → Life) : (s.updLife core f).late = s.late := rfl
@[simp] theorem State.updLife_polls (s : State) (core : Nat) (f : Life → Life) : (s.updLife core f).polls = s.polls := rfl
@[simp] theorem State.updLife_scrubEnd (s : State) (core : Nat) (f : Life → Life) : (s.updLife core f).scrubEnd = s.scrubEnd := rfl
@[simp] theorem State.updLife_time (s : State) (core : Nat) (f : Life → Life) : (s.updLife core f).time = s.time := rfl

/-! ## updHealth -/

@[simp] theorem State.updHealth_agenda (s : State) (panel : Nat) (f : PanelHealth → PanelHealth) : (s.updHealth panel f).agenda = s.agenda := rfl
@[simp] theorem State.updHealth_cur (s : State) (panel : Nat) (f : PanelHealth → PanelHealth) : (s.updHealth panel f).cur = s.cur := rfl
@[simp] theorem State.updHealth_waited (s : State) (panel : Nat) (f : PanelHealth → PanelHealth) : (s.updHealth panel f).waited = s.waited := rfl
@[simp] theorem State.updHealth_cutting (s : State) (panel : Nat) (f : PanelHealth → PanelHealth) : (s.updHealth panel f).cutting = s.cutting := rfl
@[simp] theorem State.updHealth_fresh (s : State) (panel : Nat) (f : PanelHealth → PanelHealth) : (s.updHealth panel f).fresh = s.fresh := rfl
@[simp] theorem State.updHealth_serve (s : State) (panel : Nat) (f : PanelHealth → PanelHealth) : (s.updHealth panel f).serve = s.serve := rfl
@[simp] theorem State.updHealth_consumptions (s : State) (panel : Nat) (f : PanelHealth → PanelHealth) : (s.updHealth panel f).consumptions = s.consumptions := rfl
@[simp] theorem State.updHealth_teams (s : State) (panel : Nat) (f : PanelHealth → PanelHealth) : (s.updHealth panel f).teams = s.teams := rfl
@[simp] theorem State.updHealth_ctl (s : State) (panel : Nat) (f : PanelHealth → PanelHealth) : (s.updHealth panel f).ctl = s.ctl := rfl
@[simp] theorem State.updHealth_grids (s : State) (panel : Nat) (f : PanelHealth → PanelHealth) : (s.updHealth panel f).grids = s.grids := rfl
@[simp] theorem State.updHealth_ctxs (s : State) (panel : Nat) (f : PanelHealth → PanelHealth) : (s.updHealth panel f).ctxs = s.ctxs := rfl
@[simp] theorem State.updHealth_launches (s : State) (panel : Nat) (f : PanelHealth → PanelHealth) : (s.updHealth panel f).launches = s.launches := rfl
@[simp] theorem State.updHealth_nextLid (s : State) (panel : Nat) (f : PanelHealth → PanelHealth) : (s.updHealth panel f).nextLid = s.nextLid := rfl
@[simp] theorem State.updHealth_engines (s : State) (panel : Nat) (f : PanelHealth → PanelHealth) : (s.updHealth panel f).engines = s.engines := rfl
@[simp] theorem State.updHealth_parked (s : State) (panel : Nat) (f : PanelHealth → PanelHealth) : (s.updHealth panel f).parked = s.parked := rfl
@[simp] theorem State.updHealth_posts (s : State) (panel : Nat) (f : PanelHealth → PanelHealth) : (s.updHealth panel f).posts = s.posts := rfl
@[simp] theorem State.updHealth_rasters (s : State) (panel : Nat) (f : PanelHealth → PanelHealth) : (s.updHealth panel f).rasters = s.rasters := rfl
@[simp] theorem State.updHealth_resReqs (s : State) (panel : Nat) (f : PanelHealth → PanelHealth) : (s.updHealth panel f).resReqs = s.resReqs := rfl
@[simp] theorem State.updHealth_sits (s : State) (panel : Nat) (f : PanelHealth → PanelHealth) : (s.updHealth panel f).sits = s.sits := rfl
@[simp] theorem State.updHealth_rooms (s : State) (panel : Nat) (f : PanelHealth → PanelHealth) : (s.updHealth panel f).rooms = s.rooms := rfl
@[simp] theorem State.updHealth_life (s : State) (panel : Nat) (f : PanelHealth → PanelHealth) : (s.updHealth panel f).life = s.life := rfl
@[simp] theorem State.updHealth_lifeStore (s : State) (panel : Nat) (f : PanelHealth → PanelHealth) : (s.updHealth panel f).lifeStore = s.lifeStore := rfl
@[simp] theorem State.updHealth_gates (s : State) (panel : Nat) (f : PanelHealth → PanelHealth) : (s.updHealth panel f).gates = s.gates := rfl
@[simp] theorem State.updHealth_windowEnd (s : State) (panel : Nat) (f : PanelHealth → PanelHealth) : (s.updHealth panel f).windowEnd = s.windowEnd := rfl
@[simp] theorem State.updHealth_admitEnd (s : State) (panel : Nat) (f : PanelHealth → PanelHealth) : (s.updHealth panel f).admitEnd = s.admitEnd := rfl
@[simp] theorem State.updHealth_fns (s : State) (panel : Nat) (f : PanelHealth → PanelHealth) : (s.updHealth panel f).fns = s.fns := rfl
@[simp] theorem State.updHealth_mem (s : State) (panel : Nat) (f : PanelHealth → PanelHealth) : (s.updHealth panel f).mem = s.mem := rfl
@[simp] theorem State.updHealth_sectors (s : State) (panel : Nat) (f : PanelHealth → PanelHealth) : (s.updHealth panel f).sectors = s.sectors := rfl
@[simp] theorem State.updHealth_dirty (s : State) (panel : Nat) (f : PanelHealth → PanelHealth) : (s.updHealth panel f).dirty = s.dirty := rfl
@[simp] theorem State.updHealth_l1 (s : State) (panel : Nat) (f : PanelHealth → PanelHealth) : (s.updHealth panel f).l1 = s.l1 := rfl
@[simp] theorem State.updHealth_panels (s : State) (panel : Nat) (f : PanelHealth → PanelHealth) : (s.updHealth panel f).panels = s.panels := rfl
@[simp] theorem State.updHealth_parts (s : State) (panel : Nat) (f : PanelHealth → PanelHealth) : (s.updHealth panel f).parts = s.parts := rfl
@[simp] theorem State.updHealth_keys (s : State) (panel : Nat) (f : PanelHealth → PanelHealth) : (s.updHealth panel f).keys = s.keys := rfl
@[simp] theorem State.updHealth_nextKey (s : State) (panel : Nat) (f : PanelHealth → PanelHealth) : (s.updHealth panel f).nextKey = s.nextKey := rfl
@[simp] theorem State.updHealth_code (s : State) (panel : Nat) (f : PanelHealth → PanelHealth) : (s.updHealth panel f).code = s.code := rfl
@[simp] theorem State.updHealth_ctlMem (s : State) (panel : Nat) (f : PanelHealth → PanelHealth) : (s.updHealth panel f).ctlMem = s.ctlMem := rfl
@[simp] theorem State.updHealth_ctlImage (s : State) (panel : Nat) (f : PanelHealth → PanelHealth) : (s.updHealth panel f).ctlImage = s.ctlImage := rfl
@[simp] theorem State.updHealth_ctlCnt (s : State) (panel : Nat) (f : PanelHealth → PanelHealth) : (s.updHealth panel f).ctlCnt = s.ctlCnt := rfl
@[simp] theorem State.updHealth_ctlPoison (s : State) (panel : Nat) (f : PanelHealth → PanelHealth) : (s.updHealth panel f).ctlPoison = s.ctlPoison := rfl
@[simp] theorem State.updHealth_ctlCause (s : State) (panel : Nat) (f : PanelHealth → PanelHealth) : (s.updHealth panel f).ctlCause = s.ctlCause := rfl
@[simp] theorem State.updHealth_ctlPc (s : State) (panel : Nat) (f : PanelHealth → PanelHealth) : (s.updHealth panel f).ctlPc = s.ctlPc := rfl
@[simp] theorem State.updHealth_disp (s : State) (panel : Nat) (f : PanelHealth → PanelHealth) : (s.updHealth panel f).disp = s.disp := rfl
@[simp] theorem State.updHealth_ports (s : State) (panel : Nat) (f : PanelHealth → PanelHealth) : (s.updHealth panel f).ports = s.ports := rfl
@[simp] theorem State.updHealth_attRej (s : State) (panel : Nat) (f : PanelHealth → PanelHealth) : (s.updHealth panel f).attRej = s.attRej := rfl
@[simp] theorem State.updHealth_wordRej (s : State) (panel : Nat) (f : PanelHealth → PanelHealth) : (s.updHealth panel f).wordRej = s.wordRej := rfl
@[simp] theorem State.updHealth_cams (s : State) (panel : Nat) (f : PanelHealth → PanelHealth) : (s.updHealth panel f).cams = s.cams := rfl
@[simp] theorem State.updHealth_fw (s : State) (panel : Nat) (f : PanelHealth → PanelHealth) : (s.updHealth panel f).fw = s.fw := rfl
@[simp] theorem State.updHealth_reqs (s : State) (panel : Nat) (f : PanelHealth → PanelHealth) : (s.updHealth panel f).reqs = s.reqs := rfl
@[simp] theorem State.updHealth_msNext (s : State) (panel : Nat) (f : PanelHealth → PanelHealth) : (s.updHealth panel f).msNext = s.msNext := rfl
@[simp] theorem State.updHealth_secNext (s : State) (panel : Nat) (f : PanelHealth → PanelHealth) : (s.updHealth panel f).secNext = s.secNext := rfl
@[simp] theorem State.updHealth_opSecs (s : State) (panel : Nat) (f : PanelHealth → PanelHealth) : (s.updHealth panel f).opSecs = s.opSecs := rfl
@[simp] theorem State.updHealth_late (s : State) (panel : Nat) (f : PanelHealth → PanelHealth) : (s.updHealth panel f).late = s.late := rfl
@[simp] theorem State.updHealth_polls (s : State) (panel : Nat) (f : PanelHealth → PanelHealth) : (s.updHealth panel f).polls = s.polls := rfl
@[simp] theorem State.updHealth_scrubEnd (s : State) (panel : Nat) (f : PanelHealth → PanelHealth) : (s.updHealth panel f).scrubEnd = s.scrubEnd := rfl
@[simp] theorem State.updHealth_time (s : State) (panel : Nat) (f : PanelHealth → PanelHealth) : (s.updHealth panel f).time = s.time := rfl

/-! ## updCamera -/

@[simp] theorem State.updCamera_agenda (s : State) (r : Nat) (f : Camera → Camera) : (s.updCamera r f).agenda = s.agenda := rfl
@[simp] theorem State.updCamera_cur (s : State) (r : Nat) (f : Camera → Camera) : (s.updCamera r f).cur = s.cur := rfl
@[simp] theorem State.updCamera_waited (s : State) (r : Nat) (f : Camera → Camera) : (s.updCamera r f).waited = s.waited := rfl
@[simp] theorem State.updCamera_cutting (s : State) (r : Nat) (f : Camera → Camera) : (s.updCamera r f).cutting = s.cutting := rfl
@[simp] theorem State.updCamera_fresh (s : State) (r : Nat) (f : Camera → Camera) : (s.updCamera r f).fresh = s.fresh := rfl
@[simp] theorem State.updCamera_serve (s : State) (r : Nat) (f : Camera → Camera) : (s.updCamera r f).serve = s.serve := rfl
@[simp] theorem State.updCamera_consumptions (s : State) (r : Nat) (f : Camera → Camera) : (s.updCamera r f).consumptions = s.consumptions := rfl
@[simp] theorem State.updCamera_teams (s : State) (r : Nat) (f : Camera → Camera) : (s.updCamera r f).teams = s.teams := rfl
@[simp] theorem State.updCamera_ctl (s : State) (r : Nat) (f : Camera → Camera) : (s.updCamera r f).ctl = s.ctl := rfl
@[simp] theorem State.updCamera_grids (s : State) (r : Nat) (f : Camera → Camera) : (s.updCamera r f).grids = s.grids := rfl
@[simp] theorem State.updCamera_ctxs (s : State) (r : Nat) (f : Camera → Camera) : (s.updCamera r f).ctxs = s.ctxs := rfl
@[simp] theorem State.updCamera_launches (s : State) (r : Nat) (f : Camera → Camera) : (s.updCamera r f).launches = s.launches := rfl
@[simp] theorem State.updCamera_nextLid (s : State) (r : Nat) (f : Camera → Camera) : (s.updCamera r f).nextLid = s.nextLid := rfl
@[simp] theorem State.updCamera_engines (s : State) (r : Nat) (f : Camera → Camera) : (s.updCamera r f).engines = s.engines := rfl
@[simp] theorem State.updCamera_parked (s : State) (r : Nat) (f : Camera → Camera) : (s.updCamera r f).parked = s.parked := rfl
@[simp] theorem State.updCamera_posts (s : State) (r : Nat) (f : Camera → Camera) : (s.updCamera r f).posts = s.posts := rfl
@[simp] theorem State.updCamera_rasters (s : State) (r : Nat) (f : Camera → Camera) : (s.updCamera r f).rasters = s.rasters := rfl
@[simp] theorem State.updCamera_resReqs (s : State) (r : Nat) (f : Camera → Camera) : (s.updCamera r f).resReqs = s.resReqs := rfl
@[simp] theorem State.updCamera_sits (s : State) (r : Nat) (f : Camera → Camera) : (s.updCamera r f).sits = s.sits := rfl
@[simp] theorem State.updCamera_rooms (s : State) (r : Nat) (f : Camera → Camera) : (s.updCamera r f).rooms = s.rooms := rfl
@[simp] theorem State.updCamera_life (s : State) (r : Nat) (f : Camera → Camera) : (s.updCamera r f).life = s.life := rfl
@[simp] theorem State.updCamera_lifeStore (s : State) (r : Nat) (f : Camera → Camera) : (s.updCamera r f).lifeStore = s.lifeStore := rfl
@[simp] theorem State.updCamera_phealth (s : State) (r : Nat) (f : Camera → Camera) : (s.updCamera r f).phealth = s.phealth := rfl
@[simp] theorem State.updCamera_gates (s : State) (r : Nat) (f : Camera → Camera) : (s.updCamera r f).gates = s.gates := rfl
@[simp] theorem State.updCamera_windowEnd (s : State) (r : Nat) (f : Camera → Camera) : (s.updCamera r f).windowEnd = s.windowEnd := rfl
@[simp] theorem State.updCamera_admitEnd (s : State) (r : Nat) (f : Camera → Camera) : (s.updCamera r f).admitEnd = s.admitEnd := rfl
@[simp] theorem State.updCamera_fns (s : State) (r : Nat) (f : Camera → Camera) : (s.updCamera r f).fns = s.fns := rfl
@[simp] theorem State.updCamera_mem (s : State) (r : Nat) (f : Camera → Camera) : (s.updCamera r f).mem = s.mem := rfl
@[simp] theorem State.updCamera_sectors (s : State) (r : Nat) (f : Camera → Camera) : (s.updCamera r f).sectors = s.sectors := rfl
@[simp] theorem State.updCamera_dirty (s : State) (r : Nat) (f : Camera → Camera) : (s.updCamera r f).dirty = s.dirty := rfl
@[simp] theorem State.updCamera_l1 (s : State) (r : Nat) (f : Camera → Camera) : (s.updCamera r f).l1 = s.l1 := rfl
@[simp] theorem State.updCamera_panels (s : State) (r : Nat) (f : Camera → Camera) : (s.updCamera r f).panels = s.panels := rfl
@[simp] theorem State.updCamera_parts (s : State) (r : Nat) (f : Camera → Camera) : (s.updCamera r f).parts = s.parts := rfl
@[simp] theorem State.updCamera_keys (s : State) (r : Nat) (f : Camera → Camera) : (s.updCamera r f).keys = s.keys := rfl
@[simp] theorem State.updCamera_nextKey (s : State) (r : Nat) (f : Camera → Camera) : (s.updCamera r f).nextKey = s.nextKey := rfl
@[simp] theorem State.updCamera_code (s : State) (r : Nat) (f : Camera → Camera) : (s.updCamera r f).code = s.code := rfl
@[simp] theorem State.updCamera_ctlMem (s : State) (r : Nat) (f : Camera → Camera) : (s.updCamera r f).ctlMem = s.ctlMem := rfl
@[simp] theorem State.updCamera_ctlImage (s : State) (r : Nat) (f : Camera → Camera) : (s.updCamera r f).ctlImage = s.ctlImage := rfl
@[simp] theorem State.updCamera_ctlCnt (s : State) (r : Nat) (f : Camera → Camera) : (s.updCamera r f).ctlCnt = s.ctlCnt := rfl
@[simp] theorem State.updCamera_ctlPoison (s : State) (r : Nat) (f : Camera → Camera) : (s.updCamera r f).ctlPoison = s.ctlPoison := rfl
@[simp] theorem State.updCamera_ctlCause (s : State) (r : Nat) (f : Camera → Camera) : (s.updCamera r f).ctlCause = s.ctlCause := rfl
@[simp] theorem State.updCamera_ctlPc (s : State) (r : Nat) (f : Camera → Camera) : (s.updCamera r f).ctlPc = s.ctlPc := rfl
@[simp] theorem State.updCamera_disp (s : State) (r : Nat) (f : Camera → Camera) : (s.updCamera r f).disp = s.disp := rfl
@[simp] theorem State.updCamera_ports (s : State) (r : Nat) (f : Camera → Camera) : (s.updCamera r f).ports = s.ports := rfl
@[simp] theorem State.updCamera_attRej (s : State) (r : Nat) (f : Camera → Camera) : (s.updCamera r f).attRej = s.attRej := rfl
@[simp] theorem State.updCamera_wordRej (s : State) (r : Nat) (f : Camera → Camera) : (s.updCamera r f).wordRej = s.wordRej := rfl
@[simp] theorem State.updCamera_cams (s : State) (r : Nat) (f : Camera → Camera) : (s.updCamera r f).cams = s.cams.map fun c => if c.num == r then f c else c := rfl
@[simp] theorem State.updCamera_fw (s : State) (r : Nat) (f : Camera → Camera) : (s.updCamera r f).fw = s.fw := rfl
@[simp] theorem State.updCamera_reqs (s : State) (r : Nat) (f : Camera → Camera) : (s.updCamera r f).reqs = s.reqs := rfl
@[simp] theorem State.updCamera_msNext (s : State) (r : Nat) (f : Camera → Camera) : (s.updCamera r f).msNext = s.msNext := rfl
@[simp] theorem State.updCamera_secNext (s : State) (r : Nat) (f : Camera → Camera) : (s.updCamera r f).secNext = s.secNext := rfl
@[simp] theorem State.updCamera_opSecs (s : State) (r : Nat) (f : Camera → Camera) : (s.updCamera r f).opSecs = s.opSecs := rfl
@[simp] theorem State.updCamera_late (s : State) (r : Nat) (f : Camera → Camera) : (s.updCamera r f).late = s.late := rfl
@[simp] theorem State.updCamera_polls (s : State) (r : Nat) (f : Camera → Camera) : (s.updCamera r f).polls = s.polls := rfl
@[simp] theorem State.updCamera_scrubEnd (s : State) (r : Nat) (f : Camera → Camera) : (s.updCamera r f).scrubEnd = s.scrubEnd := rfl
@[simp] theorem State.updCamera_time (s : State) (r : Nat) (f : Camera → Camera) : (s.updCamera r f).time = s.time := rfl

/-! ## raiseEvent -/

@[simp] theorem State.raiseEvent_agenda (s : State) (code arg : Nat) : (s.raiseEvent code arg).agenda = s.agenda := rfl
@[simp] theorem State.raiseEvent_cur (s : State) (code arg : Nat) : (s.raiseEvent code arg).cur = s.cur := rfl
@[simp] theorem State.raiseEvent_waited (s : State) (code arg : Nat) : (s.raiseEvent code arg).waited = s.waited := rfl
@[simp] theorem State.raiseEvent_cutting (s : State) (code arg : Nat) : (s.raiseEvent code arg).cutting = s.cutting := rfl
@[simp] theorem State.raiseEvent_fresh (s : State) (code arg : Nat) : (s.raiseEvent code arg).fresh = s.fresh := rfl
@[simp] theorem State.raiseEvent_serve (s : State) (code arg : Nat) : (s.raiseEvent code arg).serve = s.serve := rfl
@[simp] theorem State.raiseEvent_consumptions (s : State) (code arg : Nat) : (s.raiseEvent code arg).consumptions = s.consumptions := rfl
@[simp] theorem State.raiseEvent_teams (s : State) (code arg : Nat) : (s.raiseEvent code arg).teams = s.teams := rfl
@[simp] theorem State.raiseEvent_ctl (s : State) (code arg : Nat) : (s.raiseEvent code arg).ctl = s.ctl := rfl
@[simp] theorem State.raiseEvent_grids (s : State) (code arg : Nat) : (s.raiseEvent code arg).grids = s.grids := rfl
@[simp] theorem State.raiseEvent_ctxs (s : State) (code arg : Nat) : (s.raiseEvent code arg).ctxs = s.ctxs := rfl
@[simp] theorem State.raiseEvent_launches (s : State) (code arg : Nat) : (s.raiseEvent code arg).launches = s.launches := rfl
@[simp] theorem State.raiseEvent_nextLid (s : State) (code arg : Nat) : (s.raiseEvent code arg).nextLid = s.nextLid := rfl
@[simp] theorem State.raiseEvent_engines (s : State) (code arg : Nat) : (s.raiseEvent code arg).engines = s.engines := rfl
@[simp] theorem State.raiseEvent_parked (s : State) (code arg : Nat) : (s.raiseEvent code arg).parked = s.parked := rfl
@[simp] theorem State.raiseEvent_posts (s : State) (code arg : Nat) : (s.raiseEvent code arg).posts = s.posts := rfl
@[simp] theorem State.raiseEvent_rasters (s : State) (code arg : Nat) : (s.raiseEvent code arg).rasters = s.rasters := rfl
@[simp] theorem State.raiseEvent_resReqs (s : State) (code arg : Nat) : (s.raiseEvent code arg).resReqs = s.resReqs := rfl
@[simp] theorem State.raiseEvent_sits (s : State) (code arg : Nat) : (s.raiseEvent code arg).sits = s.sits := rfl
@[simp] theorem State.raiseEvent_rooms (s : State) (code arg : Nat) : (s.raiseEvent code arg).rooms = s.rooms := rfl
@[simp] theorem State.raiseEvent_life (s : State) (code arg : Nat) : (s.raiseEvent code arg).life = s.life := rfl
@[simp] theorem State.raiseEvent_lifeStore (s : State) (code arg : Nat) : (s.raiseEvent code arg).lifeStore = s.lifeStore := rfl
@[simp] theorem State.raiseEvent_phealth (s : State) (code arg : Nat) : (s.raiseEvent code arg).phealth = s.phealth := rfl
@[simp] theorem State.raiseEvent_gates (s : State) (code arg : Nat) : (s.raiseEvent code arg).gates = s.gates := rfl
@[simp] theorem State.raiseEvent_windowEnd (s : State) (code arg : Nat) : (s.raiseEvent code arg).windowEnd = s.windowEnd := rfl
@[simp] theorem State.raiseEvent_admitEnd (s : State) (code arg : Nat) : (s.raiseEvent code arg).admitEnd = s.admitEnd := rfl
@[simp] theorem State.raiseEvent_fns (s : State) (code arg : Nat) : (s.raiseEvent code arg).fns = s.fns := rfl
@[simp] theorem State.raiseEvent_mem (s : State) (code arg : Nat) : (s.raiseEvent code arg).mem = s.mem := rfl
@[simp] theorem State.raiseEvent_sectors (s : State) (code arg : Nat) : (s.raiseEvent code arg).sectors = s.sectors := rfl
@[simp] theorem State.raiseEvent_dirty (s : State) (code arg : Nat) : (s.raiseEvent code arg).dirty = s.dirty := rfl
@[simp] theorem State.raiseEvent_l1 (s : State) (code arg : Nat) : (s.raiseEvent code arg).l1 = s.l1 := rfl
@[simp] theorem State.raiseEvent_panels (s : State) (code arg : Nat) : (s.raiseEvent code arg).panels = s.panels := rfl
@[simp] theorem State.raiseEvent_parts (s : State) (code arg : Nat) : (s.raiseEvent code arg).parts = s.parts := rfl
@[simp] theorem State.raiseEvent_keys (s : State) (code arg : Nat) : (s.raiseEvent code arg).keys = s.keys := rfl
@[simp] theorem State.raiseEvent_nextKey (s : State) (code arg : Nat) : (s.raiseEvent code arg).nextKey = s.nextKey := rfl
@[simp] theorem State.raiseEvent_code (s : State) (code arg : Nat) : (s.raiseEvent code arg).code = s.code := rfl
@[simp] theorem State.raiseEvent_ctlMem (s : State) (code arg : Nat) : (s.raiseEvent code arg).ctlMem = s.ctlMem := rfl
@[simp] theorem State.raiseEvent_ctlImage (s : State) (code arg : Nat) : (s.raiseEvent code arg).ctlImage = s.ctlImage := rfl
@[simp] theorem State.raiseEvent_ctlCnt (s : State) (code arg : Nat) : (s.raiseEvent code arg).ctlCnt = s.ctlCnt := rfl
@[simp] theorem State.raiseEvent_ctlPoison (s : State) (code arg : Nat) : (s.raiseEvent code arg).ctlPoison = s.ctlPoison := rfl
@[simp] theorem State.raiseEvent_ctlCause (s : State) (code arg : Nat) : (s.raiseEvent code arg).ctlCause = s.ctlCause := rfl
@[simp] theorem State.raiseEvent_ctlPc (s : State) (code arg : Nat) : (s.raiseEvent code arg).ctlPc = s.ctlPc := rfl
@[simp] theorem State.raiseEvent_disp (s : State) (code arg : Nat) : (s.raiseEvent code arg).disp = s.disp := rfl
@[simp] theorem State.raiseEvent_ports (s : State) (code arg : Nat) : (s.raiseEvent code arg).ports = s.ports := rfl
@[simp] theorem State.raiseEvent_attRej (s : State) (code arg : Nat) : (s.raiseEvent code arg).attRej = s.attRej := rfl
@[simp] theorem State.raiseEvent_wordRej (s : State) (code arg : Nat) : (s.raiseEvent code arg).wordRej = s.wordRej := rfl
@[simp] theorem State.raiseEvent_cams (s : State) (code arg : Nat) : (s.raiseEvent code arg).cams = s.cams := rfl
@[simp] theorem State.raiseEvent_reqs (s : State) (code arg : Nat) : (s.raiseEvent code arg).reqs = s.reqs := rfl
@[simp] theorem State.raiseEvent_msNext (s : State) (code arg : Nat) : (s.raiseEvent code arg).msNext = s.msNext := rfl
@[simp] theorem State.raiseEvent_secNext (s : State) (code arg : Nat) : (s.raiseEvent code arg).secNext = s.secNext := rfl
@[simp] theorem State.raiseEvent_opSecs (s : State) (code arg : Nat) : (s.raiseEvent code arg).opSecs = s.opSecs := rfl
@[simp] theorem State.raiseEvent_late (s : State) (code arg : Nat) : (s.raiseEvent code arg).late = s.late := rfl
@[simp] theorem State.raiseEvent_polls (s : State) (code arg : Nat) : (s.raiseEvent code arg).polls = s.polls := rfl
@[simp] theorem State.raiseEvent_scrubEnd (s : State) (code arg : Nat) : (s.raiseEvent code arg).scrubEnd = s.scrubEnd := rfl
@[simp] theorem State.raiseEvent_time (s : State) (code arg : Nat) : (s.raiseEvent code arg).time = s.time := rfl

/-! ## Teams -/

@[simp] theorem State.setTeam_agenda (s : State) (t : Team) : (s.setTeam t).agenda = s.agenda := by unfold State.setTeam; split <;> rfl
@[simp] theorem State.updTeam_agenda (s : State) (tid : Nat) (f : Team → Team) : (s.updTeam tid f).agenda = s.agenda := by
  unfold State.updTeam; split
  · exact State.setTeam_agenda _ _
  · rfl
@[simp] theorem State.updGroup_agenda (s : State) (tid gi : Nat) (f : Group → Group) : (s.updGroup tid gi f).agenda = s.agenda :=
  State.updTeam_agenda _ _ _
@[simp] theorem State.setTeam_cur (s : State) (t : Team) : (s.setTeam t).cur = s.cur := by unfold State.setTeam; split <;> rfl
@[simp] theorem State.updTeam_cur (s : State) (tid : Nat) (f : Team → Team) : (s.updTeam tid f).cur = s.cur := by
  unfold State.updTeam; split
  · exact State.setTeam_cur _ _
  · rfl
@[simp] theorem State.updGroup_cur (s : State) (tid gi : Nat) (f : Group → Group) : (s.updGroup tid gi f).cur = s.cur :=
  State.updTeam_cur _ _ _
@[simp] theorem State.setTeam_waited (s : State) (t : Team) : (s.setTeam t).waited = s.waited := by unfold State.setTeam; split <;> rfl
@[simp] theorem State.updTeam_waited (s : State) (tid : Nat) (f : Team → Team) : (s.updTeam tid f).waited = s.waited := by
  unfold State.updTeam; split
  · exact State.setTeam_waited _ _
  · rfl
@[simp] theorem State.updGroup_waited (s : State) (tid gi : Nat) (f : Group → Group) : (s.updGroup tid gi f).waited = s.waited :=
  State.updTeam_waited _ _ _
@[simp] theorem State.setTeam_cutting (s : State) (t : Team) : (s.setTeam t).cutting = s.cutting := by unfold State.setTeam; split <;> rfl
@[simp] theorem State.updTeam_cutting (s : State) (tid : Nat) (f : Team → Team) : (s.updTeam tid f).cutting = s.cutting := by
  unfold State.updTeam; split
  · exact State.setTeam_cutting _ _
  · rfl
@[simp] theorem State.updGroup_cutting (s : State) (tid gi : Nat) (f : Group → Group) : (s.updGroup tid gi f).cutting = s.cutting :=
  State.updTeam_cutting _ _ _
@[simp] theorem State.setTeam_fresh (s : State) (t : Team) : (s.setTeam t).fresh = s.fresh := by unfold State.setTeam; split <;> rfl
@[simp] theorem State.updTeam_fresh (s : State) (tid : Nat) (f : Team → Team) : (s.updTeam tid f).fresh = s.fresh := by
  unfold State.updTeam; split
  · exact State.setTeam_fresh _ _
  · rfl
@[simp] theorem State.updGroup_fresh (s : State) (tid gi : Nat) (f : Group → Group) : (s.updGroup tid gi f).fresh = s.fresh :=
  State.updTeam_fresh _ _ _
@[simp] theorem State.setTeam_serve (s : State) (t : Team) : (s.setTeam t).serve = s.serve := by unfold State.setTeam; split <;> rfl
@[simp] theorem State.updTeam_serve (s : State) (tid : Nat) (f : Team → Team) : (s.updTeam tid f).serve = s.serve := by
  unfold State.updTeam; split
  · exact State.setTeam_serve _ _
  · rfl
@[simp] theorem State.updGroup_serve (s : State) (tid gi : Nat) (f : Group → Group) : (s.updGroup tid gi f).serve = s.serve :=
  State.updTeam_serve _ _ _
@[simp] theorem State.setTeam_consumptions (s : State) (t : Team) : (s.setTeam t).consumptions = s.consumptions := by unfold State.setTeam; split <;> rfl
@[simp] theorem State.updTeam_consumptions (s : State) (tid : Nat) (f : Team → Team) : (s.updTeam tid f).consumptions = s.consumptions := by
  unfold State.updTeam; split
  · exact State.setTeam_consumptions _ _
  · rfl
@[simp] theorem State.updGroup_consumptions (s : State) (tid gi : Nat) (f : Group → Group) : (s.updGroup tid gi f).consumptions = s.consumptions :=
  State.updTeam_consumptions _ _ _
@[simp] theorem State.setTeam_grids (s : State) (t : Team) : (s.setTeam t).grids = s.grids := by unfold State.setTeam; split <;> rfl
@[simp] theorem State.updTeam_grids (s : State) (tid : Nat) (f : Team → Team) : (s.updTeam tid f).grids = s.grids := by
  unfold State.updTeam; split
  · exact State.setTeam_grids _ _
  · rfl
@[simp] theorem State.updGroup_grids (s : State) (tid gi : Nat) (f : Group → Group) : (s.updGroup tid gi f).grids = s.grids :=
  State.updTeam_grids _ _ _
@[simp] theorem State.setTeam_ctxs (s : State) (t : Team) : (s.setTeam t).ctxs = s.ctxs := by unfold State.setTeam; split <;> rfl
@[simp] theorem State.updTeam_ctxs (s : State) (tid : Nat) (f : Team → Team) : (s.updTeam tid f).ctxs = s.ctxs := by
  unfold State.updTeam; split
  · exact State.setTeam_ctxs _ _
  · rfl
@[simp] theorem State.updGroup_ctxs (s : State) (tid gi : Nat) (f : Group → Group) : (s.updGroup tid gi f).ctxs = s.ctxs :=
  State.updTeam_ctxs _ _ _
@[simp] theorem State.setTeam_launches (s : State) (t : Team) : (s.setTeam t).launches = s.launches := by unfold State.setTeam; split <;> rfl
@[simp] theorem State.updTeam_launches (s : State) (tid : Nat) (f : Team → Team) : (s.updTeam tid f).launches = s.launches := by
  unfold State.updTeam; split
  · exact State.setTeam_launches _ _
  · rfl
@[simp] theorem State.updGroup_launches (s : State) (tid gi : Nat) (f : Group → Group) : (s.updGroup tid gi f).launches = s.launches :=
  State.updTeam_launches _ _ _
@[simp] theorem State.setTeam_nextLid (s : State) (t : Team) : (s.setTeam t).nextLid = s.nextLid := by unfold State.setTeam; split <;> rfl
@[simp] theorem State.updTeam_nextLid (s : State) (tid : Nat) (f : Team → Team) : (s.updTeam tid f).nextLid = s.nextLid := by
  unfold State.updTeam; split
  · exact State.setTeam_nextLid _ _
  · rfl
@[simp] theorem State.updGroup_nextLid (s : State) (tid gi : Nat) (f : Group → Group) : (s.updGroup tid gi f).nextLid = s.nextLid :=
  State.updTeam_nextLid _ _ _
@[simp] theorem State.setTeam_engines (s : State) (t : Team) : (s.setTeam t).engines = s.engines := by unfold State.setTeam; split <;> rfl
@[simp] theorem State.updTeam_engines (s : State) (tid : Nat) (f : Team → Team) : (s.updTeam tid f).engines = s.engines := by
  unfold State.updTeam; split
  · exact State.setTeam_engines _ _
  · rfl
@[simp] theorem State.updGroup_engines (s : State) (tid gi : Nat) (f : Group → Group) : (s.updGroup tid gi f).engines = s.engines :=
  State.updTeam_engines _ _ _
@[simp] theorem State.setTeam_parked (s : State) (t : Team) : (s.setTeam t).parked = s.parked := by unfold State.setTeam; split <;> rfl
@[simp] theorem State.updTeam_parked (s : State) (tid : Nat) (f : Team → Team) : (s.updTeam tid f).parked = s.parked := by
  unfold State.updTeam; split
  · exact State.setTeam_parked _ _
  · rfl
@[simp] theorem State.updGroup_parked (s : State) (tid gi : Nat) (f : Group → Group) : (s.updGroup tid gi f).parked = s.parked :=
  State.updTeam_parked _ _ _
@[simp] theorem State.setTeam_posts (s : State) (t : Team) : (s.setTeam t).posts = s.posts := by unfold State.setTeam; split <;> rfl
@[simp] theorem State.updTeam_posts (s : State) (tid : Nat) (f : Team → Team) : (s.updTeam tid f).posts = s.posts := by
  unfold State.updTeam; split
  · exact State.setTeam_posts _ _
  · rfl
@[simp] theorem State.updGroup_posts (s : State) (tid gi : Nat) (f : Group → Group) : (s.updGroup tid gi f).posts = s.posts :=
  State.updTeam_posts _ _ _
@[simp] theorem State.setTeam_rasters (s : State) (t : Team) : (s.setTeam t).rasters = s.rasters := by unfold State.setTeam; split <;> rfl
@[simp] theorem State.updTeam_rasters (s : State) (tid : Nat) (f : Team → Team) : (s.updTeam tid f).rasters = s.rasters := by
  unfold State.updTeam; split
  · exact State.setTeam_rasters _ _
  · rfl
@[simp] theorem State.updGroup_rasters (s : State) (tid gi : Nat) (f : Group → Group) : (s.updGroup tid gi f).rasters = s.rasters :=
  State.updTeam_rasters _ _ _
@[simp] theorem State.setTeam_resReqs (s : State) (t : Team) : (s.setTeam t).resReqs = s.resReqs := by unfold State.setTeam; split <;> rfl
@[simp] theorem State.updTeam_resReqs (s : State) (tid : Nat) (f : Team → Team) : (s.updTeam tid f).resReqs = s.resReqs := by
  unfold State.updTeam; split
  · exact State.setTeam_resReqs _ _
  · rfl
@[simp] theorem State.updGroup_resReqs (s : State) (tid gi : Nat) (f : Group → Group) : (s.updGroup tid gi f).resReqs = s.resReqs :=
  State.updTeam_resReqs _ _ _
@[simp] theorem State.setTeam_sits (s : State) (t : Team) : (s.setTeam t).sits = s.sits := by unfold State.setTeam; split <;> rfl
@[simp] theorem State.updTeam_sits (s : State) (tid : Nat) (f : Team → Team) : (s.updTeam tid f).sits = s.sits := by
  unfold State.updTeam; split
  · exact State.setTeam_sits _ _
  · rfl
@[simp] theorem State.updGroup_sits (s : State) (tid gi : Nat) (f : Group → Group) : (s.updGroup tid gi f).sits = s.sits :=
  State.updTeam_sits _ _ _
@[simp] theorem State.setTeam_rooms (s : State) (t : Team) : (s.setTeam t).rooms = s.rooms := by unfold State.setTeam; split <;> rfl
@[simp] theorem State.updTeam_rooms (s : State) (tid : Nat) (f : Team → Team) : (s.updTeam tid f).rooms = s.rooms := by
  unfold State.updTeam; split
  · exact State.setTeam_rooms _ _
  · rfl
@[simp] theorem State.updGroup_rooms (s : State) (tid gi : Nat) (f : Group → Group) : (s.updGroup tid gi f).rooms = s.rooms :=
  State.updTeam_rooms _ _ _
@[simp] theorem State.setTeam_life (s : State) (t : Team) : (s.setTeam t).life = s.life := by unfold State.setTeam; split <;> rfl
@[simp] theorem State.updTeam_life (s : State) (tid : Nat) (f : Team → Team) : (s.updTeam tid f).life = s.life := by
  unfold State.updTeam; split
  · exact State.setTeam_life _ _
  · rfl
@[simp] theorem State.updGroup_life (s : State) (tid gi : Nat) (f : Group → Group) : (s.updGroup tid gi f).life = s.life :=
  State.updTeam_life _ _ _
@[simp] theorem State.setTeam_lifeStore (s : State) (t : Team) : (s.setTeam t).lifeStore = s.lifeStore := by unfold State.setTeam; split <;> rfl
@[simp] theorem State.updTeam_lifeStore (s : State) (tid : Nat) (f : Team → Team) : (s.updTeam tid f).lifeStore = s.lifeStore := by
  unfold State.updTeam; split
  · exact State.setTeam_lifeStore _ _
  · rfl
@[simp] theorem State.updGroup_lifeStore (s : State) (tid gi : Nat) (f : Group → Group) : (s.updGroup tid gi f).lifeStore = s.lifeStore :=
  State.updTeam_lifeStore _ _ _
@[simp] theorem State.setTeam_phealth (s : State) (t : Team) : (s.setTeam t).phealth = s.phealth := by unfold State.setTeam; split <;> rfl
@[simp] theorem State.updTeam_phealth (s : State) (tid : Nat) (f : Team → Team) : (s.updTeam tid f).phealth = s.phealth := by
  unfold State.updTeam; split
  · exact State.setTeam_phealth _ _
  · rfl
@[simp] theorem State.updGroup_phealth (s : State) (tid gi : Nat) (f : Group → Group) : (s.updGroup tid gi f).phealth = s.phealth :=
  State.updTeam_phealth _ _ _
@[simp] theorem State.setTeam_gates (s : State) (t : Team) : (s.setTeam t).gates = s.gates := by unfold State.setTeam; split <;> rfl
@[simp] theorem State.updTeam_gates (s : State) (tid : Nat) (f : Team → Team) : (s.updTeam tid f).gates = s.gates := by
  unfold State.updTeam; split
  · exact State.setTeam_gates _ _
  · rfl
@[simp] theorem State.updGroup_gates (s : State) (tid gi : Nat) (f : Group → Group) : (s.updGroup tid gi f).gates = s.gates :=
  State.updTeam_gates _ _ _
@[simp] theorem State.setTeam_windowEnd (s : State) (t : Team) : (s.setTeam t).windowEnd = s.windowEnd := by unfold State.setTeam; split <;> rfl
@[simp] theorem State.updTeam_windowEnd (s : State) (tid : Nat) (f : Team → Team) : (s.updTeam tid f).windowEnd = s.windowEnd := by
  unfold State.updTeam; split
  · exact State.setTeam_windowEnd _ _
  · rfl
@[simp] theorem State.updGroup_windowEnd (s : State) (tid gi : Nat) (f : Group → Group) : (s.updGroup tid gi f).windowEnd = s.windowEnd :=
  State.updTeam_windowEnd _ _ _
@[simp] theorem State.setTeam_admitEnd (s : State) (t : Team) : (s.setTeam t).admitEnd = s.admitEnd := by unfold State.setTeam; split <;> rfl
@[simp] theorem State.updTeam_admitEnd (s : State) (tid : Nat) (f : Team → Team) : (s.updTeam tid f).admitEnd = s.admitEnd := by
  unfold State.updTeam; split
  · exact State.setTeam_admitEnd _ _
  · rfl
@[simp] theorem State.updGroup_admitEnd (s : State) (tid gi : Nat) (f : Group → Group) : (s.updGroup tid gi f).admitEnd = s.admitEnd :=
  State.updTeam_admitEnd _ _ _
@[simp] theorem State.setTeam_fns (s : State) (t : Team) : (s.setTeam t).fns = s.fns := by unfold State.setTeam; split <;> rfl
@[simp] theorem State.updTeam_fns (s : State) (tid : Nat) (f : Team → Team) : (s.updTeam tid f).fns = s.fns := by
  unfold State.updTeam; split
  · exact State.setTeam_fns _ _
  · rfl
@[simp] theorem State.updGroup_fns (s : State) (tid gi : Nat) (f : Group → Group) : (s.updGroup tid gi f).fns = s.fns :=
  State.updTeam_fns _ _ _
@[simp] theorem State.setTeam_mem (s : State) (t : Team) : (s.setTeam t).mem = s.mem := by unfold State.setTeam; split <;> rfl
@[simp] theorem State.updTeam_mem (s : State) (tid : Nat) (f : Team → Team) : (s.updTeam tid f).mem = s.mem := by
  unfold State.updTeam; split
  · exact State.setTeam_mem _ _
  · rfl
@[simp] theorem State.updGroup_mem (s : State) (tid gi : Nat) (f : Group → Group) : (s.updGroup tid gi f).mem = s.mem :=
  State.updTeam_mem _ _ _
@[simp] theorem State.setTeam_sectors (s : State) (t : Team) : (s.setTeam t).sectors = s.sectors := by unfold State.setTeam; split <;> rfl
@[simp] theorem State.updTeam_sectors (s : State) (tid : Nat) (f : Team → Team) : (s.updTeam tid f).sectors = s.sectors := by
  unfold State.updTeam; split
  · exact State.setTeam_sectors _ _
  · rfl
@[simp] theorem State.updGroup_sectors (s : State) (tid gi : Nat) (f : Group → Group) : (s.updGroup tid gi f).sectors = s.sectors :=
  State.updTeam_sectors _ _ _
@[simp] theorem State.setTeam_dirty (s : State) (t : Team) : (s.setTeam t).dirty = s.dirty := by unfold State.setTeam; split <;> rfl
@[simp] theorem State.updTeam_dirty (s : State) (tid : Nat) (f : Team → Team) : (s.updTeam tid f).dirty = s.dirty := by
  unfold State.updTeam; split
  · exact State.setTeam_dirty _ _
  · rfl
@[simp] theorem State.updGroup_dirty (s : State) (tid gi : Nat) (f : Group → Group) : (s.updGroup tid gi f).dirty = s.dirty :=
  State.updTeam_dirty _ _ _
@[simp] theorem State.setTeam_l1 (s : State) (t : Team) : (s.setTeam t).l1 = s.l1 := by unfold State.setTeam; split <;> rfl
@[simp] theorem State.updTeam_l1 (s : State) (tid : Nat) (f : Team → Team) : (s.updTeam tid f).l1 = s.l1 := by
  unfold State.updTeam; split
  · exact State.setTeam_l1 _ _
  · rfl
@[simp] theorem State.updGroup_l1 (s : State) (tid gi : Nat) (f : Group → Group) : (s.updGroup tid gi f).l1 = s.l1 :=
  State.updTeam_l1 _ _ _
@[simp] theorem State.setTeam_panels (s : State) (t : Team) : (s.setTeam t).panels = s.panels := by unfold State.setTeam; split <;> rfl
@[simp] theorem State.updTeam_panels (s : State) (tid : Nat) (f : Team → Team) : (s.updTeam tid f).panels = s.panels := by
  unfold State.updTeam; split
  · exact State.setTeam_panels _ _
  · rfl
@[simp] theorem State.updGroup_panels (s : State) (tid gi : Nat) (f : Group → Group) : (s.updGroup tid gi f).panels = s.panels :=
  State.updTeam_panels _ _ _
@[simp] theorem State.setTeam_parts (s : State) (t : Team) : (s.setTeam t).parts = s.parts := by unfold State.setTeam; split <;> rfl
@[simp] theorem State.updTeam_parts (s : State) (tid : Nat) (f : Team → Team) : (s.updTeam tid f).parts = s.parts := by
  unfold State.updTeam; split
  · exact State.setTeam_parts _ _
  · rfl
@[simp] theorem State.updGroup_parts (s : State) (tid gi : Nat) (f : Group → Group) : (s.updGroup tid gi f).parts = s.parts :=
  State.updTeam_parts _ _ _
@[simp] theorem State.setTeam_keys (s : State) (t : Team) : (s.setTeam t).keys = s.keys := by unfold State.setTeam; split <;> rfl
@[simp] theorem State.updTeam_keys (s : State) (tid : Nat) (f : Team → Team) : (s.updTeam tid f).keys = s.keys := by
  unfold State.updTeam; split
  · exact State.setTeam_keys _ _
  · rfl
@[simp] theorem State.updGroup_keys (s : State) (tid gi : Nat) (f : Group → Group) : (s.updGroup tid gi f).keys = s.keys :=
  State.updTeam_keys _ _ _
@[simp] theorem State.setTeam_nextKey (s : State) (t : Team) : (s.setTeam t).nextKey = s.nextKey := by unfold State.setTeam; split <;> rfl
@[simp] theorem State.updTeam_nextKey (s : State) (tid : Nat) (f : Team → Team) : (s.updTeam tid f).nextKey = s.nextKey := by
  unfold State.updTeam; split
  · exact State.setTeam_nextKey _ _
  · rfl
@[simp] theorem State.updGroup_nextKey (s : State) (tid gi : Nat) (f : Group → Group) : (s.updGroup tid gi f).nextKey = s.nextKey :=
  State.updTeam_nextKey _ _ _
@[simp] theorem State.setTeam_code (s : State) (t : Team) : (s.setTeam t).code = s.code := by unfold State.setTeam; split <;> rfl
@[simp] theorem State.updTeam_code (s : State) (tid : Nat) (f : Team → Team) : (s.updTeam tid f).code = s.code := by
  unfold State.updTeam; split
  · exact State.setTeam_code _ _
  · rfl
@[simp] theorem State.updGroup_code (s : State) (tid gi : Nat) (f : Group → Group) : (s.updGroup tid gi f).code = s.code :=
  State.updTeam_code _ _ _
@[simp] theorem State.setTeam_ctlMem (s : State) (t : Team) : (s.setTeam t).ctlMem = s.ctlMem := by unfold State.setTeam; split <;> rfl
@[simp] theorem State.updTeam_ctlMem (s : State) (tid : Nat) (f : Team → Team) : (s.updTeam tid f).ctlMem = s.ctlMem := by
  unfold State.updTeam; split
  · exact State.setTeam_ctlMem _ _
  · rfl
@[simp] theorem State.updGroup_ctlMem (s : State) (tid gi : Nat) (f : Group → Group) : (s.updGroup tid gi f).ctlMem = s.ctlMem :=
  State.updTeam_ctlMem _ _ _
@[simp] theorem State.setTeam_ctlImage (s : State) (t : Team) : (s.setTeam t).ctlImage = s.ctlImage := by unfold State.setTeam; split <;> rfl
@[simp] theorem State.updTeam_ctlImage (s : State) (tid : Nat) (f : Team → Team) : (s.updTeam tid f).ctlImage = s.ctlImage := by
  unfold State.updTeam; split
  · exact State.setTeam_ctlImage _ _
  · rfl
@[simp] theorem State.updGroup_ctlImage (s : State) (tid gi : Nat) (f : Group → Group) : (s.updGroup tid gi f).ctlImage = s.ctlImage :=
  State.updTeam_ctlImage _ _ _
@[simp] theorem State.setTeam_ctlCnt (s : State) (t : Team) : (s.setTeam t).ctlCnt = s.ctlCnt := by unfold State.setTeam; split <;> rfl
@[simp] theorem State.updTeam_ctlCnt (s : State) (tid : Nat) (f : Team → Team) : (s.updTeam tid f).ctlCnt = s.ctlCnt := by
  unfold State.updTeam; split
  · exact State.setTeam_ctlCnt _ _
  · rfl
@[simp] theorem State.updGroup_ctlCnt (s : State) (tid gi : Nat) (f : Group → Group) : (s.updGroup tid gi f).ctlCnt = s.ctlCnt :=
  State.updTeam_ctlCnt _ _ _
@[simp] theorem State.setTeam_ctlPoison (s : State) (t : Team) : (s.setTeam t).ctlPoison = s.ctlPoison := by unfold State.setTeam; split <;> rfl
@[simp] theorem State.updTeam_ctlPoison (s : State) (tid : Nat) (f : Team → Team) : (s.updTeam tid f).ctlPoison = s.ctlPoison := by
  unfold State.updTeam; split
  · exact State.setTeam_ctlPoison _ _
  · rfl
@[simp] theorem State.updGroup_ctlPoison (s : State) (tid gi : Nat) (f : Group → Group) : (s.updGroup tid gi f).ctlPoison = s.ctlPoison :=
  State.updTeam_ctlPoison _ _ _
@[simp] theorem State.setTeam_ctlCause (s : State) (t : Team) : (s.setTeam t).ctlCause = s.ctlCause := by unfold State.setTeam; split <;> rfl
@[simp] theorem State.updTeam_ctlCause (s : State) (tid : Nat) (f : Team → Team) : (s.updTeam tid f).ctlCause = s.ctlCause := by
  unfold State.updTeam; split
  · exact State.setTeam_ctlCause _ _
  · rfl
@[simp] theorem State.updGroup_ctlCause (s : State) (tid gi : Nat) (f : Group → Group) : (s.updGroup tid gi f).ctlCause = s.ctlCause :=
  State.updTeam_ctlCause _ _ _
@[simp] theorem State.setTeam_ctlPc (s : State) (t : Team) : (s.setTeam t).ctlPc = s.ctlPc := by unfold State.setTeam; split <;> rfl
@[simp] theorem State.updTeam_ctlPc (s : State) (tid : Nat) (f : Team → Team) : (s.updTeam tid f).ctlPc = s.ctlPc := by
  unfold State.updTeam; split
  · exact State.setTeam_ctlPc _ _
  · rfl
@[simp] theorem State.updGroup_ctlPc (s : State) (tid gi : Nat) (f : Group → Group) : (s.updGroup tid gi f).ctlPc = s.ctlPc :=
  State.updTeam_ctlPc _ _ _
@[simp] theorem State.setTeam_disp (s : State) (t : Team) : (s.setTeam t).disp = s.disp := by unfold State.setTeam; split <;> rfl
@[simp] theorem State.updTeam_disp (s : State) (tid : Nat) (f : Team → Team) : (s.updTeam tid f).disp = s.disp := by
  unfold State.updTeam; split
  · exact State.setTeam_disp _ _
  · rfl
@[simp] theorem State.updGroup_disp (s : State) (tid gi : Nat) (f : Group → Group) : (s.updGroup tid gi f).disp = s.disp :=
  State.updTeam_disp _ _ _
@[simp] theorem State.setTeam_ports (s : State) (t : Team) : (s.setTeam t).ports = s.ports := by unfold State.setTeam; split <;> rfl
@[simp] theorem State.updTeam_ports (s : State) (tid : Nat) (f : Team → Team) : (s.updTeam tid f).ports = s.ports := by
  unfold State.updTeam; split
  · exact State.setTeam_ports _ _
  · rfl
@[simp] theorem State.updGroup_ports (s : State) (tid gi : Nat) (f : Group → Group) : (s.updGroup tid gi f).ports = s.ports :=
  State.updTeam_ports _ _ _
@[simp] theorem State.setTeam_attRej (s : State) (t : Team) : (s.setTeam t).attRej = s.attRej := by unfold State.setTeam; split <;> rfl
@[simp] theorem State.updTeam_attRej (s : State) (tid : Nat) (f : Team → Team) : (s.updTeam tid f).attRej = s.attRej := by
  unfold State.updTeam; split
  · exact State.setTeam_attRej _ _
  · rfl
@[simp] theorem State.updGroup_attRej (s : State) (tid gi : Nat) (f : Group → Group) : (s.updGroup tid gi f).attRej = s.attRej :=
  State.updTeam_attRej _ _ _
@[simp] theorem State.setTeam_wordRej (s : State) (t : Team) : (s.setTeam t).wordRej = s.wordRej := by unfold State.setTeam; split <;> rfl
@[simp] theorem State.updTeam_wordRej (s : State) (tid : Nat) (f : Team → Team) : (s.updTeam tid f).wordRej = s.wordRej := by
  unfold State.updTeam; split
  · exact State.setTeam_wordRej _ _
  · rfl
@[simp] theorem State.updGroup_wordRej (s : State) (tid gi : Nat) (f : Group → Group) : (s.updGroup tid gi f).wordRej = s.wordRej :=
  State.updTeam_wordRej _ _ _
@[simp] theorem State.setTeam_cams (s : State) (t : Team) : (s.setTeam t).cams = s.cams := by unfold State.setTeam; split <;> rfl
@[simp] theorem State.updTeam_cams (s : State) (tid : Nat) (f : Team → Team) : (s.updTeam tid f).cams = s.cams := by
  unfold State.updTeam; split
  · exact State.setTeam_cams _ _
  · rfl
@[simp] theorem State.updGroup_cams (s : State) (tid gi : Nat) (f : Group → Group) : (s.updGroup tid gi f).cams = s.cams :=
  State.updTeam_cams _ _ _
@[simp] theorem State.setTeam_fw (s : State) (t : Team) : (s.setTeam t).fw = s.fw := by unfold State.setTeam; split <;> rfl
@[simp] theorem State.updTeam_fw (s : State) (tid : Nat) (f : Team → Team) : (s.updTeam tid f).fw = s.fw := by
  unfold State.updTeam; split
  · exact State.setTeam_fw _ _
  · rfl
@[simp] theorem State.updGroup_fw (s : State) (tid gi : Nat) (f : Group → Group) : (s.updGroup tid gi f).fw = s.fw :=
  State.updTeam_fw _ _ _
@[simp] theorem State.setTeam_reqs (s : State) (t : Team) : (s.setTeam t).reqs = s.reqs := by unfold State.setTeam; split <;> rfl
@[simp] theorem State.updTeam_reqs (s : State) (tid : Nat) (f : Team → Team) : (s.updTeam tid f).reqs = s.reqs := by
  unfold State.updTeam; split
  · exact State.setTeam_reqs _ _
  · rfl
@[simp] theorem State.updGroup_reqs (s : State) (tid gi : Nat) (f : Group → Group) : (s.updGroup tid gi f).reqs = s.reqs :=
  State.updTeam_reqs _ _ _
@[simp] theorem State.setTeam_msNext (s : State) (t : Team) : (s.setTeam t).msNext = s.msNext := by unfold State.setTeam; split <;> rfl
@[simp] theorem State.updTeam_msNext (s : State) (tid : Nat) (f : Team → Team) : (s.updTeam tid f).msNext = s.msNext := by
  unfold State.updTeam; split
  · exact State.setTeam_msNext _ _
  · rfl
@[simp] theorem State.updGroup_msNext (s : State) (tid gi : Nat) (f : Group → Group) : (s.updGroup tid gi f).msNext = s.msNext :=
  State.updTeam_msNext _ _ _
@[simp] theorem State.setTeam_secNext (s : State) (t : Team) : (s.setTeam t).secNext = s.secNext := by unfold State.setTeam; split <;> rfl
@[simp] theorem State.updTeam_secNext (s : State) (tid : Nat) (f : Team → Team) : (s.updTeam tid f).secNext = s.secNext := by
  unfold State.updTeam; split
  · exact State.setTeam_secNext _ _
  · rfl
@[simp] theorem State.updGroup_secNext (s : State) (tid gi : Nat) (f : Group → Group) : (s.updGroup tid gi f).secNext = s.secNext :=
  State.updTeam_secNext _ _ _
@[simp] theorem State.setTeam_opSecs (s : State) (t : Team) : (s.setTeam t).opSecs = s.opSecs := by unfold State.setTeam; split <;> rfl
@[simp] theorem State.updTeam_opSecs (s : State) (tid : Nat) (f : Team → Team) : (s.updTeam tid f).opSecs = s.opSecs := by
  unfold State.updTeam; split
  · exact State.setTeam_opSecs _ _
  · rfl
@[simp] theorem State.updGroup_opSecs (s : State) (tid gi : Nat) (f : Group → Group) : (s.updGroup tid gi f).opSecs = s.opSecs :=
  State.updTeam_opSecs _ _ _
@[simp] theorem State.setTeam_late (s : State) (t : Team) : (s.setTeam t).late = s.late := by unfold State.setTeam; split <;> rfl
@[simp] theorem State.updTeam_late (s : State) (tid : Nat) (f : Team → Team) : (s.updTeam tid f).late = s.late := by
  unfold State.updTeam; split
  · exact State.setTeam_late _ _
  · rfl
@[simp] theorem State.updGroup_late (s : State) (tid gi : Nat) (f : Group → Group) : (s.updGroup tid gi f).late = s.late :=
  State.updTeam_late _ _ _
@[simp] theorem State.setTeam_polls (s : State) (t : Team) : (s.setTeam t).polls = s.polls := by unfold State.setTeam; split <;> rfl
@[simp] theorem State.updTeam_polls (s : State) (tid : Nat) (f : Team → Team) : (s.updTeam tid f).polls = s.polls := by
  unfold State.updTeam; split
  · exact State.setTeam_polls _ _
  · rfl
@[simp] theorem State.updGroup_polls (s : State) (tid gi : Nat) (f : Group → Group) : (s.updGroup tid gi f).polls = s.polls :=
  State.updTeam_polls _ _ _
@[simp] theorem State.setTeam_scrubEnd (s : State) (t : Team) : (s.setTeam t).scrubEnd = s.scrubEnd := by unfold State.setTeam; split <;> rfl
@[simp] theorem State.updTeam_scrubEnd (s : State) (tid : Nat) (f : Team → Team) : (s.updTeam tid f).scrubEnd = s.scrubEnd := by
  unfold State.updTeam; split
  · exact State.setTeam_scrubEnd _ _
  · rfl
@[simp] theorem State.updGroup_scrubEnd (s : State) (tid gi : Nat) (f : Group → Group) : (s.updGroup tid gi f).scrubEnd = s.scrubEnd :=
  State.updTeam_scrubEnd _ _ _
@[simp] theorem State.setTeam_time (s : State) (t : Team) : (s.setTeam t).time = s.time := by unfold State.setTeam; split <;> rfl
@[simp] theorem State.updTeam_time (s : State) (tid : Nat) (f : Team → Team) : (s.updTeam tid f).time = s.time := by
  unfold State.updTeam; split
  · exact State.setTeam_time _ _
  · rfl
@[simp] theorem State.updGroup_time (s : State) (tid gi : Nat) (f : Group → Group) : (s.updGroup tid gi f).time = s.time :=
  State.updTeam_time _ _ _

/-! ## A group of a team, a thread of a group -/

@[simp] theorem Team.updGroup_tid (t : Team) (gi : Nat) (f : Group → Group) : (t.updGroup gi f).tid = t.tid := rfl
@[simp] theorem Team.updGroup_ctx (t : Team) (gi : Nat) (f : Group → Group) : (t.updGroup gi f).ctx = t.ctx := rfl
@[simp] theorem Team.updGroup_level (t : Team) (gi : Nat) (f : Group → Group) : (t.updGroup gi f).level = t.level := rfl
@[simp] theorem Team.updGroup_st (t : Team) (gi : Nat) (f : Group → Group) : (t.updGroup gi f).st = t.st := rfl
@[simp] theorem Team.updGroup_core (t : Team) (gi : Nat) (f : Group → Group) : (t.updGroup gi f).core = t.core := rfl
@[simp] theorem Team.updGroup_quad (t : Team) (gi : Nat) (f : Group → Group) : (t.updGroup gi f).quad = t.quad := rfl
@[simp] theorem Team.updGroup_insts (t : Team) (gi : Nat) (f : Group → Group) : (t.updGroup gi f).insts = t.insts := rfl
@[simp] theorem Team.updGroup_regroup (t : Team) (gi : Nat) (f : Group → Group) : (t.updGroup gi f).regroup = t.regroup := rfl
@[simp] theorem Team.updGroup_ifr (t : Team) (gi : Nat) (f : Group → Group) : (t.updGroup gi f).ifr = t.ifr := rfl
@[simp] theorem Team.updGroup_seq (t : Team) (gi : Nat) (f : Group → Group) : (t.updGroup gi f).seq = t.seq := rfl
@[simp] theorem Team.updGroup_lid (t : Team) (gi : Nat) (f : Group → Group) : (t.updGroup gi f).lid = t.lid := rfl
@[simp] theorem Team.updGroup_cls (t : Team) (gi : Nat) (f : Group → Group) : (t.updGroup gi f).cls = t.cls := rfl
@[simp] theorem Team.updGroup_pal (t : Team) (gi : Nat) (f : Group → Group) : (t.updGroup gi f).pal = t.pal := rfl
@[simp] theorem Team.updGroup_palBad (t : Team) (gi : Nat) (f : Group → Group) : (t.updGroup gi f).palBad = t.palBad := rfl
@[simp] theorem Team.updGroup_palPend (t : Team) (gi : Nat) (f : Group → Group) : (t.updGroup gi f).palPend = t.palPend := rfl
@[simp] theorem Team.updGroup_barriers (t : Team) (gi : Nat) (f : Group → Group) : (t.updGroup gi f).barriers = t.barriers := rfl
@[simp] theorem Team.updGroup_handles (t : Team) (gi : Nat) (f : Group → Group) : (t.updGroup gi f).handles = t.handles := rfl
@[simp] theorem Team.updGroup_templates (t : Team) (gi : Nat) (f : Group → Group) : (t.updGroup gi f).templates = t.templates := rfl
@[simp] theorem Team.updGroup_asked (t : Team) (gi : Nat) (f : Group → Group) : (t.updGroup gi f).asked = t.asked := rfl
@[simp] theorem Team.updGroup_stopping (t : Team) (gi : Nat) (f : Group → Group) : (t.updGroup gi f).stopping = t.stopping := rfl
@[simp] theorem Team.updGroup_frozen (t : Team) (gi : Nat) (f : Group → Group) : (t.updGroup gi f).frozen = t.frozen := rfl
@[simp] theorem Team.updGroup_rp (t : Team) (gi : Nat) (f : Group → Group) : (t.updGroup gi f).rp = t.rp := rfl
@[simp] theorem Team.updGroup_moved (t : Team) (gi : Nat) (f : Group → Group) : (t.updGroup gi f).moved = t.moved := rfl
@[simp] theorem Team.updGroup_fetches (t : Team) (gi : Nat) (f : Group → Group) : (t.updGroup gi f).fetches = t.fetches := rfl
@[simp] theorem Team.updGroup_replay (t : Team) (gi : Nat) (f : Group → Group) : (t.updGroup gi f).replay = t.replay := rfl
@[simp] theorem Group.updThread_gregs (g : Group) (l : Nat) (f : Thread → Thread) : (g.updThread l f).gregs = g.gregs := rfl
@[simp] theorem Group.updThread_flags (g : Group) (l : Nat) (f : Thread → Thread) : (g.updThread l f).flags = g.flags := rfl
@[simp] theorem Group.updThread_fctl (g : Group) (l : Nat) (f : Thread → Thread) : (g.updThread l f).fctl = g.fctl := rfl
@[simp] theorem Group.updThread_allot (g : Group) (l : Nat) (f : Thread → Thread) : (g.updThread l f).allot = g.allot := rfl
@[simp] theorem Group.updThread_role (g : Group) (l : Nat) (f : Thread → Thread) : (g.updThread l f).role = g.role := rfl
@[simp] theorem Group.updThread_entries (g : Group) (l : Nat) (f : Thread → Thread) : (g.updThread l f).entries = g.entries := rfl
@[simp] theorem Group.updThread_insts (g : Group) (l : Nat) (f : Thread → Thread) : (g.updThread l f).insts = g.insts := rfl
@[simp] theorem Group.updThread_pipe (g : Group) (l : Nat) (f : Thread → Thread) : (g.updThread l f).pipe = g.pipe := rfl
@[simp] theorem Group.updThread_served (g : Group) (l : Nat) (f : Thread → Thread) : (g.updThread l f).served = g.served := rfl

end Sys2Proof.Machine
end

