-- ==== Sys2Proof/Tests/Slice0.lean ====
section
/-! SUPPORT. The row's own tests: for every statement a witness that its hypotheses can be met together, the terms the well-formedness
check refuses, words of the spec decoded, and single instructions with results worked out by hand. -/

set_option Elab.async false -- one theorem at a time: the kernel evaluations of many at once need a thread each
open Sys2Proof Sys2Proof.Machine
namespace Sys2Proof.Tests

def always : Guard := Guard.always
def vr (n : Nat) : Reg := ⟨false, false, .v, BitVec.ofNat 7 n⟩
def gr (n : Nat) : Reg := ⟨false, false, .g, BitVec.ofNat 7 n⟩
/-- A Full register. -/
def full (v : Nat) : Slot := ⟨BitVec.ofNat 32 v, .full, false, false⟩

/-- A group of `n` live threads with `a` registers each, all at PC 0x1000 with priority 5. -/
def crew (n a : Nat) : Group :=
  { lanes := List.replicate n (Thread.initial a), gregs := List.replicate 64 Slot.zero, flags := 0, fctl := 0, allot := a, role := 0
    entries := [Entry.at 0x1000 5 (BitVec.ofNat 32 (2 ^ n - 1)) false], insts := [], pipe := none, served := 0 }

/-- Team 1 of context 0x31, Resident on quad 0 of core 0, with a palette of 4,096 bytes. -/
def squad (g : Group) : Team :=
  { Team.controller with
    tid := 1, ctx := 0x31, lid := 1, groups := [g], palSize := 4096, handles := List.replicate 32 ⟨.free, 0, 0, 0, false, false⟩ }

/-- Context 0x31 of partition 0: a handler at 0x4000, one range of 64 KiB at 0x400000 over DIA 0x20000. -/
def owner : Ctx :=
  { part := 0, desc := [0x0000003180100000, 0x10000, 0x1000, 0x100000, 0x0000010000000001, 0x4000, 0, 0, 0, 0, 0, 0, 0, 0, 0, 0]
    held := false, rr := [⟨0x400, 0x40F, 0x20000, 0, 0, false, false, false, true, true, true⟩], wear := 0, ringRead := 0, ringReset := false
    armed := false, ckDone := false, rolled := false, istart := 0, ckpt := false, ckTeams := [], ckLaunches := [], ckRead := 0, ckParked := [], ckPosts := []
    ckRasters := [] }

/-- Partition 0 of one panel, with its key, its first 64 pages and context 0x31. -/
def ground : State :=
  { State.reset with
    parts := [Partition.formed 0 1 64], keys := [⟨0, 1, 0, 0⟩], nextKey := 2, ctxs := [owner]
    panels := { Panel.initial 0 with ptlen := 64, ptes := (List.range 64).map fun k => (k, BitVec.ofNat 64 (2 ^ 63 + (k + 1) * 65536)) } ::
      (List.range 11).map fun k => Panel.initial (k + 1) }

/-- The ground with team 1 of one group, whose one entry issues. -/
def field (g : Group) : State := { ground with teams := [squad g], cur := some ⟨1, 0, 0⟩ }

/-- The ground with the studio controller's thread at PC 0x100 of its image. -/
def office (g : Group) : State :=
  { ground with ctl := { Team.controller with groups := [{ g with entries := [Entry.at 0x100 0 1 false] }] }, ctlImage := 4096, cur := some ⟨0, 0, 0⟩ }

/-- The thread of team 1's group in an outcome. -/
def after (r : Host.Outcome State Fault Refusal) (l : Nat) : Option Thread :=
  match r with
  | .next s => (s.team? 1).map fun t => (t.group 0).thread l
  | _ => none

/-- A group of one thread whose registers hold the values given. -/
def holding (vs : List Nat) : Group := { crew 1 vs.length with lanes := [{ Thread.initial vs.length with regs := vs.map full }] }

/-- What register `k` of thread 0 holds after an instruction of a thread whose registers held `vs`. -/
def gives (i : Instr) (vs : List Nat) (k : Nat) : Option (BitVec 32) := (after (exec i (field (holding vs))) 0).map fun t => (t.slot k).val

/-! ## Witnesses: each takes a statement and applies it at a concrete state, so that its proof meets every hypothesis there -/

/-- An instruction completes in a state. -/
def Goes (i : Instr) (s : State) : Prop := ∃ s', exec i s = .next s'

theorem goes_of {i : Instr} {s : State} {p : State → Prop} (h : ∃ s', exec i s = .next s' ∧ p s') : Goes i s :=
  have ⟨s', a, _⟩ := h; ⟨s', a⟩

theorem goes_of2 {α : Type} {i : Instr} {s : State} {p : State → α → Prop} (h : ∃ s' x, exec i s = .next s' ∧ p s' x) : Goes i s :=
  have ⟨s', _, a, _⟩ := h; ⟨s', a⟩

theorem on0 {p : Nat → Prop} (h : p 0) : ∀ l ∈ [0], p l := by simpa using h

theorem no_src {g : Group} {l : Nat} : ∀ x ∈ ([] : List (Reg × Nat)), g.has l x.1 x.2 := by simp

theorem src1 {p : Reg × Nat → Prop} {x : Reg × Nat} (h : p x) : ∀ y ∈ [x], p y := by simpa using h

theorem src2 {p : Reg × Nat → Prop} {x y : Reg × Nat} (h : p x) (k : p y) : ∀ z ∈ [x, y], p z := by
  simpa using ⟨h, k⟩

theorem src3 {p : Reg × Nat → Prop} {x y z : Reg × Nat} (h : p x) (k : p y) (j : p z) : ∀ w ∈ [x, y, z], p w := by
  simpa using ⟨h, k, j⟩

/-- The one entry of a group issues. -/
theorem issues_alone {s : State} {c : Cur} {t : Team} {g : Group} {e : Entry} (hi : s.issuing = some (c, t, g, e)) (ht : t.tid = c.tid)
    (hm : e.mask ≠ 0) (hg : g.entries = [e]) : s.issues c t g e := ⟨hi, ht, hm, by simp [hg]⟩

/-- The group of one thread issues. -/
theorem issues_holding (vs : List Nat) :
    (field (holding vs)).issues ⟨1, 0, 0⟩ (squad (holding vs)) (holding vs) (Entry.at 0x1000 5 1 false) :=
  issues_alone rfl rfl (show (1 : BitVec 32) ≠ 0 by decide) rfl

theorem goes_lanewise {s : State} {i : Instr} {gd : Guard} {ready : Group → Entry → Nat → Prop}
    {pl : Group → Entry → Nat → BitVec 64 × BitVec 8} {eff : Group → Entry → Group → Nat → Group} {c : Cur} {t : Team} {g : Group}
    {e : Entry} (h : s.lanewise i gd ready pl eff) (hi : s.issues c t g e) (hr : ∀ l ∈ actLanes g e gd, ready g e l) : Goes i s :=
  goes_of (h c t g e hi hr)

def one : State := field (holding [0, 1, 2, 3])

theorem admitted_one (f : LaneForm) : f.admitted one := fun _ c t g e hi => by
  obtain ⟨hi, -⟩ := hi; cases hi; rfl

theorem witness_IntegerArithmetic (h : Obligations.IntegerArithmetic) : Goes (.imad always (vr 0) (vr 1) (vr 2) (vr 3) 1) one :=
  have k := h (.imad always (vr 0) (vr 1) (vr 2) (vr 3) 1) _ _ rfl one (admitted_one _)
  goes_lanewise k (issues_holding _) (on0 ⟨src3 ⟨_, rfl⟩ ⟨_, rfl⟩ ⟨_, rfl⟩, ⟨_, rfl⟩, .inl rfl⟩)

theorem witness_LogicAndMoves (h : Obligations.LogicAndMoves) : Goes (.isetp always (vr 1) (vr 2) 2 0 0 1) one :=
  goes_lanewise (h _ _ _ rfl one nofun) (issues_holding _)
    (on0 ⟨src2 ⟨_, rfl⟩ ⟨_, rfl⟩, ⟨_, rfl⟩, .inr (src2 ⟨⟨_, rfl⟩, rfl⟩ ⟨⟨_, rfl⟩, rfl⟩)⟩)

theorem witness_FloatingPoint (h : Obligations.FloatingPoint) : Goes (.fadd always (vr 0) (vr 1) (vr 2) 0) one :=
  goes_lanewise (h _ _ _ rfl one nofun) (issues_holding _)
    (on0 ⟨⟨src2 ⟨_, rfl⟩ ⟨_, rfl⟩, ⟨_, rfl⟩, .inl rfl⟩, by decide⟩)

theorem witness_QuantizingConversion (h : Obligations.QuantizingConversion) :
    Goes (.qcvt always (vr 0) (vr 0) (vr 1) 0 4) (field (holding [0x3F800000, 127, 0, 0])) :=
  goes_lanewise (h _ _ _ _ _ _ _) (issues_holding _) (on0 ⟨⟨_, rfl⟩, ⟨_, rfl⟩, ⟨_, rfl⟩, by decide⟩)

theorem witness_SelectsAndPredicates (h : Obligations.SelectsAndPredicates) :
    Goes (.sel always (vr 0) (vr 1) (vr 2) 0 0 1) one ∧ Goes (.plop always 3 1 2 7) one ∧ Goes (.p2v always (vr 0)) one ∧
    Goes (.v2p always (vr 0) 0x7F) one ∧ Goes (.v2p always (vr 0) 0) one ∧ Goes (.movg always (gr 3) (vr 1) 1 0) one ∧
    Goes (.movg always (gr 3) (vr 1) 0 31) one :=
  have hi := issues_holding [0, 1, 2, 3]
  ⟨goes_lanewise ((h.1 one).1 _ _ _ _ _ _ _) hi (on0 ⟨⟨_, rfl⟩, ⟨_, rfl⟩, ⟨_, rfl⟩⟩),
   goes_lanewise ((h.1 one).2.1 _ _ _ _ _) hi (on0 trivial),
   goes_lanewise ((h.1 one).2.2.1 _ _) hi (on0 ⟨_, rfl⟩),
   goes_lanewise ((h.1 one).2.2.2 _ _ _) hi (on0 ⟨⟨_, rfl⟩, .inr ⟨⟨_, rfl⟩, rfl⟩⟩),
   goes_lanewise ((h.1 one).2.2.2 _ _ _) hi (on0 ⟨⟨_, rfl⟩, .inl rfl⟩),
   goes_lanewise (h.2 one _ _ _ _ _) hi (on0 ⟨⟨_, rfl⟩, fun _ => ⟨_, rfl⟩⟩),
   goes_lanewise (h.2 one _ _ _ _ _) hi (on0 ⟨⟨_, rfl⟩, fun _ => ⟨_, rfl⟩⟩)⟩

theorem witness_WindowIndexAndStates (h : Obligations.WindowIndexAndStates) :
    Goes (.wbase always (vr 8) 1 56) (field (crew 1 64)) ∧ Goes (.wbase always (vr 8) 0 0) (field (crew 1 64)) ∧
    Goes (.ixset always (vr 1) 5) one ∧ Goes (.ixadd always (vr 1) 5) one ∧ Goes (.empty always (vr 0) 2) one ∧
    Goes (.tfull always (vr 1) 2 3) one :=
  have hi := issues_holding [0, 1, 2, 3]
  have hc : (field (crew 1 64)).issues ⟨1, 0, 0⟩ (squad (crew 1 64)) (crew 1 64) (Entry.at 0x1000 5 1 false) := ⟨rfl, rfl, by decide⟩
  ⟨goes_lanewise ((h.1 _).1 _ _ _ _) hc (on0 ⟨⟨⟨_, rfl⟩, rfl⟩, by decide⟩),
   goes_lanewise ((h.1 _).1 _ _ _ _) hc (on0 ⟨⟨⟨_, rfl⟩, rfl⟩, by decide⟩),
   goes_lanewise ((h.1 one).2.1 _ _ _) hi (on0 ⟨⟨_, rfl⟩, rfl⟩), goes_lanewise ((h.1 one).2.2 _ _ _) hi (on0 ⟨⟨_, rfl⟩, rfl⟩),
   goes_lanewise ((h.2 one).1 _ _ _) hi (on0 ⟨_, rfl⟩), goes_lanewise ((h.2 one).2 _ _ _ _) hi (on0 ⟨_, rfl⟩)⟩

/-- Team 1's context has a handler, and its thread is not in it. -/
theorem handled_holding (vs : List Nat) :
    (field (holding vs)).handled ⟨1, 0, 0⟩ (squad (holding vs)) (Entry.at 0x1000 5 1 false) 0x4000 := ⟨by decide, rfl, rfl, by decide⟩

/-- The lanes of its entry are lanes of its group. -/
theorem lanes_holding (vs : List Nat) : ∀ l ∈ lanesOf (Entry.at 0x1000 5 1 false).mask, l < (holding vs).lanes.length :=
  fun l h => (by decide : ∀ l ∈ lanesOf (Entry.at 0x1000 5 1 false).mask, l < 1) l h

/-- The one thread streams into the grid. -/
def streaming : Group := { holding [0, 1, 2, 3] with lanes := [{ Thread.initial 4 with regs := [0, 1, 2, 3].map full, mx := true, aw := 4 }] }

theorem witness_SpecialRegisters (h : Obligations.SpecialRegisters) :
    Goes (.swr always (vr 1) 0x0C) one ∧ Goes (.swr always (vr 0) 0x16) one ∧ Goes (.swr always (vr 1) 0x13) one ∧
    Goes (.swr always (vr 1) 0x0C) (field streaming) ∧ Goes (.srd always (vr 0) 0x07) one ∧ Goes (.srd always (vr 0) 0x1A) one ∧
    Goes (.srd always (vr 0) 0xFFFF) one ∧ Goes (.time always (vr 2)) one :=
  have hi := issues_holding [0, 1, 2, 3]
  have hs : (field streaming).issues ⟨1, 0, 0⟩ (squad streaming) streaming (Entry.at 0x1000 5 1 false) := ⟨rfl, rfl, by decide⟩
  ⟨goes_lanewise ((h one).1 _ _ _ rfl) hi (on0 ⟨⟨⟨_, rfl⟩, rfl⟩, fun _ => rfl⟩),
   goes_lanewise ((h one).1 _ _ _ rfl) hi (on0 ⟨⟨⟨_, rfl⟩, rfl⟩, by decide⟩),
   goes_of (((h one).2.1 _ _ _ _ _ _ _ 0x4000 hi (handled_holding _) (lanes_holding _)).1 rfl),
   goes_of (((h _).2.1 _ _ _ _ _ _ _ 0x4000 hs ⟨by decide, rfl, rfl, by decide⟩ (by decide)).2 rfl (on0 ⟨⟨⟨_, rfl⟩, rfl⟩, rfl⟩)),
   goes_of2 ((h one).2.2.1 _ _ _ _ _ _ _ hi (on0 ⟨_, rfl⟩)), goes_of2 ((h one).2.2.1 _ _ _ _ _ _ _ hi (on0 ⟨_, rfl⟩)),
   goes_of2 ((h one).2.2.1 _ _ _ _ _ _ _ hi (on0 ⟨_, rfl⟩)), goes_lanewise ((h one).2.2.2 _ _) hi (on0 ⟨_, rfl⟩)⟩

theorem witness_Allotment (h : Obligations.Allotment) :
    Goes (.allot always 16 1) (field (crew 1 128)) ∧ Goes (.allot always 8 1) (field (crew 1 128)) ∧
    Goes (.allot always 24 1) (field (crew 1 128)) :=
  have hi : (field (crew 1 128)).issues ⟨1, 0, 0⟩ (squad (crew 1 128)) (crew 1 128) (Entry.at 0x1000 5 1 false) := ⟨rfl, rfl, by decide⟩
  ⟨goes_of (h _ _ _ _ _ _ _ _ hi (by decide)), goes_of (h _ _ _ _ _ _ _ _ hi (by decide)), goes_of (h _ _ _ _ _ _ _ _ hi (by decide))⟩

/-- The one thread in its trap handler. -/
def handling : Group := { holding [0x2000, 0, 2, 3] with entries := [Entry.at 0x1000 5 1 true] }

/-- A member of a team transfers within no image. -/
theorem within_one {p : Prop} : ∀ c, some (⟨1, 0, 0⟩ : Cur) = some c → c.tid = 0 → p := by rintro _ ⟨⟩ ⟨⟩

/-- The controller's image ends at 0x180. -/
def shortOffice : State := { office (holding [0]) with ctlImage := 0x180 }

theorem issues_short : shortOffice.issues ⟨0, 0, 0⟩ shortOffice.ctl (shortOffice.ctl.group 0) (Entry.at 0x100 0 1 false) :=
  ⟨rfl, rfl, by decide⟩

theorem witness_Transfers (h : Obligations.Transfers) :
    let s := field (holding [0x1F00, 0x07000000, 0x1F04, 0])
    Goes (.nop always) s ∧ Goes (.prio always 9) s ∧ Goes (.bra always 4 (-1)) (field { holding [0] with entries := [Entry.at 0x1008 5 1 false] }) ∧
    Goes (.call always 4 511) s ∧ Goes (.brx always (vr 0) 3) s ∧ Goes (.callx always (vr 0) 3) s ∧ Goes (.ret always (vr 0)) s ∧
    Goes (.bra always 4 512) s ∧ Goes (.call always 4 (-513)) s ∧ Goes (.brx always (vr 1) 3) s ∧ Goes (.callx always (vr 1) 3) s ∧
    Goes (.ret always (vr 2)) s ∧ Goes (.bra always 4 0x20) shortOffice :=
  have hi := issues_holding [0x1F00, 0x07000000, 0x1F04, 0]
  have hb : (field { holding [0] with entries := [Entry.at 0x1008 5 1 false] }).issues ⟨1, 0, 0⟩
      (squad { holding [0] with entries := [Entry.at 0x1008 5 1 false] }) { holding [0] with entries := [Entry.at 0x1008 5 1 false] }
      (Entry.at 0x1008 5 1 false) := ⟨rfl, rfl, by decide⟩
  have k := h (field (holding [0x1F00, 0x07000000, 0x1F04, 0]))
  have hh := handled_holding [0x1F00, 0x07000000, 0x1F04, 0]
  have hl := lanes_holding [0x1F00, 0x07000000, 0x1F04, 0]
  ⟨goes_lanewise (k.1 _) hi (on0 trivial), goes_lanewise (k.2.1 _ _) hi (on0 trivial),
   goes_lanewise ((h _).2.2.1 _ _ _) hb (on0 ⟨by decide, by decide, within_one⟩), goes_lanewise (k.2.2.2.1 _ _ _) hi (on0 ⟨by decide, by decide, within_one, ⟨_, rfl⟩⟩),
   goes_lanewise (k.2.2.2.2.1 _ _ _) hi (on0 ⟨⟨⟨_, rfl⟩, rfl⟩, by decide, within_one⟩),
   goes_lanewise (k.2.2.2.2.2.1 _ _ _) hi (on0 ⟨⟨⟨_, rfl⟩, rfl⟩, by decide, within_one, ⟨_, rfl⟩⟩),
   goes_lanewise (k.2.2.2.2.2.2.1 _ _) hi (on0 ⟨⟨⟨_, rfl⟩, rfl⟩, by decide, within_one⟩),
   goes_of (k.2.2.2.2.2.2.2.1 _ _ _ _ _ _ _ _ _ (.inl rfl) hi hh hl (by decide) (by decide)),
   goes_of (k.2.2.2.2.2.2.2.1 _ _ _ _ _ _ _ _ _ (.inr rfl) hi hh hl (by decide) (by decide)),
   goes_of ((k.2.2.2.2.2.2.2.2.1 always (vr 1) 3 _ _ _ _ _ _ (.inl rfl) hi hh hl (on0 ⟨⟨_, rfl⟩, rfl⟩)).1 (on0 (by decide))),
   goes_of ((k.2.2.2.2.2.2.2.2.1 always (vr 1) 3 _ _ _ _ _ _ (.inr (.inl rfl)) hi hh hl (on0 ⟨⟨_, rfl⟩, rfl⟩)).1 (on0 (by decide))),
   goes_of ((k.2.2.2.2.2.2.2.2.1 always (vr 2) 0 _ _ _ _ _ _ (.inr (.inr rfl)) hi hh hl (on0 ⟨⟨_, rfl⟩, rfl⟩)).2 (on0 (by decide))),
   goes_of ((h _).2.2.2.2.2.2.2.2.2 _ _ _ _ _ _ _ _ _ (.inl rfl) issues_short rfl rfl (by decide) (by decide) (by decide) fun k => absurd (k _ rfl rfl) (by decide))⟩

/-- The one thread waits for device time `w`. -/
def asleep (w : Nat) : State :=
  { field { crew 1 16 with lanes := [{ Thread.initial 16 with wakeAt := some (BitVec.ofNat 64 w) }],
                           entries := [{ Entry.at 0x1000 5 1 false with blocked := 1 }] } with time := 100 }

theorem witness_YieldAndWait (h : Obligations.YieldAndWait) :
    Goes (.yield always 3) one ∧ Goes (.yieldExpiry 1 0 0) one ∧ Goes (.waitt always (vr 0)) (field (holding [0, 0])) ∧
    Goes (.waittRelease 1 0 0) (asleep 100) :=
  ⟨goes_of ((h.1 one).1 _ _ _ _ _ _ (issues_holding _)), goes_of ((h.1 one).2 1 0 0 _ _ rfl rfl rfl),
   goes_lanewise ((h.2 _).1 _ _) (issues_holding _) (on0 ⟨⟨⟨_, rfl⟩, rfl⟩, by decide⟩),
   goes_of ((h.2 (asleep 100)).2 1 0 0 _ _ rfl rfl (by decide) rfl (by decide))⟩

theorem witness_Exit (h : Obligations.Exit) : ∃ s' t', exec (.exit always) one = .next s' ∧ s'.team? 1 = some t' ∧
    (t'.group 0).gregs = (holding [0, 1, 2, 3]).gregs :=
  have ⟨s', t', a, b, k⟩ := h one always _ _ _ _ (issues_holding _) (on0 ⟨by decide, rfl⟩) nofun (by decide)
  ⟨s', t', a, b, (k.2.2.2.2.2.2.1 (fun _ hy => nomatch hy) (fun _ hy => nomatch hy)).1⟩

theorem handled_one : one.handled ⟨1, 0, 0⟩ (squad (holding [0, 1, 2, 3])) (Entry.at 0x1000 5 1 false) 0x4000 := handled_holding _

theorem witness_TrapEntry (h : Obligations.TrapEntry) :
    Goes (.trap always (vr 0) 1 5) one ∧ Goes (.illegalOpcode 0xFF) one ∧ Goes .codeAbsent one ∧ (∃ s', illegalEncoding 7 one = .next s') ∧
    Goes (.halt always) one :=
  have k := h _ _ _ _ _ _ (issues_holding _) handled_one (by decide)
  ⟨goes_of (k.1 _ _ _ _ (on0 ⟨⟨_, rfl⟩, rfl⟩)), goes_of (k.2.1 _), goes_of k.2.2.1, have ⟨s', a, _⟩ := k.2.2.2.1 7; ⟨s', a⟩,
   goes_of (k.2.2.2.2 _ rfl)⟩

/-- Invalid operations are enabled; two signalling operands. -/
def strict : Group := { holding [0x7F800001, 0x7F800001, 0, 0] with fctl := 0x1F }

theorem witness_ArithmeticTrap (h : Obligations.ArithmeticTrap) : Goes (.fadd always (vr 2) (vr 0) (vr 1) 0) (field strict) :=
  have k := h (.fadd always (vr 2) (vr 0) (vr 1) 0) _ _ rfl (field strict) nofun
  have hi : (field strict).issues ⟨1, 0, 0⟩ (squad strict) strict (Entry.at 0x1000 5 1 false) := ⟨rfl, rfl, by decide⟩
  goes_of (k _ _ _ _ 0x4000 hi ⟨by decide, rfl, rfl, by decide⟩ (by decide) (on0 ⟨src2 ⟨_, rfl⟩ ⟨_, rfl⟩, ⟨_, rfl⟩, .inl rfl⟩))

/-- A thread whose first register is poisoned, by a tag mismatch or otherwise. -/
def marred (mark : Bool) : Group := { holding [0, 0, 0, 0] with lanes := [{ Thread.initial 4 with regs := [⟨7, .full, true, mark⟩, full 1, full 2, full 3] }] }

theorem witness_FatalTrapsReturnsAndConsumption (h : Obligations.FatalTrapsReturnsAndConsumption) :
    Goes (.trap always (vr 0) 0 5) (field handling) ∧ Goes (.rte always) (field handling) ∧ Goes (.rte always) one ∧
    Goes (.ixset always (vr 0) 5) (field (marred true)) ∧ Goes (.ixset always (vr 0) 5) (field (marred false)) :=
  have hi : (field handling).issues ⟨1, 0, 0⟩ (squad handling) handling (Entry.at 0x1000 5 1 true) := ⟨rfl, rfl, by decide⟩
  have ht (b : Bool) : (field (marred b)).issues ⟨1, 0, 0⟩ (squad (marred b)) (marred b) (Entry.at 0x1000 5 1 false) :=
    issues_alone rfl rfl (show (1 : BitVec 32) ≠ 0 by decide) rfl
  ⟨goes_of2 (h.1 _ _ _ _ _ _ _ _ _ hi (by decide) (.inl rfl) (on0 ⟨⟨⟨_, rfl⟩, rfl⟩, by decide⟩) (by decide)),
   goes_of ((h.2.1 _ always _ _ _ _ hi).1 rfl), goes_of ((h.2.1 one always _ _ _ _ (issues_holding _)).2 _ handled_one (by decide)),
   goes_of ((h.2.2 (.ixset always (vr 0) 5) _ _ _ rfl _ _ _ _ _ (ht true) (by decide) (by decide) (by decide)
     (on0 ⟨src1 ⟨_, rfl⟩, ⟨_, rfl⟩, rfl, _, .head _, rfl⟩)).1 0x4000 ⟨by decide, rfl, rfl, by decide⟩ (on0 (src1 fun _ => rfl))),
   goes_of ((h.2.2 (.ixset always (vr 0) 5) _ _ _ rfl _ _ _ _ _ (ht false) (by decide) (by decide) (by decide)
     (on0 ⟨src1 ⟨_, rfl⟩, ⟨_, rfl⟩, rfl, _, .head _, rfl⟩)).2 (on0 ⟨_, .head _, by decide⟩))⟩

theorem witness_GroupCollectives (h : Obligations.GroupCollectives) :
    Goes (.redg always (vr 2) (vr 3) (vr 1) 0) one ∧ Goes (.vote always Reg.null (vr 1) 1 0 1 3) one ∧ Goes (.barg always Reg.null 0 1) one :=
  have hi := issues_holding [0, 1, 2, 3]
  ⟨goes_of (h _ _ _ _ rfl _ _ _ _ _ 1 hi rfl rfl (by decide) (on0 ⟨⟨⟨⟨_, rfl⟩, rfl⟩, src1 ⟨_, rfl⟩, ⟨_, rfl⟩, rfl⟩, rfl⟩) (by decide) (by decide)),
   goes_of (h _ _ _ _ rfl _ _ _ _ _ 1 hi rfl rfl (by decide) (on0 ⟨⟨⟨⟨_, rfl⟩, rfl⟩, by simp, ⟨_, rfl⟩, rfl⟩, rfl⟩) (by decide) (by decide)),
   goes_of (h _ _ _ _ rfl _ _ _ _ _ 1 hi rfl rfl (by decide) (on0 ⟨⟨⟨⟨_, rfl⟩, rfl⟩, by simp, ⟨_, rfl⟩, rfl⟩, rfl⟩) (by decide) (by decide))⟩

/-- Two threads in two entries. -/
def parted : Group := { crew 2 8 with entries := [Entry.at 0x1000 5 1 false, Entry.at 0x2000 5 2 false] }

theorem witness_Barriers (h : Obligations.Barriers) : Goes (.bart always Reg.null 1) one ∧ Goes (.barg always Reg.null 0 3) (field parted) :=
  ⟨goes_of (h.1 _ _ _ _ _ _ _ _ (issues_holding _) rfl (by decide) (on0 ⟨⟨⟨_, rfl⟩, rfl⟩, rfl, rfl⟩) (by decide) (by decide) (by decide) (by decide)),
   goes_of2 (h.2 (field parted) _ _ _ _ ⟨1, 0, 0⟩ (squad parted) parted (Entry.at 0x1000 5 1 false) 3 ⟨rfl, rfl, by decide⟩ rfl
     (on0 ⟨⟨⟨_, rfl⟩, rfl⟩, rfl, rfl⟩) (by decide) (by decide) (by decide) ⟨1, by decide, by decide⟩ (by decide) (by decide))⟩

/-- Four threads have arrived at REGROUP with keys 5, 9, 5, 1. -/
def regrouping : State :=
  { ground with teams := [{ squad { crew 4 8 with entries := [] } with
      regroup := [(2, 5), (0, 9), (1, 5), (3, 1)].map fun x => ⟨0, x.1, [⟨x.2, false, false, 0⟩], false, .null, 7, 0⟩ }] }

theorem witness_Regroup (h : Obligations.Regroup) : Goes (.regroup always (vr 1)) one ∧ Goes (.regroupCompletion 1) regrouping :=
  ⟨goes_of2 ((h one).1 _ _ _ _ _ _ (issues_holding _) rfl (on0 ⟨⟨_, rfl⟩, rfl⟩) (by decide)),
   goes_of2 ((h regrouping).2 1 _ rfl rfl rfl (by decide) (by decide) (by decide) (by decide) (by decide))⟩

/-! ### Producers and memory -/

/-- The ground with the word 7 at DIA 0x20040, written under tag 3. -/
def land : State := { ground with sectors := [⟨0xC01, 0x801, 3, 1, 1, false, []⟩], mem := Memory.writeN [] 0x30040 4 7 }

/-- One entry of an in-flight record, of an operation with one piece. -/
def flight (op : IfrOp) (dst : Ref) (p : Piece) : IfrEntry := IfrEntry.make op 0 0x1000 [LaneOp.make 0 dst [(0, 0)] [p]] 1 0 0 2 0 0 0 0

/-- Team 1 with that entry. -/
def flown (op : IfrOp) (dst : Ref) (p : Piece) : Team := { squad { crew 1 16 with entries := [] } with ifr := [flight op dst p] }

def flying (op : IfrOp) (dst : Ref) (p : Piece) : State := { land with teams := [flown op dst p] }

/-- A piece of four bytes at DIA 0x20040. -/
def word4 (data cmp : Nat) : Piece := { va := 0x400040, dia := 0x20040, len := 4, data := data, cmp := cmp, key := 1, slot := 0, chk := false, prv := false, done := false, wait := .no }

theorem due_flying {op : IfrOp} {dst : Ref} {p : Piece} (hp : p.done = false ∧ p.wait = .no ∧ p.held = false ∧ p.prv = false)
    (ho : (flown op dst p).mayPerform (flight op dst p) ((flying op dst p).orderOf (flight op dst p) p) (LaneOp.make 0 dst [(0, 0)] [p]) p = true)
    (hh : (land.home p.dia).map (·.1) = some 0) (hv : pteValid (land.pte p.dia) = true)
    (hl : (flying op dst p).logRoom (some 0x31) ((flying op dst p).sectorsAt p.dia p.len) = true)
    (hg : ((flying op dst p).gatePass 0 0x31 (sectorsOf p.dia p.len) (op.homeOp == .read false || op.homeOp == .read true)
      (.piece 1 0 0 0)).2 = true) :
    ∃ s1, (flying op dst p).due 1 0 0 0 (flown op dst p) (flight op dst p) (LaneOp.make 0 dst [(0, 0)] [p]) p 0 s1 :=
  ⟨_, rfl, rfl, by decide, rfl, ⟨rfl, rfl⟩, rfl, rfl, rfl, ⟨hp.1, hp.2.1, hp.2.2.1, hp.2.2.2, rfl⟩, ho, hh, hv, rfl, fun _ => hl,
    Prod.ext rfl hg⟩

theorem witness_SpecialFunctionIssue (h : Obligations.SpecialFunctionIssue) :
    Goes (.fdiv always (vr 0) (vr 1) (vr 2) 0) one ∧ Goes (.fexp2 always (gr 0) (vr 1)) one ∧ Goes (.frsq always Reg.null (vr 1)) one ∧
    Goes (.fsinpi ⟨true, 7⟩ (vr 0) (vr 1)) one :=
  have hi := issues_holding [0, 1, 2, 3]
  ⟨goes_of (h (.fdiv always (vr 0) (vr 1) (vr 2) 0) _ _ _ _ _ rfl one _ _ _ _ hi (by decide) (on0 ⟨src2 ⟨_, rfl⟩ ⟨_, rfl⟩, ⟨_, rfl⟩⟩)),
   goes_of (h (.fexp2 always (gr 0) (vr 1)) _ _ _ _ _ rfl one _ _ _ _ hi (by decide) (on0 ⟨src1 ⟨_, rfl⟩, ⟨_, rfl⟩⟩)),
   goes_of (h (.frsq always Reg.null (vr 1)) _ _ _ _ _ rfl one _ _ _ _ hi (by decide) (on0 ⟨src1 ⟨_, rfl⟩, ⟨_, rfl⟩⟩)),
   goes_of (h (.fsinpi ⟨true, 7⟩ (vr 0) (vr 1)) _ _ _ _ _ rfl one _ _ _ _ hi (by decide) (fun l hl => nomatch (show l ∈ [] from hl)))⟩

/-- A load of two lanes into one G register. -/
def shared : Team :=
  { squad { crew 2 16 with entries := [] } with
    ifr := [IfrEntry.make (.ld false) 0 0x1000 ([0, 1].map fun l => LaneOp.make l (.g 5) [(0, l)] [{ word4 5 0 with done := true }]) 1 0 0 2 0 0 0 0] }

theorem witness_ProducerCompletion (h : Obligations.ProducerCompletion) :
    Goes (.producerCompletion 1 0 0) (flying (.sfu .frcp .rne) (.v 3) { word4 0 0 with done := true }) ∧
    Goes (.producerCompletion 1 0 0) (flying (.ld false) (.v 3) { word4 5 0 with done := true }) ∧
    Goes (.producerCompletion 1 0 0) { land with teams := [shared] } ∧
    ((flight (.sfu .frcp .rne) (.v 3) (word4 0 0)).result (LaneOp.make 0 (.v 3) [(0, 0)])).isSome = true :=
  have none_of {α : Type} {p : α → Prop} : ∀ x ∈ ([] : List α), p x := fun _ h => nomatch h
  have none_in {t : Team} : ∀ g ∈ [({ crew 1 16 with entries := [] } : Group)], ∀ y ∈ g.insts, y.isComplete t = false :=
    fun g hg y hy => by cases List.mem_singleton.1 hg; exact nomatch hy
  have alone {α : Type} {p : α → Prop} {o : α} (k : p o) : ∀ x ∈ [o], p x := fun x hx => by cases List.mem_singleton.1 hx; exact k
  ⟨goes_of2 (h.1 _ 1 0 0 _ _ _ 0 (fun _ => _) (fun _ => 0) rfl rfl rfl rfl none_of rfl rfl rfl (by decide) none_of none_in (alone ⟨rfl, rfl⟩)),
   goes_of2 (h.1 _ 1 0 0 _ _ _ 0 (fun _ => _) (fun _ => 0) rfl rfl rfl rfl none_of rfl rfl rfl (by decide) none_of none_in (alone ⟨rfl, rfl⟩)),
   goes_of2 (h.1 { land with teams := [shared] } 1 0 0 shared _ _ 0 (fun _ => { val := 0 }) (fun b => b.lane) rfl rfl rfl rfl none_of rfl rfl rfl
     (by decide) none_of (fun g hg y hy => by cases List.mem_singleton.1 hg; exact nomatch hy)
     (fun b hb => by
       have : b = LaneOp.make 0 (.g 5) [(0, 0)] [{ word4 5 0 with done := true }] ∨ b = LaneOp.make 1 (.g 5) [(0, 1)] [{ word4 5 0 with done := true }] := by
         simpa [IfrEntry.make, LaneOp.make] using hb
       obtain rfl | rfl := this <;> exact ⟨rfl, rfl⟩)),
   by rw [h.2 _ _ .frcp .rne rfl]; rfl⟩

def far : State := field (holding [0x400040, 0, 0x55, 0, 9, 0, 0, 0])

theorem witness_MemoryIssue (h : Obligations.MemoryIssue) :
    Goes (.ld always (vr 4) (vr 0) Reg.null 0 0 0 2) far ∧ Goes (.st always (vr 2) (vr 0) Reg.null 1 6 2 3) far ∧
    Goes (.atom always (vr 6) (vr 0) (vr 2) 0 0 6 3 2) far ∧ Goes (.tagwr always Reg.null (vr 0) Reg.null 0 6) far :=
  have hi := issues_holding [0x400040, 0, 0x55, 0, 9, 0, 0, 0]
  ⟨goes_of (h (.ld always (vr 4) (vr 0) Reg.null 0 0 0 2) _ _ rfl far _ _ _ _ hi (by decide) (by decide)
     (on0 ⟨⟨_, rfl⟩, ⟨_, rfl⟩, ⟨_, rfl⟩⟩)
     ⟨⟨⟨⟨_, rfl⟩, rfl⟩, ⟨⟨_, rfl⟩, rfl⟩, ⟨⟨_, rfl⟩, rfl⟩, ⟨_, rfl⟩, by decide, _, _, _, rfl, rfl⟩, trivial⟩),
   goes_of (h (.st always (vr 2) (vr 0) Reg.null 1 6 2 3) _ _ rfl far _ _ _ _ hi (by decide) (by decide)
     (on0 ⟨⟨_, rfl⟩, ⟨_, rfl⟩, ⟨_, rfl⟩⟩)
     ⟨⟨⟨⟨_, rfl⟩, rfl⟩, ⟨⟨_, rfl⟩, rfl⟩, ⟨⟨_, rfl⟩, rfl⟩, ⟨_, rfl⟩, by decide, _, _, _, rfl, rfl⟩, trivial⟩),
   goes_of (h (.atom always (vr 6) (vr 0) (vr 2) 0 0 6 3 2) _ _ rfl far _ _ _ _ hi (by decide) (by decide)
     (on0 ⟨⟨_, rfl⟩, ⟨_, rfl⟩, ⟨_, rfl⟩⟩)
     ⟨⟨⟨⟨_, rfl⟩, rfl⟩, ⟨⟨_, rfl⟩, rfl⟩, ⟨⟨_, rfl⟩, rfl⟩, ⟨_, rfl⟩, by decide, _, _, _, rfl, rfl⟩, trivial⟩),
   goes_of (h (.tagwr always Reg.null (vr 0) Reg.null 0 6) _ _ rfl far _ _ _ _ hi (by decide) (by decide)
     (on0 ⟨⟨_, rfl⟩, ⟨_, rfl⟩, ⟨_, rfl⟩⟩)
     ⟨⟨⟨⟨_, rfl⟩, rfl⟩, ⟨⟨_, rfl⟩, rfl⟩, ⟨⟨_, rfl⟩, rfl⟩, ⟨_, rfl⟩, by decide, _, _, _, rfl, rfl⟩, trivial⟩)⟩

/-- A piece of an operation is due, at the home of panel 0. -/
def Due (op : IfrOp) (dst : Ref) (p : Piece) : Prop :=
  ∃ s1, (flying op dst p).due 1 0 0 0 (flown op dst p) (flight op dst p) (LaneOp.make 0 dst [(0, 0)] [p]) p 0 s1

theorem due_st : Due .st .null (word4 5 0) :=
  due_flying ⟨rfl, rfl, rfl, rfl⟩ (by decide +kernel) (by decide) (by decide) (by decide +kernel) (by decide +kernel)

theorem due_atom : Due (.atom 0) (.v 3) (word4 5 0) :=
  due_flying ⟨rfl, rfl, rfl, rfl⟩ (by decide +kernel) (by decide) (by decide) (by decide +kernel) (by decide +kernel)

theorem due_acas : Due .acas (.v 3) (word4 5 7) :=
  due_flying ⟨rfl, rfl, rfl, rfl⟩ (by decide +kernel) (by decide) (by decide) (by decide +kernel) (by decide +kernel)

theorem due_acas_other : Due .acas (.v 3) (word4 5 6) :=
  due_flying ⟨rfl, rfl, rfl, rfl⟩ (by decide +kernel) (by decide) (by decide) (by decide +kernel) (by decide +kernel)

theorem due_tagwr : Due .tagwr .null (word4 5 0) :=
  due_flying ⟨rfl, rfl, rfl, rfl⟩ (by decide +kernel) (by decide) (by decide) (by decide +kernel) (by decide +kernel)

theorem due_ld : Due (.ld false) (.v 3) (word4 0 0) :=
  due_flying ⟨rfl, rfl, rfl, rfl⟩ (by decide +kernel) (by decide) (by decide) (by decide +kernel) (by decide +kernel)

theorem due_tagrd : Due .tagrd (.v 3) (word4 0 0) :=
  due_flying ⟨rfl, rfl, rfl, rfl⟩ (by decide +kernel) (by decide) (by decide) (by decide +kernel) (by decide +kernel)

theorem wf_flying (op : IfrOp) (dst : Ref) (p : Piece) : Memory.wf (flying op dst p).mem = true :=
  show Memory.wf land.mem = true by decide

/-- Its sector can be merged into. -/
theorem mends_st : (flying .st .null (word4 5 0)).mends 0x20040 0 := ⟨by decide +kernel, by decide +kernel⟩

theorem mends_atom : (flying (.atom 0) (.v 3) (word4 5 0)).mends 0x20040 0 := ⟨by decide +kernel, by decide +kernel⟩

theorem mends_acas : (flying .acas (.v 3) (word4 5 7)).mends 0x20040 0 := ⟨by decide +kernel, by decide +kernel⟩

theorem old_atom : ((flying (.atom 0) (.v 3) (word4 5 0)).homeRead (word4 5 0).dia (word4 5 0).len (word4 5 0).key (word4 5 0).tag).2.poison = false := by decide +kernel

theorem old_acas : ((flying .acas (.v 3) (word4 5 7)).homeRead (word4 5 7).dia (word4 5 7).len (word4 5 7).key (word4 5 7).tag).2.poison = false ∧ ((flying .acas (.v 3) (word4 5 7)).homeRead (word4 5 7).dia (word4 5 7).len (word4 5 7).key (word4 5 7).tag).2.val = 7 := by decide +kernel

theorem old_acas_other : ((flying .acas (.v 3) (word4 5 6)).homeRead (word4 5 6).dia (word4 5 6).len (word4 5 6).key (word4 5 6).tag).2.val ≠ 6 := by decide +kernel

section
variable {s : State} {t : Team} {e : IfrEntry} {o : LaneOp} {p : Piece} {s1 : State}

theorem goes_atom (h : Obligations.WritesAtHome) {f : Nat} (d : s.due 1 0 0 0 t e o p 0 s1) (hl : p.len ≤ 64 - p.dia % 64) (hk : p.key ≠ 0)
    (hd : p.dia < 2 ^ 48) (hc : p.chk = false) (hm : s.mends p.dia p.tag) (hw : Memory.wf s.mem = true) (ho : e.op = .atom f)
    (hp : (s.homeRead p.dia p.len p.key p.tag).2.poison = false) : Goes (.accessAtHome 1 0 0 0) s :=
  goes_of (h.1 _ _ _ _ _ _ _ _ _ _ _ d hl hk hd (fun k => absurd k (by simp [hc])) hm hw _ (.inr (.inl ⟨f, .inr ho, hp, rfl⟩)))

theorem goes_read (h : Obligations.ReadsAtHome) (d : s.due 1 0 0 0 t e o p 0 s1) (hn : o.dst ≠ .null) (hl : p.len ≤ 64 - p.dia % 64)
    (ho : (∃ k, e.op = .ld k ∧ s.l1Read t.core p k = none) ∨
      e.op = .acas ∧ (s.homeRead p.dia p.len p.key p.tag).2.val ≠ p.cmp ∨ e.op = .tagrd ∨ ∃ f, e.op = .atom f) : Goes (.accessAtHome 1 0 0 0) s :=
  match ho with
  | .inl ⟨k, x, y⟩ => have ⟨_, _, _, _, _, a, _⟩ := h _ _ _ _ _ _ _ _ _ _ _ d hn hl _ _ (.inl ⟨⟨k, x, .inr y⟩, rfl, rfl⟩); ⟨_, a⟩
  | .inr (.inl ⟨k, x⟩) =>
    have ⟨_, _, _, _, _, a, _⟩ := h _ _ _ _ _ _ _ _ _ _ _ d hn hl _ _ (.inr (.inr (.inr (.inl ⟨k, .inr x, rfl, rfl⟩)))); ⟨_, a⟩
  | .inr (.inr (.inl k)) => have ⟨_, _, _, _, _, a, _⟩ := h _ _ _ _ _ _ _ _ _ _ _ d hn hl _ _ (.inr (.inr (.inr (.inr ⟨k, rfl, rfl⟩)))); ⟨_, a⟩
  | .inr (.inr (.inr k)) => have ⟨_, _, _, _, _, a, _⟩ := h _ _ _ _ _ _ _ _ _ _ _ d hn hl _ _ (.inr (.inr (.inl ⟨k, rfl, rfl⟩))); ⟨_, a⟩

/-- A load whose core holds a copy answers it. -/
theorem goes_copy (h : Obligations.ReadsAtHome) {k : Bool} {v : Nat} (d : s.due 1 0 0 0 t e o p 0 s1) (hn : o.dst ≠ .null)
    (hl : p.len ≤ 64 - p.dia % 64) (ho : e.op = .ld k) (hv : s.l1Read t.core p k = some v)
    (hw : (isAcquire e.ord && decide (4 ≤ e.scope)) = false) : Goes (.accessAtHome 1 0 0 0) s :=
  have ⟨_, _, _, _, _, a, _⟩ := h _ _ _ _ _ _ _ _ _ _ _ d hn hl v false (.inr (.inl ⟨⟨k, ho, hv⟩, hw, rfl⟩)); ⟨_, a⟩
end

theorem witness_WritesAtHome (h : Obligations.WritesAtHome) :
    Goes (.accessAtHome 1 0 0 0) (flying .st .null (word4 5 0)) ∧ Goes (.accessAtHome 1 0 0 0) (flying (.atom 0) (.v 3) (word4 5 0)) ∧
    Goes (.accessAtHome 1 0 0 0) (flying .acas (.v 3) (word4 5 7)) ∧ Goes (.accessAtHome 1 0 0 0) (flying .tagwr .null (word4 5 0)) := by
  have ⟨_, d1⟩ := due_st
  have ⟨_, d2⟩ := due_atom
  have ⟨_, d3⟩ := due_acas
  have ⟨_, d4⟩ := due_tagwr
  have k1 := h.1 _ 1 0 0 0 _ _ _ _ 0 _ d1 (by decide) (by decide) (by decide) nofun mends_st (wf_flying _ _ _) 5
  have k2 := goes_atom h d2 (by decide) (by decide) (by decide) rfl mends_atom (wf_flying _ _ _) rfl old_atom
  have k3 := h.1 _ 1 0 0 0 _ _ _ _ 0 _ d3 (by decide) (by decide) (by decide) nofun mends_acas (wf_flying _ _ _) 5
  have k4 := h.2 _ 1 0 0 0 _ _ _ _ 0 _ d4 rfl (wf_flying _ _ _)
  exact ⟨goes_of (k1 (.inl ⟨.inl rfl, rfl⟩)), k2, goes_of (k3 (.inr (.inr ⟨rfl, old_acas.1, old_acas.2, rfl⟩))), goes_of k4⟩

/-- The frame, at the byte after the stored four and at the sector's last byte, in the half that is not touched. -/
theorem witness_WritesAtHome_frame (h : Obligations.WritesAtHome) :
    let s := flying .st .null (word4 5 0)
    ∃ s', exec (.accessAtHome 1 0 0 0) s = .next s' ∧
      (s'.homeRead 0x20044 1 1 (s'.tagOf 0xC01)).2.val = (s.homeRead 0x20044 1 1 0).2.val ∧
      (s'.homeRead 0x2007F 1 1 (s'.tagOf 0xC01)).2.val = (s.homeRead 0x2007F 1 1 0).2.val := by
  have ⟨_, d1⟩ := due_st
  have ⟨s', a, k⟩ := h.1 _ 1 0 0 0 _ _ _ _ 0 _ d1 (by decide) (by decide) (by decide) nofun mends_st (wf_flying _ _ _) 5 (.inl ⟨.inl rfl, rfl⟩)
  have e : physOf ((flying .st .null (word4 5 0)).pte (word4 5 0).dia) (word4 5 0).dia / 64 = 0xC01 := by decide +kernel
  rw [e, (by decide : (word4 5 0).tag = 0)] at k
  have f := k.2.2.2.2.1
  exact ⟨s', a, f 0x20044 (by decide) (.inr (by decide)) 1 (.inl ⟨by decide, rfl⟩),
    f 0x2007F (by decide) (.inr (by decide)) 1 (.inr ⟨by decide, by decide, by decide +kernel⟩)⟩

/-- A core's copy of the sector holds 9 there. -/
def copied : State :=
  { flying (.ld false) (.v 3) (word4 0 0) with l1 := [⟨0, 0x801, 9, 1, 1, false⟩] }

theorem due_copied : ∃ s1, copied.due 1 0 0 0 (flown (.ld false) (.v 3) (word4 0 0)) (flight (.ld false) (.v 3) (word4 0 0))
    (LaneOp.make 0 (.v 3) [(0, 0)] [word4 0 0]) (word4 0 0) 0 s1 :=
  ⟨_, rfl, rfl, by decide, rfl, ⟨rfl, rfl⟩, rfl, rfl, rfl, ⟨rfl, rfl, rfl, rfl, rfl⟩, by decide +kernel, by decide, by decide, rfl, nofun,
    Prod.ext rfl (by decide +kernel)⟩

theorem witness_ReadsAtHome (h : Obligations.ReadsAtHome) :
    Goes (.accessAtHome 1 0 0 0) (flying (.ld false) (.v 3) (word4 0 0)) ∧ Goes (.accessAtHome 1 0 0 0) (flying .tagrd (.v 3) (word4 0 0)) ∧
    Goes (.accessAtHome 1 0 0 0) (flying .acas (.v 3) (word4 5 6)) ∧ Goes (.accessAtHome 1 0 0 0) (flying (.atom 0) (.v 3) (word4 5 0)) ∧
    Goes (.accessAtHome 1 0 0 0) copied := by
  have ⟨_, d1⟩ := due_ld
  have ⟨_, d2⟩ := due_tagrd
  have ⟨_, d3⟩ := due_acas_other
  have ⟨_, d4⟩ := due_atom
  have ⟨_, d5⟩ := due_copied
  exact ⟨goes_read h d1 nofun (by decide) (.inl ⟨_, rfl, rfl⟩), goes_read h d2 nofun (by decide) (.inr (.inr (.inl rfl))),
    goes_read h d3 nofun (by decide) (.inr (.inl ⟨rfl, old_acas_other⟩)), goes_read h d4 nofun (by decide) (.inr (.inr (.inr ⟨_, rfl⟩))),
    goes_copy h d5 nofun (by decide) rfl (by decide +kernel : copied.l1Read 0 (word4 0 0) false = some 9) rfl⟩

/-- A page that is not valid. -/
def stray : Piece := { word4 0 0 with va := 0x460000, dia := 0x460000 }

theorem witness_PageFault (h : Obligations.PageFault) : Goes (.accessAtHome 1 0 0 0) (flying (.ld false) (.v 3) stray) :=
  have ⟨s', _, a, _⟩ := h (flying (.ld false) (.v 3) stray) 1 0 0 0 _ _ _ _ 0 (Partition.formed 0 1 64) rfl rfl (by decide) rfl rfl rfl rfl rfl rfl
    rfl rfl rfl rfl (by decide +kernel) rfl (by decide +kernel) nofun (by decide) (by decide) (by decide) (by decide) (by decide) nofun (by decide)
    ⟨_, List.mem_cons_self, rfl⟩ (by decide)
  ⟨s', a⟩

theorem witness_AccessTraps (h : Obligations.AccessTraps) :
    Goes (.ld always (vr 4) (vr 0) Reg.null 0 0 0 2) (field (holding [0x400041, 0, 0, 0, 0])) ∧
    Goes (.st always (vr 4) (vr 0) Reg.null 0 0 0 2) (field (holding [0, 2 ^ 28, 0, 0, 0])) := by
  have k1 := h (.ld always (vr 4) (vr 0) Reg.null 0 0 0 2) _ _ rfl _ _ _ _ _ _ _ (issues_holding [0x400041, 0, 0, 0, 0]) (handled_holding _)
    (by decide) (by decide) rfl (on0 ⟨⟨⟨_, rfl⟩, rfl⟩, ⟨⟨_, rfl⟩, rfl⟩, ⟨_, rfl⟩, rfl⟩)
  have k2 := h (.st always (vr 4) (vr 0) Reg.null 0 0 0 2) _ _ rfl _ _ _ _ _ _ _ (issues_holding [0, 2 ^ 28, 0, 0, 0]) (handled_holding _)
    (by decide) (by decide) rfl (on0 ⟨⟨⟨_, rfl⟩, rfl⟩, ⟨⟨_, rfl⟩, rfl⟩, ⟨_, rfl⟩, rfl⟩)
  exact ⟨goes_of (k1.1 (on0 (by decide))), goes_of (k2.2 (on0 ⟨by decide, by decide, ⟨_, rfl⟩, rfl⟩))⟩

/-- The one range of context 0x31. -/
def window : RangeEnt := ⟨0x400, 0x40F, 0x20000, 0, 0, false, false, false, true, true, true⟩

/-- An address is translated, and nothing else happens. -/
def Lands (s : State) (t : Team) (va : BitVec 64) : Prop := ∃ x, s.xlat t va (fun r => r.w) = (s, .ok x)

theorem witness_AddressTranslation (h : Obligations.AddressTranslation) :
    Lands ground (squad (crew 1 8)) 0x400000 ∧ Lands ground (squad (crew 1 8)) 0x40FFFF ∧ Lands ground Team.controller 0x1FFFFFF ∧
    Lands ground Team.controller 0x0001000000020040 ∧
    ground.xlat (squad (crew 1 8)) (2 ^ 60) (fun r => r.w) = (ground, .bad) :=
  have k (va) := (h ground (squad (crew 1 8)) va fun r => r.w)
  have j (va) := (h ground Team.controller va fun r => r.w)
  ⟨have ⟨_, a, _⟩ := (k 0x400000).1 owner window 1 (by decide) rfl (by decide) (by decide) (by decide) (by decide) (by decide); ⟨_, a⟩,
   have ⟨_, a, _⟩ := (k 0x40FFFF).1 owner window 1 (by decide) rfl (by decide) (by decide) (by decide) (by decide) (by decide); ⟨_, a⟩,
   have ⟨_, a, _⟩ := (j 0x1FFFFFF).2.1 rfl (by decide); ⟨_, a⟩,
   have ⟨_, a, _⟩ := (j 0x0001000000020040).2.2.1 _ _ rfl (by decide) rfl rfl (by decide); ⟨_, a⟩,
   (k (2 ^ 60)).2.2.2 (by decide) (by decide)⟩

/-- The field with a palette that holds the barrier object 2 of 3 expected, 2 pending, in phase 0. -/
def gate (g : Group) : State := { ground with teams := [{ squad g with pal := Memory.writeN [] 16 8 (3 * 2 ^ 32 + 2) }], cur := some ⟨1, 0, 0⟩ }

theorem issues_gate (vs : List Nat) : (gate (holding vs)).issues ⟨1, 0, 0⟩ { squad (holding vs) with pal := Memory.writeN [] 16 8 (3 * 2 ^ 32 + 2) }
    (holding vs) (Entry.at 0x1000 5 1 false) := issues_alone rfl rfl (show (1 : BitVec 32) ≠ 0 by decide) rfl

theorem witness_PaletteAccess (h : Obligations.PaletteAccess) :
    Goes (.ldp always (vr 0) (vr 2) (vr 4) 1 0 0 3) (gate (holding [0, 0, 0, 0, 8])) ∧
    Goes (.stp always (vr 0) (vr 2) (vr 4) 0 0 0 2) (gate (holding [5, 0, 4088, 0, 4])) ∧
    Goes (.atomp always (vr 0) (vr 2) (vr 4) 0 0 0 2 2) (gate (holding [5, 0, 16, 0, 8])) ∧
    Goes (.producerCompletion 1 (palBase + 9) 0)
      { ground with teams := [{ squad (holding [0]) with palPend := [⟨9, [(0, 0)], .v 0, 1, 7, [false]⟩] }] } := by
  have k1 := h.1 (.ldp always (vr 0) (vr 2) (vr 4) 1 0 0 3) _ rfl _ _ _ _ _ (issues_gate [0, 0, 0, 0, 8]) (by decide)
    (on0 ⟨⟨⟨_, rfl⟩, rfl⟩, ⟨⟨_, rfl⟩, rfl⟩, ⟨⟨_, rfl⟩, rfl⟩, ⟨_, rfl⟩, by decide, ⟨by decide, by decide, by decide, nofun⟩, by decide⟩)
    (by decide)
  have k2 := h.1 (.stp always (vr 0) (vr 2) (vr 4) 0 0 0 2) _ rfl _ _ _ _ _ (issues_gate [5, 0, 4088, 0, 4]) (by decide)
    (on0 ⟨⟨⟨_, rfl⟩, rfl⟩, ⟨⟨_, rfl⟩, rfl⟩, ⟨⟨_, rfl⟩, rfl⟩, ⟨_, rfl⟩, by decide, ⟨by decide, by decide, by decide, nofun⟩, by decide⟩)
    (by decide)
  have k3 := h.1 (.atomp always (vr 0) (vr 2) (vr 4) 0 0 0 2 2) _ rfl _ _ _ _ _ (issues_gate [5, 0, 16, 0, 8]) (by decide)
    (on0 ⟨⟨⟨_, rfl⟩, rfl⟩, ⟨⟨_, rfl⟩, rfl⟩, ⟨⟨_, rfl⟩, rfl⟩, ⟨_, rfl⟩, by decide, ⟨by decide, by decide, by decide, nofun⟩, by decide⟩)
    (by decide)
  have k4 := h.2 { ground with teams := [{ squad (holding [0]) with palPend := [⟨9, [(0, 0)], .v 0, 1, 7, [false]⟩] }] } 1 0 _
    ⟨9, [(0, 0)], .v 0, 1, 7, [false]⟩ 0 (fun _ => 0) rfl rfl rfl rfl (by decide) rfl (by decide) (fun _ hy => nomatch hy)
    (fun g hg y hy => by cases List.mem_singleton.1 hg; exact nomatch hy)
  exact ⟨goes_of2 k1, goes_of2 k2, goes_of2 k3, goes_of2 k4⟩

theorem witness_BarrierObjects (h : Obligations.BarrierObjects) :
    Goes (.arrive always (vr 0) Reg.null 2) (gate (holding [0, 2])) ∧ Goes (.arrive always (vr 0) (vr 1) 2) (gate (holding [0, 2])) ∧
    Goes (.await always (vr 0) 1 3 2) (gate (holding [0, 2])) ∧ Goes (.await always (vr 0) 0 7 2) (gate (holding [1, 2])) := by
  have k0 := h (gate (holding [0, 2])) _ _ _ _ 2 (3 * 2 ^ 32 + 2) (issues_gate _) (by decide) (fun _ ord => show (true && (!isRelease ord || true)) = true by simp)
    (fun st => ⟨by decide, by decide, by cases st <;> decide, nofun⟩) (by decide) (by decide) (by decide) (by decide) (by decide) (by decide)
  have k1 := h (gate (holding [1, 2])) _ _ _ _ 2 (3 * 2 ^ 32 + 2) (issues_gate _) (by decide) (fun _ ord => show (true && (!isRelease ord || true)) = true by simp)
    (fun st => ⟨by decide, by decide, by cases st <;> decide, nofun⟩) (by decide) (by decide) (by decide) (by decide) (by decide) (by decide)
  exact ⟨goes_of (k0.1 always (vr 0) Reg.null 2 0 rfl rfl ⟨⟨_, rfl⟩, rfl⟩ ⟨_, rfl⟩ (by decide) (by decide)),
    goes_of (k0.1 always (vr 0) (vr 1) 2 0 rfl rfl ⟨⟨_, rfl⟩, rfl⟩ ⟨_, rfl⟩ (by decide) (by decide)),
    goes_of ((k0.2 always (vr 0) 3 2 rfl (on0 ⟨⟨_, rfl⟩, rfl⟩)).1),
    goes_of ((k1.2 always (vr 0) 7 2 rfl (on0 ⟨⟨_, rfl⟩, rfl⟩)).2 (on0 (by decide)))⟩

/-- An access reaches memory, at a page that is there. -/
def reaches (r : Try (State × Xlat)) : Bool :=
  match r with
  | .ok x => !x.2.prv && pteValid (x.1.pte x.2.dia)
  | .error _ => false

theorem goes_cflush (h : Obligations.FencesAndHints) {s : State} {a x : Reg} {scope : BitVec 3} {c : Cur} {t : Team} {g : Group} {e : Entry}
    (hi : s.issues c t g e) (ha : actLanes g e always = [0]) (h1 : g.clean 0 a 2) (h2 : g.clean 0 x 1)
    (hr : reaches (s.access c.tid c.grp 0 (BitVec.ofInt 64 ((g.val 0 a 2 : Int) + asSigned (g.val 0 x 1) + (0 : BitVec 14).toInt * szBytes 0))
      fun e => e.r) = true) (hn : t.lanesOfThread c.grp 0 = []) : Goes (.cflush always a x 0 scope 0) s := by
  generalize hq : s.access _ _ _ _ _ = r at hr
  cases r with
  | error _ => cases hr
  | ok x =>
    have ⟨hp, hv⟩ := (Bool.and_eq_true _ _).mp hr
    exact goes_of ((h s).2.2 always _ _ 0 scope 0 _ _ _ _ 0 x.1 x.2 hi ha h1 h2 hq ((Bool.not_eq_true' _).mp hp) hv (by simp [hn]))

theorem witness_FencesAndHints (h : Obligations.FencesAndHints) :
    Goes (.fence always 4 3) one ∧ Goes (.pref always (vr 0) (vr 2) 0 3 0) one ∧ Goes (.pref always (vr 50) (vr 2) 0 3 0) one ∧
    Goes (.cflush always (vr 0) Reg.null 0 3 0) far ∧ Goes (.cflush always (vr 0) Reg.null 0 4 0) far := by
  have hi := issues_holding [0x400040, 0, 0x55, 0, 9, 0, 0, 0]
  have h1 : (holding [0x400040, 0, 0x55, 0, 9, 0, 0, 0]).clean 0 (vr 0) 2 := ⟨⟨_, rfl⟩, rfl⟩
  have h2 : (holding [0x400040, 0, 0x55, 0, 9, 0, 0, 0]).clean 0 Reg.null 1 := ⟨⟨_, rfl⟩, rfl⟩
  have k1 := goes_of ((h one).1 always 4 3 _ _ _ _ (issues_holding _) (on0 ⟨fun _ => rfl, fun _ => rfl⟩))
  have k2 := goes_of (((h one).2.1 always (vr 0) (vr 2) 0 3 0 _ _ _ _ (issues_holding _)).1 (on0 ⟨⟨⟨_, rfl⟩, rfl⟩, ⟨_, rfl⟩, rfl⟩))
  have k5 := goes_of (((h one).2.1 always (vr 50) (vr 2) 0 3 0 _ _ _ _ (issues_holding _)).2 (on0 ⟨⟨_, rfl⟩, _, rfl⟩))
  have k3 := goes_cflush h (a := vr 0) (x := Reg.null) (scope := 3) hi rfl h1 h2
  have k4 := goes_cflush h (a := vr 0) (x := Reg.null) (scope := 4) hi rfl h1 h2
  exact ⟨k1, k2, k5, k3 (by decide +kernel) rfl, k4 (by decide +kernel) rfl⟩

/-! ### The matrix grid -/

/-- One thread of 192 registers with its window at V64, in the grid or not. -/
def weaver (mx : Bool) (more : List Group := []) : Group × List Group :=
  ({ crew 1 192 with lanes := [{ Thread.initial 192 with mx := mx, aw := 1, mtype := if mx then 12 else 0 }] }, more)

def loomTeam (w : Group × List Group) : Team := { squad w.1 with groups := w.1 :: w.2 }

def loom (w : Group × List Group) (gs : List Grid) : State := { ground with teams := [loomTeam w], grids := gs, cur := some ⟨1, 0, 0⟩ }

/-- The grid of the quad, bound to team 1 with the rows given, INT8 of 128 columns. -/
def frame (rows : List MxRow) : Grid := ⟨0, 0, .bound, 1, 0, 12, false, some ⟨0x0102FF04, false⟩, .empty, 0, rows⟩

theorem issues_loom (mx : Bool) (more : List Group) (gs : List Grid) : (loom (weaver mx more) gs).issues ⟨1, 0, 0⟩ (loomTeam (weaver mx more))
    (weaver mx more).1 (Entry.at 0x1000 5 1 false) := issues_alone rfl rfl (show (1 : BitVec 32) ≠ 0 by decide) rfl

/-- A weaver whose thread waits at its word for the quad's grid, which another team has. -/
def penned : Group × List Group := ({ (weaver false).1 with entries := [{ Entry.at 0x1000 5 1 false with blocked := 1 }] }, [])

theorem issues_penned (gs : List Grid) : (loom penned gs).issues ⟨1, 0, 0⟩ (loomTeam penned) penned.1 { Entry.at 0x1000 5 1 false with blocked := 1 } :=
  issues_alone rfl rfl (show (1 : BitVec 32) ≠ 0 by decide) rfl

theorem witness_GridBinding (h : Obligations.GridBinding) :
    Goes (.mxon always 0 0 12 0 7) (loom (weaver false) []) ∧ Goes (.mxon always 0 0 12 0 7) (loom (weaver false) [frame [MxRow.fresh 1 0 128]]) ∧
    Goes (.mxon always 0 0 12 1 3) (loom (weaver false [{ crew 0 8 with allot := 16384 }]) []) ∧
    Goes (.mxon always 0 0 12 0 3) (loom (weaver false) [{ frame [] with tid := 2 }]) ∧
    Goes (.mxon always 0 0 12 0 3) (loom penned [{ frame [] with tid := 2 }]) ∧
    Goes (.mxoff always) (loom (weaver true) [frame [MxRow.fresh 0 0 128]]) ∧ Goes (.mxoff always) (loom (weaver false) []) := by
  have k1 := (h _ _ _ _ _ always 0 (issues_loom false [] []) (by decide) rfl (by decide)).1 0 0 12 0 7 rfl (by decide) (by decide +kernel)
  have k2 := (h _ _ _ _ _ always 0 (issues_loom false [] [frame [MxRow.fresh 1 0 128]]) (by decide) rfl (by decide)).1
    0 0 12 0 7 rfl (by decide) (by decide +kernel)
  have k3 := (h _ _ _ _ _ always 0 (issues_loom false [{ crew 0 8 with allot := 16384 }] []) (by decide) rfl (by decide)).1
    0 0 12 1 3 rfl (by decide) (by decide +kernel)
  have k6 := (h _ _ _ _ _ always 0 (issues_loom false [] [{ frame [] with tid := 2 }]) (by decide) rfl (by decide)).1
    0 0 12 0 3 rfl (by decide) (by decide +kernel)
  have k7 := (h _ _ _ _ _ always 0 (issues_penned [{ frame [] with tid := 2 }]) (by decide) rfl (by decide)).1
    0 0 12 0 3 rfl (by decide) (by decide +kernel)
  have k4 := (h _ _ _ _ _ always 0 (issues_loom true [] [frame [MxRow.fresh 0 0 128]]) (by decide) rfl (by decide)).2.1
    _ _ rfl rfl rfl rfl rfl (by decide +kernel)
  have k5 := (h _ _ _ _ _ always 0 (issues_loom false [] []) (by decide) rfl (by decide)).2.2 rfl
  exact ⟨goes_of ((k1.1 (by decide)).1 rfl), goes_of ((k2.1 (by decide)).2 _ rfl rfl rfl nofun rfl rfl rfl (.inr (by decide))),
    goes_of (k3.2 (.inl ⟨by decide, rfl⟩)).1,
    goes_of ((k6.2 (.inr ⟨_, rfl, by decide⟩)).2.1 rfl), ⟨_, (k7.2 (.inr ⟨_, rfl, by decide⟩)).2.2 rfl⟩, goes_of k4, goes_of k5⟩

theorem witness_GridSteps (h : Obligations.GridSteps) :
    Goes (.mma always (vr 0)) (loom (weaver true) [frame [MxRow.fresh 0 0 128]]) ∧
    Goes (.gridStepPass 1 0 0) (loom (weaver true) [frame [{ MxRow.fresh 0 0 128 with queue := [.step, .step] }]]) := by
  have k1 := (h _).1 _ _ _ _ always 0 false (vr 0) Reg.null _ _ _ _ (issues_loom true [] [frame [MxRow.fresh 0 0 128]])
    (by decide) rfl (by decide) rfl rfl rfl rfl rfl rfl rfl rfl rfl rfl rfl rfl (by decide +kernel) ⟨_, rfl⟩ (by decide +kernel) (fun _ => rfl)
  have k2 := (h (loom (weaver true) [frame [{ MxRow.fresh 0 0 128 with queue := [.step, .step] }]])).2 1 _ _ 0 0 _ _ rfl rfl rfl rfl
  exact ⟨goes_of k1, _, k2⟩

theorem witness_GridStreams (h : Obligations.GridStreams) :
    Goes (.mxsync always) (loom (weaver true) [frame [{ MxRow.fresh 0 0 128 with opened := true, cnt := 8 }]]) ∧
    Goes (.mxsync always) (loom (weaver true) [frame [MxRow.fresh 0 0 128]]) ∧
    Goes (.mxclr always) (loom (weaver true) [frame [MxRow.fresh 0 0 128]]) ∧
    Goes (.mxsyncFold 1 0 0) (loom (weaver true) [frame [{ MxRow.fresh 0 0 128 with queue := [.sync 1] }]]) := by
  have k1 := (h _).1 _ _ _ _ always 0 _ _ (issues_loom true [] [frame [{ MxRow.fresh 0 0 128 with opened := true, cnt := 8 }]])
    (by decide) rfl (by decide) rfl rfl rfl
  have k2 := (h _).1 _ _ _ _ always 0 _ _ (issues_loom true [] [frame [MxRow.fresh 0 0 128]])
    (by decide) rfl (by decide) rfl rfl rfl
  have k3 := (h (loom (weaver true) [frame [{ MxRow.fresh 0 0 128 with queue := [.sync 1] }]])).2 1 _ _ 0 0 _ _ rfl rfl rfl rfl rfl rfl (by decide)
  exact ⟨goes_of (k1.1 rfl), goes_of (k2.2.1 rfl), goes_of (k2.2.2 rfl), goes_of2 k3⟩

theorem witness_AtomicsAndIntegerSteps (h : Obligations.AtomicsAndIntegerSteps) (p : Plane) :
    atomicFn 0 4 (2 ^ 32 - 1) 1 = 0 ∧ atomicFn 4 8 (2 ^ 64 - 1) (2 ^ 64 - 1) = 2 ^ 64 - 1 ∧
    (mxStep 0 12 false p 0xFF7F8001 0 (MxRow.fresh 0 0 128) []).1.part.length = 128 * 2 ^ (0 : BitVec 2).toNat :=
  ⟨(h.1 4 (2 ^ 32 - 1) 1 (.inl rfl) (by decide) (by decide)).1, (h.1 8 (2 ^ 64 - 1) (2 ^ 64 - 1) (.inr rfl) (by decide) (by decide)).2.2.2.2.1,
   (h.2 0 p 0xFF7F8001 0 (MxRow.fresh 0 0 128) [] List.length_replicate (by decide) (fun _ hx => ⟨_, _, List.eq_of_mem_replicate hx⟩)).2.2.1⟩

theorem goes_stld (h : Obligations.GridPlanes) {s : State} {a : Reg} {ofs : BitVec 12} {c : Cur} {t : Team} {g : Group} {e : Entry} {gr : Grid}
    (hi : s.issues c t g e) (hc : c.tid ≠ 0) (hn : actLanes g e always ≠ [])
    (ha : ∀ l ∈ actLanes g e always, g.clean l a 1 ∧ g.val l a 1 = g.val ((actLanes g e always).headD 0) a 1) (hf : t.ifr.length < 512)
    (hg : s.boundGrid t = some gr) (hb : gr.st = .bound) (hk : gr.back = .empty)
    (hp : g.val ((actLanes g e always).headD 0) a 1 + 256 * ofs.toNat + mxPlaneBytes gr.shape gr.mtype.toNat gr.scaled ≤ t.palSize)
    (hm : (g.val ((actLanes g e always).headD 0) a 1 + 256 * ofs.toNat) % 256 = 0)
    (hr : (State.register { s with fresh := s.fresh + 1 } [(t.core / 4, ⟨s.fresh + 1, some t.tid,
      (g.val ((actLanes g e always).headD 0) a 1 + 256 * ofs.toNat) / 64 * 64,
      (g.val ((actLanes g e always).headD 0) a 1 + 256 * ofs.toNat + mxPlaneBytes gr.shape gr.mtype.toNat gr.scaled + 63) / 64 * 64, false⟩)]).isSome
      = true) : Goes (.stld always a ofs) s :=
  have ⟨_, hs⟩ := Option.isSome_iff_exists.1 hr
  goes_of ((h s).1 c t g e always a ofs gr hi hc hn ha hf hg hb hk hp hm _ hs)

/-- The grid of the quad with a back plane in the state given. -/
def loading (b : BackSt) (swaps : Nat) (st : GridSt := .bound) : Grid := { frame [MxRow.fresh 0 0 128] with back := b, swaps := swaps, st := st }

theorem witness_GridPlanes (h : Obligations.GridPlanes) :
    Goes (.stld always (vr 0) 12) (loom (weaver true) [frame [MxRow.fresh 0 0 128]]) ∧
    Goes (.stswap always) (loom (weaver true) [frame [MxRow.fresh 0 0 128]]) ∧
    Goes (.planeReady 0 0) (loom (weaver true) [loading (.loading 256 5 7) 0]) ∧
    Goes (.stswapCompletion 0 0) (loom (weaver true) [loading (.ready ⟨5, false⟩) 1]) ∧
    Goes (.gridSwitchEnd 0 0) (loom (weaver true) [loading .empty 0 .switchingIn]) ∧
    Goes (.gridSwitchEnd 0 0) (loom (weaver true) [loading .empty 0 .switchingOut]) := by
  have k1 := goes_stld h (a := vr 0) (ofs := 12) (issues_loom true [] [frame [MxRow.fresh 0 0 128]]) (by decide) (by decide)
    (on0 ⟨⟨⟨_, rfl⟩, rfl⟩, rfl⟩) (by decide) rfl rfl rfl (by decide) (by decide) (by decide)
  have k2 := (h _).2.1 _ _ _ _ always _ (issues_loom true [] [frame [MxRow.fresh 0 0 128]]) (by decide) rfl
  have k3 := (h (loom (weaver true) [loading (.loading 256 5 7) 0])).2.2.1 0 0 _ _ 256 5 7 rfl rfl rfl rfl rfl rfl rfl (by decide)
  have k4 := (h (loom (weaver true) [loading (.ready ⟨5, false⟩) 1])).2.2.2.1 0 0 _ _ rfl rfl (by decide) rfl (by decide)
  have k5 := (h (loom (weaver true) [loading .empty 0 .switchingIn])).2.2.2.2 0 0 _ rfl
  have k6 := (h (loom (weaver true) [loading .empty 0 .switchingOut])).2.2.2.2 0 0 _ rfl
  exact ⟨k1, goes_of k2, goes_of2 (k3 (by decide)), ⟨_, k4⟩, ⟨_, k5.1 rfl⟩, ⟨_, k6.2 rfl⟩⟩

/-- Pieces reach memory and pass their checks. -/
def passes (r : Try (State × List (Xlat × BitVec 64 × Nat × Nat))) (t : Team) : Bool :=
  match r with
  | .ok x => (x.1.checksAll t x.2).isNone
  | .error _ => false

theorem goes_mxst (h : Obligations.GridReadsAndStores) {s : State} {c : Cur} {t : Team} {g : Group} {e : Entry} {tr a x : Reg} {ofs : BitVec 14}
    {slot : Nat} (hi : s.issues c t g e) (hc : c.tid ≠ 0) (ha : actLanes g e always = [0]) (hl : 0 < g.lanes.length)
    (hm : (g.thread 0).mx = true) (ho : s.streamOpen t c.grp 0 = false) (hr : resolveAt true g 0 tr 1 = .ok (.v slot))
    (h1 : (g.thread 0).windowBase ≤ slot) (h2 : slot < (g.thread 0).windowBase + (g.thread 0).columns) (h3 : (slot - (g.thread 0).windowBase) % 4 = 0)
    (h4 : g.clean 0 a 2) (h5 : g.clean 0 x 1)
    (h6 : ∀ y ∈ slotsOf g 0 (.v slot) ((g.thread 0).windowBase + (g.thread 0).columns - slot), y.st = .full ∧ y.poison = false)
    (hn : a.isNull = false)
    (h7 : (BitVec.ofInt 64 ((g.val 0 a 2 : Int) + asSigned (g.val 0 x 1) + 16 * ofs.toInt)).toNat % 16 = 0) (hf : t.ifr.length < 512)
    (hp : passes (s.accessAll c.tid c.grp 0 (fun y => y.w) (linePieces (BitVec.ofInt 64 ((g.val 0 a 2 : Int) + asSigned (g.val 0 x 1) + 16 * ofs.toInt))
      10 (4 * ((g.thread 0).windowBase + (g.thread 0).columns - slot))
      (slotsVal (slotsOf g 0 (.v slot) ((g.thread 0).windowBase + (g.thread 0).columns - slot))))) t = true) :
    Goes (.mxst always tr a x ofs 0 0 0) s := by
  generalize hq : s.accessAll _ _ _ _ _ = r at hp
  cases r with
  | error _ => cases hp
  | ok z => exact goes_of (((h s c t g e always 0 hi hc ha hl hm ho).2 tr a x ofs 0 0 0 slot hr h1 h2 h3 h4 h5 h6).2 hn h7 hf _ _ hq
      (Option.isNone_iff_eq_none.1 hp))

/-- The weaver where its context's range begins at 0. -/
def near0 : State :=
  { loom (weaver true) [frame [MxRow.fresh 0 0 128]] with
    ctxs := [{ owner with rr := [⟨0, 0xF, 0x20000, 0, 0, false, false, false, true, true, true⟩] }] }

theorem issues_near0 : near0.issues ⟨1, 0, 0⟩ (loomTeam (weaver true)) (weaver true).1 (Entry.at 0x1000 5 1 false) := ⟨rfl, rfl, by decide⟩

theorem witness_GridReadsAndStores (h : Obligations.GridReadsAndStores) :
    Goes (.mxrd always (vr 0) (vr 64) 1) (loom (weaver true) [frame [MxRow.fresh 0 0 128]]) ∧
    Goes (.mxst always (vr 68) Reg.null (vr 0) 224 0 0 3) (loom (weaver true) [frame [MxRow.fresh 0 0 128]]) ∧
    Goes (.mxst always (vr 68) (vr 0) Reg.null 4 0 0 0) near0 := by
  have k := h _ _ _ _ _ always 0 (issues_loom true [] [frame [MxRow.fresh 0 0 128]]) (by decide) rfl (by decide) rfl rfl
  have k1 := k.1 (vr 0) (vr 64) 1 64 rfl (by decide) (by decide) (by decide +kernel) ⟨_, rfl⟩
  have k2 := k.2 (vr 68) Reg.null (vr 0) 224 0 0 3 68 rfl (by decide) (by decide) (by decide) ⟨⟨_, rfl⟩, rfl⟩ ⟨⟨_, rfl⟩, rfl⟩ (by decide +kernel)
  have k3 := k2.1 rfl (by decide) ⟨by decide, by decide, by decide, nofun⟩ (by decide)
  have k4 := goes_mxst h (tr := vr 68) (a := vr 0) (x := Reg.null) (ofs := 4) issues_near0 (by decide) rfl (by decide) rfl rfl (slot := 68) rfl
    (by decide) (by decide) (by decide) ⟨⟨_, rfl⟩, rfl⟩ ⟨⟨_, rfl⟩, rfl⟩ (by decide +kernel) rfl (by decide) (by decide)
  exact ⟨goes_of k1, goes_of k3, k4 (by decide +kernel)⟩

/-! ### Handles, code, copies -/

/-- The one thread, with handle 3 in the state given. -/
def carrier (h : Handle) : State :=
  { field (holding [0x400000, 0, 0, 0]) with
    teams := [{ squad (holding [0x400000, 0, 0, 0]) with handles := (List.replicate 32 Handle.free).set 3 h }] }

theorem issues_carrier (h : Handle) : (carrier h).issues ⟨1, 0, 0⟩
    { squad (holding [0x400000, 0, 0, 0]) with handles := (List.replicate 32 Handle.free).set 3 h } (holding [0x400000, 0, 0, 0])
    (Entry.at 0x1000 5 1 false) := ⟨rfl, rfl, by decide⟩

theorem goes_inTurn {s : State} {i : Instr} {gd : Guard} {srcs : List (Reg × Nat)} {can : Cur → Prop} {ready : Cur → Team → State → Nat → Prop}
    {eff : Cur → Team → State → Nat → State} {c : Cur} {t : Team} {g : Group} {e : Entry} (h : s.inTurn i gd srcs can ready eff)
    (hi : s.issues c t g e) (hc : can c) (ha : actLanes g e gd = [0]) (hs : ∀ x ∈ srcs, g.has 0 x.1 x.2) (hr : ready c t s 0) : Goes i s :=
  goes_of (h c t g e hi hc (by rw [ha]; exact on0 hs) (by rw [ha]; exact ⟨hr, trivial⟩))

theorem witness_BufferHandles (h : Obligations.BufferHandles) :
    Goes (.hwait always 3 1) (carrier ⟨.full, 64, 64, 4, false, false⟩) ∧ Goes (.hwait always 3 1) (carrier Handle.free) ∧
    Goes (.hrel always 3) (carrier ⟨.full, 64, 64, 2, false, false⟩) ∧ Goes (.hrel always 3) (carrier Handle.free) ∧
    Goes (.hstat always (vr 2) 3) (carrier ⟨.filling, 64, 32, 2, false, false⟩) ∧
    Goes (.handleDrainEnd 1 3) (carrier ⟨.draining, 64, 64, 2, false, false⟩) := by
  exact ⟨goes_inTurn ((h _).1 _ _ _) (issues_carrier _) trivial rfl nofun (.inl rfl),
    goes_inTurn ((h _).1 _ _ _) (issues_carrier _) trivial rfl nofun (.inr rfl),
    goes_inTurn ((h _).2.1 _ _) (issues_carrier _) trivial rfl nofun ⟨nofun, fun _ => rfl⟩,
    goes_inTurn ((h _).2.1 _ _) (issues_carrier _) trivial rfl nofun ⟨nofun, fun _ => rfl⟩,
    goes_inTurn ((h _).2.2.1 _ _ _) (issues_carrier _) trivial rfl nofun ⟨_, rfl⟩,
    ⟨_, (h (carrier ⟨.draining, 64, 64, 2, false, false⟩)).2.2.2 1 3 _ rfl rfl rfl⟩⟩

/-- The one thread, whose V0:V1 hold 0x400000, in a context that may execute there, with the segments given. -/
def library (code : List Segment) : State :=
  { field (holding [0x400000, 0, 0, 0]) with
    ctxs := [{ owner with rr := [⟨0x400, 0x40F, 0x20000, 0, 0, false, false, false, true, true, true⟩] }], code := code }

theorem issues_library (code : List Segment) : (library code).issues ⟨1, 0, 0⟩ (squad (holding [0x400000, 0, 0, 0]))
    (holding [0x400000, 0, 0, 0]) (Entry.at 0x1000 5 1 false) := issues_alone rfl rfl (show (1 : BitVec 32) ≠ 0 by decide) rfl

/-- Segment 0x400 on core 0. -/
def chapter (there : Bool) (holders : List Nat) : Segment := ⟨0, 0x31, 0x400, there, holders, [], [], false, 0x20000, 1, .no⟩

def isOk {ε α : Type} (r : Except ε α) : Bool :=
  match r with
  | .ok _ => true
  | .error _ => false

theorem ok_of {ε α β : Type} {r : Except ε (α × β)} (h : isOk r = true) : ∃ x y, r = .ok (x, y) := by
  cases r with
  | error _ => cases h
  | ok x => exact ⟨_, _, rfl⟩

/-- A team that was launched with all its pages. -/
def bound : Team := { squad (holding [0x400000, 0, 0, 0]) with preload := true }

theorem witness_CodePages (h : Obligations.CodePages) :
    Goes (.cfetch always (vr 0) 1) { library [] with teams := [bound] } ∧
    Goes (.cfetch always (vr 0) 1) (library []) ∧ Goes (.cfetch always (vr 0) 1) (library [chapter false [7]]) ∧
    Goes (.cfetch always (vr 0) 1) (library [chapter true [7]]) ∧ Goes (.cfetch always (vr 0) 1) (library [chapter true [1, 7]]) ∧
    Goes (.cwait always (vr 0)) (library [chapter true [1, 7]]) ∧ Goes (.cevict always (vr 0)) (library [chapter true [1, 7]]) ∧
    Goes (.jmpf always (vr 0) 3 0) (library [chapter true [1, 7]]) ∧ Goes (.callf always (vr 0) 3 0) (library [chapter true [1, 7]]) ∧
    Goes (.codeFetchCompletion 0 0) (library [chapter false [7]]) := by
  have hv : (holding [0x400000, 0, 0, 0]).clean 0 (vr 0) 2 := ⟨⟨_, rfl⟩, rfl⟩
  have q (code) (hq : isOk ((library code).access 1 0 0 (BitVec.ofNat 64 ((holding [0x400000, 0, 0, 0]).val 0 (vr 0) 2 % 2 ^ 56 / 4096 * 4096))
      fun r => r.x) = true) (hn : 0x400 ∉ (library code).heldPages 1) : Goes (.cfetch always (vr 0) 1) (library code) :=
    have ⟨_, _, a⟩ := ok_of hq
    goes_of (((h _).1 _ _ _ _ always 0 (vr 0) 1 (issues_library code) (by decide) rfl hv (by decide)).2 _ _ (by decide) hn a)
  have k := (h (library [chapter true [1, 7]])).2.2.2.1 _ _ _ _ always (vr 0) 3 0 (issues_library _) (by decide) (by decide) (on0 ⟨hv, by decide, ⟨_, rfl, rfl⟩⟩)
  have hb : ({ library [] with teams := [bound] } : State).issues ⟨1, 0, 0⟩ bound (holding [0x400000, 0, 0, 0]) (Entry.at 0x1000 5 1 false) :=
    ⟨rfl, rfl, by decide⟩
  exact ⟨goes_of (((h _).1 _ _ _ _ always 0 (vr 0) 1 hb (by decide) rfl hv (by decide)).1 (.inl (by decide))),
    q _ (by decide +kernel) (by decide), q _ (by decide +kernel) (by decide), q _ (by decide +kernel) (by decide),
    goes_of (((h _).1 _ _ _ _ always 0 (vr 0) 1 (issues_library [chapter true [1, 7]]) (by decide) rfl hv (by decide)).1 (.inr (by decide))),
    goes_inTurn ((h _).2.1 _ _) (issues_library _) trivial rfl (src1 hv.1) ⟨hv, fun _ => ⟨_, rfl, by decide, rfl⟩⟩,
    goes_inTurn ((h _).2.2.1 _ _) (issues_library _) trivial rfl (src1 hv.1) hv,
    goes_of k.1, goes_of (k.2 (on0 ⟨_, rfl⟩)), goes_of2 ((h (library [chapter false [7]])).2.2.2.2 0 0 _ rfl rfl rfl (by decide) (by decide) (by decide +kernel))⟩

/-- A template: 16 words, contiguous, from memory to palettes, scope DEVICE. -/
def words16 : BitVec 512 := BitVec.ofNat 512 0xF1042000000000000

/-- One thread whose V0:V1 hold 0x400000 and V2 0x100, V3 the team mask; its team has that template, its partition one engine. -/
def mover : Team := { squad (holding [0x400000, 0, 0x100, 1]) with templates := [some words16] }

def depot (cmds : List Copy) : State :=
  { field (holding [0x400000, 0, 0x100, 1]) with
    teams := [mover], engines := [⟨0, some 0, cmds⟩, ⟨1, none, []⟩], sectors := [⟨0xC00, 0x800, 0, 1, 1, false, []⟩], mem := Memory.writeN [] 0x30000 4 7 }

theorem issues_depot (cmds : List Copy) : (depot cmds).issues ⟨1, 0, 0⟩ mover (holding [0x400000, 0, 0x100, 1]) (Entry.at 0x1000 5 1 false) :=
  (issues_alone rfl rfl (show (1 : BitVec 32) ≠ 0 by decide) rfl)

theorem has_of {g : Group} {l : Nat} {r : Reg} {n : Nat} (h : isOk (readSrc g l r n) = true) : g.has l r n := by
  unfold Group.has
  generalize readSrc g l r n = x at h
  cases x with
  | error _ => cases h
  | ok y => exact ⟨y, rfl⟩

/-- The value of a register of that thread, of `n` words or, where the template says it names memory, of two. -/
def given (r : Reg) (m : Nat) : Nat := (holding [0x400000, 0, 0x100, 1]).val 0 r (if m = 0 then 2 else 1)

/-- The command that COPY or COPYM makes there, before its pages are looked up. -/
def errand (multi : Bool) : Copy :=
  ⟨(depot []).fresh + 1, (⟨1, 0, 0⟩ : Cur).tid, mover.ctx, 0, multi, false, words16, BitVec.ofNat 64 (given (vr 0) (Tmpl.src words16)),
    BitVec.ofNat 64 (given (vr 2) (Tmpl.dst words16)), (1 : BitVec 5).toNat, [], given (vr 2) (Tmpl.dst words16), [], [], [], 0,
    [], [], [], false⟩

def fetched (multi : Bool) : State × CopyPages :=
  match (depot []).copyPages ⟨1, 0, 0⟩ 0 (errand multi) with
  | .ok z => z
  | .error _ => (depot [], ⟨[], [], []⟩)

theorem fetched_eq {multi : Bool} (h : isOk ((depot []).copyPages ⟨1, 0, 0⟩ 0 (errand multi)) = true) :
    (depot []).copyPages ⟨1, 0, 0⟩ 0 (errand multi) = .ok ((fetched multi).1, (fetched multi).2) := by
  unfold fetched
  generalize (depot []).copyPages ⟨1, 0, 0⟩ 0 (errand multi) = r at h
  cases r with
  | error _ => cases h
  | ok z => rfl

/-- The state that holds the command's name and its class, and the command with its pages. -/
def named (multi : Bool) : State × Copy :=
  let p := (fetched multi).2
  let cls := p.src.foldl (fun q y => clsJoin q y.2.1.cls) 0
  let s2 := (fetched multi).1.updTeam (⟨1, 0, 0⟩ : Cur).tid fun u => { u with cls := clsJoin u.cls cls }
  ({ s2 with fresh := s2.fresh + 1 },
   { errand multi with dsts := [], src := p.src.map (·.1), vers := p.vers, dst := p.dst.map (·.1), cls := cls,
                       beats := Tmpl.beats words16 (errand multi).dests, recvs := [1].map fun tid => ⟨tid, [], false⟩ })

theorem of_team1 {p : Team → Prop} (h : p mover) : ∀ tid ∈ [1], ∀ u, (depot []).team? tid = some u → p u := by
  intro tid ht u hu
  cases List.mem_singleton.1 ht
  cases hu
  exact h

/-- Whether there is a state, and its team 1 passes a test there. -/
def roomy (r : Option State) (p : State → Team → Bool) : Bool :=
  match r with
  | some z => (z.team? 1).all (p z)
  | none => false

theorem room_of {r : Option State} {p : State → Team → Bool} (h : roomy r p = true) :
    ∃ z, r = some z ∧ ∀ u, z.team? 1 = some u → p z u = true := by
  cases r with
  | none => cases h
  | some z => exact ⟨z, rfl, fun u hu => by simpa [roomy, hu] using h⟩

/-- The bytes of that template's box. -/
def boxful : Nat :=
  Tmpl.w words16 * (Tmpl.ext words16 0 + 1) * ((Tmpl.ext words16 1 + 1) * (Tmpl.ext words16 2 + 1) * (Tmpl.ext words16 3 + 1))

/-- The one split of a list of one. -/
theorem one_split {a b : Nat} {pre post : List Nat} (h : [a] = pre ++ b :: post) : pre = [] ∧ b = a := by
  cases pre with
  | nil => exact ⟨rfl, (List.cons.inj h).1.symm⟩
  | cons x xs => cases xs <;> cases (List.cons.inj h).2

theorem witness_Copies (h : Obligations.Copies) :
    Goes (.copy always (vr 2) (vr 0) (vr 3) 0 1) (depot []) ∧ Goes (.copym always (vr 2) (vr 0) (vr 3) 0 1) (depot []) := by
  have key (multi) (hq : isOk ((depot []).copyPages ⟨1, 0, 0⟩ 0 (errand multi)) = true)
      (hcls : ∀ y ∈ (fetched multi).2.dst, clsDominates y.2.1.cls (clsJoin mover.cls ((fetched multi).2.src.foldl (fun q y => clsJoin q y.2.1.cls) 0)) = true)
      (hnow : ([1], ([] : List Nat)) =
        (if multi then (depot []).receivers mover ((holding [0x400000, 0, 0x100, 1]).val 0 (vr 3) 1) else (if Tmpl.dst words16 = 2 then [] else [1], [])))
      (hpal : ∀ o ∈ (errand multi).dests, 0 ≤ o ∧
        o + (Tmpl.w words16 * (Tmpl.ext words16 0 + 1) : Nat) ≤ mover.palSize)
      (hreg : roomy ((named multi).1.register ((named multi).1.copyLocks (named multi).2))
        (fun z u => z.canPost u (1 : BitVec 5).toNat boxful) = true) :=
    have ⟨z, r, room⟩ := room_of hreg
    goes_of (h (depot []) _ _ _ _ always 0 (vr 2) (vr 0) (vr 3) 0 1 multi owner words16 (fetched multi).1 (fetched multi).2 [] [1] []
      (issues_depot []) (by decide) rfl rfl (by decide +kernel) ⟨_, List.mem_cons_self, rfl⟩ (fun _ => by decide +kernel) (by decide +kernel)
      (by decide +kernel) ⟨has_of (by decide +kernel), by decide +kernel⟩ ⟨has_of (by decide +kernel), by decide +kernel⟩
      (And.intro (has_of (by decide +kernel)) (by decide +kernel)) (by decide +kernel) (by decide +kernel) (fun k => absurd k (by decide +kernel)) (fetched_eq hq)
      (fun _ => by decide +kernel) (fun k => absurd k (by decide +kernel)) (fun _ => rfl) hcls hnow
      (fun _ tid ht => of_team1 hpal tid (by simpa using ht)) (by decide) ⟨0, some 0, []⟩ _ List.mem_cons_self rfl
      (by decide) (by decide) (by decide) r (fun pre tid post u hn => by
        obtain ⟨rfl, rfl⟩ := one_split hn
        exact room u))
  exact ⟨key false (by decide +kernel) (by decide +kernel) (by decide +kernel) (by decide +kernel) (by decide +kernel),
    key true (by decide +kernel) (by decide +kernel) (by decide +kernel) (by decide +kernel) (by decide +kernel)⟩

/-- That command in the engine's queue. -/
def cargo : Copy := (named false).2

/-- Its one beat. -/
def bale : Beat := ⟨0, 16, false, none⟩

theorem runs_cargo : ∀ r ∈ cargo.runs bale, r.src = 0x400000 ∧ r.dst = 0x100 := by decide +kernel

theorem gated_of {r : State × Bool} (h : r.2 = true) : ∃ s0, r = (s0, true) := ⟨r.1, by rw [← h]⟩

theorem witness_CopyBeats (h : Obligations.CopyBeats) : Goes (.copyBeat 0 0) (depot [cargo]) := by
  have ⟨s0, hg⟩ := gated_of (show ((depot [cargo]).gateAll cargo.ctx (.beat cargo.id 0)
    ((cargo.touches 0 bale).map fun x => (x.dia, 1, x.kind == 3))).2 = true by decide +kernel)
  exact goes_of (h (depot [cargo]) 0 0 mover ⟨0, some 0, [cargo]⟩ cargo bale s0
    rfl rfl (by decide +kernel) (fun _ hy => nomatch hy) rfl rfl rfl rfl rfl (by decide +kernel) rfl rfl
    (by decide +kernel) (by decide +kernel) (by decide +kernel) (by decide +kernel)
    hg (by decide +kernel) (by decide +kernel) (by decide +kernel) (by decide +kernel)
    fun r hr q hq i j _ _ e => by have := runs_cargo r hr; have := runs_cargo q hq; omega)

/-! ### Raster, textures, rays, signatures -/

/-- A draw of two primitives at 0x401000 into tile 0, flat, without samples. -/
def draw : Nat := 0x3F800000000311000000000100000000000030000000000700000000000000000000000000401000

/-- One triangle's vertices. -/
def triangle : Nat := 0x3F8000003F00000041A000003F8000003F8000003F0000003F80000041A000003F8000003F0000003F8000003F800000

/-- One thread whose V0:V1 hold 0x402000 and V2 0x1000, in a team with a palette of 32 KiB; the descriptor lies at 0x402000. -/
def painter (h : Handle) : Team :=
  { squad (holding [0x402000, 0, 0x1000, 0]) with palSize := 32768, handles := (List.replicate 32 Handle.free).set 1 h }

def studio (d : Nat) (h : Handle) (rs : List Raster) : State :=
  { field (holding [0x402000, 0, 0x1000, 0]) with
    teams := [painter h], rasters := rs, mem := Memory.writeN (Memory.writeN [] 0x31000 48 triangle) 0x32000 64 d
    sectors := [⟨0xC40, 0x840, 0, 1, 1, false, []⟩, ⟨0xC80, 0x880, 0, 1, 1, false, []⟩] }

theorem issues_studio (d : Nat) (h : Handle) (rs : List Raster) : (studio d h rs).issues ⟨1, 0, 0⟩ (painter h) (holding [0x402000, 0, 0x1000, 0])
    (Entry.at 0x1000 5 1 false) := issues_alone rfl rfl (show (1 : BitVec 32) ≠ 0 by decide) rfl

/-- What a descriptor's read answers. -/
def answered (s : State) (r : Try (State × Rd)) : State × Rd :=
  match r with
  | .ok z => z
  | .error _ => (s, ⟨0, true, false⟩)

theorem answered_eq {s : State} {r : Try (State × Rd)} (h : isOk r = true) : r = .ok ((answered s r).1, (answered s r).2) := by
  cases r with
  | error _ => cases h
  | ok z => rfl

/-- The read of that descriptor. -/
def sketch (d : Nat) : Try (State × Rd) :=
  (studio d Handle.free []).descRead ⟨1, 0, 0⟩ 0 (BitVec.ofNat 64 ((holding [0x402000, 0, 0x1000, 0]).val 0 (vr 0) 2)) 64

def sketched (d : Nat) : State × Rd := answered (studio d Handle.free []) (sketch d)

theorem witness_RasterIssue (h : Obligations.RasterIssue) :
    Goes (.rast always (vr 2) (vr 0) 1) (studio 0 Handle.free []) ∧ Goes (.rast always (vr 2) (vr 0) 1) (studio draw Handle.free []) := by
  have hv : (holding [0x402000, 0, 0x1000, 0]).clean 0 (vr 0) 2 := ⟨⟨_, rfl⟩, rfl⟩
  have hd : (holding [0x402000, 0, 0x1000, 0]).clean 0 (vr 2) 1 := ⟨⟨_, rfl⟩, rfl⟩
  have k (d : Nat) (hq : isOk (sketch d) = true) (ht : (sketched d).1.team? 1 = some (painter Handle.free)) :=
    h (studio d Handle.free []) _ _ _ _ always 0 (vr 2) (vr 0) 1 (sketched d).1 (sketched d).2 (painter Handle.free) (issues_studio d _ [])
      (by decide) rfl hd hv rfl (by decide) (answered_eq hq) ht
  have k1 := k 0 (by decide +kernel) (by decide +kernel)
  have k2 := k draw (by decide +kernel) (by decide +kernel)
  have hr : (State.register { (sketched draw).1 with fresh := (sketched draw).1.fresh + 1 } [((painter Handle.free).core / 4,
    ⟨(sketched draw).1.fresh + 1, some (⟨1, 0, 0⟩ : Cur).tid, (holding [0x402000, 0, 0x1000, 0]).val 0 (vr 2) 1 / 64 * 64,
     ((holding [0x402000, 0, 0x1000, 0]).val 0 (vr 2) 1 + (256 + 12288 * 2 ^ RDesc.scode (BitVec.ofNat 512 (sketched draw).2.val)) + 63) / 64 * 64,
     true⟩)]).isSome = true := by decide +kernel
  have ⟨_, hr⟩ := Option.isSome_iff_exists.1 hr
  exact ⟨goes_of (k1.1 (.inr (by decide +kernel)) (by decide +kernel)),
    goes_of (k2.2 (by decide +kernel) (by decide +kernel) (by decide) (by decide +kernel) (by decide +kernel) (by decide) (by decide) _ hr)⟩

/-- A command of that draw in the rasteriser's queue of panel 0, at its primitive `n`. -/
def stroke (d n : Nat) : Raster := ⟨5, 1, 0x31, 0, 0, 1, 0x1000, BitVec.ofNat 512 d, n, true, true, none, []⟩

def canvas (d n : Nat) : State := studio d ⟨.filling, 12544, 0, 2, false, false⟩ [stroke d n]

/-- The same where the context may not read. -/
def barred : State := { canvas draw 0 with ctxs := [{ owner with rr := [{ window with r := false }] }] }

def isNext (r : Host.Outcome State Fault Refusal) : Bool :=
  match r with
  | .next _ => true
  | _ => false

theorem next_of {r : Host.Outcome State Fault Refusal} (h : isNext r = true) : ∃ s', r = .next s' := by
  cases r with
  | next s' => exact ⟨s', rfl⟩
  | fault _ => cases h
  | refused _ => cases h

theorem fetch_ok {x : State × Except (Option RasterRead) (List Nat)} (h : isOk x.2 = true) : ∃ s2 raw, x = (s2, .ok raw) := by
  obtain ⟨s2, r⟩ := x
  cases r with
  | error _ => cases h
  | ok raw => exact ⟨s2, raw, rfl⟩

def isBad {α : Type} (r : Except (Option RasterRead) α) : Bool :=
  match r with
  | .error (some .bad) => true
  | _ => false

theorem fetch_bad {x : State × Except (Option RasterRead) (List Nat)} (h : isBad x.2 = true) : ∃ s2, x = (s2, .error (some .bad)) := by
  match x, h with
  | (s2, .error (some .bad)), _ => exact ⟨s2, rfl⟩

theorem ex2_of {p q r : Team → Prop} (h : ∃ t, p t ∧ q t ∧ r t) : ∃ t, p t ∧ q t :=
  have ⟨t, a, b, _⟩ := h; ⟨t, a, b⟩

theorem witness_RasterSteps (h : Obligations.RasterSteps) :
    (∃ s' t', exec (.rasterCommand 0) (canvas draw 0) = .next s' ∧ s'.team? 1 = some t' ∧ t'.groups = (painter ⟨.filling, 12544, 0, 2, false, false⟩).groups) ∧
    Goes (.rasterCommand 0) barred ∧ Goes (.rasterCommand 0) (canvas draw 2) := by
  have k (d n) (hs : 0x1000 + (256 + 12288 * 2 ^ RDesc.scode (stroke d n).desc) ≤ 32768) := h (canvas d n) 0 (stroke d n) []
    (painter ⟨.filling, 12544, 0, 2, false, false⟩) rfl rfl (fun _ hy => nomatch hy) (by simp [canvas, studio, stroke])
    (by simp [canvas, studio, stroke]) rfl rfl (show (1 : Nat) ≠ 0 by decide) rfl rfl rfl rfl (by simp [canvas, studio]) hs
  have k1 := (k draw 0 (by decide +kernel)).1
  have k2 := (h barred 0 (stroke draw 0) [] (painter ⟨.filling, 12544, 0, 2, false, false⟩) rfl rfl (fun _ hy => nomatch hy)
    (by simp [barred, canvas, studio, stroke]) (by simp [barred, canvas, studio, stroke]) rfl rfl (show (1 : Nat) ≠ 0 by decide) rfl rfl rfl rfl
    (by simp [barred, canvas, studio]) (by decide +kernel)).2.1
  have k3 := (k draw 2 (by decide +kernel)).2.2
  have ⟨_, _, f1⟩ := fetch_ok (show isOk ((canvas draw 0).rasterFetch 7 (stroke draw 0)).2 = true by decide +kernel)
  have ⟨_, f2⟩ := fetch_bad (show isBad (barred.rasterFetch 7 (stroke draw 0)).2 = true by decide +kernel)
  have ⟨s1, e1⟩ := next_of (show isNext (exec (.rasterCommand 0) (canvas draw 0)) = true by decide +kernel)
  have j1 := k1 _ _ s1 (by decide +kernel) f1
  have ⟨t1, a, b⟩ := ex2_of (j1 (by decide +kernel) nofun e1)
  exact ⟨⟨s1, t1, e1, a, b⟩, goes_of2 (k2 _ (by decide +kernel) f2 (by decide)), goes_of2 (k3 (by decide +kernel) (by decide) rfl)⟩

theorem admitted_holding (vs : List Nat) (f : LaneForm) : f.admitted (field (holding vs)) := fun _ c t g e hi => by
  obtain ⟨hi, -⟩ := hi; cases hi; rfl

/-- The tile at 0x1000 is being written. -/
def drying : State :=
  { studio 0 Handle.free [] with
    panels := (studio 0 Handle.free []).panels.map fun p => if p.num = 0 then { p with locks := [⟨9, some 1, 0x1000, 0x4100, true⟩] } else p }

/-- The same place where the sample's number is 1,024. -/
def beyond : State :=
  { field (holding [0x402000, 0, 0x1000, 1024]) with teams := [{ squad (holding [0x402000, 0, 0x1000, 1024]) with palSize := 32768 }] }

theorem witness_VisibilitySamples (h : Obligations.VisibilitySamples) :
    Goes (.visld always (vr 0) (vr 2) (vr 3) 0) (studio 0 Handle.free []) ∧ Goes (.visld always (vr 0) (vr 2) (vr 3) 1) (studio 0 Handle.free []) ∧
    Goes (.visld always (vr 0) (vr 2) (vr 3) 0) drying ∧ Goes (.visld always (vr 0) (vr 2) (vr 3) 0) beyond ∧
    Goes (.bary always (vr 0) (vr 4) (vr 8) (vr 12)) (field (holding [0, 0, 0, 0, 0, 0, 0, 0, 0, 0, 0, 0, 0, 0, 0, 0])) := by
  have k (pos) := ((h (studio 0 Handle.free [])).1 _ _ _ _ always (vr 0) (vr 2) (vr 3) pos 0 0x4000 (issues_studio 0 _ []) (by decide) rfl
    ⟨⟨_, rfl⟩, rfl⟩ ⟨⟨_, rfl⟩, rfl⟩ (by decide) (by decide)).1 (by decide +kernel) (by decide +kernel) (by decide +kernel) (by decide +kernel)
    (by decide +kernel)
  have k1 := k 0 ⟨_, rfl⟩ rfl
  have k2 := k 1 ⟨_, rfl⟩ rfl
  have ⟨x, hx⟩ := Option.isSome_iff_exists.1 (show (drying.lockHit (painter Handle.free) (some 1) 0x1000 (0x1000 + 8) false).isSome = true by
    decide +kernel)
  have k4 := ((h drying).1 ⟨1, 0, 0⟩ (painter Handle.free) _ (Entry.at 0x1000 5 1 false) always (vr 0) (vr 2) (vr 3) 0 0 0x4000
    (issues_alone rfl rfl (show (1 : BitVec 32) ≠ 0 by decide) rfl) (by decide) rfl ⟨⟨_, rfl⟩, rfl⟩ ⟨⟨_, rfl⟩, rfl⟩ (by decide) (by decide)).2
    ⟨by decide, rfl, rfl, by decide⟩ (by decide) (by decide)
  have k5 := ((h beyond).1 ⟨1, 0, 0⟩ _ _ (Entry.at 0x1000 5 1 false) always (vr 0) (vr 2) (vr 3) 0 0 0x4000
    (issues_alone rfl rfl (show (1 : BitVec 32) ≠ 0 by decide) rfl) (by decide) rfl ⟨⟨_, rfl⟩, rfl⟩ ⟨⟨_, rfl⟩, rfl⟩ (by decide) (by decide)).2
    ⟨by decide, rfl, rfl, by decide⟩ (by decide) (by decide)
  have k3 := (h (field (holding [0, 0, 0, 0, 0, 0, 0, 0, 0, 0, 0, 0, 0, 0, 0, 0]))).2 always (vr 0) (vr 4) (vr 8) (vr 12) (admitted_holding _ _)
  refine ⟨goes_of k1, goes_of k2, goes_of (k4.1 x hx), goes_of (k5.2 (by decide +kernel) (by decide +kernel)), goes_lanewise k3 (issues_holding _) (on0 ⟨?_, ⟨_, rfl⟩, .inl rfl⟩)⟩
  intro x hx
  simp only [List.mem_cons, List.not_mem_nil, or_false] at hx
  rcases hx with rfl | rfl | rfl | rfl <;> exact ⟨_, rfl⟩

/-- One thread whose V0:V1 hold 0x400080 and whose other registers hold 0. -/
def idle : List Nat := [0x400080, 0, 0, 0, 0, 0, 0, 0, 0, 0, 0, 0]

/-- A sample that is not held by a gate. -/
theorem goes_sample {i : Instr} {s : State} {r : State × Option TexOut} {p : State → TexOut → State → Prop}
    (h : ∀ s1 o, r = (s1, some o) → ∃ s', exec i s = .next s' ∧ p s1 o s') (hr : r.2.isSome = true) : Goes i s :=
  have ⟨o, ho⟩ := Option.isSome_iff_exists.1 hr
  goes_of (h r.1 o (by rw [← ho]))

/-- A texture of 4 by 4 texels whose descriptor lies at 0x402000, where core 0 has a copy of it. -/
def mosaic : State :=
  let d := 0x404000 + 2 ^ 64 * (3 + 2 ^ 16 * 3 + 2 ^ 36)
  { studio d Handle.free [] with l1 := [⟨0, 0x880, d, 1, 1, false⟩] }

theorem issues_mosaic : mosaic.issues ⟨1, 0, 0⟩ (painter Handle.free) (holding [0x402000, 0, 0x1000, 0]) (Entry.at 0x1000 5 1 false) :=
  issues_alone rfl rfl (show (1 : BitVec 32) ≠ 0 by decide) rfl

def isTex {α : Type} (r : TexTry α) : Bool :=
  match r with
  | .ok _ => true
  | _ => false

theorem tex_of {α β : Type} {r : TexTry (α × β)} (h : isTex r = true) : ∃ x y, r = .ok (x, y) := by
  cases r with
  | ok x => exact ⟨x.1, x.2, rfl⟩
  | bad => cases h
  | gated => cases h

theorem witness_Textures (h : Obligations.Textures) :
    Goes (.tex always (vr 0) (vr 0) (vr 2) (vr 2) 0 0 7) mosaic ∧ Goes (.texq always (vr 0) (vr 0) (vr 2)) mosaic ∧
    (∃ v, (mosaic.sample (painter Handle.free) 3 0 false false 0x402000).2.map (·.res) = some v) ∧
    Goes (.accessAtHome 1 0 0 0) (flying (.tex 0 0 false 7) (.v 4) (word4 0 0)) := by
  have k1 := (h mosaic).1 always (vr 0) (vr 0) (vr 2) (vr 2) 0 0 7 _ _ _ _ 0 issues_mosaic rfl (by decide) rfl
    ⟨⟨_, rfl⟩, rfl⟩ ⟨_, rfl⟩ ⟨_, rfl⟩ (fun _ => ⟨⟨_, rfl⟩, rfl⟩) nofun (by decide) ⟨_, rfl⟩ (fun _ => ⟨by decide, by decide⟩)
  have k2 := (h mosaic).2.2.1 always (vr 0) (vr 0) (vr 2) _ _ _ _ 0 issues_mosaic rfl (by decide) rfl
    ⟨⟨_, rfl⟩, rfl⟩ ⟨_, rfl⟩ ⟨_, rfl⟩ nofun nofun (by decide) ⟨_, rfl⟩ nofun
  have k3 := (h (flying (.tex 0 0 false 7) (.v 4) (word4 0 0))).2.2.2.2 1 0 0 0 _ _ _ _ 0 0 false 7 rfl rfl rfl rfl rfl rfl rfl rfl rfl rfl rfl (by decide +kernel)
    (by decide +kernel) rfl
  have ⟨_, _, k4⟩ := tex_of (show isTex (mosaic.texDesc (painter Handle.free) false (BitVec.ofNat 64 0x402000)).2 = true by decide +kernel)
  have ⟨s0, hg⟩ := gated_of (show ((flying (.tex 0 0 false 7) (.v 4) (word4 0 0)).gateAll 0x31 (.texels 1 0 0) []).2 = true by decide +kernel)
  exact ⟨goes_sample k1 (by decide +kernel), goes_sample k2 (by decide +kernel), ⟨_, (h mosaic).2.2.2.1 _ _ _ _ _ k4⟩, goes_of2 (k3 _ _ rfl hg)⟩

/-- The ground with a residency request of page 2, and its partition's log. -/
def logged (r : ResLog) : State := { ground with resReqs := [(2, 0x31)], parts := [{ Partition.formed 0 1 64 with res := r }] }

/-- A log whose every record is taken. -/
def brimming : ResLog := ⟨Memory.writeN [] 0 4 1024, []⟩

theorem witness_Marks (h : Obligations.Marks) :
    Goes (.rsmark always (vr 3)) (studio 0 Handle.free []) ∧
    (∃ s' p', exec (.residencyRequest 0) (logged ⟨[], [(2, 0)]⟩) = .next s' ∧ s'.part? (2 * 65536 / 2 ^ 44) = some p' ∧ p'.res = ⟨[], [(2, 0)]⟩) ∧
    (∃ s' p', exec (.residencyRequest 0) (logged ⟨[], []⟩) = .next s' ∧ s'.part? (2 * 65536 / 2 ^ 44) = some p' ∧ p'.res.last = [(2, 0)]) ∧
    (∃ s' p', exec (.residencyRequest 0) (logged brimming) = .next s' ∧ s'.part? (2 * 65536 / 2 ^ 44) = some p' ∧
      p'.res = brimming.setWord 8 1) := by
  have k1 := goes_inTurn ((h (studio 0 Handle.free [])).1 always (vr 3)) (issues_studio 0 _ []) trivial rfl (src1 ⟨_, rfl⟩) ⟨⟨⟨_, rfl⟩, rfl⟩, fun v hv => by
    cases hv; exact ⟨by decide, by decide, rfl, nofun⟩⟩
  have k (r) := (h (logged r)).2 0 2 0x31 _ rfl rfl
  have ⟨s2, p2, a2, b2, _, _, _, j2, _⟩ := k ⟨[], [(2, 0)]⟩
  have ⟨s3, p3, a3, b3, _, _, _, _, j3⟩ := k ⟨[], []⟩
  have ⟨s4, p4, a4, b4, _, _, _, _, j4⟩ := k brimming
  have l3 := j3 (fun _ hy => nomatch hy)
  have l4 := j4 (fun _ hy => nomatch hy)
  exact ⟨k1, ⟨s2, p2, a2, b2, by rw [j2 ⟨_, List.mem_cons_self, rfl, by decide⟩]⟩, ⟨s3, p3, a3, b3, l3.1⟩, s4, p4, a4, b4, l4⟩

theorem witness_RayTests (h : Obligations.RayTests) :
    Goes (.rtbox always (vr 4) (vr 4) (vr 8) (vr 0) 1) (field (holding idle)) ∧
    Goes (.rttri always (vr 4) (vr 4) (vr 8) (vr 0) 0 1) (field (holding idle)) ∧ Goes (.rtxf always (vr 4) (vr 8) (vr 0) 0) (field (holding idle)) := by
  have q (n : Nat) (hq : isOk ((field (holding idle)).accessAll 1 0 0 (fun r => r.r)
      ((List.range (n / 16)).map fun k => (BitVec.ofNat 64 ((holding idle).val 0 (vr 0) 2 + 16 * k), 16, 0))) = true) := ok_of hq
  have ⟨_, _, q1⟩ := q 96 (by decide +kernel)
  have ⟨_, _, q2⟩ := q 48 (by decide +kernel)
  have k1 := (h (field (holding idle))).1 always (vr 4) (vr 4) (vr 8) (vr 0) 1 _ _ _ _ 0 (issues_holding idle) rfl (by decide) ⟨_, rfl⟩ ⟨_, rfl⟩
    ⟨⟨_, rfl⟩, rfl⟩ (fun _ => ⟨⟨⟨_, rfl⟩, rfl⟩, ⟨_, rfl⟩, rfl⟩) (by decide) ⟨_, rfl⟩ _ _ q1
  have k2 := (h (field (holding idle))).2.1 always (vr 4) (vr 4) (vr 8) (vr 0) 0 1 _ _ _ _ 0 (issues_holding idle) rfl (by decide) ⟨_, rfl⟩ ⟨_, rfl⟩
    ⟨⟨_, rfl⟩, rfl⟩ (fun _ => ⟨⟨⟨_, rfl⟩, rfl⟩, ⟨_, rfl⟩, rfl⟩) (by decide) ⟨_, rfl⟩ _ _ q2
  have k3 := (h (field (holding idle))).2.2 always (vr 4) (vr 8) (vr 0) 0 _ _ _ _ 0 (issues_holding idle) rfl (by decide) ⟨_, rfl⟩ ⟨_, rfl⟩
    ⟨⟨_, rfl⟩, rfl⟩ nofun (by decide) ⟨_, rfl⟩ _ _ q2
  exact ⟨goes_of k1, goes_of k2, goes_of k3⟩

/-- A lane of a ray operation that has read nothing: all its words are 0. -/
def ray : LaneOp := LaneOp.make 0 (.v 4) [(0, 0)] []

theorem word_zero (k : Nat) : finite32 (word32 0 k) := by simp [finite32, word32]

theorem witness_SamplerAndRayArithmetic (h : Obligations.SamplerAndRayArithmetic) (d : TexDesc) (hd : TexDesc.fmt d = 0) :
    (TexDesc.footprint d 0 0 (fp32 0) (fp32 0)).length = 1 ∧ (TexDesc.footprint d 1 0 (fp32 0) (fp32 0)).length = 4 ∧
    word32 (ofWords (texFilter 0 0 (texComps d [(65536, some 0)] [5]))) 0 = rounded32 .rne (5 / 255) ∧
    ∀ m, m < 3 → ∃ x, (flight (.ray m 0 7) (.v 4) (word4 0 0)).result ray = some x ∧ x.poison = false := by
  have k1 := h.1 d 0 0 0 (by simp [finite32]) (by simp [finite32]) (by decide) (by decide)
  have k2 := k1.2 1 (-128) (-128) (by decide) (by simp [NearestEven, realOf]) (by simp [NearestEven, realOf])
  have k3 := (h.2.1 d 0 [(65536, some 0)] [5] 0 (by decide)).2.1 (65536, 0, 5) (by simp [footTexels, hd]) (by simp [texelFinite])
  have k4 (m) := h.2.2 (flight (.ray m 0 7) (.v 4) (word4 0 0)) ray m 0 7 rfl nofun rfl rfl fun k _ => word_zero k
  refine ⟨congrArg List.length k1.1, congrArg List.length k2, (k3.2 (by simp [texelMinusZero])).trans (by simp [texelReal]), fun m hm => ?_⟩
  have hz (k : Nat) : finite32 (word32 ray.readBytes k) := word_zero k
  rcases m with _ | _ | _ | m
  · have ⟨x, a, b, _⟩ := (k4 0).1 rfl fun k _ => hz k
    exact ⟨x, a, b⟩
  · have ⟨x, a, b, _⟩ := (k4 1).2.1 rfl fun k _ => hz k
    exact ⟨x, a, b⟩
  · have ⟨x, a, b, _⟩ := (k4 2).2.2 rfl fun k _ => hz k
    exact ⟨x, a, b⟩
  · omega

/-- A whole group, each thread with two registers. -/
def warp : Group := crew 32 2

theorem issues_warp : (field warp).issues ⟨1, 0, 0⟩ (squad warp) warp (Entry.at 0x1000 5 (BitVec.ofNat 32 (2 ^ 32 - 1)) false) := ⟨rfl, rfl, by decide⟩

theorem ok_bind {ε α β γ : Type} {r : Except ε (α × β)} {f : α × β → Except ε γ} (h : isOk (r.bind f) = true) :
    ∃ x y z, r = .ok (x, y) ∧ f (x, y) = .ok z := by
  cases r with
  | error _ => cases h
  | ok v =>
    refine ⟨v.1, v.2, ?_⟩
    cases hf : f v with
    | error _ => simp only [Except.bind, hf] at h; cases h
    | ok z => exact ⟨z, rfl, rfl⟩

theorem witness_TileSignatures (h : Obligations.TileSignatures) :
    Goes (.sig always (gr 4) (vr 1)) (field warp) ∧ Goes (.sigend always (vr 0) (vr 2) (vr 4)) (field (holding idle)) := by
  have hs : ∀ l, l < 32 → isOk (readSrc warp l (gr 4) 2) = true ∧ isOk (readSrc warp l (vr 1) 1) = true := by decide +kernel
  have k1 := (h (field warp) _ _ _ _ always issues_warp).1 (gr 4) (vr 1) (by decide) (by decide +kernel) (by decide +kernel) (by decide) rfl rfl rfl
    (fun l hl => ⟨has_of (hs l hl).1, has_of (hs l hl).2⟩)
  have ⟨_, _, _, q1, q2⟩ := ok_bind (r := (field (holding idle)).access 1 0 0
      (BitVec.ofNat 64 ((holding idle).val 0 (vr 0) 2 + 16 * ((holding idle).val 0 (vr 2) 1 % 2 ^ 16))) fun r => r.w)
    (f := fun z => z.1.checks 1 (BitVec.ofNat 64 ((holding idle).val 0 (vr 0) 2 + 16 * ((holding idle).val 0 (vr 2) 1 % 2 ^ 16))) z.2 16 false true)
    (by decide +kernel)
  have k2 := (h (field (holding idle)) _ _ _ _ always (issues_holding idle)).2 (vr 0) (vr 2) (vr 4) 0 _ _ _ rfl (by decide) ⟨⟨_, rfl⟩, rfl⟩
    ⟨⟨_, rfl⟩, rfl⟩ ⟨⟨_, rfl⟩, rfl⟩ (by decide) q1 q2
  exact ⟨goes_of k1, goes_of k2⟩

/-! ### Launches, teams, sittings, health -/

/-- A launch descriptor: 1 team of 1 group, code at 0x401000, completion record at 0x401000. -/
def order : Nat := 0x40380000000000000000000000000000001080700402010000000000000007000000000000000000401000

def isAt (p : Place) : Bool :=
  match p with
  | .at _ => true
  | _ => false

theorem at_of {q : State × Place} (h : isAt q.2 = true) : ∃ y, q = (q.1, .at y) := by
  match q, h with
  | (s, .at y), _ => exact ⟨y, rfl⟩

/-- A launch of context 0x31 whose one team has ended, with its record at 0x401000. -/
def finished : Launch := ⟨1, 0x31, 0, 5, 1, 0, 0, false, 1, 0, 1, [], 0, 0x401000, 0, none, 1, 1, some 7, true, false, 0, none⟩

def closing : State := { studio 0 Handle.free [] with teams := [], launches := [finished] }

/-- Where its record lies. -/
def recordAt : Xlat := ⟨0x21000, false, 1, 0, 0, false, false, false, window⟩

theorem placed_closing : closing.placeOf owner finished.crec (fun r => r.w) 1 = (closing, .at recordAt) := by
  rfl

/-- The read of a completion record at 0x402000. -/
def looked (v : Nat) : Try (State × Rd) :=
  (studio v Handle.free []).descRead ⟨1, 0, 0⟩ 0 (BitVec.ofNat 64 ((holding [0x402000, 0, 0x1000, 0]).val 0 (vr 0) 2)) 16

def lookedAt (v : Nat) : State × Rd := answered (studio v Handle.free []) (looked v)

/-- The launch's descriptor is there, and `n` launches have their entries. -/
def crowd (n : Nat) : State := { studio order Handle.free [] with launches := (List.range n).map fun k => { finished with lid := k + 1 } }

def askedAt (n : Nat) : Try (State × Rd) :=
  (crowd n).descOnce ⟨1, 0, 0⟩ 0 (BitVec.ofNat 64 ((holding [0x402000, 0, 0x1000, 0]).val 0 (vr 0) 2)) 64

def asked (n : Nat) : State × Rd := answered (crowd n) (askedAt n)

/-- The place of its record. -/
def record (n : Nat) : State × Place := ((asked n).1.putProbe 1 0 0 none).placeOf owner (LDesc.crec (BitVec.ofNat 512 (asked n).2.val)) (fun r => r.w) 1

/-- Whether a place is there and its home takes a device's writes. -/
def berths (q : State × Place) (n : Nat) : Bool :=
  match q with
  | (s, .at y) => s.deviceReady owner.id y.dia n
  | _ => false

theorem berthed {q : State × Place} {n : Nat} (h : berths q n = true) : ∃ y, q = (q.1, .at y) ∧ q.1.deviceReady owner.id y.dia n = true := by
  match q, h with
  | (s, .at y), h => exact ⟨y, rfl, h⟩

theorem goes_launch (h : Obligations.Launches) {n : Nat} (hq : isOk (askedAt n) = true) (hp : (asked n).2.poison = false)
    (hm : LDesc.malformed (BitVec.ofNat 512 (asked n).2.val) owner = false) (ha : berths (record n) 16 = true)
    (ht : ((record n).1.team? 1).isSome = true) :
    (9 ≤ 64 - ((record n).1.launches.filter fun z => z.part == owner.part).length →
      Goes (.launch always (vr 0) 1) (crowd n) ∧ Goes (.launchw always (vr 0)) (crowd n)) ∧
    (64 - ((record n).1.launches.filter fun z => z.part == owner.part).length < 9 → Goes (.launch always (vr 0) 1) (crowd n)) := by
  have ⟨_, hr, hd⟩ := berthed ha
  have ⟨_, ht⟩ := Option.isSome_iff_exists.1 ht
  have k := (h (crowd n)).1 _ _ _ _ always 0 (vr 0) 1 owner (asked n).1 (asked n).2 _ _
    (show (crowd n).issues ⟨1, 0, 0⟩ (painter Handle.free) (holding [0x402000, 0, 0x1000, 0]) (Entry.at 0x1000 5 1 false) from
      (issues_alone rfl rfl (show (1 : BitVec 32) ≠ 0 by decide) rfl)) rfl rfl ⟨⟨_, rfl⟩, rfl⟩ (by decide) rfl (answered_eq hq) hp hm hr
  exact ⟨fun hf => ⟨goes_of (k.1 hf hd _ ht).1, goes_of (k.1 hf hd _ ht).2⟩, fun hf => goes_of (k.2 hf)⟩

theorem witness_Launches (h : Obligations.Launches) :
    Goes (.launch always (vr 0) 1) (crowd 55) ∧ Goes (.launchw always (vr 0)) (crowd 55) ∧ Goes (.launch always (vr 0) 1) (crowd 56) ∧
    Goes (.lwait always (vr 2) (vr 0) 0 1) (studio (2 ^ 63) Handle.free []) ∧ Goes (.lwait always (vr 2) (vr 0) 1 1) (studio 0 Handle.free []) ∧
    Goes (.launchCompletion 1) closing := by
  have k1 := (goes_launch h (n := 55) (by decide +kernel) (by decide +kernel) (by decide +kernel) (by decide +kernel) (by decide +kernel)).1 (by decide +kernel)
  have k2 := (goes_launch h (n := 56) (by decide +kernel) (by decide +kernel) (by decide +kernel) (by decide +kernel) (by decide +kernel)).2 (by decide +kernel)
  have k3 (v) (test) (hq : isOk (looked v) = true) (hp : (lookedAt v).2.poison = false) := (h (studio v Handle.free [])).2.1 _ _ _ _ always 0 (vr 2) (vr 0)
    test 1 (lookedAt v).1 (lookedAt v).2 (issues_studio v _ []) rfl rfl ⟨⟨_, rfl⟩, rfl⟩ (by decide) ⟨_, rfl⟩ (answered_eq hq) hp
  have k4 := (h closing).2.2 1 finished owner closing recordAt rfl (by decide +kernel) rfl rfl placed_closing (by decide +kernel) rfl nofun (by decide)
    (by decide) (by decide) ⟨by decide +kernel, by decide +kernel⟩ (by decide +kernel) (by decide) (by decide)
  exact ⟨k1.1, k1.2, k2, goes_of (k3 (2 ^ 63) 0 (by decide +kernel) (by decide +kernel) (.inr (by decide +kernel))),
    goes_of (k3 0 1 (by decide +kernel) (by decide +kernel) (.inl rfl)), goes_of k4⟩

/-- Team 1 as it is asked to stop, stopping, snapshot, waiting for a fault, replaying. -/
def troop : Team := squad (crew 1 8)

def sitting : Sitting := ⟨3, 0, 0, 0, 0, 0, 0x31, [0], 900000, none⟩

/-- The ground while a sitting of context 0x31 holds core 0. -/
def ruling (ts : List Team) (ls : List Launch) : State :=
  { ground with teams := ts, launches := ls, sits := ⟨[], [], 1000, 1000, false, false, false, false, 0, true, 1000000, [], [sitting]⟩
                ctxs := [{ owner with desc := owner.desc.set 4 0x0000040000000001 }] }

/-- A launch of one team of one group of 8 registers, not placed yet. -/
def waiting : Launch := ⟨1, 0x31, 0, 5, 1, 0, 0, false, 1, 0, 1, [⟨0, 0, 1, 8, 5⟩], 0x400, 0x401000, 0, none, 0, 0, none, false, false, 0, none⟩

def stalled : Team :=
  { squad { crew 1 8 with lanes := [{ Thread.initial 8 with probe := some { va := 0x400000, dia := 0x20000, kind := 0, wait := .merge 0 1 } }] } with handles := [] }

theorem some_with {α : Type} {o : Option α} {q : α → Bool} (h : o.any q = true) : ∃ n, o = some n ∧ q n = true := by
  cases o with
  | none => cases h
  | some n => exact ⟨n, rfl, h⟩

theorem goes_placement (h : Obligations.TeamLifecycle) {s : State} {l : Launch} {c : Ctx} {q : Nat × Nat} {place tid : Nat} (h0 : tid ≠ 0)
    (hp : (s.pending.find? fun m => m.tid == tid).any (fun n => n.tid == tid && (n.lid == l.lid && (n.ctx == c.id && (s.turnOf n &&
      s.bestQuad (s.quadsFor n) == some q)))) = true)
    (hn : s.team? tid = none) (hl : s.launches.find? (·.lid == l.lid) = some l) (ht : tid = teamName l.lid l.next) (hc : s.ctx? c.id = some c)
    (hx : l.ctx = c.id) (hf : s.framePlace c (frameNeed l.ngroup (l.pal * 4096)) = some place) : Goes (.teamPlacement tid) s := by
  have ⟨n, e, hq⟩ := some_with hp
  simp only [Bool.and_eq_true, beq_iff_eq] at hq
  obtain ⟨rfl, h1, h2, h3, h4⟩ := hq
  exact goes_of2 ((h s).2.2.2.2.2.1 n l c q place h0 e hn (h1 ▸ hl) ht (h2 ▸ hc) (hx.trans h2.symm) h3 h4 hf)

theorem witness_TeamLifecycle (h : Obligations.TeamLifecycle) :
    Goes (.stopRequest 1) (ruling [{ troop with asked := true }] []) ∧ Goes (.freezeBroadcast 1 0) (ruling [{ troop with stopping := true }] []) ∧
    Goes (.ifrSnapshot 1) (ruling [{ troop with stopping := true, acks := List.range 12 }] []) ∧
    Goes (.saveComplete 1) (ruling [{ troop with stopping := true, snapped := true, frame := some (0, 4096) }] []) ∧
    Goes (.teamEviction 1) (ruling [stalled] []) ∧ Goes (.teamPlacement (teamName 1 0)) (ruling [] [waiting]) ∧
    Goes (.replayEnd 1) (ruling [{ troop with rp := true, replay := 0 }] []) := by
  have k1 := (h (ruling [{ troop with asked := true }] [])).1 1 _ (by decide) rfl rfl rfl rfl rfl rfl
  have k2 := (h (ruling [{ troop with stopping := true }] [])).2.1 1 _ 0 (by decide) rfl rfl rfl (by decide +kernel) (by decide)
  have k3 := (h (ruling [{ troop with stopping := true, acks := List.range 12 }] [])).2.2.1 1 _ (by decide) rfl rfl rfl rfl rfl (by decide +kernel)
  have k4 := (h (ruling [{ troop with stopping := true, snapped := true, frame := some (0, 4096) }] [])).2.2.2.1 1 _ _ (by decide) rfl rfl rfl rfl rfl
    (by decide +kernel) (by decide +kernel) (fun _ hy => nomatch hy)
  have k5 := (h (ruling [stalled] [])).2.2.2.2.1 1 _ (by decide) rfl rfl rfl rfl (by decide +kernel) (by decide +kernel)
  have k6 := goes_placement h (s := ruling [] [waiting]) (l := waiting) (c := { owner with desc := owner.desc.set 4 0x0000040000000001 }) (q := (0, 0)) (place := 0)
    (tid := teamName 1 0) (by decide) (by decide +kernel) rfl rfl rfl rfl rfl (by decide +kernel)
  have k7 := (h (ruling [{ troop with rp := true, replay := 0 }] [])).2.2.2.2.2.2.2 1 _ rfl rfl rfl rfl rfl (fun _ hy => nomatch hy)
  exact ⟨goes_of2 k1, ⟨_, k2⟩, goes_of2 k3, goes_of2 k4, goes_of2 k5, k6, goes_of k7⟩

/-- A sitting entry: valid, from 0 for 400 us, context 0x31 on cores 0 to 3. -/
def rota (kind : Nat) : BitVec 256 := BitVec.ofNat 256 (2 ^ 63 + 400 * 2 ^ 20 + kind * 2 ^ 14 + 2 ^ 64 * 0xF + 2 ^ 128 * 0x31)

/-- The sitting table at 5,000 ns of device time. -/
def table (b0 b1 : List (Nat × BitVec 256)) (begun want : Bool) (c1 bd : Nat) (opens : List (Nat × BitVec 64)) (now : List Sitting)
    (ts : List Team := []) : State :=
  { ground with teams := ts, time := 5000, sits := ⟨b0, b1, 1000, c1, false, want, false, false, 0, begun, BitVec.ofNat 64 bd, opens, now⟩ }

/-- A sitting of context 0x31 on core 0 that ends at 5,000 ns. -/
def ending (policy : Nat) (extended : Option (BitVec 64)) : Sitting :=
  ⟨3, 0, 1, policy, 3, 0, 0x31, [0], if extended.isSome then 4000 else 5000, extended⟩

theorem witness_Sittings (h : Obligations.Sittings) :
    Goes (.stctlSwitch (BitVec.ofNat 32 (2 ^ 31 + 1000))) (table [] [(0, rota 0)] false false 1000 0 [] []) ∧
    Goes (.stctlSwitch (BitVec.ofNat 32 (2 ^ 31 + 1000))) (table [] [(0, rota 0)] true false 1000 1000000 [] []) ∧
    Goes .bankSwitch (table [] [(0, rota 0)] true true 1000 5000 [] []) ∧ Goes .bankSwitch (table [] [(0, rota 0)] true true 999 5000 [] []) ∧
    Goes .bankSwitch (table [] [(0, rota 0)] true true 1000001 4000 [] []) ∧
    Goes (.sittingOpening 3) (table [(3, rota 0)] [] true false 1000 1000000 [(3, 5000)] [] [troop]) ∧
    Goes (.sittingEnd 3) (table [] [] true false 1000 1000000 [] [ending 0 none]) ∧
    Goes (.sittingEnd 3) (table [] [] true false 1000 1000000 [] [ending 1 none] [troop]) ∧
    Goes (.graceExpiry 3) (table [] [] true false 1000 1000000 [] [ending 1 (some 5000)] [troop]) ∧
    Goes .gateWindowEnd { ground with time := 60000 } ∧ Goes .admissionInterval { ground with time := 60000 } := by
  have k1 := ((h (table [] [(0, rota 0)] false false 1000 0 [] [])).1 (BitVec.ofNat 32 (2 ^ 31 + 1000)) (by decide) rfl).1 rfl
    ⟨by decide, by decide, by decide +kernel⟩
  have k2 := ((h (table [] [(0, rota 0)] true false 1000 1000000 [] [])).1 (BitVec.ofNat 32 (2 ^ 31 + 1000)) (by decide) rfl).2 rfl
  have k3 := ((h (table [] [(0, rota 0)] true true 1000 5000 [] [])).2.1 rfl rfl (by decide)).1 ⟨by decide, by decide, by decide +kernel⟩
  have k4 := ((h (table [] [(0, rota 0)] true true 999 5000 [] [])).2.1 rfl rfl (by decide)).2 _ rfl (.inl (by decide))
  have k5 := ((h (table [] [(0, rota 0)] true true 1000001 4000 [] [])).2.1 rfl rfl (by decide)).2 _ rfl (.inr (by decide))
  have k6 := (h (table [(3, rota 0)] [] true false 1000 1000000 [(3, 5000)] [] [troop])).2.2.1 3 5000 (by decide +kernel) rfl (by decide) nofun
  have k7 := ((h (table [] [] true false 1000 1000000 [] [ending 0 none])).2.2.2.1 3 5000 (ending 0 none) (by decide +kernel) nofun (by decide) rfl).1 rfl
  have k8 := ((h (table [] [] true false 1000 1000000 [] [ending 1 none] [troop])).2.2.2.1 3 5000 (ending 1 none) (by decide +kernel) nofun (by decide) rfl).1 rfl
  have k9 := ((h (table [] [] true false 1000 1000000 [] [ending 1 (some 5000)] [troop])).2.2.2.1 3 5000 (ending 1 (some 5000)) (by decide +kernel) nofun
    (by decide) rfl).2 nofun
  have ka := (h { ground with time := 60000 }).2.2.2.2.1 (by decide +kernel) (by decide +kernel) (by decide +kernel)
  have kb := (h { ground with time := 60000 }).2.2.2.2.2 (by decide +kernel)
  refine ⟨goes_of k1, goes_of k2, goes_of k3, goes_of k4, goes_of k5, goes_of k6, ?_, ?_, goes_of k9, goes_of ka, ⟨_, kb⟩⟩
  · have ⟨s', a, _⟩ := k7.1 (by decide +kernel)
    exact ⟨s', a⟩
  · have ⟨s', _, a, _⟩ := k8.2 (by decide +kernel) rfl
    exact ⟨s', a⟩

/-- A team of context 0x31 has consumed poison; the context is armed or not, its first checkpoint is taken or not, it has rolled back
before or not. -/
def tainted (armed done rolled : Bool) : State :=
  { ground with teams := [{ troop with lid := 1 }], consumptions := [1], launches := [waiting], ctxs := [{ owner with armed := armed, ckDone := done, rolled := rolled }] }

/-- Panel 2 is Quarantined, its scrub test is over. -/
def scrubbing (passrun : Nat) : State :=
  { ground with time := 5000, phealth := ground.phealth.map fun p => if p.num = 2 then { p with st := .quarantined, passrun := passrun, scrub := some 5000 } else p }

/-- A sector of no valid page, with an error in its symbol 3. -/
def speck : Sector := ⟨100, 0x800, 0, 1, 1, false, [(3, 0x11)]⟩

theorem witness_Health (h : Obligations.Health) :
    Goes (.rollback 0x31) (tainted true true false) ∧ Goes (.rollback 0x31) (tainted false false false) ∧
    Goes (.rollback 0x31) (tainted true false false) ∧ Goes (.rollback 0x31) (tainted true true true) ∧ Goes .millisecond { ground with time := 2000000000 } ∧
    Goes .second { ground with time := 2000000000 } ∧ Goes (.thermal 47) ground ∧ Goes (.thermal 255) ground ∧
    Goes (.scrubCompletion 2 true) (scrubbing 2) ∧ Goes (.scrubCompletion 2 true) (scrubbing 1) ∧ Goes (.scrubCompletion 2 false) (scrubbing 0) ∧
    Goes (.memoryScrub 0 100) { ground with sectors := [speck] } ∧ Goes .debugFreeze { ground with fw := { ground.fw with debug := true } } := by
  have k1 (a d r) (he : (tainted a d r).ctx? 0x31 = some { owner with armed := a, ckDone := d, rolled := r }) := (h (tainted a d r)).1 0x31 { owner with armed := a, ckDone := d, rolled := r } (Partition.formed 0 1 64) he (show owner.id = 0x31 by decide)
    ⟨_, List.mem_cons_self, rfl, List.mem_cons_self⟩ (by rfl) (by rfl) rfl (fun _ hy => nomatch hy)
  have k3 := (h { ground with time := 2000000000 }).2.1 (by decide +kernel)
  have k4 := (h { ground with time := 2000000000 }).2.2.1 (by decide +kernel)
  have k5 := (h ground).2.2.2.1
  have k6 (n) (hf : (scrubbing n).phealth.find? (·.num == 2) = some ⟨2, .quarantined, n, 0, [], [], some 5000⟩) :=
    (h (scrubbing n)).2.2.2.2.1 2 _ 5000 hf rfl rfl (show (5000 : BitVec 64).toNat ≤ (5000 : BitVec 64).toNat by decide)
  have k7 := (h { ground with sectors := [speck] }).2.2.2.2.2.1 0 100 speck 3 { speck with err := [] } (by decide) (by decide) (by decide +kernel) rfl
    (by decide +kernel) (by simp)
  have k8 := (h { ground with fw := { ground.fw with debug := true } }).2.2.2.2.2.2 rfl
  have j1 := (k1 true true false rfl).1 rfl rfl rfl (by decide) (by decide) (by decide) (by decide) (by decide +kernel)
  have j2 := (k1 false false false rfl).2 (.inl rfl) (by decide)
  have j3 := (k1 true false false rfl).2 (.inr (.inl rfl)) (by decide)
  have j4 := (k1 true true true rfl).2 (.inr (.inr rfl)) (by decide)
  have j5 := k5 47 (.inl (by decide))
  have j6 := k5 255 (.inr rfl)
  have j7 := (k6 2 (by decide +kernel)).1 (by decide)
  have j8 := (k6 1 (by decide +kernel)).2.1 (by decide)
  have j9 := (k6 0 (by decide +kernel)).2.2
  exact ⟨goes_of2 j1, goes_of j2, goes_of j3, goes_of j4, goes_of k3, goes_of k4, goes_of j5, goes_of j6, goes_of j7, goes_of j8, goes_of j9, goes_of k7, goes_of k8⟩

/-! ### The studio controller -/

/-- The controller's thread: V4:V5 hold DIA 0x20000, V6:V7 one of an invalid page, V8 context 0x31, V9 a context that does not exist. -/
def desk : Group := { holding [0, 0, 0, 0, 0x20000, 0, 0x640000, 0, 0x31, 0x99, 0, 0] with entries := [Entry.at 0x100 0 1 false] }

def clerk : Team := { Team.controller with groups := [desk] }

/-- The studio with that controller, some teams, and a partition and merge entries as given. -/
def bureau (ts : List Team := []) (q : List FaultRec := []) (ms : List Merge := []) : State :=
  { ground with ctl := clerk, ctlImage := 4096, cur := some ⟨0, 0, 0⟩, teams := ts, parts := [{ Partition.formed 0 1 64 with queue := q }]
                panels := { Panel.initial 0 with ptlen := 64, ptes := (List.range 64).map fun k => (k, BitVec.ofNat 64 (2 ^ 63 + (k + 1) * 65536)), merges := ms } ::
                  (List.range 11).map fun k => Panel.initial (k + 1) }

theorem issues_bureau (ts q ms) : (bureau ts q ms).issues ⟨0, 0, 0⟩ clerk desk (Entry.at 0x100 0 1 false) := issues_alone rfl rfl (show (1 : BitVec 32) ≠ 0 by decide) rfl

/-- A team in a declassifying segment. -/
def cleared : State := library [⟨0, 0x31, 1, true, [1], [], [], true, 0x20000, 1, .no⟩]

/-- The controller's thread as it waits in a KSEL. -/
def entry2 : Entry := { Entry.at 0x100 0 1 false with blocked := 1 }

def desk2 : Group := { desk with entries := [entry2] }

def clerk2 : Team := { clerk with groups := [desk2] }

def bureau2 : State := { bureau with ctl := clerk2 }

theorem witness_PagesAndKeys (h : Obligations.PagesAndKeys) :
    Goes (.rngwr always (vr 0) (vr 4) 1) (bureau) ∧ Goes (.rnginvA always (vr 8)) (bureau) ∧ Goes (.rnginvB always (vr 4) 0 3) (bureau) ∧
    Goes (.rnginvB always (vr 4) 1 0) (bureau) ∧ Goes (.dirtyhv always (vr 0) (vr 4) 31) (bureau) ∧ Goes (.kselGen always 16 1) (bureau) ∧
    Goes (.kselGen always 0 1) (bureau) ∧ Goes (.kselZero always 0 1) (bureau) ∧ Goes (.kselZero always 272 1) (bureau) ∧
    Goes (.kselStat always (vr 0) 0) (bureau) ∧ Goes (.kselDcl always (vr 4) 0 1) (bureau) ∧ Goes (.kselUndcl always (vr 4) 12 1) (bureau) ∧
    Goes (.decls always (vr 0)) cleared ∧ Goes (.kselZero always 0 1) bureau2 := by
  have hi := issues_bureau [] [] []
  have k := h (bureau)
  have v4 : desk.clean 0 (vr 4) 4 := ⟨⟨_, rfl⟩, rfl⟩
  have v2 : desk.clean 0 (vr 4) 2 := ⟨⟨_, rfl⟩, rfl⟩
  have k1 := goes_inTurn (k.1 always (vr 0) (vr 4) 1) hi rfl rfl (src1 v4.1) ⟨v4, ⟨_, rfl⟩, by decide, by decide, by decide⟩
  have k2 := goes_inTurn (k.2.1 always (vr 8)) hi rfl rfl (src1 ⟨_, rfl⟩) ⟨⟨⟨_, rfl⟩, rfl⟩, by decide⟩
  have k3 := k.2.2.1 _ _ _ _ always 0 (vr 4) 0 3 hi rfl rfl v2 ⟨by decide, by decide, by decide⟩
  have k4 := k.2.2.1 _ _ _ _ always 0 (vr 4) 1 0 hi rfl rfl v2 ⟨by decide, by decide, by decide⟩
  have k5 := k.2.2.2.1 _ _ _ _ always 0 (vr 0) (vr 4) 31 hi rfl rfl v2 ⟨_, rfl⟩ ⟨by decide, by decide, by decide⟩
  have k6 (n) := goes_inTurn (k.2.2.2.2.1 always n 1) hi rfl rfl nofun trivial
  have k7 (n) := goes_inTurn (k.2.2.2.2.2.1 always n 1) hi rfl rfl nofun fun _ y _ => rfl
  have kc := goes_inTurn ((h (bureau2)).2.2.2.2.2.1 always 0 1) (c := ⟨0, 0, 0⟩) (t := clerk2) (g := desk2) (e := entry2) (issues_alone rfl rfl (show (1 : BitVec 32) ≠ 0 by decide) rfl) rfl rfl nofun fun _ y _ => rfl
  have k8 := goes_inTurn (k.2.2.2.2.2.2.1 always (vr 0) 0) hi rfl rfl nofun ⟨_, rfl⟩
  have ⟨_, hr⟩ : ∃ r, (bureau).ctlRead (((bureau).grp ⟨0, 0, 0⟩).val 0 (vr 4) 2) 48 = .ok r := by
    have := ok_of (show isOk ((bureau).ctlRead (((bureau).grp ⟨0, 0, 0⟩).val 0 (vr 4) 2) 48) = true by decide +kernel)
    exact ⟨_, this.choose_spec.choose_spec⟩
  have k9 := (k.2.2.2.2.2.2.2.1 always (vr 4) 0 1 (by decide +kernel)).1
  have ka := (k.2.2.2.2.2.2.2.1 always (vr 4) 12 1 (by decide +kernel)).2
  have kb := goes_inTurn ((h cleared).2.2.2.2.2.2.2.2 always (vr 0)) (issues_library _) (by decide) rfl (src1 ⟨_, rfl⟩)
    ⟨⟨⟨_, rfl⟩, rfl⟩, _, _, _, rfl, rfl, rfl, rfl⟩
  exact ⟨k1, k2, goes_of k3, goes_of k4, goes_of k5, k6 16, k6 0, k7 0, k7 272, k8, goes_inTurn k9 hi rfl rfl (src1 v2.1) ⟨v2, fun _ _ => ⟨by decide, _, hr⟩⟩,
    goes_inTurn ka hi rfl rfl (src1 v2.1) ⟨v2, fun x _ => absurd x (by decide)⟩, kb, kc⟩

def fault0 : FaultRec := ⟨0x400000, 0x20000, 0x31, 0, 4, 1, 77⟩

def merge0 (posted : Bool) (page : Nat) : Merge := ⟨4, page, posted, 0x400000, page * 65536, 0x31, 1, 0⟩

theorem witness_Controller (h : Obligations.Controller) :
    Goes (.ctxsv always (vr 9) 0 1) (bureau) ∧ Goes (.ctxsv always (vr 8) 1 1) (bureau) ∧ Goes (.ctxsv always (vr 8) 0 1) (bureau [troop]) ∧
    Goes (.ctxld always (vr 9) 1) (bureau) ∧ Goes (.ctxld always (vr 8) 1) (bureau) ∧ Goes (.ifrrd always (vr 0) (vr 8) 7 3) (bureau) ∧
    Goes (.frqpop always (vr 0) 0 1) (bureau) ∧ Goes (.frqpop always (vr 0) 0 1) (bureau [] [fault0]) ∧
    Goes (.frqack always (vr 4) 0 1) (bureau) ∧ Goes (.frqack always (vr 4) 1 1) (bureau [] [] [merge0 true 2]) ∧
    Goes (.frqack always (vr 4) 0 1) (bureau [] [] [merge0 true 2]) ∧ Goes (.frqack always (vr 6) 0 1) (bureau [] [] [merge0 true 100]) ∧ Goes (.halt always) (bureau) := by
  have hi := issues_bureau
  have c8 : desk.clean 0 (vr 8) 1 := ⟨⟨_, rfl⟩, rfl⟩
  have c9 : desk.clean 0 (vr 9) 1 := ⟨⟨_, rfl⟩, rfl⟩
  have v2 : desk.clean 0 (vr 4) 2 := ⟨⟨_, rfl⟩, rfl⟩
  have k1 := ((h (bureau)).1 _ _ _ _ always 0 (vr 9) 0 1 (hi [] [] []) rfl rfl c9).1 rfl
  have k2 := ((h (bureau)).1 _ _ _ _ always 0 (vr 8) 1 1 (hi [] [] []) rfl rfl c8).2.1 owner rfl (by decide)
  have k3 := ((h (bureau [troop])).1 _ _ _ _ always 0 (vr 8) 0 1 (hi [troop] [] []) rfl rfl c8).2.2 owner rfl (by decide) (by decide) rfl
  have k4 := ((h (bureau)).2.1 _ _ _ _ always 0 (vr 9) 1 (hi [] [] []) rfl rfl c9).1 rfl
  have k5 := ((h (bureau)).2.1 _ _ _ _ always 0 (vr 8) 1 (hi [] [] []) rfl rfl c8).2 owner (bureau) _ _ rfl (by decide) rfl Prod.mk.eta.symm
  have k6 := goes_inTurn ((h (bureau)).2.2.1 always (vr 0) (vr 8) 7 3) (hi [] [] []) rfl rfl (src1 ⟨_, rfl⟩) ⟨⟨⟨_, rfl⟩, rfl⟩, ⟨_, rfl⟩⟩
  have k7 := ((h (bureau)).2.2.2.1 _ _ _ _ always 0 (vr 0) 0 1 (hi [] [] []) rfl rfl ⟨_, rfl⟩).1 rfl
  have k8 := ((h (bureau [] [fault0])).2.2.2.1 _ _ _ _ always 0 (vr 0) 0 1 (hi [] [fault0] []) rfl rfl ⟨_, rfl⟩).2 _ _ _ rfl rfl
  have k9 := ((h (bureau)).2.2.2.2.1 _ _ _ _ always 0 (vr 4) 0 1 (hi [] [] []) rfl rfl v2 0 2 (by decide) (by decide)).1 (by decide)
  have ka := (((h (bureau [] [] [merge0 true 2])).2.2.2.2.1 _ _ _ _ always 0 (vr 4) 1 1 (hi [] [] [merge0 true 2]) rfl rfl v2 0 2 (by decide)
    (by decide)).2 (merge0 true 2) (by decide)).1 rfl
  have kb := (((h (bureau [] [] [merge0 true 2])).2.2.2.2.1 _ _ _ _ always 0 (vr 4) 0 1 (hi [] [] [merge0 true 2]) rfl rfl v2 0 2 (by decide)
    (by decide)).2 (merge0 true 2) (by decide)).2.1 rfl (by decide)
  have kd := (((h (bureau [] [] [merge0 true 100])).2.2.2.2.1 _ _ _ _ always 0 (vr 6) 0 1 (hi [] [] [merge0 true 100]) rfl rfl ⟨⟨_, rfl⟩, rfl⟩ 0 100
    (by decide) (by decide)).2 (merge0 true 100) (by decide)).2.2 rfl (by decide)
  have kc := (h (bureau)).2.2.2.2.2 _ _ _ _ always (hi [] [] []) rfl (by decide)
  exact ⟨goes_of k1, goes_of k2, goes_of k3, goes_of k4, goes_of k5, k6, goes_of k7, goes_of k8, goes_of k9, goes_of ka, goes_of kb, goes_of kd,
    have ⟨s', _, a, _⟩ := kc; ⟨s', a⟩⟩

/-! ### The display -/

/-- 100 lines of 64 pixels, 50 frames a second, the first at 0. -/
def beat : Timing := ⟨true, 99, 63, 25000, 20000000, 0⟩

/-- Canvas 2 as given at a device time. -/
def scene (c : Canvas) (now : Nat) : State :=
  let d := ground.disp
  { ground with time := BitVec.ofNat 64 now
                disp := { d with canvases := d.canvases.map fun x => if x.num = 2 then c else x } }

/-- Canvas 2 with its timing registers. -/
def blocks (tline : Nat) : Canvas :=
  ⟨2, [BitVec.ofNat 64 (2 ^ 63 + 99 * 2 ^ 16 + 63), BitVec.ofNat 64 (tline * 2 ^ 32 + 20000000), 0, 0, 2000000, 0, 0, 0], false, none, none, 0, 0, 0, false, []⟩

/-- Canvas 2 as it shows frame 5. -/
def showing (line : Nat) : Canvas := ⟨2, List.replicate 8 0, false, some beat, none, 5, 100000000, line, false, []⟩

/-- The warp stage is off, so no latch is due before a frame starts. -/
theorem no_latch (c : Canvas) (now : Nat) : (scene c now).nextLatch = none := by
  unfold State.nextLatch
  exact if_pos (show (regBits ground.disp.warp.driver 0 63 63 == 0) = true by decide +kernel)

theorem witness_Display (h : Obligations.Display) :
    Goes (.canvasApply 2) (scene (blocks 25000) 0) ∧ Goes (.canvasApply 2) (scene (blocks 0) 0) ∧
    Goes (.frameStart 2) (scene (showing 100) 119999999) ∧ Goes (.frameStart 2) (scene (showing 100) 120000000) ∧
    Goes (.frameStart 2) (scene { showing 100 with tim := none, next := some beat } 1) ∧
    Goes (.layerEntryWrite 2 3 7 5) ground ∧ Goes (.prfinjWrite 5) ground ∧ Goes (.warpConfigurationWrite 10 5) ground := by
  have k1 := ((h (scene (blocks 25000) 0)).1 2 _ rfl).2.1 (by decide +kernel) (by decide +kernel) (by decide +kernel) (show _ by decide +kernel) (by decide +kernel)
    (by decide +kernel) (by decide +kernel)
  have k2 := ((h (scene (blocks 0) 0)).1 2 _ rfl).2.2 (.inl (by decide +kernel))
  have k3 (now) := (h (scene (showing 100) now)).2.1 2 (showing 100) beat 6 rfl (.inl ⟨rfl, rfl, rfl⟩)
    fun _ hx => absurd ((no_latch _ _).symm.trans hx) nofun
  have k4 := ((h (scene { showing 100 with tim := none, next := some beat } 1)).2.1 2 _ beat 0 rfl (.inr ⟨rfl, rfl, rfl⟩) fun _ hx => absurd ((no_latch _ _).symm.trans hx) nofun).2
    (by decide +kernel) rfl
  have k5 := (h ground).2.2.1 2 3 7 5 (by decide)
  have k6 := (h ground).2.2.2.2.1 5
  have ⟨_, k7, _⟩ := (h ground).2.2.2.2.2.2.2.2.1 10 5 (by decide)
  exact ⟨⟨_, k1⟩, ⟨_, k2⟩, ⟨_, (k3 119999999).1 (by decide +kernel)⟩, goes_of ((k3 120000000).2 (by decide +kernel) (by decide +kernel)), goes_of k4,
    ⟨_, k5⟩, ⟨_, k6⟩, ⟨_, k7⟩⟩

/-- The last frame of the state word, of sequence number 7. -/
def message : List (BitVec 8) := bytesOf 4 7 ++ bytesOf 4 0xABCD ++ bytesOf 4 0

def tells (seq : Option (BitVec 32)) (now : Nat) : State :=
  { ground with time := BitVec.ofNat 64 now, disp := { ground.disp with tell := ⟨seq, some (0x55, 1)⟩ } }

theorem witness_DisplayStateWord (h : Obligations.Display) :
    Goes (.tellTaleStateWord (message ++ bytesOf 4 (crc32c message).toNat)) (tells (some 6) 5) ∧
    Goes (.tellTaleStateWord (message ++ bytesOf 4 (crc32c message).toNat)) (tells (some 7) 5) ∧
    Goes .stateWordExpiry (tells none 100000001) ∧ Goes .stateWordExpiry (tells none 100000000) := by
  have k1 := ((h (tells (some 6) 5)).2.2.2.2.2.1 message 7 0xABCD rfl (by decide) (by decide)).1 (fun q hq => by cases hq; decide)
  have k2 := ((h (tells (some 7) 5)).2.2.2.2.2.1 message 7 0xABCD rfl (by decide) (by decide)).2 7 rfl (.inl (by decide))
  have k3 (now) := (h (tells none now)).2.2.2.2.2.2.1 0x55 1 rfl
  exact ⟨⟨_, k1⟩, ⟨_, k2⟩, ⟨_, (k3 100000001).1 (by decide +kernel)⟩, ⟨_, (k3 100000000).2 (by decide +kernel)⟩⟩

/-- Layer 3 of canvas 2: 64 by 32 pixels at line 32, with its publications; a safety layer or not. -/
def pane (safe : Bool) (pubs : List Pub) : Layer :=
  let e := [BitVec.ofNat 64 (2 ^ 63 + (if safe then 2 else 1) * 2 ^ 60 + 32 * 2 ^ 16), BitVec.ofNat 64 (31 * 2 ^ 48 + 63 * 2 ^ 32 + 2 ^ 16),
    BitVec.ofNat 64 ((if safe then 0x52 * 2 ^ 32 else 0) + 0x31), 0, 0, 0, 0, 0]
  { Layer.initial 2 3 with regs := e, ents := [(0, e)], pubs := pubs, proofNext := 6 }

/-- The canvas with those layers alone. -/
def picture (line now : Nat) (ls : List Layer) : State :=
  let s := scene (showing line) now
  { s with disp := { s.disp with layers := ls } }

/-- A publication of frame 4 in slot 0. -/
def poster : Pub := ⟨0, 4, 0x31, 0x400000, 0, 0, 0, 0⟩

theorem witness_DisplayLayers (h : Obligations.Display) :
    (∃ s', exec (.proofInstant 2 3) (picture 0 (6 * 20000000 + 32 * 25000 - 50000) [pane true []]) = .next s' ∧
      (∃ l', s'.layer? 2 3 = some l' ∧ l'.frame = 6)) ∧
    Goes (.proofInstant 2 3) (picture 0 (6 * 20000000 + 32 * 25000 - 50001) [pane true []]) ∧
    Goes (.scanOutLine 2 40) (picture 40 (5 * 20000000 + 40 * 25000) []) ∧
    Goes (.scanOutLine 2 32) (picture 32 (5 * 20000000 + 32 * 25000) [pane false [poster]]) ∧
    Goes (.scanOutLine 2 63) (picture 63 (5 * 20000000 + 63 * 25000) [pane false [poster]]) := by
  have k1 (now) := (h (picture 0 now [pane true []])).2.2.2.1 2 3 (showing 0) (pane true []) beat rfl rfl rfl rfl rfl (by decide)
  have ⟨s', l', a, b, _, c⟩ := (k1 (6 * 20000000 + 32 * 25000 - 50000)).2 (by decide +kernel)
  have ⟨_, _, _, _, _, f, _⟩ := c rfl (by decide +kernel) (by decide +kernel) nofun _ _ _ _ _ _ rfl rfl
  have k2 := (k1 (6 * 20000000 + 32 * 25000 - 50001)).1 (by decide +kernel)
  have k3 := ((h (picture 40 (5 * 20000000 + 40 * 25000) [])).2.2.2.2.2.2.2.1 2 (showing 40) beat rfl rfl rfl rfl (by decide) (by decide +kernel)
    (by decide +kernel)).1 rfl
  have k4 (line now) (hl : line ≤ 99) (ht : beat.lineAt 5 line ≤ (BitVec.ofNat 64 now).toNat) (h1 : LEnt.y ((pane false [poster]).ent 5) ≤ line)
      (h2 : line < LEnt.y ((pane false [poster]).ent 5) + LEnt.h ((pane false [poster]).ent 5)) :=
    ((h (picture line now [pane false [poster]])).2.2.2.2.2.2.2.1 2 (showing line) beat rfl rfl rfl rfl hl ht
      (show ground.disp.warp.serves 2 = false by decide +kernel)).2 (pane false [poster]) poster rfl
      (show LEnt.valid beat ((pane false [poster]).ent 5) = true by decide +kernel) (show LEnt.safety ((pane false [poster]).ent 5) = false by decide +kernel)
      rfl h1 h2 rfl rfl (show ((pane false [poster]).entFrom 5).1 ≤ 4 by decide +kernel) (show 4 ≤ 5 by decide)
  exact ⟨⟨s', a, l', b, f⟩, ⟨_, k2⟩, ⟨_, k3⟩, goes_of2 (k4 32 (5 * 20000000 + 32 * 25000) (by decide) (by decide +kernel) (by decide +kernel) (by decide +kernel)),
    goes_of2 (k4 63 (5 * 20000000 + 63 * 25000) (by decide) (by decide +kernel) (by decide +kernel) (by decide +kernel))⟩

/-- The warp stage of canvas 2, 20 lines ahead, with its pose slots at 0x402000. -/
def rig : Warp :=
  let r := [BitVec.ofNat 64 (2 ^ 63 + 2 * 2 ^ 56 + 20 * 2 ^ 48 + 0x31), 0x404000, 0x31, 0x402000, 0x31, 0x402020, 0x31, 0x402000, 0x31, 0x402020, 0]
  { Warp.initial with regs := r, cfg := r, lseq := 8 }

/-- Frame 5 is shown; the pose slots lie at 0x402000. -/
def flying5 (now : Nat) : State :=
  { ground with
    time := BitVec.ofNat 64 now, disp := { ground.disp with canvases := ground.disp.canvases.map (fun x => if x.num = 2 then showing 0 else x), warp := rig }
    sectors := [⟨0xC80, 0x880, 0, 1, 1, false, []⟩] }

theorem next_flying5 : (flying5 119500000).nextLatch = some (120000000, 119500000) ∧ (flying5 119499999).nextLatch = some (120000000, 119500000) := by
  decide +kernel

def pose (t : Nat) : List (BitVec 8) := bytesOf 8 t ++ bytesOf 8 0x1122334455667788

/-- Both halves of the first slot, as the device reads them. -/
def half1 : State × Option Rd := (flying5 60).deviceRead 0x31 0x402000 8

def half2 : State × Option Rd := half1.1.deviceRead 0x31 (0x402000 + 32) 8

/-- The older half can be written. -/
theorem mends_half : (half2.1.placeFree owner 0x402000 (fun e => e.w)).1.mends 0x22000 0 := ⟨by decide +kernel, by decide +kernel⟩

def atAny (f : Xlat → Bool) (p : Place) : Bool :=
  match p with
  | .at z => f z
  | _ => false

theorem at_with {f : Xlat → Bool} {q : State × Place} (h : atAny f q.2 = true) : ∃ y, q = (q.1, .at y) ∧ f y = true := by
  match q, h with
  | (s, .at y), h => exact ⟨y, rfl, h⟩

theorem goes_attitude (h : Obligations.Display) {s : State} {x : BitVec 32} {c : Ctx} {v : Nat} {msg : List (BitVec 8)}
    {r1 r2 : State × Option Rd} {va : BitVec 64} {n : Nat}
    (hc : s.ctx? x = some c) (hx : x = (slotPlace s.disp.warp.cfg 0).1) (hv : v = (slotPlace s.disp.warp.cfg 0).2) (hm : msg.length = 16)
    (ht : msgN msg 0 8 ≤ s.time.toNat) (e1 : s.deviceRead x v 8 = r1) (e2 : r1.1.deviceRead x (v + 32) 8 = r2)
    (h1 : r1.2.map (·.val) = some n) (h2 : r2.2.map (·.val) = some n) (hva : BitVec.ofNat 64 v = va)
    (hp : atAny (fun z => z.dia == 0x22000 && z.key == 1) (r2.1.placeFree c va fun e => e.w).2 = true)
    (hs : (r2.1.placeFree c va fun e => e.w).1.mends 0x22000 0) (hw : Memory.wf (r2.1.placeFree c va fun e => e.w).1.mem = true)
    (ha : (r2.1.placeFree c va fun e => e.w).1.deviceReady c.id 0x22000 32 = true) :
    Goes (.attitudeMessage (msg ++ bytesOf 4 (crc32c msg).toNat)) s := by
  obtain ⟨s1, a⟩ := r1
  obtain ⟨s2, b⟩ := r2
  obtain ⟨a, rfl, na⟩ := Option.map_eq_some_iff.1 h1
  obtain ⟨b, rfl, nb⟩ := Option.map_eq_some_iff.1 h2
  subst hva
  have ⟨z, p, hz⟩ := at_with hp
  simp only [Bool.and_eq_true, beq_iff_eq] at hz
  exact goes_of (((h s).2.2.2.2.2.2.2.2.2.2.1 msg x c v hc hx hv hm).2 _ _ _ _ _ _ ht e1 e2
    (by rw [if_neg (by rw [na, nb]; exact Nat.lt_irrefl n)]; exact p) (by rw [hz.1]) (by rw [hz.1]; decide)
    (by rw [hz.2]; decide) (by rw [hz.1]; exact ha) (by rw [hz.1]; exact hs) hw)

theorem witness_DisplayWarp (h : Obligations.Display) :
    Goes .warpLatch (flying5 119499999) ∧ (∃ s', exec .warpLatch (flying5 119500000) = .next s' ∧ s'.disp.warp.latched = true) ∧
    Goes (.attitudeMessage (pose 61 ++ bytesOf 4 (crc32c (pose 61)).toNat)) (flying5 60) ∧
    Goes (.attitudeMessage (pose 60 ++ bytesOf 4 (crc32c (pose 60)).toNat)) (flying5 60) ∧ Goes (.platch always (vr 0) 0 1 1) (studio 0 Handle.free []) := by
  have k1 := ((h (flying5 119499999)).2.2.2.2.2.2.2.2.2.1 _ _ next_flying5.2).1 (by decide +kernel)
  have k2 := ((h (flying5 119500000)).2.2.2.2.2.2.2.2.2.1 _ _ next_flying5.1).2 (by decide +kernel)
  have k3 := ((h (flying5 60)).2.2.2.2.2.2.2.2.2.2.1 (pose 61) 0x31 owner 0x402000 rfl (by decide +kernel) (by decide +kernel) rfl).1 (by decide +kernel)
  have k4 := goes_attitude h (s := flying5 60) (x := 0x31) (c := owner) (v := 0x402000) (msg := pose 60) (r1 := half1) (r2 := half2)
    (va := 0x402000) (n := 0) rfl (by decide +kernel) (by decide +kernel) rfl (by decide +kernel) rfl rfl (by decide +kernel) (by decide +kernel) rfl
    (by decide +kernel) mends_half (by decide +kernel) (by decide +kernel)
  have k5 := goes_inTurn ((h (studio 0 Handle.free [])).2.2.2.2.2.2.2.2.2.2.2.1 always (vr 0) 0 1 1) (issues_studio 0 _ []) trivial rfl nofun ⟨_, rfl⟩
  have ⟨s', a, _, _, _, _, b⟩ := k2
  exact ⟨⟨_, k1⟩, ⟨s', a, (b (by decide +kernel)).1⟩, ⟨_, k3⟩, k4, k5⟩

/-- A publication descriptor for layer 3 of canvas 2, slot 0, frame 6; of a safety layer it names a table. -/
def bill : Nat := 0x2000000060000003000000000004010000000000000400000

/-- One thread about to publish while canvas 2 shows frame 5, in a layer of context 0x31. -/
def press (now d : Nat) : State :=
  let s := picture 0 now [pane true []]
  { s with teams := [painter Handle.free], cur := some ⟨1, 0, 0⟩, mem := Memory.writeN [] 0x32000 32 d
           sectors := [⟨0xC80, 0x880, 0, 1, 1, false, []⟩] }

theorem issues_press (now d : Nat) : (press now d).issues ⟨1, 0, 0⟩ (painter Handle.free) (holding [0x402000, 0, 0x1000, 0])
    (Entry.at 0x1000 5 1 false) := issues_alone rfl rfl (show (1 : BitVec 32) ≠ 0 by decide) rfl

def scanned (now d : Nat) : Try (State × Rd) :=
  (press now d).descOnce ⟨1, 0, 0⟩ 0 (BitVec.ofNat 64 ((holding [0x402000, 0, 0x1000, 0]).val 0 (vr 0) 2)) 32

def scan (now d : Nat) : State × Rd := answered (press now d) (scanned now d)

theorem goes_lpub (h : Obligations.Display) {now d : Nat} (hq : isOk (scanned now d) = true) (hp : (scan now d).2.poison = false)
    (hc : (scan now d).1.canvas? (PDesc.canvas (BitVec.ofNat 256 (scan now d).2.val)) = some (showing 0))
    (hl : (scan now d).1.layer? (PDesc.canvas (BitVec.ofNat 256 (scan now d).2.val)) (PDesc.layer (BitVec.ofNat 256 (scan now d).2.val)) = some (pane true []))
    (ht : ((scan now d).1.team? 1).any (fun u => u.ctx == 0x31 && (u.cls == 0 && u.performed 0 0)) = true)
    (hx : PDesc.malformed (BitVec.ofNat 256 (scan now d).2.val) (pane true []).current = true ∨
      PDesc.malformed (BitVec.ofNat 256 (scan now d).2.val) (pane true []).current = false ∧
      LEnt.publisher (pane true []).current (PDesc.slot (BitVec.ofNat 256 (scan now d).2.val)) = 0x31 ∧
      (((5 : Nat) : Int) + (PDesc.frame (BitVec.ofNat 256 (scan now d).2.val) - BitVec.ofNat 32 5).toInt = 6) ∧
      (LEnt.proofAt beat (pane true []).current 6 ≤ ((scan now d).1.time.toNat : Int) ∨
        ((scan now d).1.time.toNat : Int) < LEnt.proofAt beat (pane true []).current 6)) :
    Goes (.lpub always (vr 0) 1) (press now d) := by
  have ⟨u, hu, hq'⟩ := some_with ht
  simp only [Bool.and_eq_true, beq_iff_eq] at hq'
  have k := (h (press now d)).2.2.2.2.2.2.2.2.2.2.2.2 ⟨1, 0, 0⟩ _ _ _ always 0 (vr 0) 1 (scan now d).1 (scan now d).2 (issues_press now d) (by decide) rfl
    ⟨⟨_, rfl⟩, rfl⟩ (by decide) (answered_eq hq) hp (showing 0) (pane true []) beat u hc hl rfl hu
  rcases hx with hx | ⟨hm, hs, hf, hx⟩
  · exact goes_of (k.1 (.inr (.inl hx)))
  · have j := k.2 (by decide +kernel) hm (hs.trans hq'.1.symm) (by rw [hq'.2.1]; decide +kernel) hq'.2.2
    have hf' : (((showing 0).fcount : Nat) : Int) + (PDesc.frame (BitVec.ofNat 256 (scan now d).2.val) - BitVec.ofNat 32 (showing 0).fcount).toInt = 6 := hf
    simp only [hf'] at j
    rcases hx with hx | hx
    · exact goes_of (j.1 (.inr (.inl hx)))
    · exact goes_of (j.2 rfl hx (by decide))

theorem witness_DisplayPublications (h : Obligations.Display) :
    Goes (.lpub always (vr 0) 1) (press 120750000 bill) ∧ Goes (.lpub always (vr 0) 1) (press 120749999 bill) ∧ Goes (.lpub always (vr 0) 1) (press 120750000 (bill + 8)) := by
  have k1 := goes_lpub h (now := 120750000) (d := bill) (by decide +kernel) (by decide +kernel) (by decide +kernel) (by decide +kernel) (by decide +kernel)
    (.inr ⟨by decide +kernel, by decide +kernel, by decide +kernel, .inl (by decide +kernel)⟩)
  have k2 := goes_lpub h (now := 120749999) (d := bill) (by decide +kernel) (by decide +kernel) (by decide +kernel) (by decide +kernel) (by decide +kernel)
    (.inr ⟨by decide +kernel, by decide +kernel, by decide +kernel, .inr (by decide +kernel)⟩)
  have k3 := goes_lpub h (now := 120750000) (d := bill + 8) (by decide +kernel) (by decide +kernel) (by decide +kernel) (by decide +kernel) (by decide +kernel)
    (.inl (by decide +kernel))
  exact ⟨k1, k2, k3⟩

/-! ### Vehicle network, firmware, host -/

/-- Camera 0, with EN or not, and what it is receiving: RAW8, two lines of 64 pixels at DIA 0x20000, headers at 0x22000. -/
def lens (en : Bool) (rx : Option CamFrame) : Camera :=
  ⟨0, [BitVec.ofNat 64 ((if en then 2 ^ 63 else 0) + 2 ^ 58 + 2 ^ 16 + 63), BitVec.ofNat 64 (256 * 2 ^ 32 + 1), 0x20000, 0x22000], false, 0, 0, 0, rx⟩

def road (c : Camera) : State :=
  { ground with cams := [c], sectors := [⟨0xC00, 0x800, 0, 1, 1, false, []⟩, ⟨0xC80, 0x880, 0, 1, 1, false, []⟩] }

/-- A frame of which `n` lines have come. -/
def begun (n : Nat) : CamFrame := ⟨n, false, 0, 0⟩

theorem witness_NetworkAndBoot (h : Obligations.NetworkAndBoot) :
    Goes (.cameraControlWrite 0 3 0x24000) (road (lens false none)) ∧
    Goes (.cameraControlWrite 0 0 (BitVec.ofNat 64 (2 ^ 63 + 2 ^ 58 + 2 ^ 16 + 63))) (road (lens false none)) ∧
    Goes (.cameraControlWrite 0 0 (BitVec.ofNat 64 (2 ^ 63 + 2 ^ 16 + 63))) (road (lens false none)) ∧
    Goes (.cameraControlWrite 0 0 0) (road (lens true none)) ∧ Goes (.cameraControlWrite 0 2 0) (road (lens true none)) ∧
    Goes (.frameStartPacket 0) (road (lens true none)) ∧ Goes (.cameraLinePacket 0 1 false []) (road (lens true (some (begun 0)))) ∧
    Goes (.cameraLinePacket 0 0 true [1, 2, 3]) (road (lens true (some (begun 2)))) ∧
    Goes (.cameraLinePacket 0 0 false (List.replicate 64 5)) (road (lens true (some (begun 0)))) ∧
    Goes (.frameEndPacket 0) (road (lens true (some (begun 1)))) := by
  have k1 := ((h (road (lens false none))).1 0 _ rfl).1 3 0x24000 (by decide +kernel) (by decide) (by decide)
  have k2 (v : BitVec 64) (hv : v.getLsbD 63 = true) := ((h (road (lens false none))).1 0 _ rfl).2.1 v (by decide +kernel) hv (by decide)
  have k3 := (k2 (BitVec.ofNat 64 (2 ^ 63 + 2 ^ 58 + 2 ^ 16 + 63)) (by decide)).1 (by decide +kernel)
  have k4 := (k2 (BitVec.ofNat 64 (2 ^ 63 + 2 ^ 16 + 63)) (by decide)).2 (fun g => absurd g.2.2.2.1 (by decide))
  have k5 (v) := ((h (road (lens true none))).1 0 _ rfl).2.2.1 v (by decide +kernel)
  have k6 (rx) := ((h (road (lens true rx))).1 0 (lens true rx) rfl).2.2.2 1 (show (lens true none).en = true by decide +kernel)
    (show (road (lens true none)).keyOf (lens true none).key = some 1 by decide +kernel)
  have k7 := (k6 none).1 (by decide +kernel)
  have k8 := ((k6 (some (begun 0))).2.1 (begun 0) 1 false [] rfl).1 (by decide +kernel)
  have k9 := ((k6 (some (begun 2))).2.1 (begun 2) 0 true [1, 2, 3] rfl).2.1 (by decide +kernel) (by decide +kernel)
  have ka := ((k6 (some (begun 0))).2.1 (begun 0) 0 false (List.replicate 64 5) rfl).2.2 (by decide +kernel) (by decide +kernel) (by decide +kernel)
    (by decide +kernel) (by decide +kernel) (by decide +kernel) (by decide) ⟨by decide +kernel, by decide +kernel⟩ (by decide +kernel)
  have kb := (k6 (some (begun 1))).2.2 (begun 1) rfl (by decide +kernel) (by decide +kernel) (by decide +kernel) (by decide)
    ⟨by decide +kernel, by decide +kernel⟩ (by decide +kernel) (by decide)
  exact ⟨⟨_, k1⟩, ⟨_, k3⟩, ⟨_, k4⟩, ⟨_, (k5 0).1 (by decide)⟩, ⟨_, (k5 0).2 2 (.inl (by decide))⟩, goes_of k7, ⟨_, k8⟩, ⟨_, k9⟩, goes_of ka, goes_of kb⟩

/-- A staging message on port 0. -/
def parcel (op seq ofs : Nat) (data : List (BitVec 8)) : List (BitVec 8) :=
  let m := [0x53, 0x57, 0x53, 0x54] ++ bytesOf 1 op ++ bytesOf 1 0 ++ bytesOf 2 data.length ++ bytesOf 4 ofs ++ bytesOf 4 seq ++ data
  m ++ bytesOf 4 (crc32c m).toNat

/-- Port 0 has its link, a staging of firmware holds two bytes, and both banks may hold an image of four. -/
def depot2 (seq : Option (BitVec 32)) (banks : List Bank) (now : Nat) : State :=
  { ground with time := BitVec.ofNat 64 now, ports := [⟨0, true, 0⟩, ⟨1, false, 0⟩]
                fw := { ground.fw with stagings := [⟨0, [1, 2], none, seq⟩], healthyBy := some 500, nv := { ground.fw.nv with banks := banks } } }

theorem witness_Staging (h : Obligations.NetworkAndBoot) :
    Goes (.gptpMessage 0 77) (depot2 none [] 0) ∧ Goes (.spdmMessage true []) ground ∧ Goes (.unadmittedFrame 0) (depot2 none [] 0) ∧
    Goes (.stagingMessage 0 []) (depot2 none [] 0) ∧ Goes (.unadmittedFrame 1) (depot2 none [] 0) ∧
    Goes (.stagingMessage 0 (parcel 0 6 0 [])) (depot2 none [] 0) ∧ Goes (.stagingMessage 0 (parcel 1 6 2 [9])) (depot2 (some 5) [] 0) ∧
    Goes (.stagingMessage 0 (parcel 1 7 2 [9])) (depot2 (some 5) [] 0) ∧ Goes (.stagingBegin 1) ground ∧
    Goes (.stagingChunk 0 2 [5]) (depot2 none [] 0) ∧ Goes (.stagingChunk 0 3 [5]) (depot2 none [] 0) ∧ Goes (.stagingPermit 0 []) (depot2 none [] 0) ∧
    Goes (.stagingAbort 0) (depot2 none [] 0) ∧ Goes (.stagingEnd 0) (depot2 none [] 0) ∧ Goes (.debugPermit []) ground ∧
    Goes (.bootFallback 0) (depot2 none [⟨0, 1, [1, 2, 3, 4], false⟩] 500) ∧ Goes (.bootFallback 0) (depot2 none [⟨0, 1, [1, 2, 3, 4], false⟩] 499) ∧
    Goes .firmwareHealthyReport (depot2 none [] 0) ∧ Goes .firmwareHealthyReport ground ∧ Goes .deviceReset ground ∧ Goes .powerLoss ground := by
  have k1 := ((h (depot2 none [] 0)).2.1 0 77 (by decide)).2 rfl rfl
  have k2 := (h ground).2.2.1 true []
  have k3 := ((h (depot2 none [] 0)).2.2.2.1 0).1 (by decide)
  have k4 := ((h (depot2 none [] 0)).2.2.2.1 1).2.1 (by decide)
  have k5 (seq) (op n : Nat) (d : List (BitVec 8)) (hs : stagingForm (parcel op n 2 d) = true) (hk : msgN (parcel op n 2 d) 5 6 < 2) :=
    (h (depot2 seq [] 0)).2.2.2.2.1 0 (parcel op n 2 d) ⟨0, [1, 2], none, seq⟩ _ (show (depot2 none [] 0).portUp 0 = true by decide) hs hk rfl
  have k6 := (((h (depot2 none [] 0)).2.2.2.2.1 0 (parcel 0 6 0 []) ⟨0, [1, 2], none, none⟩ _ (by decide) (by decide +kernel) (by decide +kernel) rfl)).1
    (by decide +kernel)
  have k7 := (k5 (some 5) 1 6 [9] (by decide +kernel) (by decide +kernel)).2.1 (by decide +kernel) (by decide +kernel) (by decide +kernel) (by decide +kernel)
    (by decide +kernel)
  have k8 := (k5 (some 5) 1 7 [9] (by decide +kernel) (by decide +kernel)).2.2 (by decide +kernel) (by decide +kernel) (by decide +kernel)
  have k9 := ((h ground).2.2.2.2.2.1 1 (by decide)).1
  have ka := ((h (depot2 none [] 0)).2.2.2.2.2.1 0 (by decide)).2 ⟨0, [1, 2], none, none⟩ rfl
  have kb := (h ground).2.2.2.2.2.2.1 []
  have kc (now) := (h (depot2 none [⟨0, 1, [1, 2, 3, 4], false⟩] now)).2.2.2.2.2.2.2.1 0 500 [1, 2, 3, 4] rfl (by decide) (by rfl)
  have kf := (h (depot2 none [] 0)).2.2.2.2.2.2.2.2.1.2 nofun
  have kg := (h ground).2.2.2.2.2.2.2.2.1.1 rfl
  have kd := (h ground).2.2.2.2.2.2.2.2.2.1
  have ke := (h ground).2.2.2.2.2.2.2.2.2.2
  exact ⟨goes_of k1, ⟨_, k2⟩, ⟨_, k3.1⟩, ⟨_, k3.2 [] (by decide)⟩, ⟨_, k4.1⟩, goes_of k6, goes_of k7, goes_of k8, goes_of k9,
    goes_of (ka.1 2 [5] nofun (by decide)), goes_of (ka.1 3 [5] nofun (by decide)), goes_of (ka.2.1 []), goes_of ka.2.2.1, goes_of ka.2.2.2, ⟨_, kb⟩,
    goes_of ((kc 500).2 (by decide +kernel)), ⟨_, (kc 499).1 (by decide +kernel)⟩, goes_of kf, ⟨_, kg⟩, goes_of kd, goes_of ke⟩

/-! ### The host, encodings, the step -/

/-- Context 0x31, of virtual function 1. -/
def leased : Ctx := { owner with desc := owner.desc.set 0 0x0000003180500000 }

/-- Function 1's page 0x20000 belongs to `own`, and its key stands where `keyed`; the device's power is `p`. -/
def tenancy (own : Nat) (keyed : Bool) (p : Power) (timed : Option (BitVec 64)) (ts : List Team) : State :=
  let s := ground.setPte 0x20000 (BitVec.ofNat 64 (2 ^ 63 + own * 2 ^ 40 + 3 * 65536))
  { s with ctxs := [leased], sectors := [⟨0xC00, 0x800, 0, 9, 1, false, []⟩], keys := if keyed then s.keys ++ [⟨16, 9, 0, 0⟩] else s.keys, teams := ts
           ports := [⟨0, true, 0⟩, ⟨1, false, 0⟩]
           fns := [Fn.initial 0, { Fn.initial 1 with fs := 0x81 }]
           fw := { s.fw with sleep := { s.fw.sleep with power := p, timed := timed } } }

theorem witness_Partitions (h : Obligations.HostLink) :
    Goes (.partitionRequest 2 (BitVec.ofNat 64 (2 ^ 63 + 2 ^ 60 + 77 * 2 ^ 24 + 99))) ground ∧
    Goes (.partitionRequest 3 (BitVec.ofNat 64 (2 ^ 63 + 2 ^ 60))) ground ∧ Goes (.partitionRequest 0 (BitVec.ofNat 64 (2 ^ 63 + 2 ^ 60))) ground ∧
    Goes (.partitionDissolution 0) ground ∧ Goes (.engineAssignmentWrite 5 0) ground ∧ Goes (.engineAssignmentWrite 5 0xFF) ground := by
  have k (first v) := (h ground).1 first 2 v
  have k1 := (k 2 (BitVec.ofNat 64 (2 ^ 63 + 2 ^ 60 + 77 * 2 ^ 24 + 99)) (by decide) (by decide)).1 (by decide) (by decide)
    (fun p hp k hk hq => by cases hp with | head => exact absurd hq.2 (by have := hk.1; show ¬k < 1; omega) | tail _ u => cases u) (by decide +kernel)
    (by decide +kernel)
  have k2 := (k 3 (BitVec.ofNat 64 (2 ^ 63 + 2 ^ 60)) (by decide) (by decide)).2 (.inl (by decide))
  have k3 := (k 0 (BitVec.ofNat 64 (2 ^ 63 + 2 ^ 60)) (by decide) (by decide)).2 (.inr (.inr (.inl ⟨_, .head _, by decide, by decide⟩)))
  have k4 := (h ground).2.1 0 _ (by decide) rfl (by decide +kernel)
  have k5 := (h ground).2.2.1 5
  exact ⟨goes_of2 k1, ⟨_, k2⟩, ⟨_, k3⟩, goes_of k4, ⟨_, k5 0⟩, ⟨_, k5 0xFF⟩⟩

theorem witness_FunctionRegisters (h : Obligations.HostLink) :
    let s := tenancy 1 true .awake none []
    Goes (.rreset 1 0x31) s ∧ Goes (.rreset 1 0x32) s ∧ Goes (.rreset 0 0x31) s ∧ Goes (.registerWrite 1 0x10 0x80) s ∧ Goes (.registerWrite 1 0x08 0x31) s ∧
    Goes (.registerWrite 1 0x20 5) s ∧ Goes (.registerWrite 0 0x50010 5) s ∧ Goes (.registerWrite 0 0x60008 5) s ∧ Goes (.registerWrite 0 0x60000 2) s := by
  have k1 := (h (tenancy 1 true .awake none [])).2.2.2.1 1 ⟨{ Fn.initial 1 with fs := 0x81 }, .tail _ (.head _), rfl, rfl⟩
  have k0 := (h (tenancy 1 true .awake none [])).2.2.2.1 0 ⟨Fn.initial 0, .head _, rfl, rfl⟩
  have r1 := k1.1 0x31 leased rfl (by decide +kernel)
  have w0 (v) := k0.2.2.2 v rfl
  exact ⟨⟨_, r1⟩, ⟨_, k1.2.1 0x32 (fun c hc => absurd (show (none : Option Ctx) = some c from hc) (by simp))⟩,
    ⟨_, k0.2.1 0x31 (fun c hc => by cases (show some leased = some c from hc); decide +kernel)⟩, ⟨_, (k1.2.2.1 0x80 (by decide)).1⟩,
    ⟨_, ((k1.2.2.1 0x31 (by decide)).2.1).trans r1⟩, ⟨_, (k1.2.2.1 5 (by decide)).2.2 0x20 (by decide) (by decide)⟩, ⟨_, (w0 5).1⟩,
    ⟨_, (w0 5).2.2.2.2.2.2.2.2.1⟩, ⟨_, (w0 2).2.2.2.2.2.2.2.2.2 (by decide)⟩⟩

theorem witness_Aperture (h : Obligations.HostLink) :
    Goes (.apertureRead 1 0x20010 8) (tenancy 1 true .awake none []) ∧ Goes (.apertureWrite 1 0x20010 [1, 2, 3, 4]) (tenancy 1 true .awake none []) ∧
    Goes (.apertureRead 1 0x20010 4) (tenancy 2 true .awake none []) ∧ Goes (.apertureRead 1 0x20010 4) (tenancy 1 false .awake none []) := by
  have k (own keyed n) (hn : 0 < n) (hm : n ≤ 8) := (h (tenancy own keyed .awake none [])).2.2.2.2.1 1 leased 0x20010 n 9 (by decide) (by decide)
    (show (tenancy 1 true .awake none []).ctxs.find? (fun c => c.valid && c.vf == 1) = some leased by decide +kernel) hn (by omega) (by omega)
  have k1 (n) (hn : 0 < n) (hm : n ≤ 8) := (k 1 true n hn hm).2 (by decide +kernel) (by decide +kernel) (by decide +kernel)
  have k2 := ((k 2 true 4 (by decide) (by decide)).1 (.inr (.inl (by decide +kernel)))).2 [1, 2, 3, 4] rfl
  have k3 := ((k 1 false 4 (by decide) (by decide)).1 (.inr (.inr (by decide +kernel)))).2 [1, 2, 3, 4] rfl
  have k4 := (k1 4 (by decide) (by decide)).2.2 [1, 2, 3, 4] rfl (by decide +kernel) (by decide) ⟨by decide +kernel, by decide +kernel⟩ (by decide +kernel)
  exact ⟨goes_of (k1 8 (by decide) (by decide)).2.1, goes_of k4, have ⟨s', _, a, _⟩ := k2; ⟨s', a⟩, have ⟨s', _, a, _⟩ := k3; ⟨s', a⟩⟩

theorem witness_ResetAndSleep (h : Obligations.HostLink) :
    Goes (.functionLevelReset 1) (tenancy 1 true .asleep none []) ∧ Goes (.functionLevelReset 1) (tenancy 1 true .awake none [squad (crew 1 16)]) ∧
    Goes .deepSleep (tenancy 1 true .awake none [squad (crew 1 16)]) ∧ Goes .deepSleep (tenancy 1 true .entering none [squad (crew 1 16)]) ∧
    Goes .deepSleep (tenancy 1 true .entering none []) ∧ Goes (.wake 1) (tenancy 1 true .asleep none []) ∧ Goes (.wake 2) (tenancy 1 true .entering none []) ∧
    Goes (.wake 1) (tenancy 1 true .awake none []) ∧ Goes .timedWake (tenancy 1 true .asleep (some 0) []) ∧
    Goes .timedWake (tenancy 1 true .asleep (some 1) []) := by
  have k1 (p ts) := (h (tenancy 1 true p none ts)).2.2.2.2.2.1 1 (by decide) (by decide)
    (fun a ha b hb _ _ _ => by rw [List.mem_singleton.1 ha, List.mem_singleton.1 hb])
    (show ((tenancy 1 true .awake none []).panels.map (·.num)).Nodup by decide +kernel)
    (show ∀ p ∈ (tenancy 1 true .awake none []).panels, p.ptes.Pairwise fun a b => a.1 < b.1 by decide +kernel)
  have k2 := (h (tenancy 1 true .awake none [squad (crew 1 16)])).2.2.2.2.2.2.1 (by decide +kernel)
  have k3 (ts) := (h (tenancy 1 true .entering none ts)).2.2.2.2.2.2.2.1
  have w1 (p tm) := (h (tenancy 1 true p tm [])).2.2.2.2.2.2.2.2 1 (.inl rfl)
  have w2 := (h (tenancy 1 true .entering none [])).2.2.2.2.2.2.2.2 2 (.inr (.inl ⟨rfl, by decide +kernel⟩))
  exact ⟨⟨_, (k1 .asleep []).1 (by decide +kernel)⟩, goes_of ((k1 .awake [squad (crew 1 16)]).2 (by decide +kernel)), goes_of k2,
    ⟨_, (k3 [squad (crew 1 16)] (by decide +kernel)).1 ⟨_, .head _, by decide +kernel⟩⟩, goes_of ((k3 [] (by decide +kernel)).2 (by decide +kernel) (by decide +kernel)),
    goes_of ((w1 .asleep none).1 (by decide +kernel)), ⟨_, w2.2.1 (by decide +kernel) (by decide +kernel)⟩,
    ⟨_, (w1 .awake none).2.2.1 (by decide +kernel)⟩,
    goes_of (((w1 .asleep (some 0)).2.2.2 0 (by decide +kernel) (by decide +kernel)).1 (by decide +kernel)),
    ⟨_, ((w1 .asleep (some 1)).2.2.2 1 (by decide +kernel) (by decide +kernel)).2 (by decide +kernel)⟩⟩

theorem witness_RoundTrip (h : Obligations.RoundTrip) :
    decode 0x30700803010FF001 = .ok (.iadd always (vr 2) (vr 3) (vr 4) 1) ∧ encode (.iadd always (vr 2) (vr 3) (vr 4) 1) = some 0x30700803010FF001 :=
  ⟨(h.1 (.iadd always (vr 2) (vr 3) (vr 4) 1) 0x30700803010FF001 (by decide) (by decide)).1, (h.2 0x30700803010FF001 _ (by decide)).2⟩

/-- The controller's group, whose word at 0x100 is `IADD.sat V2,V3,V4`; the agenda as given. -/
def cubicle (plan : List Machine.Action) : State :=
  { office (crew 1 16) with cur := none, agenda := plan, ctlMem := Memory.writeN [] 0x100 8 0x30700803010FF001 }

/-- As `cubicle`, where the group issues. -/
def onDuty (now : Nat) : State := { cubicle [] with time := BitVec.ofNat 64 now, cur := some ⟨0, 0, 0⟩ }

/-- Nothing that can happen by itself changes the state. -/
def still (s : State) : Bool :=
  s.internal.all fun r => match exec r s with
    | .next u => decide (u = s)
    | _ => true

theorem still_of {s : State} (h : still s = true) : ∀ r ∈ s.internal, ∀ u, exec r s = .next u → u = s := by
  intro r hr u hu
  have k := List.all_eq_true.1 h r hr
  rw [hu] at k
  exact of_decide_eq_true k

/-- The controller, and its one group. -/
def janitor : Group := { crew 1 16 with entries := [Entry.at 0x100 0 1 false] }

def guard0 : Team := { Team.controller with groups := [janitor] }

/-- The state in which entry 0 of the controller's group issues. -/
def begins (s : State) : State :=
  { s.updGroup 0 0 (fun g => g.grow (s.eligible exec guard0 0) 0) with cur := some ⟨0, 0, 0⟩ }

/-- Whether the controller's group issues at 0x100, and no trap waits. -/
def startsAt (s : State) : Bool :=
  match s.issuing with
  | some (c, t, g, e) => c == ⟨0, 0, 0⟩ && t.tid == 0 && e.pc == 0x100 && (lanesOf e.mask).all (fun l => (g.thread l).ptrap.isNone) && s.codeAt t e.pc.toNat
  | none => false

theorem starts_of {s : State} (h : startsAt s = true) : ∃ t g e, s.issuing = some (⟨0, 0, 0⟩, t, g, e) ∧ t.tid = 0 ∧ e.pc = 0x100 ∧
    (∀ l ∈ lanesOf e.mask, (g.thread l).ptrap = none) ∧ s.codeAt t e.pc.toNat = true := by
  unfold startsAt at h
  split at h
  · next c t g e hq =>
    simp only [Bool.and_eq_true, beq_iff_eq, List.all_eq_true, Option.isNone_iff_eq_none] at h
    exact ⟨t, g, e, by rw [hq, h.1.1.1.1], h.1.1.1.2, h.1.1.2, h.1.2, h.2⟩
  · exact absurd h (by decide)

/-- The controller's group alone is ready. -/
def alone (l : List Claim) : Bool :=
  match l with
  | [c] => c.tid == 0 && c.grp == 0
  | _ => false

theorem alone_of {l : List Claim} (h : alone l = true) : ∃ c, l = [c] ∧ c.tid = 0 ∧ c.grp = 0 := by
  unfold alone at h
  split at h
  · next c => exact ⟨c, rfl, by simpa using h⟩
  · exact absurd h (by decide)

theorem witness_StepRunsDecoded (h : Obligations.StepRunsDecoded) :
    step (cubicle [.issue 0 0]) = exec (.iadd always (vr 2) (vr 3) (vr 4) 1) (begins (cubicle [])) ∧
      step (cubicle []) = exec (.iadd always (vr 2) (vr 3) (vr 4) 1) (begins ((cubicle []).elapse 1)) := by
  have k1 := (h.1 (cubicle [.issue 0 0]) guard0 0 0 0x30700803010FF001 (.iadd always (vr 2) (vr 3) (vr 4) 1) (by decide +kernel)
    rfl (by decide +kernel)).1 [] rfl (let ⟨c, hc, c0, c1⟩ := alone_of (l := State.granted exec (cubicle [])) (by decide +kernel)
      ⟨c, hc ▸ List.mem_cons_self, c0, c1⟩) (by decide +kernel) (by decide +kernel)
  obtain ⟨c, hc, c0, c1⟩ := alone_of (l := State.granted exec ((cubicle []).elapse 1)) (by decide +kernel)
  have k2 := (h.1 (cubicle []) guard0 0 0 0x30700803010FF001 (.iadd always (vr 2) (vr 3) (vr 4) 1) (by decide +kernel)
    rfl (by decide +kernel)).2 rfl (still_of (by decide +kernel)) c hc c0 c1 (by decide +kernel) (by decide +kernel)
  obtain ⟨t1, g1, e1, a1, b1, p1, d1, f1⟩ := starts_of (s := begins (cubicle [])) (by decide +kernel)
  obtain ⟨t2, g2, e2, a2, b2, p2, d2, f2⟩ := starts_of (s := begins ((cubicle []).elapse 1)) (by decide +kernel)
  exact ⟨k1 t1 g1 e1 a1 d1 (fun _ => ⟨f1, by rw [p1]; decide +kernel⟩) (absurd b1) (by decide),
    k2 t2 g2 e2 a2 d2 (fun _ => ⟨f2, by rw [p2]; decide +kernel⟩) (absurd b2) (by decide)⟩

theorem witness_MemoryInvariant (h : Obligations.MemoryInvariant) : ∃ s', step ground = .next s' ∧ Memory.wf s'.mem = true := by
  obtain ⟨s', hs⟩ := next_of (show isNext (step ground) = true by decide +kernel)
  exact ⟨s', hs, (h ground s' (by decide) (by decide) hs).1⟩


theorem sound_janitor : janitor.sound := ⟨by decide, by decide, by decide, by decide, by decide⟩

theorem sound_of {s : State} (h0 : s.ctl = guard0) (h1 : s.teams = []) (h2 : s.ctxs = [owner]) : s.sound := by
  have k : guard0.sound := ⟨by decide, fun g hg => by rw [List.mem_singleton.1 (show g ∈ [janitor] from hg)]; exact sound_janitor⟩
  exact ⟨by rw [h0]; rfl, by rw [h0]; exact k, by simp [h1], by simp [h2, owner]⟩

theorem witness_FrontierInvariant (h : Obligations.FrontierInvariant) : ∃ s', step (cubicle []) = .next s' ∧ s'.sound := by
  obtain ⟨s', hs⟩ := next_of (show isNext (step (cubicle [])) = true by decide +kernel)
  exact ⟨s', hs, h _ s' (sound_of rfl rfl rfl) hs⟩

/-! ## Well-formedness: for each check a term that it refuses (chapter 02 and the encoding tables) -/

/-- The check refuses each of these, and the decoder the word its fields would make. -/
def refused (l : List Instr) : Bool :=
  l.all fun i => !i.wf && match encode i with
    | some w => match decode w with
      | .ok _ => false
      | .error _ => true
    | none => true

theorem test_wf_guards : refused [.nop ⟨true, 7⟩, .prio ⟨false, 3⟩ 5, .regroup ⟨false, 3⟩ (vr 1), .allot ⟨true, 3⟩ 16 1, .stld ⟨false, 0⟩ (gr 4) 1,
    .stswap ⟨false, 0⟩, .sig ⟨false, 0⟩ (gr 4) (vr 8)] = true := by decide

theorem test_wf_fields : refused [.mov always (vr 0) (gr 64) 0, .mov always (vr 0) ⟨true, false, .g, 1⟩ 0, .mov always (vr 0) ⟨false, true, .g, 127⟩ 0,
    .mov always ⟨false, true, .v, 3⟩ (vr 1) 0, .iadd64 always (vr 3) (vr 2) (vr 4), .mov always (vr 4) (vr 2) 2, .mov always (gr 1) (vr 2) 0,
    .movg always (vr 1) (vr 2) 1 0, .brx always Reg.null 3, .p2v always (gr 1), .callx always (vr 1) 0, .rngwr always (gr 3) (vr 8) 1] = true := by decide

theorem test_wf_control : refused [.barg always (vr 1) 1 0, .barg always (vr 1) 0 1, .bart always (vr 1) 3, .await always (vr 1) 0 2 0,
    .vote always (vr 3) (gr 0) 2 3 0 1, .vote always (vr 3) (gr 0) 7 0 0 1, .redg always (vr 1) (vr 2) (gr 0) 11, .scang always (vr 1) (vr 2) (gr 0) 0 12,
    .matchG always (vr 1) (vr 3) (gr 0) 1 2, .jmpf always (vr 0) 1 0, .jmpf always (vr 0) 0 1, .callf always (vr 0) 0 1, .trap always (vr 1) 1 5] = true := by
  decide

theorem test_wf_moves : refused [.mov always (vr 0) (vr 4) 3, .movg always (gr 1) (vr 2) 1 5, .pset always (vr 1) Reg.null 3 0, .pset always (vr 1) (vr 2) 1 0,
    .plop always 6 1 2 3, .srd always (vr 1) 0x1B, .srd always (vr 1) 0x17, .srd always (gr 1) 0x00, .swr always (vr 1) 0x1B, .swr always (vr 1) 0x16,
    .empty always (vr 4) 3, .tfull always (vr 1) 3 1, .tfull always ⟨false, true, .v, 1⟩ 0 1, .allot always 7 1, .allot always 129 1] = true := by decide

theorem test_wf_lanes : refused [.iadd always (vr 1) (vr 2) (vr 3) 3, .imulh always (vr 1) (vr 2) (vr 3) 3, .imulw always (vr 2) (vr 2) (vr 3) 3,
    .isetp always (vr 1) (vr 2) 6 0 0 1, .isetp always (vr 1) (vr 2) 2 0 1 1, .isat always (vr 1) (vr 2) 0 7, .isat always (vr 1) (vr 2) 0 15,
    .fadd always (vr 1) (vr 2) (vr 3) 4, .hadd2 always (vr 1) (vr 2) (vr 3) 0 0, .hmul2 always (vr 1) (vr 2) (vr 3) 0 3, .fcvt always (vr 1) (vr 2) 0 1 1,
    .fcvt always (vr 1) (vr 2) 5 1 0, .fcvt always (vr 1) (vr 2) 0 8 0, .f2i always (vr 1) (vr 2) 0 7, .i2f always (vr 1) (vr 2) 0 3 8,
    .i2f always (vr 1) (vr 2) 0 0 15, .qcvt always (vr 1) (vr 2) (vr 3) 0 0, .qcvt always (vr 1) (vr 2) (vr 3) 0 4, .qdeq always (vr 1) (vr 2) (vr 3) 0 1 2,
    .qdeq always (vr 1) (vr 2) (vr 3) 0 5 5, .qscale always (vr 1) (vr 2) 0 2] = true := by decide

theorem test_wf_grid : refused [.mxon always 3 0 1 0 7, .mxon always 0 0 0 0 7, .mxon always 0 1 2 0 7, .mxon always 0 0 2 0 1, .stld always (vr 4) 0,
    .mma always (gr 1), .mxrd always (vr 4) (vr 4) 3, .mxst always (gr 4) (gr 2) Reg.null 0 2 0 4, .mxst always (vr 4) (gr 2) Reg.null 0 2 1 4,
    .mxst always (vr 4) (gr 2) Reg.null 0 2 0 3, .mxst always (vr 4) Reg.null Reg.null 0 3 0 4] = true := by decide

theorem test_wf_memory : refused [.ld always (vr 1) (vr 2) Reg.null 0 0 2 2, .ld always (vr 1) (vr 2) Reg.null 0 0 0 5, .ld always (vr 1) (vr 2) Reg.null 0 0 1 2,
    .ld always (vr 1) (vr 3) Reg.null 0 0 0 2, .st always (vr 1) (vr 2) Reg.null 0 2 1 2, .st always (vr 1) (vr 2) Reg.null 0 0 2 2,
    .ldp always (vr 1) (vr 2) Reg.null 0 1 0 2, .stp always (vr 1) (vr 2) Reg.null 0 1 0 2, .ldk always (vr 1) (vr 2) Reg.null 0 4,
    .atom always (vr 1) (vr 2) (vr 4) 16 0 6 0 2, .atom always (vr 2) (vr 2) (vr 4) 9 0 6 0 3, .atom always (vr 1) (vr 2) (vr 4) 0 0 0 0 2,
    .atom always (vr 1) (vr 2) (vr 4) 0 0 6 0 1, .acas always (vr 1) (vr 2) (vr 5) 0 6 0 2, .red always (vr 2) (vr 4) 0 0 6 1 2,
    .fence always 0 3, .fence always 2 0, .pref always (vr 2) Reg.null 0 2 2, .cflush always (vr 2) Reg.null 0 2 2,
    .tagrd always Reg.null (vr 2) Reg.null 0 2, .tagwr always (vr 1) (vr 2) Reg.null 0 3] = true := by decide

theorem test_wf_units : refused [.copym always ⟨true, false, .v, 1⟩ (vr 2) Reg.null 0 0, .hstat always (vr 1) 2, .rast always (vr 1) Reg.null 0, .visld always (vr 2) (vr 3) (vr 4) 0,
    .rttri always (vr 0) (vr 4) (vr 8) (gr 0) 3 1, .sig always (vr 4) (vr 8), .lwait always (vr 2) (gr 4) 0 1, .frqpop always (vr 4) 0 1,
    .dirtyhv always (gr 1) (vr 2) 0, .illegalOpcode (0x30#8 ++ 0#56)] = true := by decide

/-! ## Decoding: words written out from the encoding tables and sample words of the spec, one or more of each family -/

/-- The word decodes to the instruction, and is its encoding. -/
def word (w : BitVec 64) (i : Instr) : Bool := (match decode w with | .ok j => decide (j = i) | .error _ => false) && encode i == some w

def no : Reg := Reg.null

theorem test_decode_control : [word 0x0670000000000000 (.ret always (vr 0)),
    word 0x0B73FCFFFFFFFFFF (.barg always no 0xFFFF 0xFFFF),
    word 0x0F700CFF3FC801F2 (.vote always (vr 3) (gr 0) 7 3 0 2),
    word 0x127018023FC80008 (.redg always (vr 6) (vr 2) (gr 0) 8),
    word 0x0D701CFF00000020 (.arrive always (vr 7) no 0x20)].all (· == true) = true := by decide

theorem test_decode_move : [word 0x2873FCFF8000FFF8 (.wbase always no 1 0xFFF8),
    word 0x2B7008FF00000000 (.srd always (vr 2) 0),
    word 0x2F73FCFF00000101 (.allot always 32 1),
    word 0x2028A01D3FCFF000 (.mov ⟨false, 2⟩ ⟨true, false, .v, 40⟩ (vr 29) 0)].all (· == true) = true := by decide

theorem test_decode_integer : [word 0x30700803010FF001 (.iadd always (vr 2) (vr 3) (vr 4) 1),
    word 0x4A73FC0520CFF501 (.isetp always (vr 5) (gr 3) 2 1 0 1),
    word 0x3570140322804001 (.imad always (vr 5) (vr 3) (gr 10) (vr 4) 1)].all (· == true) = true := by decide

theorem test_decode_float : [word 0x6370200100803200 (.ffma always (vr 8) (vr 1) (vr 2) (vr 3) 1),
    word 0x7C705008204FF003 (.qcvt always (vr 20) (vr 8) (gr 1) 0 3)].all (· == true) = true := by decide

theorem test_decode_grid : [word 0x9073FCFF00020007 (.mxon always 0 0 2 0 7),
    word 0x9073FCFFA007000A (.mxon always 2 1 7 1 2),
    word 0x9273FCFF00000000 (.mxsync always),
    word 0x9473FC843FCFF040 (.stld always (gr 4) 0x40),
    word 0x9773FC08204FF000 (.mmas always (vr 8) (gr 1)),
    word 0x997100823FC000D4 (.mxst always (vr 64) (gr 2) no 0 6 2 4)].all (· == true) = true := by decide

theorem test_decode_memory : [word 0xA1701C023FC004D2 (.st always (vr 7) (vr 2) no 4 6 2 2),
    word 0xA27020863FC00204 (.ldp always (vr 8) (gr 6) no 2 0 0 4),
    word 0xA5701082015802C2 (.atom always (vr 4) (gr 2) (vr 5) 12 2 6 0 2),
    word 0xA5102C82250001DA (.atom ⟨false, 1⟩ (vr 11) (gr 2) (gr 20) 0 1 6 3 2),
    word 0xAA73FCFF000000D8 (.fence always 6 3)].all (· == true) = true := by decide

theorem test_decode_engine : [word 0xC07010823FCFF0C4 (.copy always (vr 4) (gr 2) no 3 2),
    word 0xC1722082224FF142 (.copym always (gr 8) (gr 2) (gr 9) 5 1),
    word 0xC273FCFF00000011 (.hwait always 2 1),
    word 0xC47018FF00000010 (.hstat always (vr 6) 2),
    word 0xC573FC8400000002 (.cfetch always (gr 4) 2),
    word 0xC770000000000000 (.jmpf always (vr 0) 0 0)].all (· == true) = true := by decide

theorem test_decode_graphics : [word 0xD07010823FCFF002 (.rast always (vr 4) (gr 2) 1),
    word 0xD370508201006009 (.tex always (vr 20) (gr 2) (vr 4) (vr 6) 0 1 1),
    word 0xD770300001086002 (.rtbox always (vr 12) (vr 0) (vr 4) (gr 6) 2),
    word 0xDA7210083FCFF000 (.sig always (gr 4) (vr 8)),
    word 0xDB73FC8800C84000 (.sigend always (gr 8) (vr 3) (gr 4))].all (· == true) = true := by decide

theorem test_decode_launch : [word 0xE07010FF00000000 (.time always (vr 4)),
    word 0xE173FC8200000001 (.launch always (gr 2) 1),
    word 0xE370188400000007 (.lwait always (vr 6) (gr 4) 0 7),
    word 0xE473FC8200000001 (.lpub always (gr 2) 1),
    word 0xE57050FF0000000A (.platch always (vr 20) 0 1 2),
    word 0xE673FC8300000000 (.decls always (gr 3)),
    word 0xE773FCFF00000081 (.kselGen always 16 1),
    word 0xE773FC8400020032 (.kselDcl always (gr 4) 6 2)].all (· == true) = true := by decide

theorem test_decode_privileged : [word 0xF073FCFF00000005 (.trap always no 0 5),
    word 0xF173FCFF00000000 (.rte always),
    word 0xF273FC0600010001 (.ctxsv always (vr 6) 1 1),
    word 0xF470080800000403 (.ifrrd always (vr 2) (vr 8) 2 3),
    word 0xF57020FF00000061 (.frqpop always (vr 8) 6 1),
    word 0xF673FC0A00000001 (.frqack always (vr 10) 0 1),
    word 0xF770100800000001 (.rngwr always (vr 4) (vr 8) 1),
    word 0xFA73FCFF00000000 (.halt always)].all (· == true) = true := by decide

/-! ## Single instructions, their results worked out by hand from the rule named -/

theorem test_iadd_sat : gives (.iadd always (vr 0) (vr 1) (vr 2) 1) [0, 0x7FFFFFFF, 1, 0] 0 = some 0x7FFFFFFF := by decide -- R170
theorem test_iadd_usat : gives (.iadd always (vr 0) (vr 1) (vr 2) 2) [0, 0xFFFFFFFF, 1, 0] 0 = some 0xFFFFFFFF := by decide -- R170
theorem test_isub_wrap : gives (.isub always (vr 0) (vr 1) (vr 2) 0) [0, 3, 5, 0] 0 = some 0xFFFFFFFE := by decide -- R170
theorem test_isub_own_source : gives (.isub always (vr 2) (vr 1) (vr 2) 2) [0, 3, 5, 0] 2 = some 0 := by decide -- R170
theorem test_imulh_signs : gives (.imulh always (vr 0) (vr 1) (vr 2) 2) [0, 0xFFFFFFFF, 0xFFFFFFFF, 0] 0 = some 0xFFFFFFFF := by decide -- R171
theorem test_imulw_high : gives (.imulw always (vr 2) (vr 0) (vr 1) 1) [0xFFFFFFFF, 0xFFFFFFFF, 0, 0] 3 = some 0xFFFFFFFE := by decide -- R171
theorem test_imad : gives (.imad always (vr 0) (vr 1) (vr 2) (vr 3) 0) [0, 0xFFFFFFFF, 3, 5] 0 = some 2 := by decide -- R170
theorem test_iabs_least : gives (.iabs always (vr 0) (vr 1) 0) [0, 0x80000000, 0, 0] 0 = some 0x80000000 := by decide -- R172
theorem test_iabs_sat : gives (.iabs always (vr 0) (vr 1) 1) [0, 0x80000000, 0, 0] 0 = some 0x7FFFFFFF := by decide -- R172
theorem test_imin_signed : gives (.imin always (vr 0) (vr 1) (vr 2) 0) [0, 0xFFFFFFFF, 1, 0] 0 = some 0xFFFFFFFF := by decide -- R172
theorem test_imin_unsigned : gives (.imin always (vr 0) (vr 1) (vr 2) 1) [0, 0xFFFFFFFF, 1, 0] 0 = some 1 := by decide -- R172
theorem test_andn : gives (.andn always (vr 0) (vr 1) (vr 2)) [0, 0xFF, 0x0F, 0] 0 = some 0xF0 := by decide -- R177
theorem test_lop3_select : gives (.lop3 always (vr 0) (vr 1) (vr 2) (vr 3) 0xCA) [0, 0xFFFF0000, 0x12345678, 0x9ABCDEF0] 0 = some 0x1234DEF0 := by decide -- R177
theorem test_iadd64_carry : gives (.iadd64 always (vr 0) (vr 0) (vr 2)) [0xFFFFFFFF, 1, 1, 0] 1 = some 2 := by decide -- R174
theorem test_lea_signed : gives (.lea always (vr 0) (vr 0) (vr 2) 1 3) [8, 0, 0xFFFFFFFE, 0] 1 = some 0xFFFFFFFF := by decide -- R174
theorem test_isat_int8 : gives (.isat always (vr 0) (vr 1) 0 12) [0, 0xFFFFFF00, 0, 0] 0 = some 0xFFFFFF80 := by decide -- R175
theorem test_idp4 : gives (.idp4 always (vr 0) (vr 1) (vr 2) (vr 3) 0 0 1) [0, 0xFF020304, 0xFF020304, 7] 0 = some 0xFFFFFF25 := by decide -- R176
theorem test_icsub_less : gives (.icsub always (vr 0) (vr 1) (vr 2) 1) [0, 4, 5, 0] 0 = some 4 := by decide -- R173
theorem test_movi : gives (.movi always (vr 3) 0xDEADBEEF) [0, 0, 0, 0] 3 = some 0xDEADBEEF := by decide -- R96
theorem test_fadd : gives (.fadd always (vr 0) (vr 1) (vr 2) 0) [0, 0x3F800000, 0x40000000, 0] 0 = some 0x40400000 := by decide -- R182
theorem test_ffma : gives (.ffma always (vr 0) (vr 1) (vr 2) (vr 3) 0) [0, 0x40000000, 0x40400000, 0xC0A00000] 0 = some 0x3F800000 := by decide -- R182
theorem test_fneg : gives (.fneg always (vr 0) (vr 1)) [0, 0x7FC00001, 0, 0] 0 = some 0xFFC00001 := by decide -- R184
theorem test_f2i_saturates : gives (.f2i always (vr 0) (vr 1) 1 8) [0, 0x4F800000, 0, 0] 0 = some 0x7FFFFFFF := by decide -- R191
theorem test_sar_far : gives (.sar always (vr 0) (vr 1) (vr 2) 0) [0, 0x80000000, 40, 0] 0 = some 0xFFFFFFFF := by decide -- R178, example
theorem test_shr_far : gives (.shr always (vr 0) (vr 1) (vr 2) 0) [0, 0x80000000, 40, 0] 0 = some 0 := by decide -- R178, example
theorem test_shr_wrap : gives (.shr always (vr 0) (vr 1) (vr 2) 1) [0, 0x80000000, 40, 0] 0 = some 0x00800000 := by decide -- R178, example
theorem test_fshl : gives (.fshl always (vr 0) (vr 1) (vr 2) (vr 3)) [0, 0x12345678, 0x9ABCDEF0, 36] 0 = some 0x23456789 := by decide -- R178
theorem test_clz_zero : gives (.clz always (vr 0) (vr 1)) [0, 0, 0, 0] 0 = some 32 := by decide -- R179
theorem test_brev : gives (.brev always (vr 0) (vr 1)) [0, 1, 0, 0] 0 = some 0x80000000 := by decide -- R179
theorem test_bfe_signed : gives (.bfe always (vr 0) (vr 1) (vr 2) 1) [0, 0xF00, 0x0408, 0] 0 = some 0xFFFFFFFF := by decide -- R180, example
theorem test_bfi : gives (.bfi always (vr 0) (vr 1) (vr 2) (vr 3)) [0, 0xAB, 0xFFFFFFFF, 0x0408] 0 = some 0xFFFFFBFF := by decide -- R180
theorem test_imulh_ss : gives (.imulh always (vr 0) (vr 1) (vr 2) 0) [0, 0xFFFFFFFF, 0xFFFFFFFF, 0] 0 = some 0 := by decide -- R171, example
theorem test_fmin_zeros : gives (.fmin always (vr 0) (vr 1) (vr 2)) [0, 0, 0x80000000, 0] 0 = some 0x80000000 := by decide -- R183, example
theorem test_fminp_nan : gives (.fminp always (vr 0) (vr 1) (vr 2)) [0, 0x3F800000, 0x7F800002, 0] 0 = some 0x7FC00002 := by decide -- R183, example
theorem test_fclass_snan : gives (.fclass always (vr 0) (vr 1)) [0, 0x7F800001, 0, 0] 0 = some 0x100 := by decide -- R186
theorem test_frnd_keeps_sign : gives (.frnd always (vr 0) (vr 1) 0) [0, 0xBE99999A, 0, 0] 0 = some 0x80000000 := by decide -- R187
theorem test_f2i_int8 : gives (.f2i always (vr 0) (vr 1) 0 12) [0, 0xC3480000, 0, 0] 0 = some 0xFFFFFF80 := by decide -- R191
theorem test_i2f_overflow : gives (.i2f always (vr 0) (vr 1) 0 1 8) [0, 70000, 0, 0] 0 = some 0x7C00 := by decide -- R192
theorem test_hadd2 : gives (.hadd2 always (vr 0) (vr 1) (vr 2) 0 1) [0, 0x3C003C00, 0x40003C00, 0] 0 = some 0x42004000 := by decide -- R189

/-- R522: the first step after the placing of an image runs its word. -/
theorem test_first_step : isNext (step (State.reset.withFetchWord 64 0x30700803010FF001)) = true := by decide +kernel

/-! ### The restore of a saved team: its frame is checked sector by sector -/

/-- A saved team of one group of 8 registers, whose frame of 662 sectors lies at the pool's beginning and has passed the gates. -/
def sleeper : Team :=
  { squad (crew 1 8) with palSize := 0, st := .saved, frame := some (0, 45056), frameKey := 5, moved := 662 }

/-- The frame's header, whose CRC is that of a register of 0. -/
def title : List (BitVec 8) :=
  bytesOf 256
    0xa5800000258000000000000025800000210000000100000000000000000000000000000000000000000000000000000000000000000000010000000000000000000000000031ffffffff0000a580000000014d465443

/-- The first five sectors: the header, and the word that brings the CRC's register to 0. -/
def plate : List (BitVec 8) := title ++ bytesOf 64 3023777635

def pool : Ctx := { owner with desc := (owner.desc.set 4 0x0000040000000001).set 3 0x20000 }

def lodging : State :=
  { ruling [sleeper] [] with
      ctxs := [pool], mem := Memory.writeN [] 0x30000 320 (ofBytes plate)
      sectors := (List.range 662).map fun k => ⟨0xC00 + k, 0x800 + k, 0, 1, 1, false, []⟩ }

/-- A sector of the frame is clean. -/
def stands (s : State) (d : Nat × Nat) : Bool :=
  decide (d.1 % 64 = 0 ∧ (s.probeSector (physOf (s.pte d.1) d.1 / 64) (s.readAs (physOf (s.pte d.1) d.1 / 64) (d.1 / 64)) 0).1 = .clean)

/-- What a sector reads as. -/
def tells64 (s : State) (c : Ctx) (d : Nat × Nat) : Nat := (s.homeReads ((s.keyOf c.slot).getD 0) 0 1 d.1 64).2.val

theorem homeReads_clean {s : State} {d key : Nat} (hd : d % 64 = 0)
    (hc : (s.probeSector (physOf (s.pte d) d / 64) (s.readAs (physOf (s.pte d) d / 64) (d / 64)) 0).1 = .clean) :
    (s.homeReads key 0 1 d 64).1 = s ∧ (s.homeReads key 0 1 d 64).2.poison = false := by
  unfold State.homeReads
  simp only [hd, Nat.sub_zero, Nat.min_self, Nat.le_refl, if_true]
  unfold State.homeRead
  dsimp only
  generalize s.probeSector (physOf (s.pte d) d / 64) (s.readAs (physOf (s.pte d) d / 64) (d / 64)) 0 = q at hc ⊢
  obtain ⟨a, b⟩ := q
  cases hc
  exact ⟨rfl, rfl⟩

/-- A frame that has passed the gates goes on at once. -/
theorem gateFrame_done {s : State} {c : Ctx} {t : Team} {r : Bool} (h : (t.frameSectors c).drop t.moved = []) : s.gateFrame c t r = (s, t.moved) := by
  unfold State.gateFrame
  rw [h]
  rfl

/-- The check of such sectors changes nothing, and gathers their bytes. -/
theorem checkSectors_stand {s : State} {c : Ctx} {t : Team} : ∀ {l : List (Nat × Nat)} {bs : List (BitVec 8)}, l.all (stands s) = true →
    l.foldl (State.checkSector c t) (s, ⟨bs, [], false⟩) = (s, ⟨bs ++ l.flatMap fun d => bytesOf 64 (tells64 s c d), [], false⟩)
  | [], bs, _ => by simp
  | d :: l, bs, h => by
    simp only [List.all_cons, Bool.and_eq_true] at h
    have ⟨hd, hc⟩ := of_decide_eq_true h.1
    have ⟨e1, e2⟩ := homeReads_clean (key := (s.keyOf c.slot).getD 0) hd hc
    have e : State.checkSector c t (s, ⟨bs, [], false⟩) d = (s, ⟨bs ++ bytesOf 64 (tells64 s c d), [], false⟩) := by
      unfold State.checkSector tells64
      simp only [e1, e2, Bool.not_false, if_true]
    rw [List.foldl_cons, e, checkSectors_stand h.2, List.flatMap_cons, List.append_assoc]

/-- Bytes of 0 leave a register of 0. -/
theorem crc_zeros : ∀ n, (List.replicate n (0 : BitVec 8)).foldl crcByte 0 = 0
  | 0 => rfl
  | n + 1 => by rw [List.replicate_succ, List.foldl_cons, show crcByte 0 0 = 0 by decide, crc_zeros n]

theorem zeros_flat {f : Nat × Nat → Nat} : ∀ {l : List (Nat × Nat)}, (l.all fun d => f d == 0) = true →
    (l.flatMap fun d => bytesOf 64 (f d)) = List.replicate (64 * l.length) (0 : BitVec 8)
  | [], _ => rfl
  | d :: l, h => by
    simp only [List.all_cons, Bool.and_eq_true, beq_iff_eq] at h
    rw [List.flatMap_cons, h.1, zeros_flat h.2, show bytesOf 64 0 = List.replicate 64 0 by decide, List.length_cons,
      List.replicate_append_replicate]
    exact congrArg (List.replicate · (0 : BitVec 8)) (by omega)

/-- Nothing is listed from an address on. -/
theorem readN_above {top : Nat} : ∀ {m : Memory}, (m.all fun c => decide (c.1 < top)) = true → ∀ {n a : Nat}, top ≤ a → m.readN a n = 0 := by
  have read {m : Memory} (h : (m.all fun c => decide (c.1 < top)) = true) {a : Nat} (ha : top ≤ a) : m.read a = 0 := by
    induction m with
    | nil => rfl
    | cons c m ih =>
      simp only [List.all_cons, Bool.and_eq_true, decide_eq_true_eq] at h
      unfold Memory.read
      rw [if_neg (by omega), if_neg (by omega), ih h.2]
  intro m h n
  induction n with
  | zero => intro _ _; rfl
  | succ n ih =>
    intro a ha
    unfold Memory.readN
    rw [read h ha, ih (by omega)]
    rfl

/-- A clean sector under the context's key, where memory lists nothing. -/
def blank (s : State) (c : Ctx) (top : Nat) (d : Nat × Nat) : Bool :=
  let key := (s.keyOf c.slot).getD 0
  let idx := physOf (s.pte d.1) d.1 / 64
  let ds := s.readAs idx (d.1 / 64)
  match s.probeSector idx ds 0 with
  | (.clean, some x) => d.1 % 64 == 0 && (key != 0 && x.keyOf 0 == key && x.keyOf 1 == key && x.dia == ds && x.err.isEmpty) && decide (top ≤ 64 * idx)
  | _ => false

theorem blank_zero {s : State} {c : Ctx} {top : Nat} (hm : (s.mem.all fun x => decide (x.1 < top)) = true) {d : Nat × Nat}
    (h : blank s c top d = true) : tells64 s c d = 0 := by
  unfold blank at h
  unfold tells64 State.homeReads
  dsimp only at h ⊢
  generalize hq : s.probeSector (physOf (s.pte d.1) d.1 / 64) (s.readAs (physOf (s.pte d.1) d.1 / 64) (d.1 / 64)) 0 = q at h
  obtain ⟨a, b⟩ := q
  split at h
  · next x e =>
    cases e
    simp only [Bool.and_eq_true, beq_iff_eq, decide_eq_true_eq, List.isEmpty_iff] at h
    obtain ⟨⟨h0, ⟨⟨⟨h1, h2⟩, h3⟩, h4⟩, h5⟩, h6⟩ := h
    rw [h0, Nat.sub_zero, Nat.min_self, if_pos (Nat.le_refl _)]
    unfold State.homeRead
    dsimp only
    rw [hq]
    dsimp only
    unfold State.plain State.unit
    simp only [h1, h2, h3, h4, h5, List.any_nil, Bool.not_false, Bool.and_true, beq_self_eq_true, if_true]
    rw [show (s.countClass .clean 0 (pteOwner (s.pte d.1))).mem = s.mem from rfl, readN_above hm (by omega), readN_above hm (by omega)]
    simp
  · exact absurd h (by decide)

theorem blank_stands {s : State} {c : Ctx} {top : Nat} {d : Nat × Nat} (h : blank s c top d = true) : stands s d = true := by
  unfold blank at h
  unfold stands
  dsimp only at h
  split at h
  · next x e =>
    simp only [Bool.and_eq_true, beq_iff_eq] at h
    rw [e, decide_eq_true_eq]
    exact ⟨h.1.1, rfl⟩
  · exact absurd h (by decide)

theorem all_split {l : List (Nat × Nat)} {p q : Nat × Nat → Bool} (n : Nat) (h : (l.take n).all p = true) (k : (l.drop n).all q = true)
    (hq : ∀ {d}, q d = true → p d = true) : l.all p = true := by
  rw [← List.take_append_drop n l, List.all_append, h, Bool.true_and, List.all_eq_true]
  exact fun d hd => hq (List.all_eq_true.1 k d hd)

theorem blank_zeros {s : State} {c : Ctx} {top : Nat} (hm : (s.mem.all fun x => decide (x.1 < top)) = true) {l : List (Nat × Nat)}
    (h : l.all (blank s c top) = true) : (l.all fun d => tells64 s c d == 0) = true := by
  rw [List.all_eq_true] at h ⊢
  intro d hd
  rw [blank_zero hm (h d hd)]
  rfl

/-- The header stands, its CRC apart. -/
def headed (bs : List (BitVec 8)) (size : Nat) : Bool :=
  bs.take 4 == [0x43, 0x54, 0x46, 0x4D] && fieldAt bs 4 2 == 1 && fieldAt bs 6 2 < 8 && fieldAt bs 8 4 == size &&
    ((bs.take 256).zipIdx.all fun x => !headReserved x.2 || x.1 == 0) && fieldAt bs 12 4 == 0xFFFFFFFF

theorem field_append {bs zs : List (BitVec 8)} {o n : Nat} (h : o + n ≤ bs.length) : fieldAt (bs ++ zs) o n = fieldAt bs o n := by
  unfold fieldAt
  rw [List.drop_append_of_le_length (by omega), List.take_append_of_le_length (by rw [List.length_drop]; omega)]

/-- A header, and what brings the register to 0, stand before any number of bytes of 0. -/
theorem headOk_zeros {bs : List (BitVec 8)} {n size : Nat} (hl : 256 ≤ bs.length) (h : headed bs size = true)
    (hc : (bs.drop 16).foldl crcByte 0xFFFFFFFF#32 = 0) : headOk (bs ++ List.replicate n 0) size = true := by
  unfold headed at h
  unfold headOk crc32c
  rw [List.take_append_of_le_length (by omega), List.take_append_of_le_length hl, field_append (by omega), field_append (by omega),
    field_append (by omega), field_append (by omega), List.drop_append_of_le_length (by omega), List.foldl_append, hc, crc_zeros]
  simp only [Bool.and_eq_true] at h ⊢
  exact ⟨h.1, by rw [eq_of_beq h.2]; decide⟩

theorem checkFrame_of {s : State} {c : Ctx} {t : Team} {l : List (Nat × Nat)} {bs : List (BitVec 8)} (hl : (t.frameSectors c).zipIdx = l)
    (hs : l.all (stands s) = true) (hb : (l.flatMap fun d => bytesOf 64 (tells64 s c d)) = bs) (hk : headOk bs t.frameSize = true) :
    ∃ s1 f, s.checkFrame c t = (s1, some f) := by
  unfold State.checkFrame
  rw [hl, checkSectors_stand hs, hb]
  refine ⟨s, ⟨bs, [], false⟩, Prod.ext rfl ?_⟩
  simp only [List.nil_append, hk, Bool.not_true, Bool.or_self, Bool.false_eq_true, if_false]

theorem flat_split {l : List (Nat × Nat)} {f : Nat × Nat → Nat} {bs : List (BitVec 8)} (n : Nat)
    (h : ((l.take n).flatMap fun d => bytesOf 64 (f d)) = bs) (hz : ((l.drop n).all fun d => f d == 0) = true) :
    (l.flatMap fun d => bytesOf 64 (f d)) = bs ++ List.replicate (64 * (l.drop n).length) 0 := by
  conv_lhs => rw [← List.take_append_drop n l]
  rw [List.flatMap_append, h, zeros_flat hz]

/-- The frame's sectors. -/
def berths662 : List (Nat × Nat) := (sleeper.frameSectors pool).zipIdx

theorem berths_blank : (berths662.drop 5).all (blank lodging pool 0x30140) = true := by decide +kernel

theorem berths_stand : berths662.all (stands lodging) = true :=
  all_split 5 (by decide +kernel) berths_blank blank_stands

theorem berths_zero : ((berths662.drop 5).all fun d => tells64 lodging pool d == 0) = true :=
  blank_zeros (by decide +kernel) berths_blank

theorem berths_plate : ((berths662.take 5).flatMap fun d => bytesOf 64 (tells64 lodging pool d)) = plate := by decide +kernel

theorem plate_headed : 256 ≤ plate.length ∧ headed plate sleeper.frameSize = true := by decide +kernel

theorem title_header : title = sleeper.header false 0xFFFFFFFF 0 := by decide +kernel

/-- The register goes on over a piece. -/
theorem crc_piece {l : List (BitVec 8)} {a c d : BitVec 32} (k n : Nat) (h : ((l.drop k).take n).foldl crcByte a = c)
    (hd : (l.drop (k + n)).foldl crcByte c = d) : (l.drop k).foldl crcByte a = d := by
  rw [← List.take_append_drop n (l.drop k), List.foldl_append, h, List.drop_drop, hd]

theorem plate_crc : (plate.drop 16).foldl crcByte 0xFFFFFFFF#32 = 0 :=
  crc_piece 16 24 (c := 2165100614) (by decide +kernel) <| crc_piece 40 36 (c := 474770473) (by decide +kernel) <|
  crc_piece 76 36 (c := 2571989085) (by decide +kernel) <| crc_piece 112 36 (c := 4193999457) (by decide +kernel) <|
  crc_piece 148 36 (c := 2238103859) (by decide +kernel) <| crc_piece 184 36 (c := 1416591186) (by decide +kernel) <|
  crc_piece 220 36 (c := 3023777635) (by decide +kernel) <| by decide +kernel

theorem lodging_checked : ∃ s1 f, State.checkFrame lodging pool { sleeper with moved := 0 } = (s1, some f) :=
  checkFrame_of (l := berths662) rfl berths_stand (flat_split 5 berths_plate berths_zero) (headOk_zeros plate_headed.1 plate_headed.2 plate_crc)

theorem rooms_nil (s : State) (h : s.rooms = []) : { s with rooms := [] } = s := by
  cases s
  cases h
  rfl

theorem witness_TeamRestore (h : Obligations.TeamLifecycle) : Goes (.teamRestore 1) lodging := by
  have ⟨n, e, hq⟩ := some_with (show (lodging.pending.find? fun m => m.tid == 1).any (fun n => n.tid == 1 && (n.ctx == pool.id && (lodging.turnOf n &&
      (lodging.frameFits n && lodging.bestQuad (lodging.quadsFor n) == some (0, 0))))) = true by decide +kernel)
  simp only [Bool.and_eq_true, beq_iff_eq] at hq
  obtain ⟨h1, h2, h3, h4, h5⟩ := hq
  obtain ⟨s1, f, hf⟩ := lodging_checked
  have k := (h lodging).2.2.2.2.2.2.1 n sleeper pool (0, 0) lodging 662 s1 f
  rw [h1, h2, show (lodging.rooms.filter fun r => r.tid != 1) = [] from rfl] at k
  dsimp only at k
  rw [rooms_nil lodging rfl] at k
  exact goes_of2 (k (by decide) e rfl rfl (by decide +kernel) h3 h4 h5 (by decide +kernel) (gateFrame_done (by decide +kernel)) (by decide +kernel) hf)

end Sys2Proof.Tests
end

section
/-! ## Deep sleep asks every team of a held context to stop, where the controller's team bears its number (R488, R490)

`State.writeHold` changes a saved team by its number, and number 0 names `State.ctl`. As long as `ctl.tid = 0`, which `State.sound` says,
that write stays within the record it is meant for, and a request for deep sleep does what O55 says of it. -/

namespace Sys2Proof.Machine

/-! ### What the writes of a hold leave -/

/-- A team's number and context stand, it runs only if it ran, and a stop that was due stays due. -/
def Team.stays (t t' : Team) : Prop :=
  t'.tid = t.tid ∧ t'.ctx = t.ctx ∧ (t'.st = .resident → t.st = .resident ∧ (t.asked = true → t'.asked = true))

theorem Team.stays_refl (t : Team) : t.stays t := ⟨rfl, rfl, fun h => ⟨h, id⟩⟩

/-- A context's validity and name stand, and a hold that stood stays. -/
def Ctx.stays (c c' : Ctx) : Prop := c'.valid = c.valid ∧ c'.id = c.id ∧ (c.held = true → c'.held = true)

theorem Ctx.stays_refl (c : Ctx) : c.stays c := ⟨rfl, rfl, fun h => h⟩

/-- What the saving of a context's teams leaves: the firmware's side, the controller's number, every hold and every stop that is due. -/
structure State.spares (s s' : State) : Prop where
  fw : s'.fw = s.fw
  ctl : s'.ctl.tid = s.ctl.tid
  ctxs : ∀ c' ∈ s'.ctxs, ∃ c ∈ s.ctxs, c.stays c'
  teams : ∀ t' ∈ s'.teams, ∃ t ∈ s.teams, t.stays t'

/-- The fields that the relation speaks of. -/
def State.spared (s : State) : Firmware × Team × List Ctx × List Team := (s.fw, s.ctl, s.ctxs, s.teams)

theorem State.spares_of_eq {s s' : State} (h : s'.spared = s.spared) : s.spares s' := by
  simp only [State.spared, Prod.mk.injEq] at h
  obtain ⟨hw, hl, hc, ht⟩ := h
  exact ⟨hw, by rw [hl], fun c h => ⟨c, hc ▸ h, c.stays_refl⟩, fun t h => ⟨t, ht ▸ h, t.stays_refl⟩⟩

theorem State.spares_refl (s : State) : s.spares s := State.spares_of_eq rfl

theorem State.spares.trans {s u v : State} (h : s.spares u) (k : u.spares v) : s.spares v where
  fw := k.fw.trans h.fw
  ctl := k.ctl.trans h.ctl
  ctxs c hc := by
    obtain ⟨c1, h1, v1, i1, k1⟩ := k.ctxs c hc
    obtain ⟨c2, h2, v2, i2, k2⟩ := h.ctxs c1 h1
    exact ⟨c2, h2, v1.trans v2, i1.trans i2, k1 ∘ k2⟩
  teams t ht := by
    obtain ⟨t1, h1, n1, c1, r1⟩ := k.teams t ht
    obtain ⟨t2, h2, n2, c2, r2⟩ := h.teams t1 h1
    exact ⟨t2, h2, n1.trans n2, c1.trans c2, fun r => ⟨(r2 (r1 r).1).1, (r1 r).2 ∘ (r2 (r1 r).1).2⟩⟩

/-- A fold of steps each of which leaves what the relation says, where the controller bears its number. -/
theorem State.spares_foldl {α : Type} {f : State → α → State} (hf : ∀ (s : State) a, s.ctl.tid = 0 → s.spares (f s a)) (xs : List α)
    {s : State} (h0 : s.ctl.tid = 0) : s.spares (xs.foldl f s) := by
  induction xs generalizing s with
  | nil => exact s.spares_refl
  | cons x xs ih => exact (hf s x h0).trans (ih ((hf s x h0).ctl.trans h0))

/-- Contexts and teams changed one by one, each as the relation allows. -/
theorem State.spares_map (s : State) (f : Ctx → Ctx) (g : Team → Team) (hf : ∀ c : Ctx, c.stays (f c)) (hg : ∀ t : Team, t.stays (g t)) :
    s.spares { s with ctxs := s.ctxs.map f, teams := s.teams.map g } :=
  { s.spares_refl with
    ctxs := fun c' hc' => by
      obtain ⟨c, hc, rfl⟩ := List.mem_map.1 hc'
      exact ⟨c, hc, hf c⟩
    teams := fun t' ht' => by
      obtain ⟨t, ht, rfl⟩ := List.mem_map.1 ht'
      exact ⟨t, ht, hg t⟩ }

/-! ### The write of a HOLD (R354) -/

theorem State.setGate_spared (s : State) (g : Gate) : (s.setGate g).spared = s.spared := rfl

theorem State.gatePass_spared (s : State) (panel : Nat) (ctx : BitVec 32) (n : Nat) (read : Bool) (req : GateReq) :
    (s.gatePass panel ctx n read req).1.spared = s.spared := by
  unfold State.gatePass
  split
  · rfl
  · dsimp only
    split
    · split
      · exact s.setGate_spared _
      · rfl
    · split <;> exact s.setGate_spared _

theorem State.gateNow_spared (s : State) (ctx : BitVec 32) (xs : List (Nat × Nat × Bool)) : (s.gateNow ctx xs).1.spared = s.spared := by
  unfold State.gateNow
  dsimp only
  split
  · unfold State.gateAll
    refine List.foldlRecOn (motive := fun a : State × Bool => a.1.spared = s.spared) _ _ rfl fun a ha p _ => ?_
    dsimp only
    split
    · exact ha
    · split
      · exact (a.1.gatePass_spared _ _ _ _ _).trans ha
      · exact s.gatePass_spared _ _ _ _ _
  · rfl

theorem State.countClass_spared (s : State) (c : SynClass) (exp : BitVec 4) (owner : Nat) : (s.countClass c exp owner).spared = s.spared := by
  have h (k : Counter) : (s.count k owner).spared = s.spared := by unfold State.count; dsimp only; split <;> rfl
  unfold State.countClass
  split
  · rfl
  · exact h _
  · split
    · rfl
    · exact h _
  · exact h _
  · exact h _

theorem State.markDirty_spared (s : State) (dia : Nat) : (s.markDirty dia).spared = s.spared := by
  unfold State.markDirty State.setPte
  split <;> rfl

theorem State.dirtyUnder_spared (s : State) (idx : Nat) : (s.dirtyUnder idx).spared = s.spared := by
  unfold State.dirtyUnder
  split
  · rfl
  · dsimp only
    split <;> rfl

theorem State.storeSector_spared (s : State) (x : Sector) (b : Nat) : (s.storeSector x b).spared = s.spared := by
  simp only [State.spared, State.storeSector]

/-- A log that fills makes stops due (R468). -/
theorem State.forceCheckpoints_spares (s : State) (first : Nat) : s.spares (s.forceCheckpoints first) := by
  unfold State.forceCheckpoints
  split
  · exact s.spares_refl
  split
  · exact s.spares_refl
  · refine s.spares_map _ _ (fun c => ?_) fun t => ?_
    · split
      · exact ⟨rfl, rfl, fun h => h⟩
      · exact c.stays_refl
    · split
      · exact ⟨rfl, rfl, fun h => ⟨h, fun _ => rfl⟩⟩
      · exact t.stays_refl

theorem State.logWrite_spares (s : State) (who : Option (BitVec 32)) (idx : Nat) : s.spares (s.logWrite who idx) := by
  unfold State.logWrite
  split
  · exact s.spares_refl
  split
  · exact s.spares_refl
  split
  · exact s.spares_refl
  · have h (n : Nat) (f : Partition → Partition) : s.spares (s.updPart n f) := State.spares_of_eq rfl
    exact (h _ _).trans (State.forceCheckpoints_spares _ _)

theorem State.homeWrite_spares (s : State) (dia n val key : Nat) (exp : BitVec 4) (poison : Bool) (who : Option (BitVec 32)) :
    s.spares (s.homeWrite dia n val key exp poison who) := by
  unfold State.homeWrite
  extract_lets e idx ds s0 tag old
  have h0 : s.spares s0 := (s.logWrite_spares who idx).trans (State.spares_of_eq ((State.markDirty_spared _ _).trans (State.dirtyUnder_spared _ _)))
  clear_value s0
  split
  · exact h0.trans (State.spares_of_eq (State.storeSector_spared _ _ _))
  · rcases s.probeSector idx old exp with ⟨c, x⟩
    exact h0.trans (State.spares_of_eq ((State.storeSector_spared _ _ _).trans (State.countClass_spared s0 c exp (pteOwner e))))

theorem State.deviceWrite_spares (s : State) (w : LateWrite) : s.spares (s.deviceWrite w) := by
  unfold State.deviceWrite
  split
  · exact (State.spares_of_eq (s.gateNow_spared _ _)).trans (State.homeWrite_spares _ _ _ _ _ _ _ _)
  · exact State.spares_of_eq rfl

/-- A change of a team by its number stays with that team, where the controller bears its own. -/
theorem State.updTeam_spares {s : State} (h0 : s.ctl.tid = 0) (tid : Nat) (f : Team → Team) (hf : ∀ t : Team, t.stays (f t)) :
    s.spares (s.updTeam tid f) := by
  unfold State.updTeam
  split
  · next t ht =>
    have hn : (f t).tid = t.tid := (hf t).1
    unfold State.team? at ht
    unfold State.setTeam
    split at ht
    · obtain rfl := Option.some.inj ht
      rw [hn, h0]
      exact { s.spares_refl with ctl := hn }
    · next htid =>
      have ht0 : ((f t).tid == 0) = (tid == 0) := by
        rw [hn, show t.tid = tid by simpa using List.find?_some ht]
      split
      · next hz => exact absurd (ht0 ▸ hz) htid
      · refine { s.spares_refl with teams := fun t' ht' => ?_ }
        obtain ⟨x, hx, rfl⟩ := List.mem_map.1 ht'
        split
        · exact ⟨t, List.mem_of_find?_eq_some ht, hf t⟩
        · exact ⟨x, hx, x.stays_refl⟩
  · exact s.spares_refl

theorem State.writeHold_spares {s : State} (h0 : s.ctl.tid = 0) (c : Ctx) (t : Team) (hold : Bool) : s.spares (s.writeHold c t hold) :=
  (State.updTeam_spares h0 t.tid (fun u => { u with holdFlag := hold }) fun _ => ⟨rfl, rfl, fun h => ⟨h, id⟩⟩).trans
    (State.deviceWrite_spares _ _)

/-! ### The saving of a context -/

/-- The contexts of a name are held, and the stop of each of its Resident teams is due. -/
def State.saves (s : State) (id : BitVec 32) : Prop :=
  (∀ c ∈ s.ctxs, c.valid = true → c.id = id → c.held = true) ∧ ∀ t ∈ s.teams, t.st = .resident → t.ctx = id → t.asked = true

theorem State.spares.saves {s s' : State} {id : BitVec 32} (h : s.spares s') (k : s.saves id) : s'.saves id := by
  refine ⟨fun c' hc' hv hi => ?_, fun t' ht' hr hi => ?_⟩
  · obtain ⟨c, hc, hcv, hci, hh⟩ := h.ctxs c' hc'
    exact hh (k.1 c hc (hcv ▸ hv) (hci ▸ hi))
  · obtain ⟨t, ht, -, htc, hs⟩ := h.teams t' ht'
    obtain ⟨hr, ha⟩ := hs hr
    exact ha (k.2 t ht hr (htc ▸ hi))

/-- A context's hold, and the stops of its teams, before the frames it has get their HOLD. -/
def State.asking (s : State) (c : Ctx) : State :=
  (s.ask ((s.teams.filter fun t => t.ctx == c.id).map (·.tid))).updCtx c.id fun x => { x with held := true }

theorem State.asking_spares (s : State) (c : Ctx) : s.spares (s.asking c) :=
  s.spares_map _ _
    (fun x => by
      split
      · exact ⟨rfl, rfl, fun _ => rfl⟩
      · exact x.stays_refl)
    fun t => by
      split
      · exact ⟨rfl, rfl, fun h => ⟨h, fun _ => rfl⟩⟩
      · exact t.stays_refl

theorem State.asking_saves (s : State) (c : Ctx) : (s.asking c).saves c.id := by
  refine ⟨fun x' hx' hv hi => ?_, fun t' ht' hr hi => ?_⟩
  · obtain ⟨x, -, rfl⟩ := List.mem_map.1 hx'
    by_cases hx : (x.valid && x.id == c.id) = true
    · rw [if_pos hx]
    · rw [if_neg hx] at hv hi
      exact absurd (by rw [hv, hi, beq_self_eq_true]; rfl) hx
  · obtain ⟨t, ht, rfl⟩ := List.mem_map.1 ht'
    by_cases hx : (((s.teams.filter fun t => t.ctx == c.id).map (·.tid)).contains t.tid && t.st == .resident) = true
    · rw [if_pos hx]
    · rw [if_neg hx] at hr hi
      have hm : t.tid ∈ (s.teams.filter fun t => t.ctx == c.id).map (·.tid) := List.mem_map_of_mem (List.mem_filter.2 ⟨ht, beq_iff_eq.2 hi⟩)
      exact absurd (by rw [hr, List.contains_iff_mem.2 hm]; rfl) hx

theorem State.beginSave_eq (s : State) (c : Ctx) :
    s.beginSave c true =
      ((s.ask ((s.teams.filter fun t => t.ctx == c.id).map (·.tid))).framed c.id).foldl (fun st t => st.writeHold c t true) (s.asking c) := rfl

theorem State.beginSave_spares_asking {s : State} (h0 : s.ctl.tid = 0) (c : Ctx) : (s.asking c).spares (s.beginSave c true) :=
  State.spares_foldl (fun _ t h => State.writeHold_spares h c t true) _ h0

theorem State.beginSave_spares {s : State} (h0 : s.ctl.tid = 0) (c : Ctx) : s.spares (s.beginSave c true) :=
  (s.asking_spares c).trans (State.beginSave_spares_asking h0 c)

theorem State.beginSaves_saves {s : State} (h0 : s.ctl.tid = 0) {cs : List Ctx} {c : Ctx} (hc : c ∈ cs) :
    (cs.foldl (fun st c => st.beginSave c true) s).saves c.id := by
  induction cs generalizing s with
  | nil => cases hc
  | cons x cs ih =>
    have h1 : (s.beginSave x true).ctl.tid = 0 := (State.beginSave_spares h0 x).ctl.trans h0
    rcases List.mem_cons.1 hc with rfl | hc
    · have hs := (State.beginSave_spares_asking h0 c).saves (s.asking_saves c)
      exact (State.spares_foldl (fun _ y h => State.beginSave_spares h y) cs h1).saves hs
    · exact ih h1 hc

/-- The device on its way into deep sleep, before its contexts are saved. -/
def State.enteringSleep (s : State) : State :=
  (s.raiseEvent 9 0).updSleep fun x =>
    { x with power := .entering, heldBefore := (s.ctxs.filter fun c => c.valid && c.held).map (·.id), early := none }

theorem State.requestSleep_awake {s : State} (h : s.fw.sleep.power = .awake) :
    s.requestSleep = (s.ctxs.filter (·.valid)).foldl (fun st c => st.beginSave c true) s.enteringSleep := by
  unfold State.requestSleep
  rw [h]
  rfl

theorem State.raiseEvent_pending (s : State) (code arg : Nat) : ∃ e ∈ (s.raiseEvent code arg).fw.events, e.code = code ∧ e.arg = arg := by
  unfold State.raiseEvent
  dsimp only
  split
  · next h =>
    obtain ⟨e, he, hit⟩ := List.any_eq_true.1 h
    obtain ⟨hc, ha⟩ := Bool.and_eq_true_iff.1 hit
    refine ⟨_, List.mem_map_of_mem he, ?_⟩
    rw [if_pos hit]
    exact ⟨beq_iff_eq.1 hc, beq_iff_eq.1 ha⟩
  · exact ⟨_, List.mem_append_right _ List.mem_cons_self, rfl, rfl⟩

/-- A request for deep sleep, where the controller's team bears the number 0 (R488, R490): all that O55 says of it. -/
theorem deepSleep_saves {s : State} (h0 : s.ctl.tid = 0) (h : s.fw.sleep.power = .awake) :
    ∃ s', exec .deepSleep s = .next s' ∧ s'.fw.sleep.power = .entering ∧ (∀ c ∈ s'.ctxs, c.valid = true → c.held = true) ∧
      (∀ t ∈ s'.teams, t.tid ≠ 0 → t.st = .resident → (∃ c ∈ s.ctxs, c.valid = true ∧ t.ctx = c.id) → t.asked = true) ∧
      ∃ e ∈ s'.fw.events, e.code = 9 ∧ e.arg = 0 := by
  have he : exec .deepSleep s = .next s.requestSleep := by
    show execDeepSleep s = _
    unfold execDeepSleep
    rw [h]
    rfl
  have hk : s.enteringSleep.spares s.requestSleep := by
    rw [State.requestSleep_awake h]
    exact State.spares_foldl (fun _ c h => State.beginSave_spares h c) _ h0
  have hs {c : Ctx} (hc : c ∈ s.ctxs) (hv : c.valid = true) : s.requestSleep.saves c.id := by
    rw [State.requestSleep_awake h]
    exact State.beginSaves_saves (s := s.enteringSleep) h0 (List.mem_filter.2 ⟨hc, hv⟩)
  refine ⟨_, he, by rw [hk.fw]; rfl, fun c' hc' hv => ?_, fun t ht _ hr ⟨c, hc, hv, hi⟩ => (hs hc hv).2 t ht hr hi, ?_⟩
  · obtain ⟨c, hc, hcv, hci, -⟩ := hk.ctxs c' hc'
    exact (hs hc (hcv ▸ hv)).1 c' hc' hv hci
  · rw [hk.fw]
    exact s.raiseEvent_pending 9 0

/-! ### Where it does not -/

/-- A context in use: its descriptor is valid, and every other field of it is 0. -/
def Ctx.lone : Ctx := { Ctx.blank 0 with desc := 0x0000000080000000#64 :: List.replicate 15 0 }

/-- A machine whose controller's team bears the number 5 of a Resident team, while a saved team bears the controller's number 0; both are of
the one context. -/
def State.misnumbered : State :=
  { State.reset with
    ctl := { Team.controller with tid := 5 }
    teams := [{ Team.controller with st := .saved }, { Team.controller with tid := 5 }]
    ctxs := [Ctx.lone] }

/-- The HOLD of the saved team's frame is noted in the controller's team, which then stands in the place of the Resident team with its
number, whose stop was due: a Resident team of the held context runs on. -/
theorem State.misnumbered_runs_on :
    (State.misnumbered.requestSleep.teams.any fun t => t.tid == 5 && (t.st == .resident && (t.ctx == Ctx.lone.id && !t.asked))) = true := by
  decide +kernel

/-- Refutes O55, in its clause on a request for deep sleep: it speaks of every state, also of one whose controller's team does not bear the
number 0, and there a stop that was due is lost (`State.misnumbered`). `State.sound` excludes such a state, and where the number is 0 the
clause holds (`deepSleep_saves`). -/
theorem not_hostLink : ¬ Obligations.HostLink := by
  unfold Obligations.HostLink
  intro h
  obtain ⟨-, -, -, -, -, -, hsleep, -⟩ := h State.misnumbered
  obtain ⟨s', he, -, -, hasked, -⟩ := hsleep rfl
  obtain rfl : State.misnumbered.requestSleep = s' := Host.Outcome.next.inj he
  obtain ⟨t, ht, hp⟩ := List.any_eq_true.1 State.misnumbered_runs_on
  simp only [Bool.and_eq_true, beq_iff_eq, Bool.not_eq_true'] at hp
  obtain ⟨htid, hst, hctx, hrun⟩ := hp
  have := hasked t ht (by rw [htid]; decide) hst ⟨Ctx.lone, List.mem_singleton_self _, by decide, hctx⟩
  rw [hrun] at this
  cases this

end Sys2Proof.Machine
end

section
/-! ## Health (chapter 18)

The clauses of `Obligations.Health` on wear, thermal events, scrubbing and the debug freeze, each from a law of what its row changes: one
core's lifetime record at a time, a panel's health, the stored sectors. -/

namespace Sys2Proof.Machine

/-- What no step of a fold changes is as it was. -/
theorem foldl_same {α β γ : Type} {f : α → β → α} (p : α → γ) (h : ∀ a b, p (f a b) = p a) (xs : List β) (a : α) : p (xs.foldl f a) = p a :=
  List.foldlRecOn (motive := fun x => p x = p a) xs f rfl fun x hx b _ => (h x b).trans hx

/-- The first element with a key, after a change that keeps every key. -/
theorem find?_map_key {α : Type} (key : α → Nat) (f : α → α) (hf : ∀ x, key (f x) = key x) (xs : List α) (k : Nat) :
    (xs.map f).find? (key · == k) = (xs.find? (key · == k)).map f := by
  rw [List.find?_map]
  congr 2
  funext x
  exact congrArg (· == k) (hf x)

/-! ### The lifetime record of a core -/

/-- The cores that have an entry. -/
def State.lifeCores (s : State) : List Nat := s.life.map (·.core)

theorem State.mem_lifeCores {s : State} {core : Nat} : core ∈ s.lifeCores ↔ ∃ z ∈ s.life, z.core = core := List.mem_map

theorem State.lifeOf_absent {s : State} {core : Nat} (h : core ∉ s.lifeCores) : s.lifeOf core = Life.initial core := by
  unfold State.lifeOf
  rw [List.find?_eq_none.2 fun z hz hc => h (State.mem_lifeCores.2 ⟨z, hz, beq_iff_eq.1 hc⟩)]
  rfl

/-- The entry of a core, after a change that keeps the cores. -/
theorem State.lifeOf_map {s s' : State} {f : Life → Life} (hf : ∀ x, (f x).core = x.core) (h : s'.life = s.life.map f) {core : Nat}
    (hc : core ∈ s.lifeCores) : s'.lifeOf core = f (s.lifeOf core) := by
  unfold State.lifeOf
  rw [h, find?_map_key (·.core) f hf]
  obtain ⟨z, hz, hk⟩ := State.mem_lifeCores.1 hc
  obtain ⟨y, hy⟩ := Option.isSome_iff_exists.1 (List.find?_isSome (p := (·.core == core)).2 ⟨z, hz, beq_iff_eq.2 hk⟩)
  rw [hy]
  rfl

theorem State.lifeCores_map {s s' : State} {f : Life → Life} (hf : ∀ x, (f x).core = x.core) (h : s'.life = s.life.map f) :
    s'.lifeCores = s.lifeCores := by
  unfold State.lifeCores
  rw [h, List.map_map]
  exact List.map_congr_left fun x _ => hf x

theorem State.lifeOf_core {s : State} {core : Nat} : (s.lifeOf core).core = core := by
  unfold State.lifeOf
  cases h : s.life.find? (·.core == core) with
  | none => rfl
  | some x =>
    have := List.find?_some h
    exact beq_iff_eq.1 this

/-- Only one core's entry changes, and it keeps its core: `R` tells how. -/
structure State.agesCore (R : Life → Life → Prop) (core : Nat) (s s' : State) : Prop where
  cores : s'.lifeCores = s.lifeCores
  other : ∀ k, k ≠ core → s'.lifeOf k = s.lifeOf k
  self : core ∈ s.lifeCores → R (s.lifeOf core) (s'.lifeOf core)

/-- The change of one core's entry. -/
theorem State.agesCore_updLife {R : Life → Life → Prop} {core : Nat} {s : State} {f : Life → Life} (hf : ∀ x, (f x).core = x.core)
    (hR : R (s.lifeOf core) (f (s.lifeOf core))) : State.agesCore R core s (s.updLife core f) := by
  let g (x : Life) : Life := if x.core == core then f x else x
  have hg (x : Life) : (g x).core = x.core := by
    simp only [g]
    split
    · exact hf x
    · rfl
  have hl : (s.updLife core f).life = s.life.map g := rfl
  refine ⟨State.lifeCores_map hg hl, fun k hk => ?_, fun hc => ?_⟩
  · by_cases hm : k ∈ s.lifeCores
    · rw [State.lifeOf_map hg hl hm]
      exact if_neg (by rw [State.lifeOf_core, beq_iff_eq]; exact hk)
    · rw [State.lifeOf_absent hm, State.lifeOf_absent (State.lifeCores_map hg hl ▸ hm)]
  · rw [State.lifeOf_map hg hl hc]
    simp only [g]
    rw [if_pos (by rw [State.lifeOf_core, beq_self_eq_true])]
    exact hR

theorem State.agesCore.of_life {R : Life → Life → Prop} {core : Nat} {s s' u u' : State} (h : State.agesCore R core s s')
    (hu : u.life = s.life) (hu' : u'.life = s'.life) : State.agesCore R core u u' := by
  have hc : u.lifeCores = s.lifeCores := congrArg (List.map _) hu
  have hc' : u'.lifeCores = s'.lifeCores := congrArg (List.map _) hu'
  have hl (k : Nat) : u.lifeOf k = s.lifeOf k := by unfold State.lifeOf; rw [hu]
  have hl' (k : Nat) : u'.lifeOf k = s'.lifeOf k := by unfold State.lifeOf; rw [hu']
  refine ⟨by rw [hc, hc', h.cores], fun k hk => by rw [hl, hl', h.other k hk], fun hm => ?_⟩
  rw [hl, hl']
  exact h.self (hc ▸ hm)

/-- One after another, cores each change their own entry. -/
theorem State.agesCore_foldl {R : Life → Life → Prop} {f : State → Nat → State} (hf : ∀ s core, State.agesCore R core s (f s core)) {cores : List Nat}
    (hn : cores.Nodup) (s : State) : (cores.foldl f s).lifeCores = s.lifeCores ∧
      (∀ k, k ∉ cores → (cores.foldl f s).lifeOf k = s.lifeOf k) ∧
      ∀ k ∈ cores, k ∈ s.lifeCores → R (s.lifeOf k) ((cores.foldl f s).lifeOf k) := by
  induction cores generalizing s with
  | nil => exact ⟨rfl, fun _ _ => rfl, nofun⟩
  | cons c cs ih =>
    obtain ⟨hc, hn⟩ := List.nodup_cons.1 hn
    obtain ⟨ihc, iho, ihs⟩ := ih hn (f s c)
    have h := hf s c
    refine ⟨ihc.trans h.cores, fun k hk => ?_, fun k hk hm => ?_⟩
    · rw [List.mem_cons, not_or] at hk
      exact (iho k hk.2).trans (h.other k hk.1)
    · rcases List.mem_cons.1 hk with rfl | hcs
      · rw [List.foldl_cons, iho _ hc]
        exact h.self hm
      · have := ihs k hcs (h.cores ▸ hm)
        rwa [h.other k (by rintro rfl; exact hc hcs)] at this

/-! ### A millisecond (R465, R473) -/

/-- What a millisecond makes of a core's entry. -/
structure Life.msAfter (x y : Life) : Prop where
  retired : x.st = .retired → y = x
  wacc : x.wacc ≤ y.wacc
  st : y.st = x.st
  vstep : x.st ≠ .retired → 64 < y.slevt → min 55 (x.volt + x.vstep) < 55 → y.vstep = x.vstep + 1
  quiet : x.st ≠ .retired → y.slevt ≤ 8 → y.quiet = x.quiet + 1 ∨ (999 ≤ x.quiet ∧ y.quiet = 0)

theorem Life.msAfter_retired {x : Life} (h : x.st = .retired) : x.msAfter x :=
  ⟨fun _ => rfl, le_rfl, rfl, fun hn => absurd h hn, fun hn => absurd h hn⟩

/-- The rules for the detectors leave everything that they do not set. -/
theorem Life.detect_frame (x : Life) (n : Nat) : (x.detect n).core = x.core ∧ (x.detect n).st = x.st ∧ (x.detect n).wacc = x.wacc ∧
    (x.detect n).slevt = min n 0xFFFF := by
  unfold Life.detect
  dsimp only
  split_ifs <;> exact ⟨rfl, rfl, rfl, rfl⟩

theorem Life.detect_loud {x : Life} {n : Nat} (hn : 64 < n) (hs : x.supply < 55) : (x.detect n).vstep = x.vstep + 1 := by
  unfold Life.detect
  dsimp only
  rw [if_pos (by rw [decide_eq_true hn, decide_eq_true hs]; rfl)]

theorem Life.detect_quiet {x : Life} {n : Nat} (hn : n ≤ 8) : (x.detect n).quiet = x.quiet + 1 ∨ (999 ≤ x.quiet ∧ (x.detect n).quiet = 0) := by
  unfold Life.detect
  dsimp only
  have h64 : decide (n > 64) = false := decide_eq_false (by omega)
  simp only [hn, h64, if_true, Bool.false_and, Bool.false_eq_true, if_false]
  rw [if_neg (by decide)]
  split_ifs with hq
  · exact .inr ⟨by omega, rfl⟩
  · exact .inr ⟨by omega, rfl⟩
  · exact .inl rfl

theorem Life.msAfter_detect {x : Life} (h : x.st ≠ .retired) (n more fine rest : Nat) (users : List (BitVec 32)) :
    x.msAfter { x.detect n with wacc := x.wacc + more, fine := fine, rest := rest, users := users } := by
  obtain ⟨-, hst, -, hsl⟩ := x.detect_frame n
  refine ⟨fun hr => absurd hr h, Nat.le_add_right _ _, hst, fun _ h64 hs => ?_, fun _ h8 => ?_⟩
  · exact Life.detect_loud (by simp only [hsl] at h64; omega) hs
  · exact Life.detect_quiet (by simp only [hsl] at h8; omega)

theorem State.updLife_updLife {s : State} {core : Nat} {f g : Life → Life} (hf : ∀ x, (f x).core = x.core) :
    (s.updLife core f).updLife core g = s.updLife core (g ∘ f) := by
  unfold State.updLife
  simp only [List.map_map]
  congr 2
  funext x
  simp only [Function.comp_apply]
  split_ifs with h h'
  · rfl
  · exact absurd (hf x ▸ h) h'
  · rfl

/-- The charge of a core's wear leaves every entry; the core's own keeps the remainder. -/
theorem State.chargeWear_frame (s : State) (core amount : Nat) : ∃ rest users,
    (s.chargeWear core amount).life = (s.updLife core fun y => { y with rest := rest, users := users }).life ∧
    (s.chargeWear core amount).teams = s.teams ∧ (s.chargeWear core amount).msNext = s.msNext := by
  unfold State.chargeWear
  extract_lets x there ctxs total share sum part used s1
  have hl : s1.life = s.life := foldl_same State.life (by intros; rfl) _ s
  have ht : s1.teams = s.teams := foldl_same State.teams (by intros; rfl) _ s
  have hn : s1.msNext = s.msNext := foldl_same State.msNext (by intros; rfl) _ s
  exact ⟨_, _, congrArg (List.map _) hl, ht, hn⟩

theorem State.coreMillisecond_frame (s : State) (core : Nat) :
    (s.coreMillisecond core).teams = s.teams ∧ (s.coreMillisecond core).msNext = s.msNext := by
  unfold State.coreMillisecond
  extract_lets s1 x n tj a w sum
  split
  · exact ⟨rfl, rfl⟩
  · obtain ⟨_, _, -, ht, hn⟩ := State.chargeWear_frame (s1.updLife core fun y => { y.detect n with wacc := y.wacc + sum / wearUnit, fine := sum % wearUnit }) core w.2
    exact ⟨ht, hn⟩

/-- What a core's detectors and meters say is taken down, and its wear is charged. -/
theorem State.agesCore_measured {s : State} {core : Nat} (h : (s.lifeOf core).st ≠ .retired) (n more fine amount : Nat) :
    State.agesCore Life.msAfter core s
      ((s.updLife core fun y => { y.detect n with wacc := y.wacc + more, fine := fine }).chargeWear core amount) := by
  have hw (y : Life) : (y.detect n).core = y.core := (y.detect_frame n).1
  obtain ⟨rest, users, hl, -⟩ :=
    State.chargeWear_frame (s.updLife core fun y => { y.detect n with wacc := y.wacc + more, fine := fine }) core amount
  rw [State.updLife_updLife (by exact hw)] at hl
  exact (State.agesCore_updLife (by exact hw) (Life.msAfter_detect h n more fine rest users)).of_life rfl hl

theorem State.coreMillisecond_ages (s : State) (core : Nat) : State.agesCore Life.msAfter core s (s.coreMillisecond core) := by
  unfold State.coreMillisecond
  extract_lets s1 x n tj a w sum
  split
  · next hr => exact ⟨rfl, fun _ _ => rfl, fun _ => Life.msAfter_retired (beq_iff_eq.1 hr)⟩
  · next hr => exact (State.agesCore_measured (s := s1) (fun h => hr (beq_iff_eq.2 h)) _ _ _ _).of_life rfl rfl

theorem State.milliseconds_frame (s : State) (cores : List Nat) :
    (cores.foldl State.coreMillisecond s).teams = s.teams ∧ (cores.foldl State.coreMillisecond s).msNext = s.msNext :=
  ⟨foldl_same State.teams (fun u core => (u.coreMillisecond_frame core).1) _ _,
    foldl_same State.msNext (fun u core => (u.coreMillisecond_frame core).2) _ _⟩

/-- MILLISECOND: all that O50 says of it. -/
theorem millisecond_ages {s : State} (h : s.msNext.toNat ≤ s.time.toNat) :
    ∃ s', exec .millisecond s = .next s' ∧ s'.msNext = s.msNext + 1000000 ∧ s'.teams = s.teams ∧ (∃ x ∈ s'.fw.events, x.code = 1 ∧ x.arg = 0) ∧
      s'.lifeCores = s.lifeCores ∧ ∀ core, core < 48 → core ∈ s.lifeCores → (s.lifeOf core).msAfter (s'.lifeOf core) := by
  have he : exec .millisecond s = .next (let s1 := (List.range 48).foldl State.coreMillisecond s
      State.raiseEvent { s1 with msNext := s1.msNext + 1000000 } 1 0) := by
    show execMillisecond s = _
    unfold execMillisecond
    rw [if_neg (Nat.not_lt.2 h)]
  obtain ⟨hc, -, hs⟩ := State.agesCore_foldl State.coreMillisecond_ages List.nodup_range s
  obtain ⟨ht, hn⟩ := s.milliseconds_frame (List.range 48)
  generalize (List.range 48).foldl State.coreMillisecond s = s1 at *
  exact ⟨_, he, congrArg (· + 1000000) hn, ht, State.raiseEvent_pending _ 1 0, hc, fun core hk hm => hs core (List.mem_range.2 hk) hm⟩

/-! ### A second (R475, R476) -/

/-- States move only forward in this order (R476). -/
def WearSt.rank : WearSt → Nat
  | .inService => 0
  | .derated => 1
  | .drained => 2
  | .retired => 3

/-- What a second makes of a core's entry. -/
structure Life.secAfter (x y : Life) : Prop where
  forward : x.st.rank ≤ y.st.rank
  retired : x.st = .retired → y = x
  opsec : x.st ≠ .retired → y.opsec = x.opsec + 1
  atEnd : x.st ≠ .retired → 10000 ≤ y.use → y.st = .retired
  drains : x.st ≠ .retired → 9500 ≤ y.use → 2 ≤ y.st.rank
  derates : x.st ≠ .retired → 8500 ≤ y.use → 1 ≤ y.st.rank
  stands : x.st ≠ .retired → y.use < 8500 → y.st = x.st

/-- The state after a second is the further of the state it has and the state its use calls for. -/
theorem Life.wear_rank (x : Life) : x.wear.rank = max x.st.rank
    (if 10000 ≤ x.use then 3 else if 9500 ≤ x.use then 2 else if 8500 ≤ x.use then 1 else 0) := by
  unfold Life.wear
  split_ifs <;> cases x.st <;> rfl

theorem WearSt.rank_inj {a b : WearSt} (h : a.rank = b.rank) : a = b := by
  revert h
  cases a <;> cases b <;> decide

theorem Life.secAfter_wear {x y : Life} (hr : x.st ≠ .retired) (hst : y.st = x.st) (ho : y.opsec = x.opsec + 1) :
    x.secAfter { y with st := y.wear } := by
  have hk := y.wear_rank
  rw [hst] at hk
  have h3 : x.st.rank < 3 := by
    cases h : x.st with
    | retired => exact absurd h hr
    | _ => decide
  refine ⟨hk ▸ le_max_left _ _, fun h => absurd h hr, fun _ => ho, fun _ h => ?_, fun _ h => ?_, fun _ h => ?_, fun _ h => ?_⟩
  · refine WearSt.rank_inj (hk.trans ?_)
    rw [if_pos h]
    exact max_eq_right h3.le
  · dsimp only at h ⊢
    split_ifs at hk <;> omega
  · dsimp only at h ⊢
    split_ifs at hk <;> omega
  · refine WearSt.rank_inj (hk.trans ?_)
    dsimp only at h
    rw [if_neg (by omega), if_neg (by omega), if_neg (by omega)]
    exact Nat.max_zero _

theorem State.coreSecond_ages (s : State) (core : Nat) : State.agesCore Life.secAfter core s (s.coreSecond core) := by
  refine (State.agesCore_updLife (s := { s with fresh := s.fresh + 1 }) (fun x => ?_) ?_).of_life rfl rfl
  · split <;> rfl
  · split
    · next h =>
      have hr := beq_iff_eq.1 h
      exact ⟨le_rfl, fun _ => rfl, fun hn => absurd hr hn, fun hn => absurd hr hn, fun hn => absurd hr hn, fun hn => absurd hr hn,
        fun hn => absurd hr hn⟩
    · next h => exact Life.secAfter_wear (fun hr => h (beq_iff_eq.2 hr)) rfl rfl

/-- The device's second, once each core has had its own. -/
def State.passSecond (s : State) : State :=
  let s1 := s.askCores fun core => (s.lifeOf core).st == .retired
  { s1 with secNext := s1.secNext + 1000000000, opSecs := s1.opSecs + 1 }

/-- What a core's second leaves, of what O50 speaks of. -/
def State.secondFrame (s : State) : BitVec 64 × Nat × Memory := (s.secNext, s.opSecs, s.mem)

/-- The non-volatile store takes the record or not; at every hour of operation it does (R475). -/
theorem State.keepLife_cases (before s : State) : ∃ store, (s.opSecs % 3600 = 0 → store = s.life) ∧
    State.keepLife before s = { s with lifeStore := store } := by
  unfold State.keepLife
  split
  · exact ⟨s.life, fun _ => rfl, rfl⟩
  · next h => exact ⟨s.lifeStore, fun h0 => absurd (by rw [show hourSecs = 3600 from rfl, h0]; rfl) h, rfl⟩

/-- SECOND: all that O50 says of it. -/
theorem second_ages {s : State} (h : s.secNext.toNat ≤ s.time.toNat) :
    ∃ s', exec .second s = .next s' ∧ s'.secNext = s.secNext + 1000000000 ∧ s'.opSecs = s.opSecs + 1 ∧ (∃ x ∈ s'.fw.events, x.code = 2 ∧ x.arg = 0) ∧
      s'.mem = s.mem ∧ (s'.opSecs % 3600 = 0 → s'.lifeStore = s'.life) ∧
      ∀ core, core < 48 → core ∈ s.lifeCores → (s.lifeOf core).secAfter (s'.lifeOf core) := by
  have he : exec .second s = .next (let s1 := (List.range 48).foldl State.coreSecond s
      (State.keepLife s (s1.passSecond)).raiseEvent 2 0) := by
    show execSecond s = _
    unfold execSecond
    rw [if_neg (Nat.not_lt.2 h)]
    rfl
  obtain ⟨-, -, hs⟩ := State.agesCore_foldl State.coreSecond_ages List.nodup_range s
  have hf := foldl_same (f := State.coreSecond) State.secondFrame (by intros; rfl) (List.range 48) s
  generalize (List.range 48).foldl State.coreSecond s = s1 at *
  obtain ⟨hn, ho, hm⟩ : s1.secNext = s.secNext ∧ s1.opSecs = s.opSecs ∧ s1.mem = s.mem := by
    simpa only [State.secondFrame, Prod.mk.injEq] using hf
  obtain ⟨store, hl, hk⟩ := State.keepLife_cases s s1.passSecond
  dsimp only at he
  rw [hk] at he
  exact ⟨_, he, congrArg (· + 1000000000) hn, congrArg (· + 1) ho, State.raiseEvent_pending _ 2 0, hm, hl,
    fun core hc => hs core (List.mem_range.2 hc)⟩

/-! ### A thermal event (R18, R502) -/

theorem Life.clock_le_mhz (x : Life) : x.clock ≤ x.mhz := by
  unfold Life.clock
  split <;> omega

/-- A clock that is lowered stays within what R17 allows. -/
theorem Life.slower_clock {x : Life} (h : 800 < x.clock) (n : Nat) : 800 ≤ (x.slower n).clock ∧ (x.slower n).clock < x.clock := by
  unfold Life.slower
  rw [if_neg (Nat.not_le.2 h)]
  have hm := Nat.mod_lt n (show 0 < x.clock - 800 by omega)
  generalize hr : n % (x.clock - 800) = r at hm
  clear hr
  unfold Life.clock at h hm ⊢
  cases hst : x.st <;> simp only [hst] at h hm ⊢ <;> omega

theorem Life.slower_mhz (x : Life) (n : Nat) : (x.slower n).mhz ≤ x.mhz := by
  unfold Life.slower
  split
  · exact le_rfl
  · have := x.clock_le_mhz
    have := Nat.mod_lt n (show 0 < x.clock - 800 by omega)
    dsimp only
    omega

theorem Life.slower_core (x : Life) (n : Nat) : (x.slower n).core = x.core := by
  unfold Life.slower
  split <;> rfl

/-- THERMAL: all that O50 says of it. -/
theorem thermal_lowers (s : State) {arg : Nat} (ha : arg < 48 ∨ arg = 255) :
    ∃ s', exec (.thermal arg) s = .next s' ∧ (∃ x ∈ s'.fw.events, x.code = 11 ∧ x.arg = arg) ∧ s'.lifeCores = s.lifeCores ∧
      (∀ core, (s'.lifeOf core).mhz ≤ (s.lifeOf core).mhz) ∧
      (∀ core, core ∈ s.lifeCores → arg = 255 ∨ core = arg → 800 < (s.lifeOf core).clock →
        800 ≤ (s'.lifeOf core).clock ∧ (s'.lifeOf core).clock < (s.lifeOf core).clock) ∧
      (∀ core, arg ≠ 255 → core ≠ arg → s'.lifeOf core = s.lifeOf core) ∧ s'.teams = s.teams ∧ s'.mem = s.mem := by
  let lower (x : Life) : Life := if arg == 255 || x.core == arg then x.slower (Config.pick s.fresh (220 + x.core)) else x
  let s1 : State := { s with life := s.life.map lower, fresh := s.fresh + 1 }
  have he : exec (.thermal arg) s = .next (s1.raiseEvent 11 arg) := congrArg Host.Outcome.next (if_neg (by
    rw [Bool.and_eq_true, decide_eq_true_eq, bne_iff_ne]
    omega))
  have hcore (x : Life) : (lower x).core = x.core := by
    simp only [lower]
    split
    · exact x.slower_core _
    · rfl
  have hc : (s1.raiseEvent 11 arg).lifeCores = s.lifeCores := State.lifeCores_map hcore rfl
  have hin {core : Nat} (hm : core ∈ s.lifeCores) : (s1.raiseEvent 11 arg).lifeOf core = lower (s.lifeOf core) := State.lifeOf_map hcore rfl hm
  have hout {core : Nat} (hm : core ∉ s.lifeCores) : (s1.raiseEvent 11 arg).lifeOf core = s.lifeOf core := by
    rw [State.lifeOf_absent hm, State.lifeOf_absent (hc ▸ hm)]
  refine ⟨_, he, State.raiseEvent_pending _ 11 arg, hc, fun core => ?_, fun core hm hk h800 => ?_, fun core h255 hk => ?_, rfl, rfl⟩
  · by_cases hm : core ∈ s.lifeCores
    · rw [hin hm]
      simp only [lower]
      split
      · exact Life.slower_mhz _ _
      · exact le_rfl
    · rw [hout hm]
  · rw [hin hm]
    simp only [lower]
    rw [if_pos (by rw [State.lifeOf_core, Bool.or_eq_true, beq_iff_eq, beq_iff_eq]; exact hk)]
    exact Life.slower_clock h800 _
  · by_cases hm : core ∈ s.lifeCores
    · rw [hin hm]
      exact if_neg (by rw [State.lifeOf_core, Bool.or_eq_true, beq_iff_eq, beq_iff_eq]; exact not_or.2 ⟨h255, hk⟩)
    · exact hout hm

/-! ### Scrubbing (R426, R459) -/

theorem State.healthOf_map {s s' : State} {f : PanelHealth → PanelHealth} (hf : ∀ x, (f x).num = x.num) (h : s'.phealth = s.phealth.map f)
    {panel : Nat} {p : PanelHealth} (hp : s.phealth.find? (·.num == panel) = some p) : s'.healthOf panel = f p := by
  unfold State.healthOf
  rw [h, find?_map_key (·.num) f hf, hp]
  rfl

/-- The change of one panel's health. -/
theorem State.healthOf_updHealth {s s' : State} {f : PanelHealth → PanelHealth} {panel : Nat} {p : PanelHealth} (hf : ∀ x, (f x).num = x.num)
    (h : s'.phealth = (s.updHealth panel f).phealth) (hp : s.phealth.find? (·.num == panel) = some p) : s'.healthOf panel = f p := by
  have hg (x : PanelHealth) : (if x.num == panel then f x else x).num = x.num := by
    split
    · exact hf x
    · rfl
  rw [State.healthOf_map hg h hp]
  have := List.find?_some hp
  exact if_pos this

/-- SCRUB_COMPLETION: all that O50 says of it. -/
theorem scrubCompletion_counts {s : State} {panel : Nat} {p : PanelHealth} {t : BitVec 64} (hp : s.phealth.find? (·.num == panel) = some p)
    (hq : p.st = .quarantined) (ht : p.scrub = some t) (hd : t.toNat ≤ s.time.toNat) :
    (2 ≤ p.passrun → ∃ s', exec (.scrubCompletion panel true) s = .next s' ∧
      s'.healthOf panel = { p with st := .inService, passrun := 3, scrub := none }) ∧
    (p.passrun < 2 → ∃ s', exec (.scrubCompletion panel true) s = .next s' ∧
      s'.healthOf panel = { p with passrun := p.passrun + 1, scrub := some (s.time + 200000000) }) ∧
    ∃ s', exec (.scrubCompletion panel false) s = .next s' ∧
      s'.healthOf panel = { p with passrun := 0, scrub := some (s.time + 200000000) } := by
  have hh : s.healthOf panel = p := by
    unfold State.healthOf
    rw [hp]
    rfl
  have he (pass : Bool) : exec (.scrubCompletion panel pass) s = .next (
      if pass && p.passrun + 1 ≥ 3 then s.updHealth panel fun x => { x with st := .inService, passrun := 3, scrub := none }
      else (s.updHealth panel fun x => { x with
        passrun := if pass then x.passrun + 1 else 0
        scrub := some (s.time + BitVec.ofNat 64 scrubNs) }).raiseEvent 14 panel) := by
    show execScrubCompletion panel pass s = _
    unfold execScrubCompletion
    simp only [hh, ht, hq, bne_self_eq_false, Bool.false_or, decide_eq_true_eq]
    rw [if_neg (Nat.not_lt.2 hd)]
  refine ⟨fun h => ⟨_, he true, ?_⟩, fun h => ⟨_, he true, ?_⟩, _, he false, ?_⟩
  · rw [if_pos (by rw [decide_eq_true (by omega)]; rfl)]
    refine State.healthOf_updHealth (s := s) ?_ rfl hp
    exact fun _ => rfl
  · rw [if_neg (by rw [decide_eq_false (by omega)]; decide)]
    refine State.healthOf_updHealth (s := s) ?_ rfl hp
    exact fun _ => rfl
  · refine State.healthOf_updHealth (s := s) ?_ rfl hp
    exact fun _ => rfl

/-- The first stored sector of a number, once one has been put. -/
theorem find?_putSector (xs : List Sector) (x : Sector) (k : Nat) :
    (putSector xs x).find? (·.idx == k) = if k = x.idx then some x else xs.find? (·.idx == k) := by
  have hit (y : Sector) (ys : List Sector) : (y :: ys).find? (·.idx == k) = if k = y.idx then some y else ys.find? (·.idx == k) := by
    rw [List.find?_cons]
    by_cases h : k = y.idx
    · rw [if_pos h, h, beq_self_eq_true]
    · rw [if_neg h, beq_false_of_ne (Ne.symm h)]
  induction xs with
  | nil => exact hit x []
  | cons y ys ih =>
    unfold putSector
    split
    · exact hit x (y :: ys)
    split
    · next heq =>
      rw [hit, hit, heq]
      split <;> rfl
    · next heq =>
      rw [hit, hit, ih]
      by_cases hk : k = x.idx
      · rw [if_pos hk, if_pos hk, if_neg (by omega)]
      · rw [if_neg hk, if_neg hk]

/-- A stored sector that is corrected keeps its number. -/
theorem State.probeSector_idx {s : State} {idx ds : Nat} {exp : BitVec 4} {c : SynClass} {x y : Sector} (hx : s.sector? idx = some x)
    (h : s.probeSector idx ds exp = (c, some y)) : y.idx = idx := by
  have hi : x.idx = idx := by
    have := List.find?_some hx
    exact beq_iff_eq.1 this
  unfold State.probeSector at h
  rw [hx] at h
  dsimp only at h
  split at h <;> cases h <;> exact hi

/-- What a home finds of a sector depends on the stored sectors alone. -/
theorem State.probeSector_congr {s s' : State} (h : s'.sectors = s.sectors) (idx ds : Nat) (exp : BitVec 4) :
    s'.probeSector idx ds exp = s.probeSector idx ds exp := by
  unfold State.probeSector State.sector?
  rw [h]

/-- A change of the panels that keeps each one's number and page table leaves every page where it was. -/
theorem State.diaOf_map {s s' : State} {f : Panel → Panel} (hf : ∀ p, (f p).num = p.num ∧ (f p).ptes = p.ptes) (hp : s'.parts = s.parts)
    (h : s'.panels = s.panels.map f) (panel idx : Nat) : s'.diaOf panel idx = s.diaOf panel idx := by
  have ht : (s'.panel panel).ptes = (s.panel panel).ptes := by
    unfold State.panel
    rw [h, find?_map_key (·.num) f fun p => (hf p).1]
    cases s.panels.find? (·.num == panel) with
    | none => rfl
    | some p => exact (hf p).2
  unfold State.diaOf State.partOf
  rw [ht, hp]

theorem State.turnScrub_diaOf (s : State) (panel idx : Nat) : s.turnScrub.diaOf panel idx = s.diaOf panel idx := by
  unfold State.turnScrub
  split
  · rfl
  · exact State.diaOf_map (f := fun p => { p with scrubAt := 0 }) (fun _ => ⟨rfl, rfl⟩) (by rfl) (by rfl) panel idx

theorem State.turnScrub_frame (s : State) : s.turnScrub.sectors = s.sectors ∧ s.turnScrub.mem = s.mem := by
  unfold State.turnScrub
  split <;> exact ⟨rfl, rfl⟩

/-- The scrub of the period, as it goes on past a sector of a panel. -/
def State.scrubPast (s : State) (panel sector : Nat) : State :=
  s.turnScrub.updPanel panel fun p => if p.scrubAt == sector && sector < groupSectors then { p with scrubAt := sector + 1 } else p

theorem State.scrubPast_diaOf (s : State) (panel sector idx : Nat) : (s.scrubPast panel sector).diaOf panel idx = s.diaOf panel idx := by
  refine (State.diaOf_map (s := s.turnScrub) (s' := s.scrubPast panel sector) ?_ rfl rfl panel idx).trans (s.turnScrub_diaOf panel idx)
  intro p
  dsimp only
  split
  · split <;> exact ⟨rfl, rfl⟩
  · exact ⟨rfl, rfl⟩

/-- MEMORY_SCRUB of a sector of no page, whose error it corrects: all that O50 says of it. -/
theorem memoryScrub_corrects {s : State} {panel sector p : Nat} {x y : Sector} (h12 : panel < 12) (hs : sector < 15 * 2 ^ 24)
    (hd : s.diaOf panel (panel * 2 ^ 30 + sector) = none) (hx : s.sector? (panel * 2 ^ 30 + sector) = some x)
    (hy : s.probeSector (panel * 2 ^ 30 + sector) x.dia 0 = (.corrected p, some y)) :
    ∃ s', exec (.memoryScrub panel sector) s = .next s' ∧ s'.sector? (panel * 2 ^ 30 + sector) = some y ∧ s'.mem = s.mem ∧
      (∀ k, k ≠ panel * 2 ^ 30 + sector → s'.sector? k = s.sector? k) ∧ ∀ f ∈ s'.fns, f.num = 0 → 0 < f.ce := by
  have hyi := State.probeSector_idx hx hy
  obtain ⟨hsec, hmem⟩ := s.turnScrub_frame
  have hsec : (s.scrubPast panel sector).sectors = s.sectors := hsec
  have he : exec (.memoryScrub panel sector) s = .next (let s1 := s.scrubPast panel sector
      { s1.updFn 0 (Fn.count · .ce) with sectors := putSector s1.sectors y }) := by
    rw [← State.probeSector_congr hsec] at hy
    rw [← s.scrubPast_diaOf panel sector] at hd
    unfold State.sector? at hx
    rw [← hsec] at hx
    show execMemoryScrub panel sector s = _
    unfold execMemoryScrub State.sector?
    rw [← State.scrubPast]
    dsimp only
    rw [if_neg (by rw [Bool.or_eq_true, decide_eq_true_eq, decide_eq_true_eq, groupSectors]; omega), hd]
    dsimp only
    rw [hx]
    dsimp only
    rw [hy]
    rfl
  rw [← hyi]
  have hput (k : Nat) : (putSector s.sectors y).find? (·.idx == k) = if k = y.idx then some y else s.sector? k := find?_putSector _ _ _
  refine ⟨_, he, ?_, hmem, fun k hk => ?_, fun f hf h0 => ?_⟩
  · dsimp only [State.sector?]
    rw [hsec, hput, if_pos rfl]
  · dsimp only [State.sector?]
    rw [hsec, hput, if_neg hk]
    rfl
  · obtain ⟨g, -, rfl⟩ := List.mem_map.1 hf
    by_cases hn : (g.num == 0) = true
    · rw [if_pos hn]
      exact lt_min (Nat.succ_pos _) (by decide)
    · rw [if_neg hn] at h0
      exact absurd (beq_iff_eq.2 h0) hn

/-! ### A debug freeze (R478) -/

/-- DEBUG_FREEZE, where debug is enabled: all that O50 says of it. -/
theorem debugFreeze_overwrites {s : State} (h : s.fw.debug = true) :
    ∃ s', exec .debugFreeze s = .next s' ∧ s'.keys = [] ∧ s'.fw.sleep.power = .frozen ∧ s'.mem = s.mem ∧ s'.teams = s.teams :=
  ⟨_, congrArg Host.Outcome.next (if_pos h), rfl, rfl, rfl, rfl⟩

end Sys2Proof.Machine
end

section
/-! ## Rollback (R463, R469)

A rollback discards the teams of a context, applies its log from the end and reinstates its checkpoint. For each of the three one relation
says what it leaves (`State.discards`, `State.unrestored`, `State.unrolled`); the clause of `Obligations.Health` follows from them, and
from the pairwise disjoint places of the log's records. -/

namespace Sys2Proof.Machine

/-! ### What the discarding of teams leaves -/

/-- A change that keeps what `p` tells of each element. -/
theorem map_map_same {α β : Type} {p : α → β} {f : α → α} (h : ∀ x, p (f x) = p x) (xs : List α) : (xs.map f).map p = xs.map p := by
  rw [List.map_map]
  exact List.map_congr_left fun x _ => h x

/-- Of a context: whether the device acts on it, its name, whether it has rolled back, its ring's read index. -/
def Ctx.standing (c : Ctx) : Bool × BitVec 32 × Bool × BitVec 32 := (c.usable, c.id, c.rolled, c.ringRead)

theorem Ctx.setStatus_dw (c : Ctx) (ovr rej abn rstate : Nat) (fpwait : Bool) {k : Nat} (h : k ≠ 8) :
    (c.setStatus ovr rej abn rstate fpwait).dw k = c.dw k := by
  unfold Ctx.setStatus Ctx.dw
  simp only [List.getD_eq_getElem?_getD]
  rw [List.getElem?_set_ne h.symm]

/-- The device's own dword of a descriptor does not make it malformed. -/
theorem Ctx.malformed_congr {c c' : Ctx} (hp : c'.part = c.part) (h : ∀ k, k ≠ 8 → c'.dw k = c.dw k) : c'.malformed = c.malformed := by
  have hd (k : Nat) : c'.dw (9 + k) = c.dw (9 + k) := h _ (by omega)
  unfold Ctx.malformed Ctx.vf Ctx.minor Ctx.crit Ctx.target Ctx.rtcount Ctx.rlog Ctx.rtbase Ctx.fpbase Ctx.bits Ctx.reserved
  simp only [List.zipIdx_cons, List.zipIdx_nil, List.any_cons, List.any_nil, hd, hp, h 0, h 1, h 2, h 3, h 4, h 5, h 6, h 7, ne_eq,
    OfNat.zero_ne_ofNat, OfNat.one_ne_ofNat, not_false_eq_true, Nat.reduceEqDiff, Nat.reduceAdd, zero_add]

theorem Ctx.setStatus_standing (c : Ctx) (ovr rej abn rstate : Nat) (fpwait : Bool) :
    (c.setStatus ovr rej abn rstate fpwait).standing = c.standing := by
  have h0 : (c.setStatus ovr rej abn rstate fpwait).dw 0 = c.dw 0 := c.setStatus_dw _ _ _ _ _ (by decide)
  have hm : (c.setStatus ovr rej abn rstate fpwait).malformed = c.malformed := Ctx.malformed_congr rfl fun _ h => c.setStatus_dw _ _ _ _ _ h
  unfold Ctx.standing Ctx.usable Ctx.valid Ctx.id Ctx.bits
  rw [hm, h0]
  rfl

theorem State.ctx?_standing (s : State) (id : BitVec 32) :
    (s.ctx? id).map Ctx.standing = (s.ctxs.map Ctx.standing).find? fun g => g.1 && g.2.1 == id := by
  rw [List.find?_map]
  rfl

theorem State.settleFp_standing (s : State) : s.settleFp.ctxs.map Ctx.standing = s.ctxs.map Ctx.standing := by
  refine map_map_same (fun c => ?_) s.ctxs
  split
  · rfl
  · dsimp only
    split
    · rfl
    · exact c.setStatus_standing _ _ _ _ _

/-- Of a launch: its name, and whether it is abandoned. -/
def Launch.mark (l : Launch) : Nat × Bool := (l.lid, l.abandoned)

/-- What the discarding of teams leaves: memory, the writes that wait, the partitions, where the sittings are and what they are for, and of
contexts and launches what `Ctx.standing` and `Launch.mark` tell. -/
structure State.discards (s s' : State) : Prop where
  mem : s'.mem = s.mem
  late : s'.late = s.late
  parts : s'.parts = s.parts
  sits : ∀ y ∈ s'.sits.now, ∃ x ∈ s.sits.now, y.part = x.part ∧ y.kind = x.kind
  ctxs : s'.ctxs.map Ctx.standing = s.ctxs.map Ctx.standing
  launches : s'.launches.map Launch.mark = s.launches.map Launch.mark

/-- The fields that the relation speaks of. -/
def State.undiscarded (s : State) : Memory × List LateWrite × List Partition × Sittings × List Ctx × List Launch :=
  (s.mem, s.late, s.parts, s.sits, s.ctxs, s.launches)

theorem State.discards_of_eq {s s' : State} (h : s'.undiscarded = s.undiscarded) : s.discards s' := by
  simp only [State.undiscarded, Prod.mk.injEq] at h
  obtain ⟨hm, hl, hp, hs, hc, hn⟩ := h
  exact ⟨hm, hl, hp, fun y hy => ⟨y, hs ▸ hy, rfl, rfl⟩, by rw [hc], by rw [hn]⟩

theorem State.discards_refl (s : State) : s.discards s := State.discards_of_eq rfl

theorem State.discards.trans {s u v : State} (h : s.discards u) (k : u.discards v) : s.discards v where
  mem := k.mem.trans h.mem
  late := k.late.trans h.late
  parts := k.parts.trans h.parts
  sits y hy := by
    obtain ⟨x, hx, hp, hk⟩ := k.sits y hy
    obtain ⟨w, hw, hp', hk'⟩ := h.sits x hx
    exact ⟨w, hw, hp.trans hp', hk.trans hk'⟩
  ctxs := k.ctxs.trans h.ctxs
  launches := k.launches.trans h.launches

theorem State.settleFp_discards (s : State) : s.discards s.settleFp :=
  { s.discards_refl with ctxs := s.settleFp_standing }

theorem State.shrinkExtended_discards (s : State) : s.discards s.shrinkExtended :=
  { s.discards_refl with
    sits := fun y hy => by
      obtain ⟨x, hx, rfl⟩ := List.mem_map.1 (List.mem_filter.1 hy).1
      refine ⟨x, hx, ?_⟩
      split <;> exact ⟨rfl, rfl⟩ }

theorem State.updLaunch_discards (s : State) (lid : Nat) {f : Launch → Launch} (hf : ∀ l, (f l).mark = l.mark) : s.discards (s.updLaunch lid f) :=
  { s.discards_refl with
    launches := map_map_same (fun l => by
      split
      · exact hf l
      · rfl) s.launches }

theorem State.setTeam_undiscarded (s : State) (t : Team) : (s.setTeam t).undiscarded = s.undiscarded := by
  unfold State.setTeam
  split <;> rfl

theorem State.unlocks_undiscarded {α : Type} (owner : α → Nat) (xs : List α) (s : State) :
    (xs.foldl (fun st x => st.unlock (owner x)) s).undiscarded = s.undiscarded := foldl_same State.undiscarded (by intros; rfl) xs s

theorem State.dropCopies_undiscarded (s : State) (tid : Nat) : (s.dropCopies tid).undiscarded = s.undiscarded :=
  State.unlocks_undiscarded Copy.id (s.copies.filter (·.tid == tid)) s

theorem State.discardTeam_discards (s : State) (tid : Nat) : s.discards (s.discardTeam tid) := by
  unfold State.discardTeam
  split
  · exact s.discards_refl
  next t _ =>
  split
  · exact s.discards_refl
  · extract_lets dead s0 s1 s2
    have h0 : s0.undiscarded = s.undiscarded := (State.unlocks_undiscarded Raster.id _ _).trans (s.setTeam_undiscarded dead)
    have h2 : s2.undiscarded = (s0.dropCopies tid).undiscarded := by
      unfold State.undiscarded
      rfl
    have h2 : s2.undiscarded = s.undiscarded := h2.trans ((s0.dropCopies_undiscarded tid).trans h0)
    have h3 := s2.updLaunch_discards t.lid (f := fun l => { l with ended := l.ended + 1 }) fun _ => rfl
    exact (State.discards_of_eq h2).trans (h3.trans ((State.shrinkExtended_discards _).trans (State.settleFp_discards _)))

theorem State.discardTeams_discards (s : State) (tids : List Nat) : s.discards (tids.foldl State.discardTeam s) :=
  List.foldlRecOn (motive := fun u => s.discards u) tids State.discardTeam s.discards_refl fun u hu tid _ => hu.trans (u.discardTeam_discards tid)

/-! ### A launch is lost (R373, R463) -/

/-- The launches of a name are abandoned, the others stand; memory is as it was. -/
theorem State.abandon_marks {s : State} (hn : (s.launches.map (·.lid)).Nodup) (lid : Nat) :
    (s.abandon lid).launches.map Launch.mark = s.launches.map (fun l => (l.lid, l.abandoned || l.lid == lid)) ∧ (s.abandon lid).mem = s.mem := by
  unfold State.abandon
  split
  · next h =>
    refine ⟨List.map_congr_left fun l hl => ?_, rfl⟩
    rw [Bool.eq_false_iff.2 (List.find?_eq_none.1 h l hl), Bool.or_false]
    rfl
  · next l h =>
    have hl : l.lid = lid := by
      have := List.find?_some h
      exact beq_iff_eq.1 this
    split
    · next ha =>
      refine ⟨List.map_congr_left fun k hk => ?_, rfl⟩
      by_cases hkl : k.lid = lid
      · rw [List.inj_on_of_nodup_map hn hk (List.mem_of_find?_eq_some h) (hkl.trans hl.symm), ha]
        exact congrArg _ ha
      · rw [beq_false_of_ne hkl, Bool.or_false]
        rfl
    · extract_lets s1 s2
      have hd : s.discards s1 := s.discardTeams_discards _
      refine ⟨?_, hd.mem⟩
      have h2 : s2.launches.map Launch.mark = (s1.launches.map Launch.mark).map fun g => (g.1, g.2 || g.1 == lid) := by
        show (s1.launches.map _).map _ = _
        rw [List.map_map, List.map_map]
        refine List.map_congr_left fun k _ => ?_
        simp only [Function.comp_apply, Launch.mark]
        split
        · next hk => rw [hk, Bool.or_true]
        · next hk => rw [Bool.eq_false_iff.2 hk, Bool.or_false]
      refine h2.trans ?_
      rw [hd.launches, List.map_map]
      rfl

theorem State.abandons_marks {s : State} (hn : (s.launches.map (·.lid)).Nodup) (lids : List Nat) :
    (lids.foldl State.abandon s).launches.map Launch.mark = s.launches.map (fun l => (l.lid, l.abandoned || lids.contains l.lid)) ∧
      (lids.foldl State.abandon s).mem = s.mem := by
  induction lids generalizing s with
  | nil => exact ⟨List.map_congr_left fun l _ => by rw [List.contains_nil, Bool.or_false]; rfl, rfl⟩
  | cons lid lids ih =>
    obtain ⟨hm, hmem⟩ := s.abandon_marks hn lid
    have hl : (s.abandon lid).launches.map (·.lid) = s.launches.map (·.lid) := by
      have := congrArg (List.map Prod.fst) hm
      rwa [List.map_map, List.map_map] at this
    obtain ⟨him, himem⟩ := ih (s := s.abandon lid) (hl ▸ hn)
    refine ⟨him.trans ?_, himem.trans hmem⟩
    have := congrArg (List.map fun g : Nat × Bool => (g.1, g.2 || lids.contains g.1)) hm
    rw [List.map_map, List.map_map] at this
    refine this.trans (List.map_congr_left fun l _ => ?_)
    rw [List.contains_cons, ← Bool.or_assoc]
    rfl

/-! ### A rollback (R463, R469) -/

/-- What a rollback record leaves. -/
def State.unrolled (s : State) : Memory × List LateWrite × List Team × Sittings × List Ctx × List Launch :=
  (s.mem, s.late, s.teams, s.sits, s.ctxs, s.launches)

theorem State.rollRecord_unrolled (s : State) (part : Nat) (ctx : BitVec 32) (kind dia : Nat) (istart : BitVec 64) :
    (s.rollRecord part ctx kind dia istart).unrolled = s.unrolled := by
  have htell (u : State) (fn bit : Nat) : (u.tellBoth fn ctx bit).unrolled = u.unrolled := by
    unfold State.tellBoth
    dsimp only
    split <;> rfl
  have hcount (u : State) (owner : Nat) : (u.count .rbrec owner).unrolled = u.unrolled := by
    unfold State.count
    dsimp only
    split <;> rfl
  unfold State.rollRecord
  split
  · rfl
  split
  · rfl
  · exact (htell _ _ _).trans (hcount _ _)

/-- Memory, once values of a width have been written one after another. -/
def Memory.writeAll (n : Nat) (m : Memory) (xs : List (Nat × Nat)) : Memory := xs.foldl (fun m x => Memory.writeN m x.1 n x.2) m

theorem Memory.readN_congr {m m' : Memory} {a n : Nat} (h : ∀ k, a ≤ k → k < a + n → m'.read k = m.read k) : m'.readN a n = m.readN a n := by
  induction n generalizing a with
  | zero => rfl
  | succ n ih =>
    unfold Memory.readN
    rw [h a le_rfl (by omega), ih fun k hk hn => h k (by omega) (by omega)]

theorem Memory.writeAll_read {n k : Nat} {m : Memory} (hm : Memory.wf m = true) {xs : List (Nat × Nat)} (h : ∀ x ∈ xs, k < x.1 ∨ x.1 + n ≤ k) :
    (Memory.writeAll n m xs).read k = m.read k := by
  induction xs generalizing m with
  | nil => rfl
  | cons x xs ih =>
    exact (ih (Memory.writeN_wf m x.1 n x.2 hm) fun y hy => h y (List.mem_cons_of_mem _ hy)).trans
      (Memory.read_writeN_out m _ _ _ _ hm (h x List.mem_cons_self))

/-- Where the places do not meet, each holds its own value. -/
theorem Memory.writeAll_readN {n : Nat} {m : Memory} (hm : Memory.wf m = true) {xs : List (Nat × Nat)}
    (hd : xs.Pairwise fun x y => x.1 + n ≤ y.1 ∨ y.1 + n ≤ x.1) {x : Nat × Nat} (hx : x ∈ xs) :
    (Memory.writeAll n m xs).readN x.1 n = x.2 % 256 ^ n := by
  induction xs generalizing m with
  | nil => cases hx
  | cons y xs ih =>
    obtain ⟨hy, hd⟩ := List.pairwise_cons.1 hd
    have hw := Memory.writeN_wf m y.1 n y.2 hm
    rcases List.mem_cons.1 hx with rfl | hx
    · have hout (k : Nat) (hk : x.1 ≤ k) (hk' : k < x.1 + n) :
          (Memory.writeAll n (m.writeN x.1 n x.2) xs).read k = (m.writeN x.1 n x.2).read k :=
        Memory.writeAll_read hw fun z hz => by have := hy z hz; omega
      exact (Memory.readN_congr hout).trans (Memory.readN_writeN m _ _ _ hm)
    · exact ih hw hd hx

theorem State.applyLog_good {rs : List LogRec} (h : ∀ r ∈ rs, r.bad = false) (s : State) :
    State.applyLog rs s = (rs.foldl State.applyRecord s, true) := by
  induction rs generalizing s with
  | nil => rfl
  | cons r rs ih =>
    unfold State.applyLog
    rw [if_neg (by rw [h r List.mem_cons_self]; decide), ih fun x hx => h x (List.mem_cons_of_mem _ hx), List.foldl_cons]

theorem State.applyRecord_mem (s : State) (r : LogRec) : (s.applyRecord r).mem = Memory.writeN s.mem (64 * r.idx) 64 r.bytes := by
  dsimp only [State.applyRecord, State.writeBack, State.dropL1]

theorem State.applyRecords_mem (rs : List LogRec) (s : State) :
    (rs.foldl State.applyRecord s).mem = Memory.writeAll 64 s.mem (rs.map fun r => (64 * r.idx, r.bytes)) := by
  induction rs generalizing s with
  | nil => rfl
  | cons r rs ih =>
    unfold Memory.writeAll at ih ⊢
    rw [List.foldl_cons, List.map_cons, List.foldl_cons, ← s.applyRecord_mem]
    exact ih _

/-- What applied records leave. -/
def State.unrestored (s : State) : List LateWrite × Sittings × List Ctx := (s.late, s.sits, s.ctxs)

theorem State.applyRecords_unrestored (rs : List LogRec) (s : State) : (rs.foldl State.applyRecord s).unrestored = s.unrestored :=
  foldl_same State.unrestored (by intro u r; dsimp only [State.unrestored, State.applyRecord, State.writeBack, State.dropL1]) rs s

theorem State.ctx?_updCtx {s : State} {id : BitVec 32} {f : Ctx → Ctx} (hf : ∀ c, (f c).usable = c.usable ∧ (f c).id = c.id) :
    (s.updCtx id f).ctx? id = (s.ctx? id).map f := by
  unfold State.ctx? State.updCtx
  dsimp only
  have hp : ((fun c : Ctx => c.usable && c.id == id) ∘ fun c => if c.valid && c.id == id then f c else c) = fun c => c.usable && c.id == id := by
    funext c
    simp only [Function.comp_apply]
    split
    · rw [(hf c).1, (hf c).2]
    · rfl
  rw [List.find?_map, hp]
  cases h : s.ctxs.find? fun c => c.usable && c.id == id with
  | none => rfl
  | some c =>
    have hc := List.find?_some h
    obtain ⟨hu, hi⟩ := Bool.and_eq_true_iff.1 hc
    exact congrArg some (if_pos (Bool.and_eq_true_iff.2 ⟨(Bool.and_eq_true_iff.1 hu).1, hi⟩))

/-! ### What stands again (R469) -/

/-- A context that the device acts on is found again where its standing is kept. -/
theorem State.ctx?_of_standing {s s' : State} {id : BitVec 32} {c : Ctx} (h : s'.ctxs.map Ctx.standing = s.ctxs.map Ctx.standing)
    (hc : s.ctx? id = some c) : ∃ c', s'.ctx? id = some c' ∧ c'.standing = c.standing := by
  have := s'.ctx?_standing id
  rw [h, ← s.ctx?_standing id, hc] at this
  exact Option.map_eq_some_iff.1 this

theorem State.reinstate_teams (s : State) (c : Ctx) :
    (s.reinstate c).teams = s.teams.filter (fun t => t.ctx != c.id) ++ c.ckTeams.map Team.reinstate := rfl

theorem State.reinstate_launches (s : State) (c : Ctx) :
    (s.reinstate c).launches = s.launches.filter (fun l => l.ctx != c.id) ++ c.ckLaunches.map fun l => { l with miss := none } := rfl

theorem State.reinstate_frame (s : State) (c : Ctx) :
    (s.reinstate c).mem = s.mem ∧ (s.reinstate c).late = s.late ∧ (s.reinstate c).sits = s.sits := ⟨rfl, rfl, rfl⟩

theorem State.reinstate_ctx {s : State} {c x : Ctx} (h : s.ctx? c.id = some x) :
    ∃ c', (s.reinstate c).ctx? c.id = some c' ∧ c'.rolled = true ∧ c'.ringRead = c.ckRead := by
  let f (y : Ctx) : Ctx := { y with ringRead := c.ckRead, held := false, ckpt := false, rolled := true }
  have hu : (s.updCtx c.id f).ctx? c.id = some (f x) := by
    rw [State.ctx?_updCtx (by exact fun _ => ⟨rfl, rfl⟩), h]
    rfl
  have hs : (s.reinstate c).ctxs.map Ctx.standing = (s.updCtx c.id f).ctxs.map Ctx.standing := State.settleFp_standing _
  obtain ⟨c', hc, hst⟩ := State.ctx?_of_standing hs hu
  simp only [Ctx.standing, Prod.mk.injEq] at hst
  obtain ⟨-, -, hr, hk⟩ := hst
  exact ⟨c', hc, hr, hk⟩

/-- What is of a name after the others and what is of that name have been put together. -/
theorem filter_others_append {α : Type} (key : α → BitVec 32) (id : BitVec 32) (xs : List α) {ys : List α} (h : ∀ y ∈ ys, key y = id) :
    (xs.filter (fun x => key x != id) ++ ys).filter (fun x => key x == id) = ys := by
  rw [List.filter_append, List.filter_filter, List.filter_eq_nil_iff.2 fun x _ => by rw [bne, Bool.and_not_self]; decide, List.nil_append]
  exact List.filter_eq_self.2 fun y hy => beq_iff_eq.2 (h y hy)

/-- Where no open sitting polls a partition's rings, a freed queue entry changes nothing. -/
theorem State.pollOpen_none {s : State} {part : Nat} (h : ∀ y ∈ s.sits.now, ¬(y.part = part ∧ y.kind = 0)) : s.pollOpen part = s := by
  unfold State.pollOpen
  rw [List.filter_eq_nil_iff.2 fun y hy ht => ?_]
  · rfl
  · simp only [Bool.and_eq_true, beq_iff_eq] at ht
    exact h y hy ht.1

theorem State.drainLate_none {s : State} (h : s.late = []) : s.drainLate.unrolled = s.unrolled := by
  unfold State.drainLate
  rw [h, List.foldl_nil]
  unfold State.unrolled
  rw [h]

/-- The records of a rollback, and the writes and polls after them where none waits or is due, leave what `State.unrolled` tells. -/
theorem State.rollRecords_settled {s : State} {part : Nat} (ctx : BitVec 32) (istart : BitVec 64) (pages : List Nat) (hl : s.late = [])
    (hs : ∀ y ∈ s.sits.now, ¬(y.part = part ∧ y.kind = 0)) :
    let u := (pages.foldl (fun st pg => st.rollRecord part ctx 1 pg istart) (s.rollRecord part ctx 0 0 istart)).drainLate
    u.unrolled = s.unrolled ∧ u.pollOpen part = u := by
  have hp : (pages.foldl (fun st pg => st.rollRecord part ctx 1 pg istart) (s.rollRecord part ctx 0 0 istart)).unrolled = s.unrolled :=
    (foldl_same State.unrolled (fun u pg => u.rollRecord_unrolled _ _ _ _ _) _ _).trans (s.rollRecord_unrolled _ _ _ _ _)
  generalize pages.foldl (fun st pg => st.rollRecord part ctx 1 pg istart) (s.rollRecord part ctx 0 0 istart) = u at hp ⊢
  have hl' : u.late = s.late := congrArg (·.2.1) hp
  have hu := (State.drainLate_none (hl'.trans hl)).trans hp
  have hs' : u.drainLate.sits = s.sits := congrArg (·.2.2.2.1) hu
  exact ⟨hu, State.pollOpen_none (hs' ▸ hs)⟩

/-- A rollback whose log reads well: the teams are discarded, the log is applied from its end, and what the checkpoint recorded stands. -/
theorem State.rollback_unrolled {s : State} {c : Ctx} {p : Partition} (lids : List Nat) (hp : s.part? c.part = some p) (hl : s.late = [])
    (hs : ∀ y ∈ s.sits.now, ¬(y.part = c.part ∧ y.kind = 0)) (hg : ∀ r ∈ p.log, r.ctx = c.id → r.bad = false) :
    ∃ s1, s.discards s1 ∧
      (s.rollback c lids).unrolled = (((p.log.filter fun r => r.ctx == c.id).reverse.foldl State.applyRecord s1).reinstate c).unrolled := by
  unfold State.rollback
  extract_lets s1 log pages
  have hd : s.discards s1 := by
    refine (State.discards_of_eq ?_).trans (State.discardTeams_discards _ _)
    unfold State.undiscarded
    rw [hl]
    rfl
  have hlog : log = p.log.filter fun r => r.ctx == c.id := by
    simp only [log]
    unfold State.part? at hp ⊢
    rw [hd.parts, hp]
    rfl
  rw [hlog]
  have hgood : ∀ r ∈ (p.log.filter fun r => r.ctx == c.id).reverse, r.bad = false := fun r hr => by
    obtain ⟨hm, hi⟩ := List.mem_filter.1 (List.mem_reverse.1 hr)
    exact hg r hm (beq_iff_eq.1 hi)
  rw [State.applyLog_good hgood]
  have hu := State.applyRecords_unrestored (p.log.filter fun r => r.ctx == c.id).reverse s1
  refine ⟨s1, hd, ?_⟩
  generalize (p.log.filter fun r => r.ctx == c.id).reverse.foldl State.applyRecord s1 = s2 at hu ⊢
  simp only [State.unrestored, Prod.mk.injEq] at hu
  obtain ⟨hul, hus, -⟩ := hu
  dsimp only
  obtain ⟨-, hrl, hrs⟩ := s2.reinstate_frame c
  have hs2 : ∀ y ∈ s2.sits.now, ¬(y.part = c.part ∧ y.kind = 0) := fun y hy hk => by
    obtain ⟨x, hx, hxp, hxk⟩ := hd.sits y (hus ▸ hy)
    exact hs x hx ⟨hxp ▸ hk.1, hxk ▸ hk.2⟩
  obtain ⟨hunrolled, hpoll⟩ := State.rollRecords_settled (s := s2.reinstate c) c.id c.istart pages (hrl.trans (hul.trans (hd.late.trans hl)))
    (hrs ▸ hs2)
  rw [hpoll, ite_self]
  exact hunrolled

/-- Of the teams that stand again: their numbers, their groups, and whether they are saved. -/
theorem Team.reinstate_tells (t : Team) : (t.reinstate.tid, t.reinstate.groups.length, t.reinstate.st) =
    (t.tid, t.groups.length, if t.st = .evicted then .saved else t.st) := by
  unfold Team.reinstate Team.mapWaits
  simp only [List.length_map, beq_iff_eq]

/-- A rollback whose log reads well: all that O50 says of it. -/
theorem State.rollback_restores {s : State} {c : Ctx} {p : Partition} (lids : List Nat) (hc : s.ctx? c.id = some c) (hp : s.part? c.part = some p)
    (hl : s.late = []) (hs : ∀ y ∈ s.sits.now, ¬(y.part = c.part ∧ y.kind = 0)) (hg : ∀ r ∈ p.log, r.ctx = c.id → r.bad = false)
    (hct : ∀ t ∈ c.ckTeams, t.ctx = c.id) (hcl : ∀ l ∈ c.ckLaunches, l.ctx = c.id)
    (hn : ((p.log.filter fun r => r.ctx == c.id).map (·.idx)).Nodup) (hm : Memory.wf s.mem = true) :
    ∃ c', (s.rollback c lids).ctx? c.id = some c' ∧ c'.rolled = true ∧ c'.ringRead = c.ckRead ∧
      (∀ r ∈ p.log, r.ctx = c.id → Memory.readN (s.rollback c lids).mem (64 * r.idx) 64 = r.bytes % 2 ^ 512) ∧
      (∀ a, (∀ r ∈ p.log, r.ctx = c.id → a / 64 ≠ r.idx) → Memory.read (s.rollback c lids).mem a = Memory.read s.mem a) ∧
      ((s.rollback c lids).teams.filter fun t => t.ctx == c.id).map (fun t => (t.tid, t.groups.length, t.st)) = c.ckTeams.map (fun t =>
        (t.tid, t.groups.length, if t.st = .evicted then .saved else t.st)) ∧
      ((s.rollback c lids).launches.filter fun l => l.ctx == c.id).map (·.lid) = c.ckLaunches.map (·.lid) := by
  obtain ⟨s1, hd, hu⟩ := s.rollback_unrolled lids hp hl hs hg
  generalize s.rollback c lids = s' at hu ⊢
  generalize hlog : (p.log.filter fun r => r.ctx == c.id) = log at hu hn
  simp only [State.unrolled, Prod.mk.injEq] at hu
  obtain ⟨hmem, -, hteams, -, hctxs, hlaunches⟩ := hu
  have hin {r : LogRec} : r ∈ log ↔ r ∈ p.log ∧ r.ctx = c.id := by rw [← hlog, List.mem_filter, beq_iff_eq]
  have hmem : s'.mem = Memory.writeAll 64 s.mem (log.reverse.map fun r => (64 * r.idx, r.bytes)) := by
    rw [hmem, (State.reinstate_frame _ c).1, State.applyRecords_mem, hd.mem]
  have hctx : s'.ctx? c.id = ((log.reverse.foldl State.applyRecord s1).reinstate c).ctx? c.id := by
    unfold State.ctx?
    rw [hctxs]
  obtain ⟨x, hx, -⟩ := State.ctx?_of_standing (s' := log.reverse.foldl State.applyRecord s1) (by
    have := State.applyRecords_unrestored log.reverse s1
    simp only [State.unrestored, Prod.mk.injEq] at this
    rw [this.2.2, hd.ctxs]) hc
  obtain ⟨c', hc', hrolled, hread⟩ := State.reinstate_ctx hx
  have hapart : (log.reverse.map fun r => (64 * r.idx, r.bytes)).Pairwise fun x y => x.1 + 64 ≤ y.1 ∨ y.1 + 64 ≤ x.1 := by
    rw [List.pairwise_map, List.pairwise_reverse]
    exact (List.pairwise_map.1 hn).imp fun h => by dsimp only; omega
  have h512 : (256 : Nat) ^ 64 = 2 ^ 512 := by rw [show (256 : Nat) = 2 ^ 8 from rfl, ← pow_mul]
  refine ⟨c', hctx.trans hc', hrolled, hread, fun r hr hi => ?_, fun a ha => ?_, ?_, ?_⟩
  · have hmap : (64 * r.idx, r.bytes) ∈ log.reverse.map fun r => (64 * r.idx, r.bytes) :=
      List.mem_map.2 ⟨r, List.mem_reverse.2 (hin.2 ⟨hr, hi⟩), rfl⟩
    rw [hmem]
    exact (Memory.writeAll_readN hm hapart hmap).trans (congrArg (r.bytes % ·) h512)
  · rw [hmem]
    refine Memory.writeAll_read hm fun y hy => ?_
    obtain ⟨r, hr, rfl⟩ := List.mem_map.1 hy
    obtain ⟨hrp, hrc⟩ := hin.1 (List.mem_reverse.1 hr)
    have := ha r hrp hrc
    dsimp only
    omega
  · rw [hteams, State.reinstate_teams, filter_others_append Team.ctx, List.map_map]
    · exact List.map_congr_left fun t _ => t.reinstate_tells
    · intro t ht
      obtain ⟨u, hu, rfl⟩ := List.mem_map.1 ht
      exact hct u hu
  · rw [hlaunches, State.reinstate_launches, filter_others_append Launch.ctx, List.map_map]
    · rfl
    · intro l hl
      obtain ⟨k, hk, rfl⟩ := List.mem_map.1 hl
      exact hcl k hk

/-- The teams of a context that have consumed poison. -/
def State.poisoned (s : State) (ctx : BitVec 32) : List Team := s.teams.filter fun t => t.ctx == ctx && s.consumptions.contains t.tid

/-- The launches of those teams. -/
def State.poisonedLids (s : State) (ctx : BitVec 32) : List Nat := ((s.poisoned ctx).map (·.lid)).eraseDups

/-- The consumptions of those teams have been taken note of. -/
def State.noted (s : State) (ctx : BitVec 32) : State :=
  { s with consumptions := s.consumptions.filter fun tid => !((s.poisoned ctx).any fun t => t.tid == tid) }

theorem State.mem_poisoned {s : State} {ctx : BitVec 32} {t : Team} : t ∈ s.poisoned ctx ↔ t ∈ s.teams ∧ t.ctx = ctx ∧ t.tid ∈ s.consumptions := by
  unfold State.poisoned
  rw [List.mem_filter, Bool.and_eq_true, beq_iff_eq, List.contains_iff_mem]

/-- ROLLBACK of a context of which a team has consumed poison: it goes back, or the launches are lost. -/
theorem exec_rollback {s : State} {ctx : BitVec 32} {c : Ctx} (hc : s.ctx? ctx = some c) (ht : ∃ t ∈ s.teams, t.ctx = ctx ∧ t.tid ∈ s.consumptions) :
    exec (.rollback ctx.toNat) s = .next (
      let s1 := (s.poisonedLids ctx).foldl State.abandon (s.noted ctx)
      if c.armed && c.ckDone && !c.rolled then (s.noted ctx).rollback c (s.poisonedLids ctx)
      else if c.armed && c.ckDone then s1.rollRecord c.part c.id 2 0 c.istart else s1) := by
  have hid : BitVec.ofNat 32 ctx.toNat = ctx := (BitVec.ofNat_toNat 32 ctx).trans ctx.setWidth_eq
  have hwho : (s.poisoned ctx).isEmpty = false := by
    obtain ⟨t, ht⟩ := ht
    exact List.isEmpty_eq_false_iff_exists_mem.2 ⟨t, State.mem_poisoned.2 ht⟩
  show execRollback ctx.toNat s = _
  unfold execRollback
  rw [hid]
  dsimp only
  rw [← State.poisoned, hwho, hc]
  rfl

/-- ROLLBACK of a context that cannot go back: its launches are lost, and memory is as it was. -/
theorem rollback_abandons {s : State} {ctx : BitVec 32} {c : Ctx} (hc : s.ctx? ctx = some c) (ht : ∃ t ∈ s.teams, t.ctx = ctx ∧ t.tid ∈ s.consumptions)
    (hn : (s.launches.map (·.lid)).Nodup) (h : c.armed = false ∨ c.ckDone = false ∨ c.rolled = true) :
    ∃ s', exec (.rollback ctx.toNat) s = .next s' ∧ s'.mem = s.mem ∧
      ∀ t ∈ s.teams, t.ctx = ctx → t.tid ∈ s.consumptions → ∀ l ∈ s'.launches, l.lid = t.lid → l.abandoned = true := by
  have hcond : (c.armed && c.ckDone && !c.rolled) = false := by rcases h with h | h | h <;> rw [h] <;> simp
  have he := exec_rollback hc ht
  rw [hcond] at he
  obtain ⟨hmarks, hmem⟩ := State.abandons_marks (s := s.noted ctx) hn (s.poisonedLids ctx)
  generalize (s.poisonedLids ctx).foldl State.abandon (s.noted ctx) = s1 at he hmarks hmem
  have hroll := s1.rollRecord_unrolled c.part c.id 2 0 c.istart
  simp only [State.unrolled, Prod.mk.injEq] at hroll
  obtain ⟨hrm, -, -, -, -, hrl⟩ := hroll
  have hgone {t : Team} (ht : t ∈ s.teams) (hi : t.ctx = ctx) (hm : t.tid ∈ s.consumptions) {l : Launch} (hl : l ∈ s1.launches)
      (hlid : l.lid = t.lid) : l.abandoned = true := by
    have hlm : l.mark ∈ s1.launches.map Launch.mark := List.mem_map_of_mem hl
    rw [hmarks] at hlm
    obtain ⟨k, -, hk⟩ := List.mem_map.1 hlm
    obtain ⟨hkl, hka⟩ := Prod.mk.inj hk
    have hpl : t.lid ∈ s.poisonedLids ctx := List.mem_eraseDups.2 (List.mem_map_of_mem (State.mem_poisoned.2 ⟨ht, hi, hm⟩))
    rw [← hka, hkl, hlid, List.contains_iff_mem.2 hpl, Bool.or_true]
  refine ⟨_, he, ?_, fun t ht hi hm l hl => ?_⟩
  · dsimp only
    rw [if_neg (by decide)]
    split
    · exact hrm.trans hmem
    · exact hmem
  · dsimp only at hl
    rw [if_neg (by decide)] at hl
    refine hgone ht hi hm ?_
    split at hl
    · rwa [hrl] at hl
    · exact hl

/-! ### The obligation -/

/-- Settles O50: each row's clause is the theorem of its part above. -/
theorem health : Obligations.Health := by
  unfold Obligations.Health
  intro s
  refine ⟨?rollback, ?millisecond, ?second, fun arg => ?thermal, fun panel p t hp hq ht hd => scrubCompletion_counts hp hq ht hd,
    fun panel sector x p y h12 hs hd hx hy _ => memoryScrub_corrects h12 hs hd hx hy, debugFreeze_overwrites⟩
  case rollback =>
    rintro _ c p hc rfl ht hp - hl hs
    refine ⟨fun ha hk hr hg hct hcl hn hm => ?_, fun h hn => rollback_abandons hc ht hn h⟩
    have he := (exec_rollback hc ht).trans (congrArg Host.Outcome.next (if_pos (by rw [ha, hk, hr]; rfl)))
    obtain ⟨c', hstands⟩ := State.rollback_restores (s := s.noted c.id) (s.poisonedLids c.id) hc hp hl hs hg hct hcl hn hm
    exact ⟨_, c', he, hstands⟩
  case millisecond =>
    intro h
    obtain ⟨s', he, hn, ht, hv, hc, hs⟩ := millisecond_ages h
    refine ⟨s', he, hn, ht, hv, fun core hk => ?_⟩
    by_cases hm : core ∈ s.lifeCores
    · obtain ⟨hret, hw, hst, hl, hq⟩ := hs core hk hm
      exact ⟨hret, hw, hst, fun _ hn => ⟨hl hn, hq hn⟩⟩
    · have hsame : s'.lifeOf core = s.lifeOf core := by rw [State.lifeOf_absent hm, State.lifeOf_absent (hc ▸ hm)]
      exact ⟨fun _ => hsame, by rw [hsame], by rw [hsame], fun hz => absurd (State.mem_lifeCores.2 hz) hm⟩
  case second =>
    intro h
    obtain ⟨s', he, hn, ho, hv, hmem, hl, hs⟩ := second_ages h
    refine ⟨s', he, hn, ho, hv, hmem, hl, fun core hk hz => ?_⟩
    obtain ⟨hf, hret, hop, h3, h2, h1, h0⟩ := hs core hk (State.mem_lifeCores.2 hz)
    exact ⟨hf, hret, fun hn => ⟨hop hn, h3 hn, h2 hn, h1 hn, h0 hn⟩⟩
  case thermal =>
    intro ha
    obtain ⟨s', he, hv, hc, hmhz, hlow, hrest, ht, hm⟩ := thermal_lowers s ha
    exact ⟨s', he, hv, hc, hmhz, fun core hz => hlow core (State.mem_lifeCores.2 hz), hrest, ht, hm⟩

end Sys2Proof.Machine
end

section
/-! ## Instruction words (chapter 02): decoding what was encoded

`Obligations.RoundTrip`: every instruction's law of `Laws.Encoding` says that the fields of its word are read back; what `decode` adds is the
check of well-formedness, and a word's eight bytes are the word again. -/

namespace Sys2Proof

/-- The fields of every instruction's word are read back (R30). -/
theorem parse_encode {i : Instr} {w : BitVec 64} (hwf : i.wf = true) (h : encode i = some w) : parse w = some i := by
  have hlaw : Laws.Encoding.Statement i := by
    cases i
    exacts [
      Laws.Encoding.nop _, Laws.Encoding.bra _ _ _, Laws.Encoding.brx _ _ _, Laws.Encoding.call _ _ _, Laws.Encoding.callx _ _ _,
      Laws.Encoding.ret _ _, Laws.Encoding.exit _, Laws.Encoding.yield _ _, Laws.Encoding.prio _ _, Laws.Encoding.regroup _ _,
      Laws.Encoding.barg _ _ _ _, Laws.Encoding.bart _ _ _, Laws.Encoding.arrive _ _ _ _, Laws.Encoding.await _ _ _ _ _,
      Laws.Encoding.vote _ _ _ _ _ _ _, Laws.Encoding.elect _ _ _ _, Laws.Encoding.shfl _ _ _ _ _ _ _, Laws.Encoding.redg _ _ _ _ _,
      Laws.Encoding.scang _ _ _ _ _ _, Laws.Encoding.matchG _ _ _ _ _ _, Laws.Encoding.waitt _ _, Laws.Encoding.mov _ _ _ _,
      Laws.Encoding.movi _ _ _, Laws.Encoding.movg _ _ _ _ _, Laws.Encoding.sel _ _ _ _ _ _ _, Laws.Encoding.pset _ _ _ _ _,
      Laws.Encoding.plop _ _ _ _ _, Laws.Encoding.p2v _ _, Laws.Encoding.v2p _ _ _, Laws.Encoding.wbase _ _ _ _, Laws.Encoding.ixset _ _ _,
      Laws.Encoding.ixadd _ _ _, Laws.Encoding.srd _ _ _, Laws.Encoding.swr _ _ _, Laws.Encoding.empty _ _ _, Laws.Encoding.tfull _ _ _ _,
      Laws.Encoding.allot _ _ _, Laws.Encoding.iadd _ _ _ _ _, Laws.Encoding.isub _ _ _ _ _, Laws.Encoding.iadd3 _ _ _ _ _ _,
      Laws.Encoding.imul _ _ _ _ _, Laws.Encoding.imulh _ _ _ _ _, Laws.Encoding.imad _ _ _ _ _ _, Laws.Encoding.imin _ _ _ _ _,
      Laws.Encoding.imax _ _ _ _ _, Laws.Encoding.iabs _ _ _ _, Laws.Encoding.ineg _ _ _ _, Laws.Encoding.and _ _ _ _, Laws.Encoding.or _ _ _ _,
      Laws.Encoding.xor _ _ _ _, Laws.Encoding.andn _ _ _ _, Laws.Encoding.not _ _ _, Laws.Encoding.lop3 _ _ _ _ _ _,
      Laws.Encoding.shl _ _ _ _ _, Laws.Encoding.shr _ _ _ _ _, Laws.Encoding.sar _ _ _ _ _, Laws.Encoding.rotl _ _ _ _,
      Laws.Encoding.fshl _ _ _ _ _, Laws.Encoding.popc _ _ _, Laws.Encoding.clz _ _ _, Laws.Encoding.brev _ _ _, Laws.Encoding.bfe _ _ _ _ _,
      Laws.Encoding.bfi _ _ _ _ _, Laws.Encoding.isetp _ _ _ _ _ _ _, Laws.Encoding.icsub _ _ _ _ _, Laws.Encoding.iadd64 _ _ _ _,
      Laws.Encoding.isub64 _ _ _ _, Laws.Encoding.imulw _ _ _ _ _, Laws.Encoding.lea _ _ _ _ _ _, Laws.Encoding.isat _ _ _ _ _,
      Laws.Encoding.idp4 _ _ _ _ _ _ _ _, Laws.Encoding.fadd _ _ _ _ _, Laws.Encoding.fsub _ _ _ _ _, Laws.Encoding.fmul _ _ _ _ _,
      Laws.Encoding.ffma _ _ _ _ _ _, Laws.Encoding.fmin _ _ _ _, Laws.Encoding.fmax _ _ _ _, Laws.Encoding.fminp _ _ _ _,
      Laws.Encoding.fmaxp _ _ _ _, Laws.Encoding.fabs _ _ _, Laws.Encoding.fneg _ _ _, Laws.Encoding.fsetp _ _ _ _ _, Laws.Encoding.fclass _ _ _,
      Laws.Encoding.frnd _ _ _ _, Laws.Encoding.fdiv _ _ _ _ _, Laws.Encoding.fsqrt _ _ _ _, Laws.Encoding.frcp _ _ _ _,
      Laws.Encoding.frsq _ _ _, Laws.Encoding.fexp2 _ _ _, Laws.Encoding.flog2 _ _ _, Laws.Encoding.fsinpi _ _ _, Laws.Encoding.fcospi _ _ _,
      Laws.Encoding.ftanh _ _ _, Laws.Encoding.hadd2 _ _ _ _ _ _, Laws.Encoding.hmul2 _ _ _ _ _ _, Laws.Encoding.hfma2 _ _ _ _ _ _ _,
      Laws.Encoding.fcvt _ _ _ _ _ _, Laws.Encoding.f2i _ _ _ _ _, Laws.Encoding.i2f _ _ _ _ _ _, Laws.Encoding.qcvt _ _ _ _ _ _,
      Laws.Encoding.qdeq _ _ _ _ _ _ _, Laws.Encoding.qscale _ _ _ _ _, Laws.Encoding.mxon _ _ _ _ _ _, Laws.Encoding.mxoff _,
      Laws.Encoding.mxsync _, Laws.Encoding.mxclr _, Laws.Encoding.stld _ _ _, Laws.Encoding.stswap _, Laws.Encoding.mma _ _,
      Laws.Encoding.mmas _ _ _, Laws.Encoding.mxrd _ _ _ _, Laws.Encoding.mxst _ _ _ _ _ _ _ _, Laws.Encoding.ld _ _ _ _ _ _ _ _,
      Laws.Encoding.st _ _ _ _ _ _ _ _, Laws.Encoding.ldp _ _ _ _ _ _ _ _, Laws.Encoding.stp _ _ _ _ _ _ _ _, Laws.Encoding.ldk _ _ _ _ _ _,
      Laws.Encoding.atom _ _ _ _ _ _ _ _ _, Laws.Encoding.acas _ _ _ _ _ _ _ _, Laws.Encoding.red _ _ _ _ _ _ _ _,
      Laws.Encoding.atomp _ _ _ _ _ _ _ _ _, Laws.Encoding.acasp _ _ _ _ _ _ _ _, Laws.Encoding.fence _ _ _, Laws.Encoding.pref _ _ _ _ _ _,
      Laws.Encoding.cflush _ _ _ _ _ _, Laws.Encoding.tagrd _ _ _ _ _ _, Laws.Encoding.tagwr _ _ _ _ _ _, Laws.Encoding.copy _ _ _ _ _ _,
      Laws.Encoding.copym _ _ _ _ _ _, Laws.Encoding.hwait _ _ _, Laws.Encoding.hrel _ _, Laws.Encoding.hstat _ _ _, Laws.Encoding.cfetch _ _ _,
      Laws.Encoding.cwait _ _, Laws.Encoding.jmpf _ _ _ _, Laws.Encoding.callf _ _ _ _, Laws.Encoding.cevict _ _, Laws.Encoding.rast _ _ _ _,
      Laws.Encoding.visld _ _ _ _ _, Laws.Encoding.bary _ _ _ _ _, Laws.Encoding.tex _ _ _ _ _ _ _ _, Laws.Encoding.texg _ _ _ _ _ _ _ _,
      Laws.Encoding.texq _ _ _ _, Laws.Encoding.rsmark _ _, Laws.Encoding.rtbox _ _ _ _ _ _, Laws.Encoding.rttri _ _ _ _ _ _ _,
      Laws.Encoding.rtxf _ _ _ _ _, Laws.Encoding.sig _ _ _, Laws.Encoding.sigend _ _ _ _, Laws.Encoding.time _ _, Laws.Encoding.launch _ _ _,
      Laws.Encoding.launchw _ _, Laws.Encoding.lwait _ _ _ _ _, Laws.Encoding.lpub _ _ _, Laws.Encoding.platch _ _ _ _ _,
      Laws.Encoding.decls _ _, Laws.Encoding.kselGen _ _ _, Laws.Encoding.kselZero _ _ _, Laws.Encoding.kselDcl _ _ _ _,
      Laws.Encoding.kselUndcl _ _ _ _, Laws.Encoding.kselStat _ _ _, Laws.Encoding.trap _ _ _ _, Laws.Encoding.rte _,
      Laws.Encoding.ctxsv _ _ _ _, Laws.Encoding.ctxld _ _ _, Laws.Encoding.ifrrd _ _ _ _ _, Laws.Encoding.frqpop _ _ _ _,
      Laws.Encoding.frqack _ _ _ _, Laws.Encoding.rngwr _ _ _ _, Laws.Encoding.rnginvA _ _, Laws.Encoding.rnginvB _ _ _ _,
      Laws.Encoding.dirtyhv _ _ _ _, Laws.Encoding.halt _, Laws.Encoding.yieldExpiry _ _ _, Laws.Encoding.regroupCompletion _,
      Laws.Encoding.waittRelease _ _ _, Laws.Encoding.producerCompletion _ _ _, Laws.Encoding.mxsyncFold _ _ _, Laws.Encoding.planeReady _ _,
      Laws.Encoding.stswapCompletion _ _, Laws.Encoding.gridSwitchEnd _ _, Laws.Encoding.accessAtHome _ _ _ _, Laws.Encoding.copyBeat _ _,
      Laws.Encoding.handleDrainEnd _ _, Laws.Encoding.codeFetchCompletion _ _, Laws.Encoding.rasterCommand _, Laws.Encoding.residencyRequest _,
      Laws.Encoding.teamPlacement _, Laws.Encoding.stopRequest _, Laws.Encoding.freezeBroadcast _ _, Laws.Encoding.ifrSnapshot _,
      Laws.Encoding.saveComplete _, Laws.Encoding.teamEviction _, Laws.Encoding.teamRestore _, Laws.Encoding.replayEnd _,
      Laws.Encoding.rollback _, Laws.Encoding.launchCompletion _, Laws.Encoding.sittingOpening _, Laws.Encoding.sittingEnd _,
      Laws.Encoding.graceExpiry _, Laws.Encoding.stctlSwitch _, Laws.Encoding.frameStart _, Laws.Encoding.scanOutLine _ _,
      Laws.Encoding.proofInstant _ _, Laws.Encoding.scrubCompletion _ _, Laws.Encoding.tellTaleStateWord _, Laws.Encoding.attitudeMessage _,
      Laws.Encoding.gptpMessage _ _, Laws.Encoding.spdmMessage _ _, Laws.Encoding.stagingMessage _ _, Laws.Encoding.unadmittedFrame _,
      Laws.Encoding.frameStartPacket _, Laws.Encoding.cameraLinePacket _ _ _ _, Laws.Encoding.frameEndPacket _,
      Laws.Encoding.cameraControlWrite _ _ _, Laws.Encoding.canvasApply _, Laws.Encoding.layerEntryWrite _ _ _ _,
      Laws.Encoding.warpConfigurationWrite _ _, Laws.Encoding.prfinjWrite _, Laws.Encoding.partitionRequest _ _,
      Laws.Encoding.partitionDissolution _, Laws.Encoding.engineAssignmentWrite _ _, Laws.Encoding.rreset _ _, Laws.Encoding.apertureRead _ _ _,
      Laws.Encoding.apertureWrite _ _ _, Laws.Encoding.functionLevelReset _, Laws.Encoding.stagingBegin _, Laws.Encoding.stagingChunk _ _ _,
      Laws.Encoding.stagingPermit _ _, Laws.Encoding.stagingEnd _, Laws.Encoding.stagingAbort _, Laws.Encoding.wake _,
      Laws.Encoding.bootFallback _, Laws.Encoding.thermal _, Laws.Encoding.memoryScrub _ _, Laws.Encoding.registerWrite _ _ _,
      Laws.Encoding.gridStepPass _ _ _, Laws.Encoding.illegalOpcode _, Laws.Encoding.portLinkChange _ _, Laws.Encoding.debugPermit _,
      Laws.Encoding.bankSwitch, Laws.Encoding.gateWindowEnd, Laws.Encoding.admissionInterval, Laws.Encoding.warpLatch,
      Laws.Encoding.stateWordExpiry, Laws.Encoding.deepSleep, Laws.Encoding.timedWake, Laws.Encoding.deviceReset, Laws.Encoding.debugFreeze,
      Laws.Encoding.millisecond, Laws.Encoding.second, Laws.Encoding.codeAbsent, Laws.Encoding.powerLoss, Laws.Encoding.firmwareHealthyReport]
  exact hlaw hwf w h

/-- What it is for a word to be read as an instruction (R36). -/
theorem decode_eq_ok {w : BitVec 64} {i : Instr} : decode w = .ok i ↔ parse w = some i ∧ i.wf = true ∧ encode i = some w := by
  unfold decode
  cases parse w with
  | none => simp
  | some j =>
    dsimp only
    by_cases hj : (j.wf && encode j == some w) = true
    · rw [if_pos hj]
      rw [Bool.and_eq_true, beq_iff_eq] at hj
      constructor
      · rintro ⟨⟩
        exact ⟨rfl, hj⟩
      · rintro ⟨⟨⟩, -⟩
        rfl
    · rw [if_neg hj]
      rw [Bool.and_eq_true, beq_iff_eq] at hj
      constructor
      · rintro ⟨⟩
      · rintro ⟨⟨⟩, h⟩
        exact absurd h hj

/-- Bytes of a word from byte `k` on, put together again, are its bits from there on (R21). -/
theorem wordOfBytes_range' (w : BitVec 64) (k n i : Nat) (hi : i < 64) :
    (wordOfBytes ((List.range' k n).map fun j => w.extractLsb' (8 * j) 8)).getLsbD i = (decide (i < 8 * n) && w.getLsbD (8 * k + i)) := by
  induction n generalizing k i with
  | zero => simp [wordOfBytes]
  | succ n ih =>
    have hstep : wordOfBytes ((List.range' k (n + 1)).map fun j => w.extractLsb' (8 * j) 8) =
        (wordOfBytes ((List.range' (k + 1) n).map fun j => w.extractLsb' (8 * j) 8) <<< 8) ||| (w.extractLsb' (8 * k) 8).setWidth 64 := rfl
    rw [hstep, BitVec.getLsbD_or, BitVec.getLsbD_shiftLeft, BitVec.getLsbD_setWidth, BitVec.getLsbD_extractLsb']
    by_cases h8 : i < 8
    · simp [h8, hi, show i < 8 * (n + 1) by omega]
    · rw [ih (k + 1) (i - 8) (by omega), show 8 * (k + 1) + (i - 8) = 8 * k + i by omega]
      simp [h8, hi, show i - 8 < 8 * n ↔ i < 8 * (n + 1) by omega]

theorem wordOfBytes_bytesOfWord (w : BitVec 64) : wordOfBytes (bytesOfWord w) = w := by
  refine BitVec.eq_of_getLsbD_eq fun i hi => ?_
  unfold bytesOfWord
  rw [List.range_eq_range', wordOfBytes_range' w 0 8 i hi]
  simp [hi]

@[simp] theorem bytesOfWord_length (w : BitVec 64) : (bytesOfWord w).length = 8 := rfl

/-- The first word of a sequence of bytes is decoded, and what follows it is left. -/
theorem decodeBytes_bytesOfWord (w : BitVec 64) (bs : List (BitVec 8)) :
    decodeBytes (bytesOfWord w ++ bs) = (decode w).map fun i => (i, bs) := by
  unfold decodeBytes
  rw [if_neg (by rw [List.length_append, bytesOfWord_length]; omega), List.take_left' (bytesOfWord_length w),
    List.drop_left' (bytesOfWord_length w), wordOfBytes_bytesOfWord]

/-- Settles O56: the laws of the instructions' words give `decode` of a word, and `decode`'s own check the converse. -/
theorem roundTrip : Obligations.RoundTrip := by
  unfold Obligations.RoundTrip
  refine ⟨fun i w hwf h => ?_, fun w i h => (decode_eq_ok.1 h).2⟩
  have hd : decode w = .ok i := decode_eq_ok.2 ⟨parse_encode hwf h, hwf, h⟩
  refine ⟨hd, fun bs => ?_⟩
  rw [decodeBytes_bytesOfWord, hd]
  rfl

end Sys2Proof
end

section
/-! ## A step runs the decoded word (R36, R60, R61, R317, R522)

`Obligations.StepRunsDecoded`: what `State.plan` comes to, in the order in which it decides: no stop is being cut and nothing is dispatched, the
agenda or the default names the group, the group selects the entry, and the word at the entry's PC is read. -/

namespace Sys2Proof.Machine

/-- The word that a team issues from a PC, where it holds the code (R317, R522). -/
theorem State.fetchWord_of_held {s : State} {t : Team} {pc w : BitVec 64}
    (hctl : t.tid = 0 → s.codeAt t pc.toNat = true ∧ w = BitVec.ofNat 64 (Memory.readN s.ctlMem pc.toNat 8))
    (hseg : t.tid ≠ 0 → ∃ x, s.segmentAt t pc = some x ∧ x.resident = true ∧ pc.toNat % 4096 / 8 ∉ x.bad ∧
      w = BitVec.ofNat 64 (Memory.readN x.bytes (pc.toNat % 4096) 8)) : s.fetchWord t pc = some (w, false) := by
  unfold State.fetchWord
  by_cases h0 : t.tid = 0
  · obtain ⟨hc, rfl⟩ := hctl h0
    simp [h0, hc]
  · obtain ⟨x, hx, hr, hb, rfl⟩ := hseg h0
    simp [h0, hx, hr, hb]

theorem Group.trapsIn_none {g : Group} {e : Entry} (h : ∀ l ∈ lanesOf e.mask, (g.thread l).ptrap = none) : g.trapsIn e = [] :=
  List.filter_eq_nil_iff.2 fun l hl => by rw [h l hl]; decide

/-- The state in which the entry that a group has selected issues (R61, R64). -/
def State.selects (run : Instr → State → Result) (s : State) (t : Team) (gi ei : Nat) : State :=
  { s.updGroup t.tid gi (fun g => g.grow (s.eligible run t gi) ei) with cur := some ⟨t.tid, gi, ei⟩ }

/-- A group whose selected entry's word decodes runs that instruction, where no trap is pending (R36, R61). -/
theorem State.planIssue_decoded {run : Instr → State → Result} {s : State} {t t1 : Team} {gi ei : Nat} {c : Cur} {g : Group} {e : Entry}
    {w : BitVec 64} {i : Instr} (hsel : (t.group gi).choose (s.eligible run t gi) = some ei)
    (hiss : (s.selects run t gi ei).issuing = some (c, t1, g, e)) (htrap : g.trapsIn e = [])
    (hword : (s.selects run t gi ei).fetchWord t1 e.pc = some (w, false)) (hdec : decode w = .ok i) :
    s.planIssue run t gi = .exec i (s.selects run t gi ei) := by
  unfold State.selects at hiss hword ⊢
  unfold State.planIssue
  simp only [hsel, hiss, htrap, hword, hdec]
  rfl

/-- The state in which a step begins: no issue is under way. -/
def State.idle (s : State) : State := { s with cur := none, waited := false }

/-- With no stop being cut and nothing to dispatch, the agenda's first action is planned. -/
theorem State.plan_agenda {run : Instr → State → Result} {s : State} {a : Action} {rest : List Action} (hcut : s.cutting = none)
    (hdisp : s.idle.mayDispatch = false) (ha : s.agenda = a :: rest) : s.plan run = ({ s.idle with agenda := rest } : State).planAction run a := by
  unfold State.plan
  extract_lets u
  rw [show u = s.idle from rfl, show s.idle.cutting = none from hcut, show s.idle.agenda = a :: rest from ha, hdisp, Bool.and_false]
  exact if_neg Bool.false_ne_true

/-- With no stop being cut, nothing to dispatch and no agenda, the default is planned. -/
theorem State.plan_default {run : Instr → State → Result} {s : State} (hcut : s.cutting = none) (hdisp : s.idle.mayDispatch = false)
    (ha : s.agenda = []) : s.plan run = s.idle.planDefault run := by
  unfold State.plan
  extract_lets u
  rw [show u = s.idle from rfl, show s.idle.cutting = none from hcut, show s.idle.agenda = [] from ha, hdisp, Bool.and_false]
  exact if_neg Bool.false_ne_true

/-- The agenda lets a group issue that may. -/
theorem State.planAction_issue {run : Instr → State → Result} {s : State} {t : Team} {tid gi : Nat} (hpow : s.fw.sleep.power.runs = true)
    (ht : s.team? tid = some t) (hc : ∃ c ∈ s.granted run, c.tid = tid ∧ c.grp = gi) :
    s.planAction run (.issue tid gi) = s.planIssue run t gi := by
  obtain ⟨c, hm, h1, h2⟩ := hc
  have hany : ((s.granted run).any fun c => c.tid == tid && c.grp == gi) = true :=
    List.any_eq_true.2 ⟨c, hm, by rw [h1, h2, beq_self_eq_true, beq_self_eq_true]; rfl⟩
  unfold State.planAction
  simp only [ht, hpow, hany, Bool.and_self, if_true]

theorem State.firstMove_none {run : Instr → State → Result} {s : State} {is : List Instr}
    (h : ∀ r ∈ is, ∀ u, run r s = .next u → u = s) : s.firstMove run is = none := by
  induction is with
  | nil => rfl
  | cons i is ih =>
    have hrest := ih fun r hr => h r (List.mem_cons_of_mem _ hr)
    unfold State.firstMove
    split
    · next u hu => rw [if_pos (beq_iff_eq.2 (h i List.mem_cons_self u hu)), hrest]
    · exact hrest

/-- Where nothing happens by itself and one group alone may issue, it does, a nanosecond later (log 1). -/
theorem State.planDefault_alone {run : Instr → State → Result} {s : State} {t : Team} {c : Claim} (hpow : s.fw.sleep.power.runs = true)
    (hstill : ∀ r ∈ s.internal, ∀ u, run r s = .next u → u = s) (hc : (s.elapse 1).granted run = [c])
    (ht : (s.elapse 1).team? c.tid = some t) : s.planDefault run = (s.elapse 1).planIssue run t c.grp := by
  unfold State.planDefault
  rw [State.firstMove_none fun r hr => hstill r (List.mem_filter.1 hr).1]
  unfold State.planReady
  simp only [hpow, hc, List.foldl_nil, ht, if_true]

/-- Settles O57: the plan comes to the issue of the group named, whose word is the one decoded; the twelve words are evaluated. -/
theorem stepRunsDecoded : Obligations.StepRunsDecoded := by
  unfold Obligations.StepRunsDecoded
  refine ⟨fun s t gi ei w i => ?_, by decide, by decide, by decide, by decide, by decide, by decide, by decide, by decide, by decide, by decide,
    by decide, by decide⟩
  intro runs calm hawake hcut hdisp
  have hpow : s.fw.sleep.power.runs = true := by rw [hawake]; rfl
  have hruns {s0 : State} (hp : s.plan exec = s0.planIssue exec t gi) : runs s0 := by
    intro _ hsel s1 t1 g e hiss htrap hctl hseg hdec
    have := State.planIssue_decoded hsel hiss (Group.trapsIn_none htrap) (State.fetchWord_of_held hctl hseg) hdec
    unfold step
    rw [hp, this]
    rfl
  refine ⟨fun rest ha hc ht => ?_, fun ha hstill c hc hct hcg ht => ?_⟩
  · exact hruns ((State.plan_agenda hcut hdisp ha).trans (State.planAction_issue hpow ht hc)) ht
  · refine hruns ((State.plan_default hcut hdisp ha).trans ?_) ht
    rw [← hcg]
    exact State.planDefault_alone hpow hstill hc (hct ▸ ht)

end Sys2Proof.Machine
end

section
/-! ## Taking a trap (R346, R347)

What an issue leaves in which some members trap and the others go on, for whatever traps: each trapping member stands alone at the handler with
its trap registers written. `Obligations.TrapEntry` says so of TRAP and of the traps of a word. -/

namespace Sys2Proof.Machine

/-! ### Entries -/

theorem laneBit_get_ne {k l : Nat} (h : l ≠ k) : (laneBit k).getLsbD l = false := by
  simp only [laneBit, BitVec.getLsbD_shiftLeft, BitVec.getLsbD_one]
  grind

/-- A solitary entry meets no other (R63). -/
theorem addEntry_solitary {n : Entry} {l : Nat} (hs : n.solitary = true) (hl : n.mask.getLsbD l = true) (es : List Entry) :
    addEntry es n = es ++ [n] := by
  induction es with
  | nil =>
    unfold addEntry
    rw [ne_zero_of_get hl]
    rfl
  | cons e es ih =>
    have hm : e.mergesWith n = false := by simp [Entry.mergesWith, hs]
    simp only [addEntry, ne_zero_of_get hl, hm, ih, Bool.false_eq_true, if_false, List.cons_append]

/-- No entry has the lane. -/
def nowhere (es : List Entry) (l : Nat) : Prop := ∀ x ∈ es, x.mask.getLsbD l = false

theorem addEntry_nowhere {es : List Entry} {n : Entry} {l : Nat} (h : nowhere es l) (hn : n.mask.getLsbD l = false) :
    nowhere (addEntry es n) l := by
  intro x hx
  by_contra hl
  have honly : onlyAt (addEntry es n) l (x.pc + 1, 0) :=
    addEntry_only es n l _ (fun y hy hm => absurd hm (by rw [h y hy]; decide)) fun hm => absurd hm (by rw [hn]; decide)
  have hpc : x.pc = x.pc + 1 := (honly x hx (Bool.of_not_eq_false hl)).1
  simp at hpc

theorem foldl_addEntry_nowhere {ns es : List Entry} {l : Nat} (h : nowhere es l) (hn : nowhere ns l) : nowhere (ns.foldl addEntry es) l :=
  List.foldlRecOn (motive := fun x => nowhere x l) ns addEntry h fun _ hx n hm => addEntry_nowhere hx (hn n hm)

theorem Fate.entry_some {e n : Entry} {l : Nat} {f : Fate} (h : f.entry e l = some n) : n.mask = laneBit l ∧ f.place e ≠ none := by
  cases f with
  | go | ret | reprio | yld =>
    unfold Fate.entry at h
    obtain rfl := Option.some.inj h
    exact ⟨rfl, nofun⟩
  | next | trap | stay | exit | consume | arrive => cases h

/-- A member whose fate puts it nowhere has left the frontier, if no other entry has it (R62). -/
theorem frontierAfter_nowhere {es : List Entry} {e : Entry} {fs : List (Nat × Fate)} {l : Nat} (hes : nowhere es l)
    (hfs : ∀ f, (l, f) ∈ fs → f.place e = none) : nowhere (frontierAfter es e fs) l := by
  have hmask (p : Fate → Bool) (hp : ∀ f, p f = true → f.place e ≠ none) : (lanesWith fs p).getLsbD l = false := by
    by_contra hl
    obtain ⟨f, hm, hf⟩ := lanesWith_mem fs p l (Bool.of_not_eq_false hl)
    exact hp f hf (hfs f hm)
  have hold : nowhere (es.map fun x => { x with yld := x.yld.map fun y => { y with waits := false } }) l := by
    intro x hx
    obtain ⟨y, hy, rfl⟩ := List.mem_map.1 hx
    exact hes y hy
  unfold frontierAfter
  refine foldl_addEntry_nowhere (addEntry_nowhere (addEntry_nowhere (addEntry_nowhere hold (hmask _ ?next)) (hmask _ ?stay)) (hmask _ ?arrive))
    fun n hn => ?own
  case next =>
    intro f hf
    obtain rfl : f = .next := by simpa using hf
    exact nofun
  case stay =>
    intro f hf
    obtain rfl | rfl : f = .stay ∨ f = .consume := by simpa using hf
    all_goals exact nofun
  case arrive =>
    intro f hf
    obtain rfl : f = .arrive := by simpa using hf
    exact nofun
  case own =>
    obtain ⟨⟨k, f⟩, hm, hf⟩ := List.mem_filterMap.1 hn
    obtain ⟨hk, hp⟩ := Fate.entry_some hf
    rw [hk]
    refine laneBit_get_ne ?_
    rintro rfl
    exact hp (hfs f hm)

/-! ### The members that trap, one after another -/

/-- A thread's trap registers are written (R347). -/
def Group.trapped (e : Entry) (tr : Nat → Trap) (g : Group) (l : Nat) : Group := g.updThread l fun t => t.setTrap (tr l) e.pc

/-- Where a member of an entry stands in its handler (R346). -/
def Entry.handler (e : Entry) (v : BitVec 64) (l : Nat) : Entry := Entry.at v e.prio (laneBit l) true

theorem trapped_store {g h : Group} (hs : g.store = h.store) (e : Entry) (tr : Nat → Trap) (l : Nat) :
    (g.trapped e tr l).store = (h.trapped e tr l).store := by
  have hset (k : Group) : (k.trapped e tr l).store = { k.store with lanes := k.store.lanes.set l ((k.thread l).calm.setTrap (tr l) e.pc) } := by
    unfold Group.store Group.trapped Group.updThread Group.setThread
    rw [List.map_set]
    rfl
  rw [hset g, hset h, hs, store_thread g h hs l]

theorem foldl_trapped_store {g h : Group} (hs : g.store = h.store) (e : Entry) (tr : Nat → Trap) (ls : List Nat) :
    (ls.foldl (Group.trapped e tr) g).store = (ls.foldl (Group.trapped e tr) h).store := by
  induction ls generalizing g h with
  | nil => exact hs
  | cons l ls ih => exact ih (trapped_store hs e tr l)

/-- The lanes `ls` of the issuing group have trapped into the handler `v`, and nothing else has changed but pending traps. -/
structure State.trapsInto (s s' : State) (c : Cur) (e : Entry) (v : BitVec 64) (tr : Nat → Trap) (ls : List Nat) : Prop where
  holds : s'.holds c
  store : (s'.grp c).store = (ls.foldl (Group.trapped e tr) (s.grp c)).store
  entries : (s'.grp c).entries = (s.grp c).entries ++ ls.map (e.handler v)
  others : s.others s' c
  keeps : s.keeps s' c
  grids : s'.grids = s.grids
  rest : s'.rest = s.rest

theorem State.trapsInto_trans {s s' s'' : State} {c : Cur} {e : Entry} {v : BitVec 64} {tr : Nat → Trap} {ls ks : List Nat}
    (h : s.trapsInto s' c e v tr ls) (h' : s'.trapsInto s'' c e v tr ks) : s.trapsInto s'' c e v tr (ls ++ ks) where
  holds := h'.holds
  store := by rw [h'.store, List.foldl_append, foldl_trapped_store h.store]
  entries := by rw [h'.entries, h.entries, List.map_append, List.append_assoc]
  others := others_trans h.others h'.others
  keeps := keeps_trans h.keeps h'.keeps
  grids := h'.grids.trans h.grids
  rest := h'.rest.trans h.rest

/-- The issuing team's context has the handler (R346). -/
def State.handles (s : State) (c : Cur) (v : BitVec 64) : Prop := ∃ t, s.team? c.tid = some t ∧ s.trapv t = v

theorem State.handles_of_others {s s' : State} {c : Cur} {v : BitVec 64} (h : s.handles c v) (ho : s.others s' c) (hr : s'.rest = s.rest) :
    s'.handles c v := by
  obtain ⟨t, ht, hv⟩ := h
  obtain ⟨-, hbare, -⟩ := ho
  rw [ht] at hbare
  obtain ⟨t', ht', hb⟩ := Option.map_eq_some_iff.1 hbare
  have hctx : t'.ctx = t.ctx := (congrArg Team.ctx hb :)
  have hctxs : s'.ctxs = s.ctxs := (congrArg State.ctxs hr :)
  refine ⟨t', ht', Eq.trans ?_ hv⟩
  unfold State.trapv State.ctx?
  rw [hctx, hctxs]

/-- A member that goes on traps nowhere. -/
theorem applyFate_next {s : State} {c : Cur} (hh : s.holds c) (e : Entry) (v : BitVec 64) (tr : Nat → Trap) (l : Nat) :
    s.trapsInto (s.applyFate c e l .next) c e v tr [] := by
  have q := applyFate_quiet s c e l .next hh rfl
  obtain ⟨k, hg⟩ := applyFate_keeps s c e l .next hh rfl
  exact ⟨q.holds, q.store, q.entries.trans (List.append_nil _).symm, q.others, k, hg, q.rest⟩

/-- A member that traps, of a team whose context has a handler, outside it (R346, R347). -/
theorem applyFate_trap {s : State} {c : Cur} {e : Entry} {v : BitVec 64} (hh : s.holds c) (hv : s.handles c v) (hv0 : v ≠ 0) (htid : c.tid ≠ 0)
    (hsol : e.solitary = false) (tr : Nat → Trap) {l : Nat} (hl : l < 32) :
    s.trapsInto (s.applyFate c e l (.trap (tr l))) c e v tr [l] := by
  let into (g : Group) : Group := { g.trapped e tr l with entries := addEntry g.entries (e.handler v l) }
  obtain ⟨t, ht, htv⟩ := hv
  have hupd : s.applyFate c e l (.trap (tr l)) = s.updGroup c.tid c.grp into := by
    unfold State.applyFate State.trapInto State.updGroup State.updTeam
    simp only [ht, htv, hsol, beq_eq_false_iff_ne.2 htid, beq_eq_false_iff_ne.2 hv0, Bool.or_self, Bool.false_eq_true, if_false]
    rfl
  have r := updGroup_regrouped s c into hh
  have hkin (u : Team) : u.kin (u.updGroup c.grp into) :=
    kin_setGroup u c.grp _ fun k => Group.updThread_live_mx (u.group c.grp) l k (fun t => t.setTrap (tr l) e.pc) fun _ => ⟨rfl, rfl⟩
  rw [hupd]
  refine ⟨r.holds, ?_, ?_, r.others, updTeam_keeps s c _ hh hkin, State.updGroup_grids _ _ _ _, r.rest⟩
  · rw [r.grp]
    rfl
  · rw [r.grp]
    exact addEntry_solitary rfl (laneBit_get l hl) _

/-- The fate of a member, of which those that `p` selects trap. -/
def trapFate (p : Nat → Bool) (tr : Nat → Trap) (l : Nat) : Fate := if p l then .trap (tr l) else .next

theorem foldl_applyFate_traps {s : State} {c : Cur} {e : Entry} {v : BitVec 64} (hh : s.holds c) (hv : s.handles c v) (hv0 : v ≠ 0)
    (htid : c.tid ≠ 0) (hsol : e.solitary = false) (p : Nat → Bool) (tr : Nat → Trap) {ls : List Nat} (hls : ∀ l ∈ ls, l < 32) :
    s.trapsInto ((ls.map fun l => (l, trapFate p tr l)).foldl (fun st x => st.applyFate c e x.1 x.2) s) c e v tr (ls.filter p) := by
  induction ls generalizing s with
  | nil => exact ⟨hh, rfl, (List.append_nil _).symm, others_refl s c, keeps_refl s c hh, rfl, rfl⟩
  | cons l ls ih =>
    have hstep : s.trapsInto (s.applyFate c e l (trapFate p tr l)) c e v tr ([l].filter p) := by
      unfold trapFate
      cases hp : p l with
      | true => simpa [hp] using applyFate_trap hh hv hv0 htid hsol tr (hls l List.mem_cons_self)
      | false => simpa [hp] using applyFate_next hh e v tr l
    have hrest := ih hstep.holds (State.handles_of_others hv hstep.others hstep.rest) fun k hk => hls k (List.mem_cons_of_mem _ hk)
    have := State.trapsInto_trans hstep hrest
    rwa [← List.filter_append, List.singleton_append] at this

/-! ### The issue -/

theorem alive_of_keeps {s s' : State} {c : Cur} (h : s.keeps s' c) (l : Nat) : s'.alive c.tid c.grp l = s.alive c.tid c.grp l := by
  obtain ⟨t, t', ht, -, ht', hk⟩ := h
  unfold State.alive
  rw [ht, ht']
  exact congrArg Prod.fst (hk.pulse c.grp l)

theorem State.flight_of_keeps {s s' : State} {c : Cur} (h : s.keeps s' c) :
    (s'.team? c.tid).map Team.flight = (s.team? c.tid).map Team.flight := by
  obtain ⟨t, t', ht, -, ht', hk⟩ := h
  rw [ht, ht', Option.map_some, Option.map_some, hk.flight]

/-- The fates of an entry's members. -/
def Entry.fates (e : Entry) (fate : Nat → Fate) : List (Nat × Fate) := (lanesOf e.mask).map fun l => (l, fate l)

theorem Entry.fates_own {e : Entry} {fate : Nat → Fate} {l : Nat} {f : Fate} (h : (l, f) ∈ e.fates fate) : f = fate l := by
  obtain ⟨k, -, hk⟩ := List.mem_map.1 h
  cases hk
  rfl

/-- The issuing entry, taken out of its group, is replaced by what its members become. -/
def State.advanced (s : State) (c : Cur) (e : Entry) (fs : List (Nat × Fate)) : State :=
  { s.updGroup c.tid c.grp fun g => { g with entries := frontierAfter (g.entries.erase e) e fs, served := s.serve + 1 } with serve := s.serve + 1 }

/-- The members' fates have done what they do. -/
def State.fated (s : State) (c : Cur) (e : Entry) (fs : List (Nat × Fate)) : State :=
  fs.foldl (fun st x => st.applyFate c e x.1 x.2) (s.advanced c e fs)

/-- Where no thread has ended, an issue comes to what the fates of the entry's members do. -/
theorem finishIssue_of_keeps {s : State} {c : Cur} {e : Entry} {fs : List (Nat × Fate)} {fate : Nat → Fate}
    (hf : ∀ l ∈ lanesOf e.mask, fateOf fs l = fate l) (hk : s.keeps (s.fated c e (e.fates fate)) c) :
    finishIssue s c e fs = { (s.fated c e (e.fates fate)).gridSettle c.tid with cur := none, waited := false } := by
  have hfs : ((lanesOf e.mask).map fun l => (l, fateOf fs l)) = e.fates fate := List.map_congr_left fun l hl => by rw [hf l hl]
  have hended : ((e.fates fate).map (·.1)).filter
      (fun l => s.alive c.tid c.grp l && !(s.fated c e (e.fates fate)).alive c.tid c.grp l) = [] := by
    rw [List.filter_eq_nil_iff]
    intro l _
    rw [alive_of_keeps hk, Bool.and_not_self]
    decide
  unfold State.fated State.advanced at hended ⊢
  unfold finishIssue
  rw [hfs]
  dsimp only
  rw [hended]
  rfl

theorem State.advanced_regroups {s : State} {c : Cur} (hh : s.holds c) (e : Entry) (fs : List (Nat × Fate)) :
    s.regrouped (s.advanced c e fs) c { s.grp c with entries := frontierAfter ((s.grp c).entries.erase e) e fs, served := s.serve + 1 } ∧
      s.keeps (s.advanced c e fs) c ∧ (s.advanced c e fs).grids = s.grids := by
  have r := updGroup_regrouped s c (fun g => { g with entries := frontierAfter (g.entries.erase e) e fs, served := s.serve + 1 }) hh
  have k := updTeam_keeps s c
    (fun t => t.updGroup c.grp fun g => { g with entries := frontierAfter (g.entries.erase e) e fs, served := s.serve + 1 }) hh
    fun t => kin_setGroup t c.grp _ fun _ => ⟨rfl, rfl⟩
  exact ⟨⟨r.holds, r.grp, r.others, r.rest⟩, k, updTeam_grids _ _ _⟩

/-- The frontier after such an issue, where the others of the group's entries were `es`. -/
def Entry.trapFrontier (e : Entry) (es : List Entry) (p : Nat → Bool) (tr : Nat → Trap) (v : BitVec 64) : List Entry :=
  frontierAfter es e (e.fates (trapFate p tr)) ++ ((lanesOf e.mask).filter p).map (e.handler v)

theorem Entry.handler_of_lane {e : Entry} {p : Nat → Bool} {v : BitVec 64} {l : Nat} {x : Entry}
    (hx : x ∈ ((lanesOf e.mask).filter p).map (e.handler v)) (hl : x.mask.getLsbD l = true) : p l = true ∧ x = e.handler v l := by
  obtain ⟨k, hk, rfl⟩ := List.mem_map.1 hx
  obtain rfl : l = k := by
    by_contra hne
    rw [show (e.handler v k).mask = laneBit k from rfl, laneBit_get_ne hne] at hl
    cases hl
  exact ⟨(List.mem_filter.1 hk).2, rfl⟩

/-- A trapping member stands at the handler, alone, and nowhere else. -/
theorem Entry.trapFrontier_trapped {e : Entry} {es : List Entry} {p : Nat → Bool} {tr : Nat → Trap} {v : BitVec 64} {l : Nat}
    (hes : nowhere es l) (hl : l ∈ (lanesOf e.mask).filter p) :
    e.handler v l ∈ e.trapFrontier es p tr v ∧ ∀ x ∈ e.trapFrontier es p tr v, x.mask.getLsbD l = true → x = e.handler v l := by
  refine ⟨List.mem_append_right _ (List.mem_map_of_mem hl), fun x hx hxl => ?_⟩
  have hgone : nowhere (frontierAfter es e (e.fates (trapFate p tr))) l := frontierAfter_nowhere hes fun f hm => by
    rw [Entry.fates_own hm, trapFate, if_pos (List.mem_filter.1 hl).2]
    rfl
  rcases List.mem_append.1 hx with hx | hx
  · rw [hgone x hx] at hxl
    cases hxl
  · exact (Entry.handler_of_lane hx hxl).2

/-- Every other member stands at the next word, and nowhere else. -/
theorem Entry.trapFrontier_next {e : Entry} {es : List Entry} {p : Nat → Bool} {tr : Nat → Trap} {v : BitVec 64} {l : Nat}
    (hes : nowhere es l) (hl : l ∈ lanesOf e.mask) (hn : l ∉ (lanesOf e.mask).filter p) :
    (∃ x ∈ e.trapFrontier es p tr v, x.mask.getLsbD l = true) ∧ onlyAt (e.trapFrontier es p tr v) l e.next := by
  have hp : ¬ p l = true := fun hp => hn (List.mem_filter.2 ⟨hl, hp⟩)
  have hplace : (trapFate p tr l).place e = some e.next := by rw [trapFate, if_neg hp]; rfl
  constructor
  · obtain ⟨x, hx, -, -, hxl⟩ :=
      frontierAfter_place es e (e.fates (trapFate p tr)) l _ _ (mem_lanesOf.1 hl).1 (List.mem_map.2 ⟨l, hl, rfl⟩) hplace
    exact ⟨x, List.mem_append_left _ hx, hxl⟩
  · intro x hx hxl
    rcases List.mem_append.1 hx with hx | hx
    · exact frontierAfter_only es e _ l _ _ hes (fun _ hm => Entry.fates_own hm) hplace x hx hxl
    · exact absurd (Entry.handler_of_lane hx hxl).1 hp

/-- An issue in which the members that `p` selects trap and the others go on (R346, R347). -/
theorem finishIssue_traps {s : State} {c : Cur} {e : Entry} {fs : List (Nat × Fate)} {v : BitVec 64} {p : Nat → Bool} {tr : Nat → Trap}
    (hh : s.holds c) (hv : s.handles c v) (hv0 : v ≠ 0) (htid : c.tid ≠ 0) (hsol : e.solitary = false)
    (hapart : ∀ x ∈ (s.grp c).entries.erase e, x.mask &&& e.mask = 0) (hf : ∀ l ∈ lanesOf e.mask, fateOf fs l = trapFate p tr l) :
    s.traps (finishIssue s c e fs) c (s.grp c) e ((lanesOf e.mask).filter p) tr v := by
  obtain ⟨r, k1, g1⟩ := State.advanced_regroups hh e (e.fates (trapFate p tr))
  have h2 : (s.advanced c e (e.fates (trapFate p tr))).trapsInto (s.fated c e (e.fates (trapFate p tr))) c e v tr ((lanesOf e.mask).filter p) :=
    foldl_applyFate_traps r.holds (State.handles_of_others hv r.others r.rest) hv0 htid hsol p tr fun l hl => (mem_lanesOf.1 hl).1
  have hfin := finishIssue_of_keeps hf (keeps_trans k1 h2.keeps)
  generalize s.fated c e (e.fates (trapFate p tr)) = s2 at h2 hfin
  have k2 : s.keeps s2 c := keeps_trans k1 h2.keeps
  have q3 := gridSettle_quiet s2 c c.tid h2.holds
  have hent : ((finishIssue s c e fs).grp c).entries = e.trapFrontier ((s.grp c).entries.erase e) p tr v := by
    rw [hfin]
    refine (q3.entries.trans h2.entries).trans ?_
    rw [r.grp]
    rfl
  have helse {l : Nat} (hl : l ∈ lanesOf e.mask) : nowhere ((s.grp c).entries.erase e) l := fun x hx => by
    have := congrArg (fun m : BitVec 32 => m.getLsbD l) (hapart x hx)
    simpa [(mem_lanesOf.1 hl).2] using this
  refine ⟨fun l hl => ?trapped, fun l hl hn => ?others, ?store, ?rest⟩
  case trapped => exact hent ▸ Entry.trapFrontier_trapped (helse (List.mem_filter.1 hl).1) hl
  case others =>
    unfold State.stands
    rw [hent]
    exact Entry.trapFrontier_next (helse hl) hl hn
  case store =>
    rw [hfin]
    refine (q3.store.trans h2.store).trans ?_
    rw [r.grp]
    refine foldl_trapped_store (h := s.grp c) ?_ e tr _
    rfl
  case rest =>
    rw [hfin]
    refine ⟨others_trans r.others (others_trans h2.others q3.others), ?_, gridSettle_grids s s2 c k2 (h2.grids.trans g1),
      q3.rest.trans (h2.rest.trans r.rest)⟩
    exact State.flight_of_keeps (keeps_trans k2 (gridSettle_keeps s2 c c.tid h2.holds))

/-- What an issue has done to its group before its members trap counts as done by it. -/
theorem State.traps_of_regrouped {s m s' : State} {c : Cur} {g h : Group} {e : Entry} {ls : List Nat} {tr : Nat → Trap} {v : BitVec 64}
    (r : s.regrouped m c g) (hk : s.keeps m c) (hg : m.grids = s.grids) (ht : m.traps s' c h e ls tr v) : s.traps s' c h e ls tr v := by
  obtain ⟨htr, hnext, hstore, hothers, hflight, hgrids, hrest⟩ := ht
  refine ⟨htr, hnext, hstore, others_trans r.others hothers, hflight.trans ?_, hgrids.trans (gridSettle_grids s m c hk hg), hrest.trans r.rest⟩
  exact State.flight_of_keeps hk

theorem State.handles_of_handled {s : State} {c : Cur} {t : Team} {g : Group} {e : Entry} {v : BitVec 64} (hi : s.issues c t g e)
    (hh : s.handled c t e v) : s.handles c v := by
  obtain ⟨-, -, hv, -⟩ := hh
  obtain ⟨ht, -⟩ := holds_of_issues hi
  exact ⟨t, ht, hv⟩

/-- After the acting lanes of an issue have changed their group to `h`, those that `p` selects trap and the other members go on. -/
theorem finish_traps {s : State} {c : Cur} {t : Team} {g h : Group} {e : Entry} {fs : List (Nat × Fate)} {v : BitVec 64} {p : Nat → Bool}
    {tr : Nat → Trap} (hi : s.issues c t g e) (hh : s.handled c t e v) (hent : h.entries = g.entries)
    (hlive : ∀ l, (h.thread l).live = (g.thread l).live ∧ (h.thread l).mx = (g.thread l).mx)
    (hf : ∀ l ∈ lanesOf e.mask, fateOf fs l = trapFate p tr l) :
    s.traps (finishIssue (s.setTeam (t.setGroup c.grp h)) c e fs) c h e ((lanesOf e.mask).filter p) tr v := by
  obtain ⟨ht, hg, hlen, -⟩ := holds_of_issues hi
  obtain ⟨-, htid, -, hapart⟩ := hi
  obtain ⟨hc0, hsol, hv, hv0⟩ := hh
  have r := setGroup_regrouped s c t h ht htid hlen
  have hkin : t.kin (t.setGroup c.grp h) := kin_setGroup t c.grp h (hg ▸ hlive)
  have hself : (s.setTeam (t.setGroup c.grp h)).team? c.tid = some (t.setGroup c.grp h) :=
    htid ▸ setTeam_self s (t.setGroup c.grp h) t (htid ▸ ht : s.team? t.tid = some t)
  have hk : s.keeps (s.setTeam (t.setGroup c.grp h)) c := ⟨t, _, ht, htid, hself, hkin⟩
  refine State.traps_of_regrouped r hk (setTeam_grids _ _) ?_
  have hgrp : (s.setTeam (t.setGroup c.grp h)).grp c = h := r.grp
  have := finishIssue_traps (s := s.setTeam (t.setGroup c.grp h)) r.holds (State.handles_of_others ⟨t, ht, hv⟩ r.others r.rest) hv0 hc0 hsol
    (by rw [hgrp, hent]; exact hapart) hf
  rwa [hgrp] at this

/-! ### The words that trap (R36, R37, R321, R352) -/

/-- Every member of the entry takes the trap (R36). -/
theorem trapAll_traps {s : State} {c : Cur} {t : Team} {g : Group} {e : Entry} {v : BitVec 64} (hi : s.issues c t g e) (hh : s.handled c t e v)
    (tr : Entry → Trap) : ∃ s', trapAll s tr = .next s' ∧ s.traps s' c g e (lanesOf e.mask) (fun _ => tr e) v := by
  obtain ⟨ht, hg, hlen, -⟩ := holds_of_issues hi
  have hv := State.handles_of_handled hi hh
  obtain ⟨hiss, htid, -, hapart⟩ := hi
  obtain ⟨hc0, hsol, -, hv0⟩ := hh
  have hgrp : s.grp c = g := (grp_of ht).trans hg
  have := finishIssue_traps (fs := (lanesOf e.mask).map fun l => (l, .trap (tr e))) (p := fun _ => true) (tr := fun _ => tr e) ⟨t, ht, htid, hlen⟩ hv hv0
    hc0 hsol (hgrp ▸ hapart) fun l hl => by rw [fateOf_map, if_pos hl]; rfl
  rw [List.filter_true, hgrp] at this
  refine ⟨_, ?_, this⟩
  unfold trapAll
  rw [hiss]

/-- R37: a privileged instruction of a team's thread is not performed. -/
theorem privileged_of_team {s : State} {c : Cur} {t : Team} {g : Group} {e : Entry} (hi : s.issues c t g e) (hc : c.tid ≠ 0) (i : Instr)
    (perform : Result) : privileged i s perform = trapAll s fun _ => wordTrap .privilege i := by
  unfold privileged
  rw [hi.1]
  exact if_neg (by simpa using hc)

/-- The privileged instructions begin with the check of R37. -/
theorem exec_privileged {i : Instr} (h : isPrivileged i = true) (s : State) : ∃ perform, exec i s = privileged i s perform := by
  cases i
  case rngwr | rnginvA | rnginvB | dirtyhv | kselGen | kselZero | kselDcl | kselUndcl | kselStat | ctxsv | ctxld | ifrrd | frqpop | frqack | halt =>
    exact ⟨_, rfl⟩
  all_goals cases h

/-- Lanes in which a lane function fails perform nothing. -/
theorem foldLanes_error {σ : Type} {f : σ → Nat → Except Fate (σ × Fate)} {fate : Nat → Fate} {ls : List Nat} {s : σ}
    (h : ∀ l ∈ ls, f s l = .error (fate l)) : foldLanes f ls s = (s, ls.map fun l => (l, fate l)) := by
  induction ls with
  | nil => rfl
  | cons l ls ih =>
    unfold foldLanes
    rw [h l List.mem_cons_self]
    simp only [ih fun k hk => h k (List.mem_cons_of_mem _ hk), List.map_cons]

/-- The registers of TRAP's operand (R352). -/
theorem trapWidth (w64 : BitVec 1) : (if w64 == 1 then 2 else 1) = 1 + w64.toNat := by
  revert w64
  decide

/-- TRAP in every member whose guard is true (R352). -/
theorem execTrap_traps {s : State} {c : Cur} {t : Team} {g : Group} {e : Entry} {v : BitVec 64} (hi : s.issues c t g e) (hh : s.handled c t e v)
    {gd : Guard} {a : Reg} {w64 : BitVec 1} {code : BitVec 16} (hc : ∀ l ∈ actLanes g e gd, g.clean l a (1 + w64.toNat)) :
    ∃ s', execTrap gd a w64 code s = .next s' ∧
      s.traps s' c g e (actLanes g e gd) (fun l => ⟨.user, code, BitVec.ofNat 64 (g.val l a (1 + w64.toNat))⟩) v := by
  let tr (l : Nat) : Trap := ⟨.user, code, BitVec.ofNat 64 (g.val l a (1 + w64.toNat))⟩
  obtain ⟨ht, hg, -, -⟩ := holds_of_issues hi
  have hbody : ∀ l ∈ actLanes g e gd, trapBody a (1 + w64.toNat) code.toNat e g g l = .error (.trap (tr l)) := fun l hl => by
    unfold trapBody
    rw [Group.readClean_of_clean (hc l hl), BitVec.ofNat_toNat, BitVec.setWidth_eq]
    rfl
  have hrun : runG (trapBody a (1 + w64.toNat) code.toNat) c e (actLanes g e gd) s =
      (s.setTeam (t.setGroup c.grp g), (actLanes g e gd).map fun l => (l, .trap (tr l))) := by
    unfold runG
    rw [ht]
    dsimp only
    rw [hg, foldLanes_error hbody]
  unfold execTrap
  rw [trapWidth]
  refine ⟨_, issue_ready s gd _ always _ c t g e _ (fun l => .trap (tr l)) hi (fun l hl x hx => ?_) rfl (fun _ _ => nofun) hrun,
    finish_traps hi hh rfl (fun _ => ⟨rfl, rfl⟩) fun l hl => ?_⟩
  · obtain rfl := List.mem_singleton.1 hx
    exact Group.notPending_of_has (hc l hl).1
  · rw [fateOf_map]
    unfold trapFate actLanes
    simp only [List.mem_filter, hl, true_and, tr]

/-- Settles O12: TRAP acts lane by lane, and every other trap of a word is taken by all members at once. -/
theorem trapEntry : Obligations.TrapEntry := by
  unfold Obligations.TrapEntry
  intro s c t g e v hi hh _
  refine ⟨fun gd a w64 code hc => execTrap_traps hi hh hc, fun w => trapAll_traps hi hh _, trapAll_traps hi hh _, fun w => trapAll_traps hi hh _,
    fun i hp => ?_⟩
  obtain ⟨perform, he⟩ := exec_privileged hp s
  rw [he, privileged_of_team hi hh.1]
  exact trapAll_traps hi hh _

end Sys2Proof.Machine
end

section
/-! ## Special functions at issue (R81, R165, R331)

What `sfuRun` makes of the issuing team, in an issue that only replaces its team and lets every member go on; and where
`Obligations.SpecialFunctionIssue` asks for it in vain. -/

namespace Sys2Proof.Machine

/-- An issue that replaces its team by one with the same frontier, and in which every acting lane goes on to the next word (R62). -/
theorem finish_setTeam {s : State} {c : Cur} {t u : Team} {g : Group} {e : Entry} {gd : Guard} (hi : s.issues c t g e) (hu : u.tid = t.tid)
    (hent : (u.group c.grp).entries = g.entries) (hlen : u.groups.length = t.groups.length) :
    let s' := finishIssue (s.setTeam u) c e ((actLanes g e gd).map fun l => (l, .next))
    s'.moves c e (actLanes g e gd) (fun _ => e.next) ∧ (s.setTeam u).settles s' c := by
  intro s'
  obtain ⟨ht, -, hgrp, -⟩ := holds_of_issues hi
  obtain ⟨-, htid, -, hapart⟩ := hi
  have hself : (s.setTeam u).team? c.tid = some u := by
    have := setTeam_self s u t (by rw [hu, htid]; exact ht)
    rwa [hu, htid] at this
  have hh : (s.setTeam u).holds c := ⟨u, hself, hu.trans htid, hlen ▸ hgrp⟩
  have hfs : ∀ x ∈ (actLanes g e gd).map (fun l => (l, Fate.next)), x.2.moves = true := by
    intro x hx
    obtain ⟨l, -, rfl⟩ := List.mem_map.1 hx
    rfl
  obtain ⟨hstands, -⟩ := finishIssue_moves _ c e _ hh hfs
  have hplace (l : Nat) (hl : l ∈ lanesOf e.mask) : s'.stands c l e.next := by
    refine hstands (by rw [grp_of hself, hent]; exact hapart) l hl _ ?_
    rw [fateOf_map, ite_self]
    rfl
  exact ⟨⟨fun l hl => hplace l (actLanes_sub hl), fun l hl _ => hplace l hl⟩, finishIssue_settles _ c e _ hh hfs⟩

/-- Sources that are there are all read (R163). -/
theorem readAll_of_has {g : Group} {l : Nat} {srcs : List (Reg × Nat)} (h : ∀ x ∈ srcs, g.has l x.1 x.2) :
    readAll g l srcs = .ok (srcs.map fun x => g.opnd l x.1 x.2) := by
  induction srcs with
  | nil => rfl
  | cons x srcs ih =>
    unfold readAll
    rw [Group.opnd_of_has (h x List.mem_cons_self), ih fun y hy => h y (List.mem_cons_of_mem _ hy)]
    rfl

theorem markRef_entries (g : Group) (l : Nat) (r : Ref) (w : Nat) (st : RState) : (markRef g l r w st).entries = g.entries := by
  unfold markRef putSlots
  cases r <;> rfl

theorem Reg.isG_iff (r : Reg) : r.isG = true ↔ r.cls = .g ∧ r.num ≠ 127 := by
  simp [Reg.isG]

/-- What the entry of a special function holds of an acting lane (R165): a G register's one lane stands for all of them (R79). -/
def sfuHeld (c : Cur) (g : Group) (d : Reg) (srcs : List (Reg × Nat)) (act : List Nat) (l : Nat) : LaneOp :=
  let xs := srcs.map fun x => g.opnd l x.1 x.2
  LaneOp.make l (g.dst l d 1) (if d.cls = .g ∧ d.num ≠ 127 then act.map fun k => (c.grp, k) else [(c.grp, l)]) []
    ((xs.map (·.val)).getD 0 0) ((xs.map (·.val)).getD 1 0) (joinPoison xs)

/-- The group once the destination of every acting lane is Pending (R81). -/
def sfuMarked (g : Group) (d : Reg) (act : List Nat) : Group := act.foldl (fun h l => markRef h l (g.dst l d 1) 1 .pending) g

/-- The team once a special function has issued (R165, R331). -/
def sfuTeam (c : Cur) (t : Team) (g : Group) (e : Entry) (f : SFunc) (mode : RMode) (d : Reg) (srcs : List (Reg × Nat)) (act : List Nat) : Team :=
  let marked := t.setGroup c.grp (sfuMarked g d act)
  if act = [] then marked
  else marked.newEntry (IfrEntry.make (.sfu f mode) c.grp e.pc
    ((if d.cls = .g ∧ d.num ≠ 127 then act.take 1 else act).map (sfuHeld c g d srcs act)) 1)

theorem sfuMarked_entries (g : Group) (d : Reg) (act : List Nat) : (sfuMarked g d act).entries = g.entries := by
  unfold sfuMarked
  exact List.foldlRecOn (motive := fun h => h.entries = g.entries) act _ rfl fun h hh l _ => (markRef_entries h l _ 1 .pending).trans hh

/-- The acting lanes in turn: each destination becomes Pending, and each lane's operands join the others'. -/
theorem foldl_sfu (g : Group) (d : Reg) (x : Nat → LaneOp × Bool × Bool) (act : List Nat) (h : Group) (xs : List (LaneOp × Bool × Bool)) :
    act.foldl (fun σ l => (markRef σ.1 l (g.dst l d 1) 1 .pending, σ.2 ++ [x l])) (h, xs) =
      (act.foldl (fun h l => markRef h l (g.dst l d 1) 1 .pending) h, xs ++ act.map x) := by
  induction act generalizing h xs with
  | nil => simp
  | cons l act ih => simp [ih]

theorem opv_eq (xs : List Opnd) (k : Nat) : opv xs k = (xs.map (·.val)).getD k 0 := by
  rw [List.getD_eq_getElem?_getD, List.getElem?_map]
  unfold opv
  rw [List.getD_eq_getElem?_getD]
  cases xs[k]? <;> rfl

/-- What a lane brings to the entry, as `sfuBody` gathers it. -/
def sfuGathered (g : Group) (d : Reg) (srcs : List (Reg × Nat)) (l : Nat) : LaneOp × Bool × Bool :=
  (sfuLane l (g.dst l d 1) (srcs.map fun x => g.opnd l x.1 x.2), joinPoison (srcs.map fun x => g.opnd l x.1 x.2))

theorem foldLanes_sfuBody {g : Group} {d : Reg} {srcs : List (Reg × Nat)} {act : List Nat}
    (h : ∀ l ∈ act, (∀ x ∈ srcs, g.has l x.1 x.2) ∧ g.room l d 1) :
    foldLanes (sfuBody d srcs g) act (g, []) = ((sfuMarked g d act, act.map (sfuGathered g d srcs)), act.map fun l => (l, .next)) := by
  rw [foldLanes_ok _ (fun σ l => (markRef σ.1 l (g.dst l d 1) 1 .pending, σ.2 ++ [sfuGathered g d srcs l])) (fun _ => .next) act, foldl_sfu]
  · rfl
  · intro pre l post hl
    obtain ⟨hhas, hroom⟩ := h l (hl ▸ List.mem_append_right _ List.mem_cons_self)
    unfold sfuBody
    rw [readAll_of_has hhas, Group.dst_of_room hroom]
    rfl

/-- A special function whose operands and destinations are there issues in every acting lane. -/
theorem sfuRun_issues {s : State} {c : Cur} {t : Team} {g : Group} {e : Entry} (ht : s.team? c.tid = some t) (hg : t.group c.grp = g)
    (f : SFunc) (mode : RMode) {d : Reg} {srcs : List (Reg × Nat)} {act : List Nat}
    (h : ∀ l ∈ act, (∀ x ∈ srcs, g.has l x.1 x.2) ∧ g.room l d 1) :
    sfuRun f mode d srcs c e act s = (s.setTeam (sfuTeam c t g e f mode d srcs act), act.map fun l => (l, .next)) := by
  unfold sfuRun
  rw [ht]
  dsimp only
  rw [hg, foldLanes_sfuBody h]
  unfold sfuTeam
  by_cases hact : act = []
  · rw [hact]
    rfl
  · rw [if_neg hact, if_neg (by simpa using hact)]
    congr 3
    funext idx seq
    unfold IfrEntry.make sfuHeld LaneOp.make
    simp only [← opv_eq]
    by_cases hd : d.isG = true
    · simp only [if_pos hd, if_pos ((Reg.isG_iff d).1 hd), ← List.map_take, List.map_map]
      rfl
    · simp only [if_neg hd, if_neg (mt (Reg.isG_iff d).2 hd), List.map_map]
      rfl

theorem sfuForm_exec {i : Instr} {gd : Guard} {d : Reg} {f : SFunc} {mode : RMode} {srcs : List (Reg × Nat)}
    (h : sfuForm i = some (gd, d, f, mode, srcs)) (s : State) : exec i s = sfu s gd f mode d srcs := by
  cases i
  case fdiv | fsqrt | frcp | frsq | fexp2 | flog2 | fsinpi | fcospi | ftanh =>
    cases h
    rfl
  all_goals cases h

/-- The issuing team is replaced by one of the same identity, whose issuing group has the destinations Pending. -/
theorem sfuTeam_frame (c : Cur) (t : Team) (g : Group) (e : Entry) (f : SFunc) (mode : RMode) (d : Reg) (srcs : List (Reg × Nat)) (act : List Nat) :
    (sfuTeam c t g e f mode d srcs act).tid = t.tid ∧
      (sfuTeam c t g e f mode d srcs act).groups = (t.setGroup c.grp (sfuMarked g d act)).groups := by
  unfold sfuTeam
  dsimp only
  split <;> exact ⟨rfl, rfl⟩

/-- A special function issues (R81, R165), where the in-flight record has room for it and holds no more than it can (R331). -/
theorem sfu_issues {s : State} {c : Cur} {t : Team} {g : Group} {e : Entry} (hi : s.issues c t g e) {gd : Guard} (f : SFunc) (mode : RMode)
    {d : Reg} {srcs : List (Reg × Nat)} (hroom : t.ifr.length + (if actLanes g e gd = [] then 0 else 1) ≤ 512)
    (h : ∀ l ∈ actLanes g e gd, (∀ x ∈ srcs, g.has l x.1 x.2) ∧ g.room l d 1) :
    ∃ s', sfu s gd f mode d srcs = .next s' ∧ s'.moves c e (actLanes g e gd) (fun _ => e.next) ∧
      State.settles (s.setTeam (sfuTeam c t g e f mode d srcs (actLanes g e gd))) s' c := by
  obtain ⟨ht, hg, hlen, -⟩ := holds_of_issues hi
  have hfree : ifrFree (fun act => if act.isEmpty then 0 else 1) s c (actLanes g e gd) = true := by
    unfold ifrFree
    rw [ht]
    simpa only [List.isEmpty_iff, ifrCapacity, decide_eq_true_eq] using hroom
  obtain ⟨hutid, hugroups⟩ := sfuTeam_frame c t g e f mode d srcs (actLanes g e gd)
  have hent : ((sfuTeam c t g e f mode d srcs (actLanes g e gd)).group c.grp).entries = g.entries := by
    unfold Team.group
    rw [hugroups]
    exact (congrArg Group.entries (setGroup_self t c.grp (sfuMarked g d _) hlen)).trans (sfuMarked_entries g d _)
  have hulen : (sfuTeam c t g e f mode d srcs (actLanes g e gd)).groups.length = t.groups.length := by
    rw [hugroups]
    exact List.length_set
  exact ⟨_, issue_ready s gd srcs _ _ c t g e _ (fun _ => .next) hi (fun l hl x hx => Group.notPending_of_has ((h l hl).1 x hx)) hfree
    (fun _ _ => nofun) (sfuRun_issues ht hg f mode h), finish_setTeam hi hutid hent hulen⟩

/-- All that O18 says of a special function, of a team whose in-flight record is within its capacity (R331, which every step keeps). -/
theorem specialFunction_issues {i : Instr} {gd : Guard} {d : Reg} {f : SFunc} {mode : RMode} {srcs : List (Reg × Nat)}
    (hform : sfuForm i = some (gd, d, f, mode, srcs)) {s : State} {c : Cur} {t : Team} {g : Group} {e : Entry} (hi : s.issues c t g e)
    (hcap : t.ifr.length ≤ 512) (hroom : t.ifr.length < 512 ∨ actLanes g e gd = [])
    (h : ∀ l ∈ actLanes g e gd, (∀ x ∈ srcs, g.has l x.1 x.2) ∧ g.room l d 1) :
    ∃ s', exec i s = .next s' ∧ s'.moves c e (actLanes g e gd) (fun _ => e.next) ∧
      State.settles (s.setTeam (sfuTeam c t g e f mode d srcs (actLanes g e gd))) s' c := by
  rw [sfuForm_exec hform]
  refine sfu_issues hi f mode ?_ h
  split
  · exact hcap
  · next hact => exact Nat.succ_le_of_lt (hroom.resolve_right hact)

/-! ### Where it waits -/

/-- A group of one thread, at word 0. -/
def Group.atZero : Group := { Group.empty with lanes := [Thread.initial 8], entries := [Entry.at 0 0 1 false] }

/-- The controller's team, with one entry more in its in-flight record than R331 allows. -/
def Team.overfull : Team := { Team.controller with groups := [Group.atZero], ifr := List.replicate 513 (IfrEntry.make .arrival 0 0 [] (idx := 0) (seq := 0)) }

/-- The machine in which that team issues. -/
def State.overfull : State := { State.reset with ctl := Team.overfull, cur := some ⟨0, 0, 0⟩ }

theorem Team.overfull_record : Team.overfull.ifr.length = 513 := List.length_replicate

theorem State.overfull_issues : State.overfull.issues ⟨0, 0, 0⟩ Team.overfull Group.atZero (Entry.at 0 0 1 false) :=
  ⟨rfl, rfl, by decide, by decide⟩

/-- What is not ready waits (R61). -/
theorem issue_waits {s : State} {c : Cur} {t : Team} {g : Group} {e : Entry} (hi : s.issues c t g e) {gd : Guard} {srcs : List (Reg × Nat)}
    {ready : State → Cur → List Nat → Bool} {run : Cur → Entry → List Nat → State → State × List (Nat × Fate)}
    (hr : ready s c (actLanes g e gd) = false) : issue s gd srcs ready run = waitIssue s := by
  unfold issue
  rw [hi.1]
  dsimp only
  split
  · rfl
  · rw [hr]
    rfl

/-- With no acting thread a special function asks for no entry, and still waits until the record is within its capacity. -/
theorem State.overfull_waits : exec (.frsq ⟨true, 7⟩ Reg.null Reg.null) State.overfull = waitIssue State.overfull := by
  refine (sfuForm_exec rfl _).trans (issue_waits State.overfull_issues ?_)
  unfold ifrFree
  rw [show State.overfull.team? 0 = some Team.overfull from rfl]
  dsimp only
  rw [Team.overfull_record]
  rfl

/-- Refutes O18, in its case of no acting thread: it speaks of every state, also of one whose in-flight record holds more than R331's 512
entries, and there the special function waits (`State.overfull`). `State.sound` excludes such a state, and where the record is within its
capacity the statement holds (`specialFunction_issues`). -/
theorem not_specialFunctionIssue : ¬ Obligations.SpecialFunctionIssue := by
  unfold Obligations.SpecialFunctionIssue
  intro h
  obtain ⟨s', he, ⟨-, hnext⟩, -⟩ := h (.frsq ⟨true, 7⟩ Reg.null Reg.null) _ _ _ _ _ rfl State.overfull _ _ _ _ State.overfull_issues (.inr rfl) nofun
  obtain rfl := Host.Outcome.next.inj (State.overfull_waits.symm.trans he)
  obtain ⟨⟨x, hx, hxl⟩, honly⟩ := hnext 0 (by decide) nofun
  obtain rfl : x = Entry.at 0 0 1 false := List.mem_singleton.1 hx
  exact absurd (honly _ hx hxl).1 (by decide)

end Sys2Proof.Machine
end

section
/-! ## A translation leaves the teams and memory as they are (R234, R237)

What a read at its home or a walk of a range table changes: counters, gates, sectors that a read corrects, range registers. -/

namespace Sys2Proof.Machine

/-- The controller's team, the teams, and those of checkpoints. -/
def State.people (s : State) : Team × List Team × List (List Team) := (s.ctl, s.teams, s.ctxs.map (·.ckTeams))

/-- Those, and memory. -/
def State.scene (s : State) : (Team × List Team × List (List Team)) × List Host.Cell := (s.people, s.mem)

theorem State.team?_of_people {s s' : State} (h : s'.people = s.people) (n : Nat) : s'.team? n = s.team? n := by
  simp only [State.people, Prod.mk.injEq] at h
  obtain ⟨hc, ht, -⟩ := h
  unfold State.team?
  rw [hc, ht]

/-- Contexts changed one by one, none in the teams of its checkpoint. -/
theorem State.people_ctxs {s s' : State} {f : Ctx → Ctx} (hf : ∀ c, (f c).ckTeams = c.ckTeams) (h1 : s'.ctl = s.ctl) (h2 : s'.teams = s.teams)
    (h3 : s'.ctxs = s.ctxs.map f) : s'.people = s.people := by
  unfold State.people
  rw [h1, h2, h3, List.map_map]
  congr 2
  exact List.map_congr_left fun c _ => hf c

theorem State.people_of_fst {α : Type} {s s1 : State} {r : State × α} {a : α} (he : r = (s1, a)) (h : r.1.people = s.people) : s1.people = s.people := by
  rw [← h, he]

theorem State.scene_of_fst {α : Type} {s s1 : State} {r : State × α} {a : α} (he : r = (s1, a)) (h : r.1.scene = s.scene) : s1.scene = s.scene := by
  rw [← h, he]

theorem State.gatePass_scene (s : State) (panel : Nat) (ctx : BitVec 32) (n : Nat) (read : Bool) (req : GateReq) :
    (s.gatePass panel ctx n read req).1.scene = s.scene := by
  unfold State.gatePass
  split
  · rfl
  · dsimp only
    repeat' split
    all_goals rfl

theorem State.gateAll_scene (s : State) (ctx : BitVec 32) (req : GateReq) (xs : List (Nat × Nat × Bool)) :
    (s.gateAll ctx req xs).1.scene = s.scene := by
  refine List.foldlRecOn (motive := fun a : State × Bool => a.1.scene = s.scene) _ _ rfl fun a ha p _ => ?_
  dsimp only
  repeat' split
  · exact ha
  · exact (a.1.gatePass_scene _ _ _ _ _).trans ha
  · exact s.gatePass_scene _ _ _ _ _

theorem State.gateNow_scene (s : State) (ctx : BitVec 32) (xs : List (Nat × Nat × Bool)) : (s.gateNow ctx xs).1.scene = s.scene := by
  unfold State.gateNow
  dsimp only
  split
  · exact s.gateAll_scene _ _ _
  · rfl

theorem State.gateFor_scene (s : State) (gate : Option (BitVec 32)) (xs : List (Nat × Nat × Bool)) : (s.gateFor gate xs).1.scene = s.scene := by
  unfold State.gateFor
  split
  · exact s.gateNow_scene _ _
  · rfl

theorem State.count_scene (s : State) (k : Counter) (owner : Nat) : (s.count k owner).scene = s.scene := by
  unfold State.count
  dsimp only
  split <;> rfl

theorem State.countClass_scene (s : State) (c : SynClass) (exp : BitVec 4) (owner : Nat) : (s.countClass c exp owner).scene = s.scene := by
  unfold State.countClass
  split
  · rfl
  · exact s.count_scene _ _
  · split
    · rfl
    · exact s.count_scene _ _
  · exact s.count_scene _ _
  · exact s.count_scene _ _

theorem State.homeRead_scene (s : State) (dia n key : Nat) (exp : BitVec 4) : (s.homeRead dia n key exp).1.scene = s.scene := by
  unfold State.homeRead
  dsimp only
  split
  all_goals exact s.countClass_scene _ _ _

theorem State.homeReads_scene (s : State) (key : Nat) (exp : BitVec 4) (fuel dia n : Nat) :
    (s.homeReads key exp fuel dia n).1.scene = s.scene := by
  induction fuel generalizing s dia n with
  | zero => rfl
  | succ fuel ih =>
    unfold State.homeReads
    dsimp only
    split
    · exact s.homeRead_scene _ _ _ _
    · exact (ih _ _ _).trans (s.homeRead_scene _ _ _ _)

theorem walk_scene (c : Ctx) (gate : Option (BitVec 32)) (key v fuel : Nat) (s : State) (lo hi : Int) :
    (walk c gate key v fuel s lo hi).1.scene = s.scene := by
  induction fuel generalizing s lo hi with
  | zero => rfl
  | succ fuel ih =>
    unfold walk
    split
    · rfl
    · dsimp only
      split
      · rfl
      · split
        · next heq => exact State.scene_of_fst heq (s.gateFor_scene _ _)
        · next s1 heq =>
          have h1 : s1.scene = s.scene := State.scene_of_fst heq (s.gateFor_scene _ _)
          have h2 := (s1.homeReads_scene key 0 2 (c.rtbase + 32 * ((lo + hi) / 2).toNat) 32).trans h1
          split
          · exact (ih _ _ _).trans h2
          · split
            · exact (ih _ _ _).trans h2
            · split <;> exact h2

theorem State.fillRange_scene (s : State) (c : Ctx) (e : RangeEnt) : (s.fillRange c e).scene = s.scene :=
  congrArg (·, s.mem) (State.people_ctxs (s' := s.fillRange c e) (fun x => by split <;> rfl) rfl rfl rfl)

theorem State.translateFor_scene (s : State) (gate : Option (BitVec 32)) (c : Ctx) (va : BitVec 64) (need : RangeEnt → Bool) :
    (s.translateFor gate c va need).1.scene = s.scene := by
  unfold State.translateFor
  dsimp only
  split
  · rfl
  · split
    · rfl
    · split
      · next heq => exact (State.fillRange_scene _ _ _).trans (State.scene_of_fst heq (walk_scene ..))
      all_goals next heq => exact State.scene_of_fst heq (walk_scene ..)

theorem State.xlat_scene (s : State) (t : Team) (va : BitVec 64) (need : RangeEnt → Bool) : (s.xlat t va need).1.scene = s.scene := by
  unfold State.xlat
  split
  · rfl
  · split
    · exact s.translateFor_scene _ _ _ _
    · rfl

/-- An access that stage A lets through is of a thread that has no other under way; teams and memory are as before (R234, R237). -/
theorem State.access_ok {s s1 : State} {tid gi l : Nat} {va : BitVec 64} {need : RangeEnt → Bool} {x : Xlat}
    (h : s.access tid gi l va need = .ok (s1, x)) :
    (∃ t, s.team? tid = some t ∧ ((t.group gi).thread l).probe = none) ∧ s1.scene = s.scene := by
  unfold State.access at h
  split at h
  · cases h
  · next t ht =>
    split at h
    · cases h
    · next hp =>
      split at h
      · next heq =>
        cases h
        exact ⟨⟨t, ht, hp⟩, State.scene_of_fst heq (s.xlat_scene ..)⟩
      all_goals cases h

/-- Checks that pass have raised the mark, or nothing (R450). -/
theorem State.checks_ok {s s2 : State} {tid n : Nat} {va : BitVec 64} {x : Xlat} {raise store : Bool}
    (h : s.checks tid va x n raise store = .ok s2) : s2 = s ∨ s2 = s.raiseMark tid x.cls := by
  unfold State.checks at h
  split at h
  · exact .inl (Except.ok.inj h).symm
  · cases raise
    · simp only [Bool.false_eq_true, if_false] at h
      repeat' split at h
      all_goals cases h
      all_goals exact .inl rfl
    · simp only [if_true] at h
      repeat' split at h
      all_goals cases h
      all_goals exact .inr rfl

end Sys2Proof.Machine
end

section
/-! ## Memory accesses at issue (R263-R277, R331)

What a lane that passes does, and the one entry that the lanes of an issue make. -/

namespace Sys2Proof.Machine

theorem bind_eq_ok {ε α β : Type} {x : Except ε α} {f : α → Except ε β} {b : β} : (x >>= f) = .ok b ↔ ∃ a, x = .ok a ∧ f a = .ok b := by
  cases x with
  | error e => exact ⟨nofun, nofun⟩
  | ok a => exact ⟨fun h => ⟨a, rfl, h⟩, fun ⟨_, ha, h⟩ => Except.ok.inj ha ▸ h⟩

/-! ### The operands of an access -/

theorem signedOf_eq {v : Nat} (h : v < 2 ^ 32) : signedOf 32 v = asSigned v := by
  unfold signedOf asSigned
  rw [BitVec.toInt_eq_toNat_cond, BitVec.toNat_ofNat, Nat.mod_eq_of_lt h]
  split <;> split <;> omega

theorem slotsVal_lt (xs : List Slot) : slotsVal xs < 2 ^ (32 * xs.length) := by
  induction xs with
  | nil => exact Nat.one_pos
  | cons x xs ih =>
    have hx := x.val.isLt
    unfold slotsVal
    rw [List.length_cons, Nat.mul_add, Nat.mul_one, Nat.pow_add]
    omega

theorem length_slotsOf (g : Group) (l : Nat) (ref : Ref) (w : Nat) : (slotsOf g l ref w).length = w := by
  unfold slotsOf
  cases ref <;> simp

/-- A source of one register reads a word. -/
theorem Group.val_lt (g : Group) (l : Nat) (r : Reg) : g.val l r 1 < 2 ^ 32 := by
  unfold Group.val Group.opnd
  split
  · next x hx =>
    obtain ⟨ref, -, hx⟩ := bind_eq_ok.1 hx
    have hlt := slotsVal_lt (slotsOf g l ref 1)
    rw [length_slotsOf] at hlt
    unfold readRef at hx
    dsimp only at hx
    repeat' split at hx
    all_goals cases hx
    exact hlt
  · decide

/-- The address of R265 takes X where it is an index, of one register. -/
theorem MemSpec.formVa_eq {m : MemSpec} {g : Group} {l : Nat} (hx : m.index = true → m.xw = 1) :
    formVa (g.val l m.a 2) (g.val l m.x m.xw) m.index m.disp = m.va g l := by
  unfold formVa MemSpec.va
  split
  · next hi => rw [hx hi, signedOf_eq (g.val_lt l m.x)]
  · rfl

/-- Operands that are not poisoned are consumed by nobody (R84). -/
theorem consumeAll_of_clean {xs : List Opnd} (h : ∀ x ∈ xs, x.poison = false) : consumeAll xs = .ok () := by
  unfold consumeAll
  rw [List.find?_eq_none.2 fun x hx => by rw [h x hx]; exact Bool.false_ne_true]

/-! ### The instructions -/

/-- None of them has an address of its own kind, its sources stand in the order of R463, and an index is one register. -/
theorem accessForm_plain {i : Instr} {gd : Guard} {m : MemSpec} (h : accessForm i = some (gd, m)) :
    m.at_ = none ∧ m.late = false ∧ (m.index = true → m.xw = 1) := by
  cases i
  case ld | ldk | st | tagrd | tagwr =>
    cases h
    exact ⟨rfl, rfl, fun _ => rfl⟩
  case atom | acas | red =>
    cases h
    exact ⟨rfl, rfl, nofun⟩
  all_goals cases h

theorem accessForm_exec {i : Instr} {gd : Guard} {m : MemSpec} (h : accessForm i = some (gd, m)) (s : State) : exec i s = memIssue s gd m := by
  cases i
  case ld | ldk | st | tagrd | tagwr | atom | acas | red =>
    cases h
    rfl
  all_goals cases h

/-! ### A lane -/

/-- The issuing team stands as at issue, but for its mark and what its registers hold; memory is as before. -/
structure State.poised (s s' : State) (c : Cur) (t : Team) : Prop where
  team : ∃ u, s'.team? c.tid = some u ∧ u.tid = t.tid ∧ u.groups.length = t.groups.length ∧
    (u.group c.grp).entries = (t.group c.grp).entries ∧ ∀ l, ((u.group c.grp).thread l).probe = ((t.group c.grp).thread l).probe
  mem : s'.mem = s.mem

theorem State.poised.refl {s : State} {c : Cur} {t : Team} (h : s.team? c.tid = some t) : s.poised s c t :=
  ⟨⟨t, h, rfl, rfl, rfl, fun _ => rfl⟩, rfl⟩

theorem markRef_probe (g : Group) (l : Nat) (r : Ref) (w : Nat) (st : RState) (k : Nat) :
    ((markRef g l r w st).thread k).probe = (g.thread k).probe := by
  unfold markRef putSlots
  cases r with
  | null | g => rfl
  | v n =>
    refine (congrArg Thread.probe (thread_set g l (fun t => { t with regs := setRange t.regs n _ }) k)).trans ?_
    split
    · next h => rw [h.1]
    · rfl

theorem State.poised.of_scene {s u u' : State} {c : Cur} {t : Team} (h : s.poised u c t) (hs : u'.scene = u.scene) : s.poised u' c t := by
  obtain ⟨hp, hm⟩ := Prod.mk.inj hs
  obtain ⟨ht, hmem⟩ := h
  exact ⟨by rwa [State.team?_of_people hp], hm.trans hmem⟩

/-- A change of the issuing team that leaves its frontier and its threads' accesses. -/
theorem State.poised.updTeam {s u : State} {c : Cur} {t : Team} {f : Team → Team} (h : s.poised u c t) (hn : t.tid = c.tid)
    (hf : ∀ x : Team, c.grp < x.groups.length → (f x).tid = x.tid ∧ (f x).groups.length = x.groups.length ∧
      ((f x).group c.grp).entries = (x.group c.grp).entries ∧ ∀ l, (((f x).group c.grp).thread l).probe = ((x.group c.grp).thread l).probe)
    (hg : c.grp < t.groups.length) : s.poised (u.updTeam c.tid f) c t := by
  obtain ⟨⟨x, hx, htid, hlen, hent, hpr⟩, hmem⟩ := h
  obtain ⟨h1, h2, h3, h4⟩ := hf x (hlen ▸ hg)
  have hnum : (f x).tid = c.tid := h1.trans (htid.trans hn)
  refine ⟨⟨f x, ?_, h1.trans htid, h2.trans hlen, h3.trans hent, fun l => (h4 l).trans (hpr l)⟩, (State.updTeam_mem ..).trans hmem⟩
  unfold State.updTeam
  rw [hx]
  have := setTeam_self u (f x) x (hnum ▸ hx)
  rwa [hnum] at this

/-- What a lane that passes leaves. -/
theorem MemSpec.effect_poised {m : MemSpec} {c : Cur} {s : State} {t : Team} {who : Nat → List (Nat × Nat)} {σ : State × List LaneOp} {l : Nat}
    (h : s.poised σ.1 c t) (hn : t.tid = c.tid) (hg : c.grp < t.groups.length) : s.poised (m.effect c (t.group c.grp) who σ l).1 c t := by
  unfold MemSpec.effect State.passed
  split
  · exact h
  · next s2 x heq =>
    split at heq
    · next s1 y hacc =>
      split at heq
      · next s2' hchk =>
        cases heq
        have h1 : s.poised s1 c t := h.of_scene (State.access_ok hacc).2
        have h2 : s.poised s2 c t := by
          obtain rfl | rfl := State.checks_ok hchk
          · exact h1
          · unfold State.raiseMark
            split
            · exact h1
            · exact h1.updTeam hn (fun _ _ => ⟨rfl, rfl, rfl, fun _ => rfl⟩) hg
        refine h2.updTeam hn (fun u hu => ⟨rfl, List.length_set, ?_, fun k => ?_⟩) hg
        · exact (congrArg Group.entries (setGroup_self u c.grp _ hu)).trans (markRef_entries ..)
        · exact (congrArg (fun g => (Group.thread g k).probe) (setGroup_self u c.grp _ hu)).trans (markRef_probe ..)
      · cases heq
    · cases heq

/-- A lane that may issue does what `MemSpec.effect` says of it. -/
theorem memLane_ready {m : MemSpec} {c : Cur} {g : Group} {who : Nat → List (Nat × Nat)} {σ : State × List LaneOp} {l : Nat}
    (hat : m.at_ = none) (hlate : m.late = false) (hx : m.index = true → m.xw = 1) (h : m.ready c g σ l) :
    memLane m c g who σ l = .ok (m.effect c g who σ l, .next) := by
  obtain ⟨⟨ht, htp⟩, ⟨ha, hap⟩, ⟨hxs, hxp⟩, hroom, halign, s2, x, s1, hacc, hchk⟩ := h
  have hsrcs : m.srcs = [(m.t, m.tw), (m.a, 2), (m.x, m.xw)] := by
    unfold MemSpec.srcs
    rw [hlate]
    rfl
  have hread : readAll g l m.srcs = .ok [g.opnd l m.t m.tw, g.opnd l m.a 2, g.opnd l m.x m.xw] := by
    rw [hsrcs]
    refine readAll_of_has fun y hy => ?_
    simp only [List.mem_cons, List.not_mem_nil, or_false] at hy
    obtain rfl | rfl | rfl := hy
    exacts [ht, ha, hxs]
  have hcons : consumeAll [g.opnd l m.t m.tw, g.opnd l m.a 2, g.opnd l m.x m.xw] = .ok () := by
    refine consumeAll_of_clean fun y hy => ?_
    simp only [List.mem_cons, List.not_mem_nil, or_false] at hy
    obtain rfl | rfl | rfl := hy
    exacts [htp, hap, hxp]
  have hva := MemSpec.formVa_eq (g := g) (l := l) hx
  unfold Group.val at hva
  unfold memLane MemSpec.effect State.passed
  rw [hread, hat, hlate, Group.dst_of_room hroom, hacc]
  dsimp only [bind, Except.bind]
  rw [hcons]
  simp only [List.getD_cons_zero, List.getD_cons_succ, Bool.false_eq_true, if_false, hva, halign, hacc, hchk]
  rfl

/-- Every acting lane that may issue in its turn does. -/
theorem foldLanes_memLane {m : MemSpec} {c : Cur} {g : Group} {who : Nat → List (Nat × Nat)}
    (hat : m.at_ = none) (hlate : m.late = false) (hx : m.index = true → m.xw = 1) (ls : List Nat) (σ : State × List LaneOp)
    (h : turns (m.ready c g) (m.effect c g who) ls σ) :
    foldLanes (memLane m c g who) ls σ = (ls.foldl (m.effect c g who) σ, ls.map fun l => (l, .next)) := by
  induction ls generalizing σ with
  | nil => rfl
  | cons l ls ih =>
    obtain ⟨hl, hls⟩ := h
    unfold foldLanes
    rw [memLane_ready hat hlate hx hl]
    dsimp only
    rw [ih _ hls]
    rfl

/-- Each lane that issues adds its access to the entry. -/
theorem MemSpec.effect_adds {m : MemSpec} {c : Cur} {g : Group} {who : Nat → List (Nat × Nat)} {σ : State × List LaneOp} {l : Nat}
    (h : m.ready c g σ l) : (m.effect c g who σ l).2.length = σ.2.length + 1 := by
  obtain ⟨-, -, -, -, -, s2, x, s1, hacc, hchk⟩ := h
  unfold MemSpec.effect State.passed
  rw [hacc]
  dsimp only
  rw [hchk]
  exact List.length_append

/-- The entry has one access per lane. -/
theorem MemSpec.foldl_effect_length {m : MemSpec} {c : Cur} {g : Group} {who : Nat → List (Nat × Nat)} (ls : List Nat) (σ : State × List LaneOp)
    (h : turns (m.ready c g) (m.effect c g who) ls σ) : (ls.foldl (m.effect c g who) σ).2.length = σ.2.length + ls.length := by
  induction ls generalizing σ with
  | nil => rfl
  | cons l ls ih =>
    obtain ⟨hl, hls⟩ := h
    rw [List.foldl_cons, ih _ hls, MemSpec.effect_adds hl, List.length_cons]
    omega

/-! ### The issue -/

/-- A change of a team that leaves its number, made after one that leaves the team altogether, is made alone. -/
theorem State.updTeam_of_same {s : State} {n : Nat} {t : Team} {f k : Team → Team} (ht : s.team? n = some t) (hn : t.tid = n) (hk : k t = t)
    (hf : (f t).tid = t.tid) : (s.updTeam n k).updTeam n f = s.updTeam n f := by
  have hs : (s.setTeam t).team? n = some t := hn ▸ setTeam_self s t t (hn.symm ▸ ht)
  unfold State.updTeam
  rw [ht]
  dsimp only
  rw [hk, hs]
  dsimp only
  unfold State.setTeam
  rw [hf]
  split
  · rfl
  · congr 1
    rw [List.map_map]
    refine List.map_congr_left fun u _ => ?_
    dsimp only [Function.comp_apply]
    by_cases hu : (u.tid == t.tid) = true
    · simp [hu]
    · simp [hu]

theorem Team.updGroup_of_same {t : Team} {gi : Nat} {f : Group → Group} (h : f (t.group gi) = t.group gi) (hg : gi < t.groups.length) :
    t.updGroup gi f = t := by
  unfold Team.updGroup Team.setGroup
  rw [h]
  unfold Team.group
  rw [List.getD_eq_getElem _ _ hg, List.set_getElem_self]

/-- A lane that may issue has no access of its own under way. -/
theorem MemSpec.ready_probe {m : MemSpec} {c : Cur} {g : Group} {s : State} {t : Team} {l : Nat} (h : m.ready c g (s, []) l) (ht : s.team? c.tid = some t) :
    ((t.group c.grp).thread l).probe = none := by
  obtain ⟨-, -, -, -, -, s2, x, s1, hacc, -⟩ := h
  obtain ⟨⟨u, hu, hp⟩, -⟩ := State.access_ok hacc
  rw [ht] at hu
  cases hu
  exact hp

/-- After lanes that have issued, the one access of a uniform issue waits for nobody, so nothing is shared (R57). -/
theorem shareProbe_newEntry {s u : State} {c : Cur} {t : Team} {uni : Bool} {act : List Nat} {k : Nat → Nat → IfrEntry} (h : s.poised u c t)
    (hn : t.tid = c.tid) (hg : c.grp < t.groups.length) (hp : ((t.group c.grp).thread (act.headD 0)).probe = none) :
    (u.shareProbe uni c act).updTeam c.tid (fun x => x.newEntry k) = u.updTeam c.tid fun x => x.newEntry k := by
  obtain ⟨⟨x, hx, htid, hlen, -, hpr⟩, -⟩ := h
  unfold State.shareProbe
  split
  · rfl
  · refine State.updTeam_of_same hx (htid.trans hn) (Team.updGroup_of_same ?_ (hlen ▸ hg)) rfl
    rw [(hpr _).trans hp]

/-- The lanes that make an access of their own (R57). -/
def accessLanes (uni : Bool) (act : List Nat) : List Nat := if uni then act.take 1 else act

/-- An issue whose lanes' accesses pass makes one entry of the in-flight record (R331). -/
theorem memRun_issues {m : MemSpec} {s : State} {c : Cur} {t : Team} {g : Group} {e : Entry} {gd : Guard} {uni : Bool} (hi : s.issues c t g e)
    (hat : m.at_ = none) (hlate : m.late = false) (hx : m.index = true → m.xw = 1) (hact : actLanes g e gd ≠ [])
    (h : turns (m.ready c g) (m.effect c g (issuers uni c (actLanes g e gd))) (accessLanes uni (actLanes g e gd)) (s, [])) :
    let r := (accessLanes uni (actLanes g e gd)).foldl (m.effect c g (issuers uni c (actLanes g e gd))) (s, [])
    memRun m uni c e (actLanes g e gd) s =
      (r.1.updTeam c.tid fun u => u.newEntry (m.entry c e r.2), (actLanes g e gd).map fun l => (l, .next)) ∧ s.poised r.1 c t := by
  intro r
  obtain ⟨ht, rfl, hg, -⟩ := holds_of_issues hi
  have hn := hi.2.1
  have hpoised : s.poised r.1 c t := List.foldlRecOn (motive := fun σ : State × List LaneOp => s.poised σ.1 c t) _ _ (State.poised.refl ht)
    fun σ hσ l _ => MemSpec.effect_poised hσ hn hg
  obtain ⟨l, ls, hl⟩ := List.exists_cons_of_ne_nil hact
  obtain ⟨rest, hlanes⟩ : ∃ rest, accessLanes uni (actLanes (t.group c.grp) e gd) = l :: rest := by
    rw [hl]
    cases uni
    exacts [⟨ls, rfl⟩, ⟨[], rfl⟩]
  have hne : r.2.isEmpty = false := by
    have hlen : r.2.length = _ := MemSpec.foldl_effect_length _ _ h
    rw [hlanes, List.length_cons] at hlen
    rw [List.isEmpty_eq_false_iff, ← List.length_pos_iff]
    omega
  refine ⟨?_, hpoised⟩
  unfold memRun
  rw [ht]
  dsimp only
  rw [show (if uni = true then (actLanes (t.group c.grp) e gd).take 1 else actLanes (t.group c.grp) e gd) =
    accessLanes uni (actLanes (t.group c.grp) e gd) from rfl, foldLanes_memLane hat hlate hx _ _ h]
  dsimp only
  rw [show _ = r from rfl, hne, if_neg Bool.false_ne_true, shareProbe_newEntry hpoised hn hg]
  · congr 1
    rw [hlanes]
    unfold shareFates
    cases uni
    · rw [← hlanes]
      rfl
    · rfl
  · rw [hl]
    rw [hlanes] at h
    exact MemSpec.ready_probe h.1 ht

/-- After the lanes of a memory instruction every member of the entry goes on to the next word, and memory is as before. -/
theorem finish_poised {s u : State} {c : Cur} {t : Team} {g : Group} {e : Entry} {gd : Guard} (hi : s.issues c t g e) (h : s.poised u c t) :
    let s' := finishIssue u c e ((actLanes g e gd).map fun l => (l, .next))
    s'.moves c e (actLanes g e gd) (fun _ => e.next) ∧ u.settles s' c ∧ s'.mem = s.mem := by
  obtain ⟨-, rfl, hg, -⟩ := holds_of_issues hi
  obtain ⟨⟨x, hx, htid, hlen, hent, -⟩, hmem⟩ := h
  have hholds : u.holds c := ⟨x, hx, htid.trans hi.2.1, hlen ▸ hg⟩
  have hfs : ∀ x ∈ (actLanes (t.group c.grp) e gd).map (fun l => (l, Fate.next)), x.2.moves = true := by
    intro x hx
    obtain ⟨l, -, rfl⟩ := List.mem_map.1 hx
    rfl
  obtain ⟨hstands, -⟩ := finishIssue_moves _ c e _ hholds hfs
  have hplace (l : Nat) (hl : l ∈ lanesOf e.mask) := hstands (by rw [grp_of hx, hent]; exact hi.2.2.2) l hl e.next
    (by rw [fateOf_map, ite_self]; rfl)
  have hsettles := finishIssue_settles _ c e _ hholds hfs
  exact ⟨⟨fun l hl => hplace l (actLanes_sub hl), fun l hl _ => hplace l hl⟩, hsettles, (congrArg State.mem hsettles.rest).trans hmem⟩

/-- No source of a memory instruction is Pending where its three operands are there. -/
theorem MemSpec.notPending {m : MemSpec} {g : Group} {l : Nat} (hlate : m.late = false) (h : g.has l m.t m.tw ∧ g.has l m.a 2 ∧ g.has l m.x m.xw) :
    ∀ x ∈ m.srcs, srcPending g l x.1 x.2 = false := by
  intro x hx
  obtain ⟨h1, h2, h3⟩ := h
  refine Group.notPending_of_has ?_
  unfold MemSpec.srcs at hx
  rw [hlate, if_neg Bool.false_ne_true] at hx
  simp only [List.mem_cons, List.not_mem_nil, or_false] at hx
  obtain rfl | rfl | rfl := hx
  exacts [h1, h2, h3]

/-- Settles O20, lane by lane: a lane that passes has the effect it states, and what the lanes change before the frontier moves leaves the
frontier, the threads' own accesses and memory as they are. -/
theorem memoryIssue : Obligations.MemoryIssue := by
  unfold Obligations.MemoryIssue
  intro i gd m hform s c t g e hi hroom hact uni who lanes hhas hturns r
  obtain ⟨hat, hlate, hx⟩ := accessForm_plain hform
  obtain ⟨ht, -, hg, -⟩ := holds_of_issues hi
  obtain ⟨hrun, hpoised⟩ := memRun_issues (uni := uni) hi hat hlate hx hact hturns
  have hfree : ifrFree oneEntry s c (actLanes g e gd) = true := by
    unfold ifrFree oneEntry
    rw [ht, if_neg (by simpa using hact)]
    simpa [ifrCapacity] using hroom
  exact ⟨_, (accessForm_exec hform s).trans (issue_ready s gd m.srcs _ _ c t g e _ (fun _ => .next) hi
      (fun l hl => MemSpec.notPending hlate (hhas l hl)) hfree (fun _ _ => nofun) hrun),
    finish_poised hi (hpoised.updTeam hi.2.1 (fun _ _ => ⟨rfl, rfl, rfl, fun _ => rfl⟩) hg)⟩

end Sys2Proof.Machine
end

section
/-! ## EXIT of a thread that has ended already (R62, R71, R114)

Where `Obligations.Exit` asks in vain for the end of the team: it speaks of every state, also of one whose frontier holds a dead thread. -/

namespace Sys2Proof.Machine

/-- A group whose one member has ended already, at word 0. -/
def Group.ofDead : Group := { Group.empty with lanes := [{ Thread.initial 8 with live := false }], entries := [Entry.at 0 0 1 false] }

/-- A team of that group, running on a quad. -/
def Team.ofDead : Team := { Team.controller with tid := 1, st := .resident, groups := [Group.ofDead] }

/-- The machine in which that team issues. -/
def State.ofDead : State := { State.reset with teams := [Team.ofDead], cur := some ⟨1, 0, 0⟩ }

theorem State.ofDead_issues : State.ofDead.issues ⟨1, 0, 0⟩ Team.ofDead Group.ofDead (Entry.at 0 0 1 false) :=
  ⟨rfl, rfl, by decide, by decide⟩

/-- EXIT of every member of the only entry. -/
theorem State.ofDead_exit : ∃ s', exec (.exit ⟨false, 7⟩) State.ofDead = .next s' ∧
    (s'.team? 1).map (fun t => (t.st, t.allEnded)) = some (.resident, true) := ⟨_, rfl, rfl⟩

/-- Refutes O11: the member of the only entry has ended before it issues EXIT, so that no thread ends in the issue, and the team, whose
every group is left without an entry, stays resident (`State.afterEnds`). No thread that stands in a frontier has ended where threads
leave it as they end (R60, R114); the statement asks for no such state. -/
theorem not_exit : ¬ Obligations.Exit := by
  unfold Obligations.Exit
  intro h
  obtain ⟨s', t', he, ht, -, -, -, -, -, -, -, -, -, hst, -⟩ :=
    h State.ofDead ⟨false, 7⟩ _ _ _ _ State.ofDead_issues (by decide) nofun (by decide)
  obtain ⟨s1, he1, hrun⟩ := State.ofDead_exit
  obtain rfl := Host.Outcome.next.inj (he1.symm.trans he)
  rw [ht] at hrun
  obtain ⟨hres, hend⟩ := Prod.mk.inj (Option.some.inj hrun)
  rw [if_pos ⟨Nat.one_ne_zero, rfl, hend⟩, hres] at hst
  cases hst

end Sys2Proof.Machine
end

section
/-! ## TEAM_PLACEMENT beside a misnamed controller (R53, R313)

Where `Obligations.TeamLifecycle` asks in vain for the placed team: it speaks of every state, also of one whose controller's team bears the
number of the team to be placed. `State.setTeam` goes by that number, so what reaches the controller's team stands in the placed team's
place. -/

namespace Sys2Proof.Machine

/-- Context 0x31 of partition 0, with a frame pool. -/
def Ctx.lodge : Ctx :=
  { part := 0, desc := [0x0000003180000000, 0, 0, 0, 0x0000040000000000, 0, 0, 0, 0, 0, 0, 0, 0, 0, 0, 0]
    held := false, rr := [], wear := 0, ringRead := 0, ringReset := false, armed := false, ckDone := false, rolled := false, istart := 0, ckpt := false
    ckTeams := [], ckLaunches := [], ckRead := 0, ckParked := [], ckPosts := [], ckRasters := [] }

/-- A launch of one team of no groups, none placed yet. -/
def Launch.one : Launch := ⟨1, 0x31, 0, 5, 1, 0, 0, false, 0, 0, 0, [], 0, 0, 0, none, 0, 0, none, false, false, 0, none⟩

/-- A command all of whose beats are done. -/
def Copy.spent : Copy := ⟨0, 0, 0x31, 0, false, false, 0, 0, 0, 0, [], 0, [], [], [], 0, [], [], [], false⟩

/-- A controller's team that bears the number of the launch's team. -/
def Team.misnamed : Team := { Team.controller with tid := teamName 1 0, st := .ended }

/-- The machine in which the launch's team is due, and a posting waits for the controller's team. -/
def State.misnamed : State :=
  { State.reset with
    ctl := Team.misnamed, parts := [Partition.formed 0 1 64], keys := [⟨0, 1, 0, 0⟩], ctxs := [Ctx.lodge], launches := [Launch.one]
    posts := [⟨0, Copy.spent, true, true⟩]
    sits := ⟨[], [], 1000, 1000, false, false, false, false, 0, true, 1000000, [], [⟨3, 0, 0, 0, 0, 0, 0x31, [0], 900000, none⟩]⟩ }

/-- What the sequencer needs for the launch's team. -/
def Need.one : Need := State.misnamed.needNew Launch.one

theorem State.misnamed_pending : State.misnamed.pending.find? (fun m => m.tid == Need.one.tid) = some Need.one := rfl

theorem State.misnamed_due : State.misnamed.turnOf Need.one = true ∧ State.misnamed.bestQuad (State.misnamed.quadsFor Need.one) = some (0, 0) ∧
    State.misnamed.framePlace Ctx.lodge (frameNeed Launch.one.ngroup (Launch.one.pal * 4096)) = some 0 := by
  decide +kernel

/-- The controller's team, with the entry that the posting gives it, has replaced the team that was placed. -/
theorem State.misnamed_placed : ((State.misnamed.sequence (teamName 1 0) false).team? (teamName 1 0)).map (·.st) = some .ended := by
  decide +kernel

/-- Refutes O48, in its clause on placement: where the controller's team bears the number of the team to be placed, a posting that waits for
the controller's team (R313) puts that team in the place of the one just placed, so that no team of that number is resident afterwards.
`State.sound` excludes such a state: there the controller's team bears number 0. -/
theorem not_teamLifecycle : ¬ Obligations.TeamLifecycle := by
  unfold Obligations.TeamLifecycle
  intro h
  obtain ⟨hturn, hbest, hplace⟩ := State.misnamed_due
  obtain ⟨-, -, -, -, -, hplacement, -⟩ := h State.misnamed
  obtain ⟨s', t', he, ht, hst, -⟩ :=
    hplacement Need.one Launch.one Ctx.lodge (0, 0) 0 (by decide) State.misnamed_pending rfl rfl rfl rfl rfl hturn hbest hplace
  obtain rfl := Host.Outcome.next.inj he
  have hended := State.misnamed_placed
  rw [show teamName 1 0 = Need.one.tid from rfl, ht, Option.map_some, hst] at hended
  cases hended

end Sys2Proof.Machine
end

section
/-! ## FRQACK while a collective of its own group can complete (R60, R119, R244)

Where `Obligations.FrontierInvariant` fails. A refusal reaches every command that waits for the refused page; one that belongs to the
controller's team then completes what the team's collectives waited for (`Team.regMoved`), in the midst of the FRQACK's own issue. A
participant that so continues at the word of the FRQACK joins the issuing entry, and `finishIssue`, which takes out the entry as it stood
before, leaves the joined one in the frontier. -/

namespace Sys2Proof.Machine

/-- The word of an FRQACK that refuses the page which `V0:V1` names. -/
def frqackWord : BitVec 64 := (encode (.frqack ⟨false, 7⟩ ⟨false, false, .v, 0⟩ 1 7)).getD 0

/-- A barrier of lane 1 alone, at which lane 1 has arrived. -/
def Instance.met : Instance := ⟨.barg, 0, 2, [⟨0, 1, [], false, .null, 7, 0⟩]⟩

/-- Two threads: lane 1 waits at word 0 in that barrier, lane 0 is about to issue word 8. -/
def Group.pair : Group :=
  { Group.empty with
    lanes := List.replicate 2 (Thread.initial 2), allot := 2, insts := [Instance.met]
    entries := [{ Entry.at 0 0 2 false with arrived := true }, Entry.at 8 0 1 false] }

/-- A command into registers of the controller's team whose one beat waits for merge entry 0 of panel 0. -/
def Copy.stuck : Copy :=
  { Copy.spent with tmpl := 2 <<< 49, beats := [⟨0, 0, false, some { va := 0, dia := 0, kind := 0, wait := .merge 0 0 }⟩] }

/-- The machine in which lane 0 refuses the page of that entry. -/
def State.refusing : State :=
  { State.reset with
    agenda := [.issue 0 0], ctl := { Team.controller with groups := [Group.pair] }
    ctlMem := Memory.writeN [] 8 8 frqackWord.toNat, ctlImage := 16
    parts := [Partition.formed 0 1 64], panels := [{ Panel.initial 0 with merges := [⟨0, 0, true, 0, 0, 0, 0, 0⟩] }]
    parked := [Copy.stuck] }

theorem Group.pair_sound : Group.pair.sound := ⟨by decide, by decide, by decide, by decide, by decide⟩

theorem State.refusing_sound : State.refusing.sound := by
  have hgroups : ∀ g ∈ [Group.pair], g.sound := List.forall_mem_singleton.2 Group.pair_sound
  exact ⟨rfl, ⟨Nat.zero_le 512, hgroups⟩, List.forall_mem_nil _, List.forall_mem_nil _⟩

/-- The masks of the controller's frontier after a step. -/
def controllerMasks : Result → List (List (BitVec 32))
  | .next s => s.ctl.groups.map fun g => g.entries.map (·.mask)
  | _ => []

/-- Lane 0 stands in the joined entry, at word 8, and in the entry that it continues in, at word 16. -/
theorem State.refusing_step : controllerMasks (step State.refusing) = [[3, 1]] := by decide +kernel

/-- No sound group has two entries of one thread. -/
theorem Group.sound.masks_apart {g : Group} (h : g.sound) : (g.entries.map (·.mask)).Pairwise fun x y => x &&& y = 0 :=
  List.pairwise_map.2 h.apart

/-- Refutes O60: the state `State.refusing` is sound, and after its one step lane 0 of the controller's group stands in two entries.
The FRQACK of lane 0 lets lane 1 go on from its barrier (R119) into the very entry that issues, and that entry stays beside the one in
which lane 0 continues. -/
theorem not_frontierInvariant : ¬ Obligations.FrontierInvariant := by
  unfold Obligations.FrontierInvariant
  intro h
  have hmasks := State.refusing_step
  cases hstep : step State.refusing with
  | next s' =>
    obtain ⟨-, ⟨-, hgroups⟩, -⟩ := h State.refusing s' State.refusing_sound hstep
    rw [hstep, controllerMasks] at hmasks
    obtain ⟨g, hg, he⟩ := List.mem_map.1 (hmasks ▸ List.mem_singleton_self [3, 1])
    exact absurd (he ▸ (hgroups g hg).masks_apart) (by decide)
  | _ => simp [hstep, controllerMasks] at hmasks

end Sys2Proof.Machine
end

section
/-! ## Instructions that act lane by lane (R56, R62, R79)

What one lane's effect leaves alone; an issue that changes its group only; the instructions whose body runs over the group. -/

namespace Sys2Proof.Machine

/-- One lane's effect on its group: the frontier, the allotment, the collectives and every other thread stand, and the lane's thread lives
and streams as before. -/
structure Group.alters (h : Group) (l : Nat) (h' : Group) : Prop where
  entries : h'.entries = h.entries
  allot : h'.allot = h.allot
  insts : h'.insts = h.insts
  others : ∀ k, k ≠ l → h'.thread k = h.thread k
  live : (h'.thread l).live = (h.thread l).live
  mx : (h'.thread l).mx = (h.thread l).mx

theorem Group.alters.trans {g h h' : Group} {l : Nat} (a : g.alters l h) (b : h.alters l h') : g.alters l h' :=
  ⟨b.entries.trans a.entries, b.allot.trans a.allot, b.insts.trans a.insts, fun k hk => (b.others k hk).trans (a.others k hk),
    b.live.trans a.live, b.mx.trans a.mx⟩

theorem Group.alters_updThread {h : Group} {l : Nat} {f : Thread → Thread} (hf : ∀ t : Thread, (f t).live = t.live ∧ (f t).mx = t.mx) :
    h.alters l (h.updThread l f) where
  entries := rfl
  allot := rfl
  insts := rfl
  others k hk := by rw [thread_set, if_neg fun hc => hk hc.1]
  live := (Group.updThread_live_mx h l l f hf).1
  mx := (Group.updThread_live_mx h l l f hf).2

theorem putSlots_alters (h : Group) (l : Nat) (r : Ref) (vs : List Slot) : h.alters l (putSlots h l r vs) := by
  cases r with
  | null | g => exact ⟨rfl, rfl, rfl, fun _ _ => rfl, rfl, rfl⟩
  | v n => exact Group.alters_updThread (f := fun t => { t with regs := setRange t.regs n vs }) fun _ => ⟨rfl, rfl⟩

theorem Group.put_alters (h g : Group) (l : Nat) (r : Reg) (w v : Nat) (p : Bool × Bool) : h.alters l (h.put g l r w v p) :=
  putSlots_alters ..

theorem markRef_alters (h : Group) (l : Nat) (r : Ref) (w : Nat) (st : RState) : h.alters l (markRef h l r w st) := putSlots_alters ..

theorem Group.alters_setPred (h : Group) (l k : Nat) (p : Bool) : h.alters l (h.updThread l fun t => t.setPred k p) :=
  Group.alters_updThread fun t => by
    obtain ⟨q, hq⟩ := t.setPred_eq k p
    rw [hq]
    exact ⟨rfl, rfl⟩

/-- Every lane of the group lives and streams as it did. -/
theorem Group.alters.pulse {h h' : Group} {l : Nat} (a : h.alters l h') (k : Nat) :
    (h'.thread k).live = (h.thread k).live ∧ (h'.thread k).mx = (h.thread k).mx := by
  by_cases hk : k = l
  · rw [hk]
    exact ⟨a.live, a.mx⟩
  · rw [a.others k hk]
    exact ⟨rfl, rfl⟩

/-- A lane finds its thread, and the allotment, as the issue found them, after lanes before it. -/
theorem foldl_alters {eff : Group → Nat → Group} (hv : ∀ (h : Group) l, h.alters l (eff h l)) {ls : List Nat} {l : Nat} (hl : l ∉ ls) (g : Group) :
    (ls.foldl eff g).thread l = g.thread l ∧ (ls.foldl eff g).allot = g.allot := by
  induction ls generalizing g with
  | nil => exact ⟨rfl, rfl⟩
  | cons k ls ih =>
    obtain ⟨hk, hls⟩ := not_or.1 fun h => hl (List.mem_cons.2 h)
    obtain ⟨ht, ha⟩ := ih hls (eff g k)
    exact ⟨ht.trans ((hv g k).others l hk), ha.trans (hv g k).allot⟩

/-- After the effects of some lanes the frontier stands, and every lane lives and streams as it did. -/
theorem foldl_alters_pulse {eff : Group → Nat → Group} (hv : ∀ (h : Group) l, h.alters l (eff h l)) (ls : List Nat) (g : Group) :
    (ls.foldl eff g).entries = g.entries ∧
      ∀ k, ((ls.foldl eff g).thread k).live = (g.thread k).live ∧ ((ls.foldl eff g).thread k).mx = (g.thread k).mx :=
  List.foldlRecOn (motive := fun h : Group => h.entries = g.entries ∧ ∀ k, (h.thread k).live = (g.thread k).live ∧ (h.thread k).mx = (g.thread k).mx)
    ls eff ⟨rfl, fun _ => ⟨rfl, rfl⟩⟩ fun h ⟨he, hp⟩ l _ =>
      ⟨(hv h l).entries.trans he, fun k => ⟨((hv h l).pulse k).1.trans (hp k).1, ((hv h l).pulse k).2.trans (hp k).2⟩⟩

/-- An update of a thread that changes nothing. -/
theorem Group.updThread_id (g : Group) (l : Nat) : (g.updThread l fun t => t) = g := by
  unfold Group.updThread Group.setThread Group.thread
  by_cases hl : l < g.lanes.length
  · rw [List.getD_eq_getElem _ _ hl, List.set_getElem_self]
  · rw [List.set_eq_of_length_le (Nat.le_of_not_lt hl)]

/-- An instruction whose body runs over the group, in every issue in which each acting lane is ready. -/
theorem lanewise_runG {s : State} {i : Instr} {gd : Guard} {srcs : List (Reg × Nat)}
    {body : Entry → Group → Group → Nat → Except Fate (Group × Fate)} {ready : Group → Entry → Nat → Prop}
    {eff : Group → Entry → Group → Nat → Group} (he : exec i s = issue s gd srcs always (runG body))
    (hs : ∀ g e l, ready g e l → ∀ x ∈ srcs, g.has l x.1 x.2) (hv : ∀ g e (h : Group) l, h.alters l (eff g e h l))
    (hb : ∀ g e h l, ready g e l → h.thread l = g.thread l → h.allot = g.allot → body e g h l = .ok (eff g e h l, .next)) :
    s.lanewise i gd ready (fun _ e _ => e.next) eff := by
  intro c t g e hi hr
  rw [he]
  refine issue_runG s gd srcs always body c t g e (fun _ => .next) (eff g e) _ hi
    (fun l hl x hx => Group.notPending_of_has (hs g e l (hr l hl) x hx)) rfl (fun _ _ => ⟨rfl, rfl⟩) (fun h l => (hv g e h l).pulse)
    (fun h l => (hv g e h l).entries) fun pre l post hp => ?_
  have hpre : l ∉ pre := fun hl => by
    have := actLanes_nodup g e gd
    rw [hp] at this
    exact (List.nodup_append.1 this).2.2 l hl l List.mem_cons_self rfl
  obtain ⟨ht, ha⟩ := foldl_alters (hv g e) hpre g
  exact hb g e _ l (hr l (hp ▸ List.mem_append_right _ List.mem_cons_self)) ht ha

/-! ### Fixed-latency instructions without flags -/

/-- A result without flags: the register and the predicate are written (R163). -/
theorem putResult_plain (h : Group) (l : Nat) (dst : Ref) (dw pd : Nat) (p pt : Bool) (v : Nat) (pr : Bool) :
    putResult h l dst dw pd p pt { val := v, pred := pr } = ((writeRef h l dst dw v p pt).updThread l fun t => t.setPred pd pr, .next) := by
  have ho : h.orFlags 0 = h := congrArg (fun f => { h with flags := f }) (BitVec.or_zero (x := h.flags))
  have ht : arithTrap h 0 = none := if_neg (by simp)
  unfold putResult
  simp only [List.foldl_nil, h.updThread_id l, ho, ht]

/-- The effect of a form's result leaves the rest of the group. -/
theorem LaneForm.effect_alters (f : LaneForm) (out : List Nat → Nat × Bool) (g : Group) (e : Entry) (h : Group) (l : Nat) :
    h.alters l (f.effect out g e h l) :=
  (h.put_alters g l f.d f.dw _ _).trans (Group.alters_setPred ..)

/-- A fixed-latency instruction that raises no flag, whose compulation on the operands of a form is the form's. -/
theorem lanewise_alu {s : State} {i : Instr} {f : LaneForm} {out : List Nat → Nat × Bool} {comp : List Opnd → AluOut}
    (he : exec i s = alu s f.gd f.d f.dw f.srcs f.pd comp)
    (hc : ∀ g l, comp (f.opnds g l) = { val := (out ((f.opnds g l).map (·.val))).1, pred := (out ((f.opnds g l).map (·.val))).2 }) :
    s.lanewise i f.gd f.ready (fun _ e _ => e.next) (f.effect out) := by
  refine lanewise_runG he (fun g e l hr => hr.1) (f.effect_alters out) fun g e h l hr _ _ => ?_
  obtain ⟨hhas, hroom, hclean⟩ := hr
  have hcons (hpd : f.pd ≠ 7) : consumeAll (f.opnds g l) = .ok () := consumeAll_of_clean fun x hx => by
    obtain ⟨y, hy, rfl⟩ := List.mem_map.1 hx
    exact (hclean.resolve_left hpd y hy).2
  unfold aluBody
  rw [readAll_of_has hhas, Group.dst_of_room hroom]
  dsimp only [bind, Except.bind]
  rw [show (f.srcs.map fun x => g.opnd l x.1 x.2) = f.opnds g l from rfl, hc, putResult_plain]
  split
  · next hpd =>
    rw [hcons (by simpa using hpd)]
    rfl
  · rfl

end Sys2Proof.Machine
end

section
/-! ## Logic, shifts, bit counts, fields and tests on words (R177-R181)

Each result of `Machine/Integer.lean`, bit by bit or in exact arithmetic. -/

namespace Sys2Proof.Machine

/-! ### Words bit by bit -/

/-- A word is the number with its bits. -/
theorem toNat_eq_bitwise32 {x : BitVec 32} {f : Nat → Bool} (h : ∀ i, i < 32 → x.getLsbD i = f i) : x.toNat = bitwise32 f := by
  have low (n : Nat) (hn : n ≤ 32) : x.toNat % 2 ^ n = ((List.range n).map fun i => if f i then 2 ^ i else 0).sum := by
    induction n with
    | zero => exact Nat.mod_one _
    | succ n ih =>
      have hbit : x.toNat / 2 ^ n % 2 = (f n).toNat := by rw [← Nat.toNat_testBit, ← h n hn, BitVec.getLsbD]
      rw [Nat.mod_pow_succ, ih (Nat.le_of_succ_le hn), List.range_succ, List.map_append, List.sum_append, hbit]
      cases hf : f n <;> simp [hf]
  rw [← Nat.mod_eq_of_lt x.isLt, low 32 (Nat.le_refl _)]
  rfl

theorem getLsbD_word (a : Nat) {i : Nat} (hi : i < 32) : (BitVec.ofNat 32 a).getLsbD i = a.testBit i := by
  rw [BitVec.getLsbD_ofNat, decide_eq_true hi, Bool.true_and]

theorem and_bits (a b : Nat) : (BitVec.ofNat 32 a &&& BitVec.ofNat 32 b).toNat = bitwise32 fun i => a.testBit i && b.testBit i :=
  toNat_eq_bitwise32 fun i hi => by rw [BitVec.getLsbD_and, getLsbD_word a hi, getLsbD_word b hi]

theorem or_bits (a b : Nat) : (BitVec.ofNat 32 a ||| BitVec.ofNat 32 b).toNat = bitwise32 fun i => a.testBit i || b.testBit i :=
  toNat_eq_bitwise32 fun i hi => by rw [BitVec.getLsbD_or, getLsbD_word a hi, getLsbD_word b hi]

theorem xor_bits (a b : Nat) : (BitVec.ofNat 32 a ^^^ BitVec.ofNat 32 b).toNat = bitwise32 fun i => a.testBit i != b.testBit i :=
  toNat_eq_bitwise32 fun i hi => by rw [BitVec.getLsbD_xor, getLsbD_word a hi, getLsbD_word b hi]

theorem not_bits (a : Nat) : (~~~BitVec.ofNat 32 a).toNat = bitwise32 fun i => !a.testBit i :=
  toNat_eq_bitwise32 fun i hi => by rw [BitVec.getLsbD_not, decide_eq_true hi, Bool.true_and, getLsbD_word a hi]

theorem andn_bits (a b : Nat) : (BitVec.ofNat 32 a &&& ~~~BitVec.ofNat 32 b).toNat = bitwise32 fun i => a.testBit i && !b.testBit i :=
  toNat_eq_bitwise32 fun i hi => by
    rw [BitVec.getLsbD_and, BitVec.getLsbD_not, decide_eq_true hi, Bool.true_and, getLsbD_word a hi, getLsbD_word b hi]

/-- The word whose bits are the positions that `p` selects. -/
theorem getLsbD_maskOf_filter (p : Nat → Bool) {i : Nat} (hi : i < 32) : (maskOf ((List.range 32).filter p)).getLsbD i = p i := by
  rw [Bool.eq_iff_iff]
  constructor
  · intro h
    exact (List.mem_filter.1 (maskOf_mem _ _ h)).2
  · intro h
    exact maskOf_get _ _ hi (List.mem_filter.2 ⟨List.mem_range.2 hi, h⟩)

theorem lop3_bits (lut : BitVec 8) (a b c : Nat) : (lop3 lut (BitVec.ofNat 32 a) (BitVec.ofNat 32 b) (BitVec.ofNat 32 c)).toNat =
    bitwise32 fun i => lut.toNat.testBit (4 * bitAt a i + 2 * bitAt b i + bitAt c i) :=
  toNat_eq_bitwise32 fun i hi => by
    unfold lop3 bitAt
    rw [getLsbD_maskOf_filter _ hi, getLsbD_word a hi, getLsbD_word b hi, getLsbD_word c hi, BitVec.getLsbD]
    cases a.testBit i <;> cases b.testBit i <;> cases c.testBit i <;> rfl

theorem brev_bits (a : Nat) : (brevOf (BitVec.ofNat 32 a)).toNat = bitwise32 fun i => a.testBit (31 - i) :=
  toNat_eq_bitwise32 fun i hi => by
    unfold brevOf
    rw [getLsbD_maskOf_filter _ hi, getLsbD_word a (by omega)]

theorem rotl_bits (a n : Nat) (hn : n < 32) : ((BitVec.ofNat 32 a).rotateLeft n).toNat = bitwise32 fun i => a.testBit ((i + 32 - n) % 32) :=
  toNat_eq_bitwise32 fun i hi => by
    rw [BitVec.getLsbD_rotateLeft, Nat.mod_eq_of_lt hn]
    by_cases h : i < n
    · rw [decide_eq_true h, cond_true, getLsbD_word a (by omega), show (i + 32 - n) % 32 = 32 - n + i by omega]
    · rw [decide_eq_false h, cond_false, decide_eq_true hi, Bool.true_and, getLsbD_word a (by omega), show (i + 32 - n) % 32 = i - n by omega]

/-! ### Shifts (R178) -/

theorem shl_exact {a : Nat} (ha : a < 2 ^ 32) (n : Nat) : (BitVec.ofNat 32 a <<< min n 32).toNat = if n < 32 then a * 2 ^ n % 2 ^ 32 else 0 := by
  rw [BitVec.toNat_shiftLeft, BitVec.toNat_ofNat, Nat.mod_eq_of_lt ha, Nat.shiftLeft_eq]
  split
  · next h => rw [Nat.min_eq_left (Nat.le_of_lt h)]
  · next h => rw [Nat.min_eq_right (Nat.le_of_not_lt h), Nat.mul_mod_left]

theorem shr_exact {a : Nat} (ha : a < 2 ^ 32) (n : Nat) : (BitVec.ofNat 32 a >>> n).toNat = if n < 32 then a / 2 ^ n else 0 := by
  rw [BitVec.toNat_ushiftRight, BitVec.toNat_ofNat, Nat.mod_eq_of_lt ha, Nat.shiftRight_eq_div_pow]
  split
  · rfl
  · next h => exact Nat.div_eq_of_lt (Nat.lt_of_lt_of_le ha (Nat.pow_le_pow_right (by decide) (Nat.le_of_not_lt h)))

theorem toInt_word {a : Nat} (ha : a < 2 ^ 32) : (BitVec.ofNat 32 a).toInt = asSigned a := signedOf_eq ha

theorem asSigned_bounds {a : Nat} (ha : a < 2 ^ 32) : -2 ^ 31 ≤ asSigned a ∧ asSigned a < 2 ^ 31 := by
  unfold asSigned
  split <;> omega

theorem toNat_eq_emod (x : BitVec 32) : x.toNat = (x.toInt % 2 ^ 32).toNat := by
  rw [BitVec.toInt_eq_toNat_cond]
  have := x.isLt
  split <;> omega

theorem sar_exact {a : Nat} (ha : a < 2 ^ 32) (n : Nat) : sarOf (BitVec.ofNat 32 a) n = (asSigned a / 2 ^ min n 31 % 2 ^ 32).toNat := by
  obtain ⟨hlo, hhi⟩ := asSigned_bounds ha
  unfold sarOf
  rw [toInt_word ha]
  split
  · next h =>
    rw [Nat.min_eq_right (by omega)]
    split <;> omega
  · next h => rw [Nat.min_eq_left (by omega), toNat_eq_emod, BitVec.toInt_sshiftRight, toInt_word ha, Int.shiftRight_eq_div_pow]; norm_cast

theorem fshl_exact {a b n : Nat} (ha : a < 2 ^ 32) (hb : b < 2 ^ 32) (hn : n < 32) :
    ((BitVec.ofNat 32 a ++ BitVec.ofNat 32 b) <<< n).toNat / 2 ^ 32 = (a * 2 ^ 32 + b) / 2 ^ (32 - n) % 2 ^ 32 := by
  have hx : (BitVec.ofNat 32 a ++ BitVec.ofNat 32 b).toNat = a * 2 ^ 32 + b := by
    rw [BitVec.toNat_append, BitVec.toNat_ofNat, BitVec.toNat_ofNat, Nat.mod_eq_of_lt ha, Nat.mod_eq_of_lt hb, ← Nat.shiftLeft_add_eq_or_of_lt hb,
      Nat.shiftLeft_eq]
  have hpow : 2 ^ 32 = 2 ^ (32 - n) * 2 ^ n := by rw [← Nat.pow_add, Nat.sub_add_cancel (Nat.le_of_lt hn)]
  rw [BitVec.toNat_shiftLeft, hx, Nat.shiftLeft_eq, show 2 ^ (32 + 32) = 2 ^ 32 * 2 ^ 32 from rfl, Nat.mod_mul_right_div_self]
  congr 1
  rw [hpow, Nat.mul_div_mul_right _ _ (Nat.two_pow_pos n), ← hpow]

/-! ### Bit counts (R179) -/

theorem popc_exact (a : Nat) : (lanesOf (BitVec.ofNat 32 a)).length = ((List.range 32).map (bitAt a)).sum := by
  have count (ls : List Nat) (hls : ∀ i ∈ ls, i < 32) : (ls.filter fun l => (BitVec.ofNat 32 a).getLsbD l).length = (ls.map (bitAt a)).sum := by
    induction ls with
    | nil => rfl
    | cons i ls ih =>
      obtain ⟨hi, hls⟩ := List.forall_mem_cons.1 hls
      rw [List.filter_cons, List.map_cons, List.sum_cons, ← ih hls, getLsbD_word a hi]
      unfold bitAt
      cases a.testBit i <;> simp [Nat.add_comm]
  exact count _ fun i hi => List.mem_range.1 hi

/-- How far a property holds from 0 on. -/
theorem length_takeWhile_range {p : Nat → Bool} {k n : Nat} (hk : k ≤ n) (hp : ∀ j, j < k → p j = true) (hn : k < n → p k = false) :
    ((List.range n).takeWhile p).length = k := by
  obtain ⟨m, rfl⟩ := Nat.exists_eq_add_of_le hk
  rw [List.range_add, List.takeWhile_append_of_pos fun j hj => hp j (List.mem_range.1 hj), List.length_append, List.length_range]
  cases m with
  | zero => simp
  | succ m => simp [List.range_succ_eq_map, hn (by omega)]

theorem clz_exact {a : Nat} (ha : a < 2 ^ 32) :
    clzOf (BitVec.ofNat 32 a) = ((List.range 32).takeWhile fun k => !a.testBit (31 - k)).length := by
  have hx : (BitVec.ofNat 32 a).toNat = a := by rw [BitVec.toNat_ofNat, Nat.mod_eq_of_lt ha]
  unfold clzOf
  rw [hx]
  by_cases h0 : a = 0
  · rw [h0, length_takeWhile_range (Nat.le_refl _) (fun j _ => by simp) (by omega)]
    rfl
  · have hlog : a.log2 < 32 := (Nat.log2_lt h0).2 ha
    rw [if_neg (by rw [beq_iff_eq, ← BitVec.toNat_inj, hx]; exact h0),
      length_takeWhile_range (k := 31 - a.log2) (by omega) (fun j hj => ?_) fun _ => ?_]
    · rw [Nat.testBit_lt_two_pow (Nat.lt_of_lt_of_le Nat.lt_log2_self (Nat.pow_le_pow_right (by decide) (by omega)))]
      rfl
    · rw [show 31 - (31 - a.log2) = a.log2 by omega, Nat.testBit_log2 h0]
      rfl

/-! ### Fields (R180) -/

theorem fieldLen_le (f : Nat) : fieldLen f ≤ 32 := Nat.min_le_right ..

/-- The field of `len` bits at `pos` of a value, sign-extended from its top bit. -/
def fieldOf (signed : Bool) (v : Int) (pos len : Nat) : Int :=
  let fld := v / 2 ^ pos % 2 ^ len
  if signed && len != 0 && decide (2 ^ (len - 1) ≤ fld) then fld - 2 ^ len else fld

theorem bfe_exact {signed : Bool} {a : Nat} (ha : a < 2 ^ 32) (f : Nat) :
    bfeOf signed (BitVec.ofNat 32 a) f = (fieldOf signed (if signed then asSigned a else a) (fieldPos f) (fieldLen f) % 2 ^ 32).toNat := by
  have hx : (BitVec.ofNat 32 a).toNat = a := by rw [BitVec.toNat_ofNat, Nat.mod_eq_of_lt ha]
  have hlen := fieldLen_le f
  unfold bfeOf fieldOf
  rw [toInt_word ha, hx]
  dsimp only
  generalize (if signed then asSigned a else a : Int) = v
  generalize fieldPos f = pos
  generalize fieldLen f = len at hlen
  by_cases h0 : len = 0
  · subst h0
    simp
  have hpow : (2 : Int) ^ len ≤ 2 ^ 32 := pow_le_pow_right₀ (by decide) hlen
  have hnn : 0 ≤ v / 2 ^ pos % 2 ^ len := Int.emod_nonneg _ (by positivity)
  have hlt : v / 2 ^ pos % 2 ^ len < 2 ^ len := Int.emod_lt_of_pos _ (by positivity)
  obtain ⟨w, hw⟩ := Int.eq_ofNat_of_zero_le hnn
  rw [hw] at hlt ⊢
  rw [if_neg (by simpa using h0)]
  push_cast
  rw [hw, Int.toNat_natCast]
  have htop : decide (w ≥ 2 ^ (len - 1)) = decide ((2 : Int) ^ (len - 1) ≤ w) := decide_eq_decide.2 (by norm_cast)
  rw [htop, show (len != 0) = true by simpa using h0, Bool.and_true]
  split
  · rw [BitVec.toNat_ofInt]
    rfl
  · rw [Int.emod_eq_of_lt (by omega) (by omega), Int.toNat_natCast]

theorem bfi_bits {a : Nat} (ha : a < 2 ^ 32) (b f : Nat) : bfiOf (BitVec.ofNat 32 a) (BitVec.ofNat 32 b) f =
    bitwise32 fun i => if (fieldMask f).testBit i then (a * 2 ^ (f % 256)).testBit i else b.testBit i := by
  have hx : (BitVec.ofNat 32 a).toNat = a := by rw [BitVec.toNat_ofNat, Nat.mod_eq_of_lt ha]
  unfold bfiOf
  rw [hx]
  refine toNat_eq_bitwise32 fun i hi => ?_
  have hm : (fieldMask f).testBit i = ((2 ^ fieldLen f - 1) * 2 ^ fieldPos f).testBit i := by
    unfold fieldMask
    rw [Nat.testBit_mod_two_pow, decide_eq_true hi, Bool.true_and]
    rfl
  rw [hm, BitVec.getLsbD_or, BitVec.getLsbD_and, BitVec.getLsbD_and, BitVec.getLsbD_not, decide_eq_true hi, Bool.true_and, getLsbD_word _ hi,
    getLsbD_word _ hi, getLsbD_word _ hi]
  cases ((2 ^ fieldLen f - 1) * 2 ^ fieldPos f).testBit i <;> simp [fieldPos]

/-! ### Comparisons (R181) -/

theorem cmpInt_eq (cmp : Nat) (a b : Int) : cmpInt cmp a b = compared cmp a b := by
  unfold cmpInt compared
  split <;> simp [beq_eq_decide, bne]

/-! ### Operands as words -/

/-- A source of some registers reads no more than their bits. -/
theorem Group.val_lt_regs (g : Group) (l : Nat) (r : Reg) (w : Nat) : g.val l r w < 2 ^ (32 * w) := by
  unfold Group.val Group.opnd
  split
  · next x hx =>
    obtain ⟨ref, -, hx⟩ := bind_eq_ok.1 hx
    unfold readRef at hx
    dsimp only at hx
    split at hx
    · cases hx
    split at hx
    · split at hx <;> cases hx
    · cases hx
      exact lt_of_lt_of_eq (slotsVal_lt _) (by rw [length_slotsOf])
  · exact Nat.two_pow_pos _

/-- The value of an operand of ISETP. -/
theorem isetp_read {v : Nat} (u b64 : BitVec 1) (hv : v < 2 ^ (32 * (1 + b64.toNat))) :
    (if u == 1 then (v : Int) else (BitVec.ofNat (32 * (1 + b64.toNat)) v).toInt) =
      if u == 1 then (v : Int) else if b64 == 1 then (if v < 2 ^ 63 then v else v - 2 ^ 64) else asSigned v := by
  split
  · rfl
  · by_cases hb : b64 = 1
    · subst hb
      have hv : v < 2 ^ 64 := hv
      show (BitVec.ofNat 64 v).toInt = _
      rw [BitVec.toInt_eq_toNat_cond, BitVec.toNat_ofNat, Nat.mod_eq_of_lt hv]
      simp only [beq_self_eq_true, if_true]
      split <;> split <;> omega
    · have h0 : b64 = 0 := by
        clear hv
        revert b64
        decide
      subst h0
      exact toInt_word hv

/-! ### The instructions -/

/-- Every instruction of `bitForm` runs on its form, and computes on the operands what the form says. -/
theorem bitForm_alu {i : Instr} {f : LaneForm} {out : List Nat → Nat × Bool} (h : bitForm i = some (f, out)) :
    ∃ comp : List Opnd → AluOut, (∀ s, exec i s = alu s f.gd f.d f.dw f.srcs f.pd comp) ∧ ∀ g l,
      comp (f.opnds g l) = { val := (out ((f.opnds g l).map (·.val))).1, pred := (out ((f.opnds g l).map (·.val))).2 } := by
  have plain {v w : Nat} (h : v = w) : ({ val := v } : AluOut) = { val := w } := congrArg (AluOut.mk · 0 false []) h
  cases i
  case and => cases h; exact ⟨_, fun _ => rfl, fun g l => plain (and_bits ..)⟩
  case or => cases h; exact ⟨_, fun _ => rfl, fun g l => plain (or_bits ..)⟩
  case xor => cases h; exact ⟨_, fun _ => rfl, fun g l => plain (xor_bits ..)⟩
  case andn => cases h; exact ⟨_, fun _ => rfl, fun g l => plain (andn_bits ..)⟩
  case not => cases h; exact ⟨_, fun _ => rfl, fun g l => plain (not_bits ..)⟩
  case lop3 => cases h; exact ⟨_, fun _ => rfl, fun g l => plain (lop3_bits ..)⟩
  case shl => cases h; exact ⟨_, fun _ => rfl, fun g l => plain (shl_exact (g.val_lt ..) _)⟩
  case shr => cases h; exact ⟨_, fun _ => rfl, fun g l => plain (shr_exact (g.val_lt ..) _)⟩
  case sar => cases h; exact ⟨_, fun _ => rfl, fun g l => plain (sar_exact (g.val_lt ..) _)⟩
  case rotl => cases h; exact ⟨_, fun _ => rfl, fun g l => plain (rotl_bits _ _ (Nat.mod_lt _ (by decide)))⟩
  case fshl => cases h; exact ⟨_, fun _ => rfl, fun g l => plain (fshl_exact (g.val_lt ..) (g.val_lt ..) (Nat.mod_lt _ (by decide)))⟩
  case popc => cases h; exact ⟨_, fun _ => rfl, fun g l => plain (popc_exact _)⟩
  case clz => cases h; exact ⟨_, fun _ => rfl, fun g l => plain (clz_exact (g.val_lt ..))⟩
  case brev => cases h; exact ⟨_, fun _ => rfl, fun g l => plain (brev_bits _)⟩
  case bfe => cases h; exact ⟨_, fun _ => rfl, fun g l => plain (bfe_exact (g.val_lt ..) _)⟩
  case bfi => cases h; exact ⟨_, fun _ => rfl, fun g l => plain (bfi_bits (g.val_lt ..) _ _)⟩
  case mov => cases h; exact ⟨_, fun _ => by rw [← Nat.one_shiftLeft]; rfl, fun _ _ => rfl⟩
  case movi => cases h; exact ⟨_, fun _ => rfl, fun _ _ => rfl⟩
  case pset =>
    cases h
    refine ⟨_, fun _ => rfl, fun g l => congrArg (AluOut.mk 0 0 · []) ?_⟩
    simp only [opv_eq]
    generalize BitVec.toNat _ = n
    match n with
    | 0 | 1 => exact Bool.eq_iff_iff.2 (by simp)
    | n + 2 => rfl
  case isetp gd a b cmp u b64 pd =>
    cases h
    let read (v : Nat) : Int := if u == 1 then v else (BitVec.ofNat (32 * (1 + b64.toNat)) v).toInt
    refine ⟨fun xs => { val := 0, pred := cmpInt cmp.toNat (read (opv xs 0)) (read (opv xs 1)) }, fun s => ?_,
      fun g l => congrArg (AluOut.mk 0 0 · []) ?_⟩
    · show execIsetp gd a b cmp u b64 pd s = _
      unfold execIsetp
      rw [trapWidth]
    · rw [cmpInt_eq]
      exact congrArg₂ (compared cmp.toNat) (isetp_read u b64 (g.val_lt_regs ..)) (isetp_read u b64 (g.val_lt_regs ..))
  all_goals cases h

/-- Settles O2: every instruction of `bitForm` is a fixed-latency one without flags. -/
theorem logicAndMoves : Obligations.LogicAndMoves := by
  unfold Obligations.LogicAndMoves
  intro i f out h s _
  obtain ⟨comp, he, hc⟩ := bitForm_alu h
  exact lanewise_alu (he s) hc

end Sys2Proof.Machine
end

section
/-! ## The register store (chapter 04)

SEL, PLOP, P2V, V2P, MOVG (R97-R101); WBASE, IXSET, IXADD, EMPTY, TFULL (R102-R107); SWR, SRD, TIME (R86, R104, R105); ALLOT (R108). -/

namespace Sys2Proof.Machine

/-! ### An issue that changes its group before every member goes on -/

/-- A state differs from another in what its issuing group holds: the frontier, who lives and who streams are as before. -/
structure State.recasts (s m : State) (c : Cur) (h : Group) : Prop where
  group : s.regrouped m c h
  keeps : s.keeps m c
  grids : m.grids = s.grids
  entries : h.entries = (s.grp c).entries

theorem State.recasts_refl {s : State} {c : Cur} {t : Team} {g : Group} {e : Entry} (hi : s.issues c t g e) : s.recasts s c g := by
  obtain ⟨ht, hg, hlen, -⟩ := holds_of_issues hi
  have hh : s.holds c := ⟨t, ht, hi.2.1, hlen⟩
  have hgrp : s.grp c = g := (grp_of ht).trans hg
  exact ⟨⟨hh, hgrp, others_refl s c, rfl⟩, keeps_refl s c hh, rfl, by rw [hgrp]⟩

theorem State.recasts_setGroup {s : State} {c : Cur} {t : Team} {g h : Group} {e : Entry} (hi : s.issues c t g e) (hent : h.entries = g.entries)
    (hlive : ∀ l, (h.thread l).live = (g.thread l).live ∧ (h.thread l).mx = (g.thread l).mx) :
    s.recasts (s.setTeam (t.setGroup c.grp h)) c h := by
  obtain ⟨ht, hg, hlen, -⟩ := holds_of_issues hi
  have htid := hi.2.1
  have hself : (s.setTeam (t.setGroup c.grp h)).team? c.tid = some (t.setGroup c.grp h) :=
    htid ▸ setTeam_self s (t.setGroup c.grp h) t (htid ▸ ht : s.team? t.tid = some t)
  exact ⟨setGroup_regrouped s c t h ht htid hlen, ⟨t, _, ht, htid, hself, kin_setGroup t c.grp h (hg ▸ hlive)⟩, setTeam_grids _ _,
    hent.trans (by rw [grp_of ht, hg])⟩

/-- After such a change, made of the acting lanes' effects on `g0`, every member goes on to the next word. -/
theorem State.recasts.spread {s m : State} {c : Cur} {t : Team} {g g0 : Group} {e : Entry} {gd : Guard} {eff : Group → Nat → Group}
    (hi : s.issues c t g e) (h : s.recasts m c ((actLanes g e gd).foldl eff g0)) :
    s.spread (finishIssue m c e ((actLanes g e gd).map fun l => (l, .next))) c g0 e (actLanes g e gd) (fun _ => e.next) eff := by
  obtain ⟨ht, hg, -, -⟩ := holds_of_issues hi
  have hfs : ∀ x ∈ (actLanes g e gd).map (fun l => (l, Fate.next)), x.2.moves = true := by
    intro x hx
    obtain ⟨l, -, rfl⟩ := List.mem_map.1 hx
    rfl
  obtain ⟨hstands, -⟩ := finishIssue_moves m c e _ h.group.holds hfs
  have f := finishIssue_settles m c e _ h.group.holds hfs
  have hapart : ∀ x ∈ (m.grp c).entries.erase e, x.mask &&& e.mask = 0 := by
    rw [h.group.grp, h.entries, grp_of ht, hg]
    exact hi.2.2.2
  have hnext (l : Nat) (hl : l ∈ lanesOf e.mask) := hstands hapart l hl e.next (by rw [fateOf_map, ite_self]; rfl)
  exact ⟨⟨fun l hl => hnext l (actLanes_sub hl), fun l hl _ => hnext l hl⟩, f.store.trans (by rw [h.group.grp]), others_trans h.group.others f.others,
    f.flight.trans (State.flight_of_keeps h.keeps), f.grids.trans (gridSettle_grids s m c h.keeps h.grids), f.rest.trans h.group.rest⟩

/-- An issue that is not held back, whose run changes the group by the acting lanes' effects. -/
theorem issue_recasts {s m : State} {c : Cur} {t : Team} {g g0 : Group} {e : Entry} {gd : Guard} {srcs : List (Reg × Nat)}
    {ready : State → Cur → List Nat → Bool} {run : Cur → Entry → List Nat → State → State × List (Nat × Fate)} {eff : Group → Nat → Group}
    (hi : s.issues c t g e) (hs : ∀ l ∈ actLanes g e gd, ∀ x ∈ srcs, srcPending g l x.1 x.2 = false)
    (hr : ready s c (actLanes g e gd) = true) (hrun : run c e (actLanes g e gd) s = (m, (actLanes g e gd).map fun l => (l, .next)))
    (h : s.recasts m c ((actLanes g e gd).foldl eff g0)) :
    ∃ s', issue s gd srcs ready run = .next s' ∧ s.spread s' c g0 e (actLanes g e gd) (fun _ => e.next) eff :=
  ⟨_, issue_ready s gd srcs ready run c t g e m (fun _ => .next) hi hs hr (fun _ _ => nofun) hrun, h.spread hi⟩

/-! ### SEL, PLOP, P2V, V2P (R98, R100, R101) -/

theorem sizeRegs_eq (n : Nat) : sizeRegs n = 2 ^ n := Nat.one_shiftLeft n

theorem sel_lanewise (s : State) (gd : Guard) (d a b : Reg) (size neg : BitVec 1) (pc : BitVec 3) :
    let w := 2 ^ size.toNat
    s.lanewise (.sel gd d a b size neg pc) gd (fun g _ l => g.has l a w ∧ g.has l b w ∧ g.room l d w) (fun _ e _ => e.next)
      fun g _ h l =>
        let x := if ((h.thread l).pred pc.toNat != (neg == 1)) then g.opnd l a w else g.opnd l b w
        h.put g l d w x.val (x.poison, x.pt) := by
  refine lanewise_runG (srcs := [(a, sizeRegs size.toNat), (b, sizeRegs size.toNat)]) rfl (fun g e l ⟨ha, hb, _⟩ x hx => ?_)
    (fun g e h l => h.put_alters ..) fun g e h l ⟨ha, hb, hd⟩ _ _ => ?_
  · rw [sizeRegs_eq] at hx
    rcases List.mem_cons.1 hx with rfl | hx
    · exact ha
    · rw [List.mem_singleton.1 hx]
      exact hb
  · unfold selBody
    rw [sizeRegs_eq, Group.opnd_of_has ha, Group.opnd_of_has hb, Group.dst_of_room hd]
    rfl

theorem plop_lanewise (s : State) (gd : Guard) (op pd pa pb : BitVec 3) :
    s.lanewise (.plop gd op pd pa pb) gd (fun _ _ _ => True) (fun _ e _ => e.next) fun _ _ h l =>
      let p := (h.thread l).pred pa.toNat
      let q := (h.thread l).pred pb.toNat
      h.updThread l fun t => t.setPred pd.toNat (match op.toNat with
        | 0 => p && q | 1 => p || q | 2 => p != q | 3 => p && !q | 4 => p || !q | _ => p == q) := by
  refine lanewise_runG (srcs := []) rfl (fun _ _ _ _ => nofun) (fun g e h l => Group.alters_setPred ..) fun g e h l _ _ _ => ?_
  rfl

theorem p2v_lanewise (s : State) (gd : Guard) (d : Reg) :
    s.lanewise (.p2v gd d) gd (fun g _ l => g.room l d 1) (fun _ e _ => e.next)
      fun g _ h l => h.put g l d 1 ((h.thread l).preds.toNat + 2 ^ 7) := by
  refine lanewise_runG (srcs := []) rfl (fun _ _ _ _ => nofun) (fun g e h l => h.put_alters ..) fun g e h l hd _ _ => ?_
  unfold p2vBody
  rw [Group.dst_of_room hd]
  rfl

theorem v2p_lanewise (s : State) (gd : Guard) (a : Reg) (mask : BitVec 7) :
    s.lanewise (.v2p gd a mask) gd (fun g _ l => g.has l a 1 ∧ (mask = 0 ∨ g.clean l a 1)) (fun _ e _ => e.next)
      fun g _ h l => h.updThread l fun t => { t with preds := (t.preds &&& ~~~mask) ||| (BitVec.ofNat 7 (g.val l a 1) &&& mask) } := by
  refine lanewise_runG (srcs := [(a, 1)]) rfl (fun g e l hr x hx => ?_)
    (fun g e h l => Group.alters_updThread fun _ => ⟨rfl, rfl⟩) fun g e h l hr _ _ => ?_
  · rw [List.mem_singleton.1 hx]
    exact hr.1
  · obtain ⟨ha, hc⟩ := hr
    unfold v2pBody
    rw [Group.opnd_of_has ha]
    dsimp only [bind, Except.bind]
    split
    · next hm =>
      have hp : consumeAll [g.opnd l a 1] = .ok () :=
        consumeAll_of_clean (List.forall_mem_singleton.2 (hc.resolve_left (by simpa using hm)).2)
      rw [hp]
      rfl
    · rfl

/-! ### MOVG (R97) -/

/-- A step that one lane of a list takes, and the others do not. -/
theorem foldl_once {σ : Type} {f : σ → σ} {k : Nat} {ls : List Nat} (hn : ls.Nodup) (hk : k ∈ ls) (a : σ) :
    ls.foldl (fun x l => if l = k then f x else x) a = f a := by
  have none (ls : List Nat) (hk : k ∉ ls) (a : σ) : ls.foldl (fun x l => if l = k then f x else x) a = a :=
    List.foldlRecOn (motive := fun x => x = a) ls _ rfl fun x hx l hl => by
      rw [hx, if_neg]
      rintro rfl
      exact hk hl
  obtain ⟨pre, post, rfl⟩ := List.append_of_mem hk
  obtain ⟨-, hpost, hapart⟩ := List.nodup_append.1 hn
  rw [List.foldl_append, List.foldl_cons, none pre (fun h => hapart k h k List.mem_cons_self rfl), if_pos rfl, none post (List.nodup_cons.1 hpost).1]

/-- A step that every lane of a list takes, and that comes to the same once it is taken. -/
theorem foldl_idem {σ : Type} {f : σ → σ} (hf : ∀ x, f (f x) = f x) {ls : List Nat} (hne : ls ≠ []) (a : σ) : ls.foldl (fun x _ => f x) a = f a := by
  obtain ⟨l, ls, rfl⟩ := List.exists_cons_of_ne_nil hne
  exact List.foldlRecOn (motive := fun x => x = f a) ls _ rfl fun x hx _ _ => by rw [hx, hf]

/-- A change of one place of a list that comes to the same once it is made. -/
theorem set_getD_idem {α : Type} {f : α → α} (hf : ∀ x, f (f x) = f x) (xs : List α) (n : Nat) (z : α) :
    (xs.set n (f (xs.getD n z))).set n (f ((xs.set n (f (xs.getD n z))).getD n z)) = xs.set n (f (xs.getD n z)) := by
  by_cases hn : n < xs.length
  · rw [List.set_set, List.getD_eq_getElem _ _ (by simpa using hn), List.getElem_set_self, hf]
  · rw [List.set_eq_of_length_le (Nat.le_of_not_lt hn), List.set_eq_of_length_le (Nat.le_of_not_lt hn)]

/-- Two updates of one thread. -/
theorem Group.updThread_updThread (g : Group) (l : Nat) (f f' : Thread → Thread) :
    (g.updThread l f).updThread l f' = g.updThread l fun t => f' (f t) := by
  by_cases hl : l < g.lanes.length
  · have ht : (g.updThread l f).thread l = f (g.thread l) := by rw [thread_set, if_pos ⟨rfl, hl⟩]
    show (g.updThread l f).setThread l (f' ((g.updThread l f).thread l)) = _
    rw [ht]
    exact congrArg (fun ls => { g with lanes := ls }) (List.set_set ..)
  · unfold Group.updThread Group.setThread
    simp only [List.set_eq_of_length_le (Nat.le_of_not_lt hl)]

/-- A register whose state has been changed is in that state. -/
theorem markRef_idem (g : Group) (l : Nat) (r : Ref) (st : RState) : markRef (markRef g l r 1 st) l r 1 st = markRef g l r 1 st := by
  let f (x : Slot) : Slot := { x with st := st, poison := false, pt := false }
  cases r with
  | null => rfl
  | g n => exact congrArg (fun xs => { g with gregs := xs }) (set_getD_idem (f := f) (fun _ => rfl) g.gregs n Slot.zero)
  | v n =>
    let mark (t : Thread) : Thread := { t with regs := t.regs.set n (f (t.slot n)) }
    have hidem (t : Thread) : mark (mark t) = mark t :=
      congrArg (fun xs => { t with regs := xs }) (set_getD_idem (f := f) (fun _ => rfl) t.regs n Slot.zero)
    calc markRef (markRef g l (.v n) 1 st) l (.v n) 1 st = (g.updThread l mark).updThread l mark := rfl
      _ = g.updThread l mark := by simp only [Group.updThread_updThread, hidem]

/-- What MOVG makes of the group it finds, where lane `src` is the source and the lanes `act` issue. -/
def movgEffect (d a : Reg) (src : Nat) (act : List Nat) (g : Group) : Group :=
  if src ∈ act then g.put g src d 1 (g.opnd src a 1).val ((g.opnd src a 1).poison, (g.opnd src a 1).pt)
  else markRef g src (g.dst src d 1) 1 .void

theorem movgEffect_alters (d a : Reg) (src : Nat) (act : List Nat) (g : Group) : g.alters src (movgEffect d a src act g) := by
  unfold movgEffect
  split
  · exact g.put_alters ..
  · exact markRef_alters ..

/-- The effect comes once, whichever lane it is told of. -/
theorem foldl_movg {act : List Nat} (hn : act.Nodup) (hne : act ≠ []) (d a : Reg) (src : Nat) (g : Group) :
    act.foldl (fun h l =>
      if src ∈ act then
        if l = src then h.put g l d 1 (g.opnd l a 1).val ((g.opnd l a 1).poison, (g.opnd l a 1).pt) else h
      else markRef h src (g.dst src d 1) 1 .void) g = movgEffect d a src act g := by
  unfold movgEffect
  split
  · next hin =>
    rw [← foldl_once (f := fun h : Group => h.put g src d 1 (g.opnd src a 1).val ((g.opnd src a 1).poison, (g.opnd src a 1).pt)) hn hin]
    refine List.foldl_ext _ _ _ fun h l _ => ?_
    split
    · next hl => rw [hl]
    · rfl
  · exact foldl_idem (f := fun h => markRef h src (g.dst src d 1) 1 .void) (fun h => markRef_idem ..) hne g

/-- MOVG's run, where its source lane has its operand or does not issue. -/
theorem movgRun_issues {s : State} {c : Cur} {t : Team} {g : Group} {e : Entry} {act : List Nat} {d a : Reg} {first : Bool} {lane src : Nat}
    (ht : s.team? c.tid = some t) (hg : t.group c.grp = g) (hsrc : (if first then act.headD lane else lane) = src) (hne : act ≠ [])
    (hroom : g.room src d 1) (hhas : src ∈ act → g.has src a 1) :
    movgRun d a first lane c e act s = (s.setTeam (t.setGroup c.grp (movgEffect d a src act g)), act.map fun l => (l, .next)) := by
  unfold movgRun movgEffect
  rw [ht]
  dsimp only
  rw [hg, hsrc, Group.dst_of_room hroom]
  dsimp only
  by_cases hin : src ∈ act
  · rw [List.contains_iff_mem.2 hin, Group.opnd_of_has (hhas hin), if_pos hin]
    rfl
  · rw [show act.contains src = false by simpa using hin, show act.isEmpty = false by simpa using hne, if_neg hin]
    rfl

theorem movgReady_issues {s : State} {c : Cur} {t : Team} {g : Group} {act : List Nat} {a : Reg} {first : Bool} {lane src : Nat}
    (ht : s.team? c.tid = some t) (hg : t.group c.grp = g) (hsrc : (if first then act.headD lane else lane) = src)
    (hhas : src ∈ act → g.has src a 1) : movgReady a first lane s c act = true := by
  unfold movgReady
  rw [ht]
  dsimp only
  rw [hg, hsrc]
  by_cases hin : src ∈ act
  · rw [Group.notPending_of_has (hhas hin), Bool.and_false]
    rfl
  · rw [show act.contains src = false by simpa using hin]
    rfl

theorem movg_lanewise (s : State) (gd : Guard) (d a : Reg) (first : BitVec 1) (lane : BitVec 5) :
    let src (g : Group) (e : Entry) : Nat := if first = 1 then (actLanes g e gd).headD lane.toNat else lane.toNat
    s.lanewise (.movg gd d a first lane) gd
      (fun g e _ => g.room (src g e) d 1 ∧ (src g e ∈ actLanes g e gd → g.has (src g e) a 1)) (fun _ e _ => e.next)
      fun g e h l =>
        if src g e ∈ actLanes g e gd then
          if l = src g e then h.put g l d 1 (g.opnd l a 1).val ((g.opnd l a 1).poison, (g.opnd l a 1).pt) else h
        else markRef h (src g e) (g.dst (src g e) d 1) 1 .void := by
  intro src c t g e hi hr
  obtain ⟨ht, hg, -, -⟩ := holds_of_issues hi
  have hsrc : (if (first == 1) = true then (actLanes g e gd).headD lane.toNat else lane.toNat) = src g e := by simp only [beq_iff_eq]; rfl
  have hready := movgReady_issues ht hg hsrc fun hin => (hr _ hin).2 hin
  by_cases hact : actLanes g e gd = []
  · refine issue_recasts (m := s) hi (fun _ _ => nofun) hready ?_ (by rw [hact]; exact State.recasts_refl hi)
    unfold movgRun
    rw [ht, hact]
    dsimp only
    split <;> rfl
  · obtain ⟨k, hk⟩ := List.exists_mem_of_ne_nil _ hact
    obtain ⟨hroom, hhas⟩ := hr k hk
    have hal := movgEffect_alters d a (src g e) (actLanes g e gd) g
    refine issue_recasts hi (fun _ _ => nofun) hready (movgRun_issues ht hg hsrc hact hroom hhas) ?_
    rw [foldl_movg (actLanes_nodup g e gd) hact]
    exact State.recasts_setGroup hi hal.entries hal.pulse

/-- Settles O5: each of the first four runs its body over the group; MOVG changes the group once. -/
theorem selectsAndPredicates : Obligations.SelectsAndPredicates := by
  unfold Obligations.SelectsAndPredicates
  exact ⟨fun s => ⟨fun gd d a b size neg pc => sel_lanewise s gd d a b size neg pc, fun gd op pd pa pb => plop_lanewise s gd op pd pa pb,
    fun gd d => p2v_lanewise s gd d, fun gd a mask => v2p_lanewise s gd a mask⟩, fun s gd d a first lane => movg_lanewise s gd d a first lane⟩

/-! ### WBASE, IXSET, IXADD, EMPTY, TFULL (R102, R103, R106, R107) -/

theorem wbase_lanewise (s : State) (gd : Guard) (a : Reg) (rel : BitVec 1) (delta : BitVec 16) :
    let new (g : Group) (l : Nat) : Int := (if rel = 1 then ((g.thread l).wb : Int) else 0) + asSigned (g.val l a 1) + delta.toInt
    s.lanewise (.wbase gd a rel delta) gd
      (fun g _ l => g.clean l a 1 ∧ new g l % 8 = 0 ∧ 0 ≤ new g l ∧ new g l ≤ (g.allot : Int) - 8) (fun _ e _ => e.next)
      fun g _ h l => h.updThread l fun t => { t with wb := (new g l).toNat } := by
  intro new
  refine lanewise_runG (srcs := [(a, 1)]) rfl (fun g e l hr => List.forall_mem_singleton.2 hr.1.1)
    (fun g e h l => Group.alters_updThread fun _ => ⟨rfl, rfl⟩) fun g e h l ⟨ha, h8, h0, hmax⟩ ht hal => ?_
  have hc : consumeAll [g.opnd l a 1] = .ok () := consumeAll_of_clean (List.forall_mem_singleton.2 ha.2)
  have hnew : (if (rel == 1) = true then ((h.thread l).wb : Int) else 0) + (BitVec.ofNat 32 (g.opnd l a 1).val).toInt + delta.toInt = new g l := by
    rw [ht, show (BitVec.ofNat 32 (g.opnd l a 1).val).toInt = _ from toInt_word (g.val_lt l a)]
    simp only [beq_iff_eq]
    rfl
  unfold wbaseBody
  rw [Group.opnd_of_has ha.1]
  dsimp only [bind, Except.bind]
  rw [hc]
  dsimp only
  rw [hnew, hal, if_neg]
  · rfl
  · simp only [Bool.or_eq_true, bne_iff_ne, decide_eq_true_eq]
    omega

theorem ix_body {g h : Group} {e : Entry} {l : Nat} {a : Reg} (ha : g.clean l a 1) (add : Bool) (imm : BitVec 32) :
    ixBody add a imm e g h l =
      .ok (h.updThread l fun t => { t with ix := BitVec.ofNat 10 ((if add then t.ix.toNat else 0) + g.val l a 1 + imm.toNat) }, .next) := by
  have hc : consumeAll [g.opnd l a 1] = .ok () := consumeAll_of_clean (List.forall_mem_singleton.2 ha.2)
  unfold ixBody
  rw [Group.opnd_of_has ha.1]
  dsimp only [bind, Except.bind]
  rw [hc]
  rfl

theorem ixset_lanewise (s : State) (gd : Guard) (a : Reg) (imm : BitVec 32) :
    s.lanewise (.ixset gd a imm) gd (fun g _ l => g.clean l a 1) (fun _ e _ => e.next)
      fun g _ h l => h.updThread l fun t => { t with ix := BitVec.ofNat 10 (g.val l a 1 + imm.toNat) } :=
  lanewise_runG (srcs := [(a, 1)]) rfl (fun _ _ _ hr => List.forall_mem_singleton.2 hr.1) (fun _ _ _ _ => Group.alters_updThread fun _ => ⟨rfl, rfl⟩)
    fun g e h l ha _ _ => by
      rw [ix_body ha]
      simp only [Bool.false_eq_true, if_false, Nat.zero_add]

theorem ixadd_lanewise (s : State) (gd : Guard) (a : Reg) (imm : BitVec 32) :
    s.lanewise (.ixadd gd a imm) gd (fun g _ l => g.clean l a 1) (fun _ e _ => e.next)
      fun g _ h l => h.updThread l fun t => { t with ix := BitVec.ofNat 10 (t.ix.toNat + g.val l a 1 + imm.toNat) } :=
  lanewise_runG (srcs := [(a, 1)]) rfl (fun _ _ _ hr => List.forall_mem_singleton.2 hr.1) (fun _ _ _ _ => Group.alters_updThread fun _ => ⟨rfl, rfl⟩)
    fun _ _ _ _ ha _ _ => ix_body ha true imm

theorem empty_lanewise (s : State) (gd : Guard) (d : Reg) (size : BitVec 2) :
    s.lanewise (.empty gd d size) gd (fun g _ l => g.room l d (2 ^ size.toNat)) (fun _ e _ => e.next)
      fun g _ h l => markRef h l (g.dst l d (2 ^ size.toNat)) (2 ^ size.toNat) .void :=
  lanewise_runG (srcs := []) rfl (fun _ _ _ _ => nofun) (fun _ _ h _ => markRef_alters h ..) fun g e h l hd _ _ => by
    unfold emptyBody
    rw [sizeRegs_eq, Group.dst_of_room hd]
    rfl

theorem tfull_lanewise (s : State) (gd : Guard) (a : Reg) (test : BitVec 2) (pd : BitVec 3) :
    s.lanewise (.tfull gd a test pd) gd (fun g _ l => ∃ r, resolve g l a 1 = .ok r) (fun _ e _ => e.next) fun g _ h l =>
      let st := match resolve g l a 1 with
        | .ok r => ((slotsOf g l r 1).headD Slot.zero).st
        | .error _ => .full
      h.updThread l fun t => t.setPred pd.toNat (match test.toNat with
        | 0 => st == .full | 1 => st == .pending | _ => st == .void) := by
  refine lanewise_runG (srcs := []) rfl (fun _ _ _ _ => nofun) (fun _ _ _ _ => Group.alters_setPred ..) fun g e h l ⟨r, hr⟩ _ _ => ?_
  unfold tfullBody
  rw [hr]
  rfl

/-- Settles O6: each of the five runs its body over the group. -/
theorem windowIndexAndStates : Obligations.WindowIndexAndStates := by
  unfold Obligations.WindowIndexAndStates
  exact ⟨fun s => ⟨fun gd a rel delta => wbase_lanewise s gd a rel delta, fun gd a imm => ixset_lanewise s gd a imm,
      fun gd a imm => ixadd_lanewise s gd a imm⟩,
    fun s => ⟨fun gd d size => empty_lanewise s gd d size, fun gd a test pd => tfull_lanewise s gd a test pd⟩⟩

end Sys2Proof.Machine
end

section
/-! ## Special registers and ALLOT (R86, R104, R105, R108) -/

namespace Sys2Proof.Machine

/-! ### SWR (R105) -/

/-- What SWR does to the group in one lane, register by register (R105, R152, R159, R205, R347). -/
def swrEffect (sel v : Nat) (h : Group) (l : Nat) : Group :=
  match sel with
  | 0x0B => h.updThread l fun t => { t with ix := BitVec.ofNat 10 v }
  | 0x0C => h.updThread l fun t => { t with aw := BitVec.ofNat 4 (v / 64) }
  | 0x0D => h.updThread l fun t => { t with mt := v.testBit 1 }
  | 0x0E => { h with flags := BitVec.ofNat 5 v }
  | 0x0F => { h with fctl := BitVec.ofNat 5 v }
  | 0x10 => h.updThread l fun t => { t with amax := amaxWrite (BitVec.ofNat 32 v) }
  | _ => h.updThread l fun t => { t with trappc := BitVec.ofNat 64 (v % 2 ^ 56 - v % 8) }

theorem swrEffect_alters (sel v : Nat) (h : Group) (l : Nat) : h.alters l (swrEffect sel v h l) := by
  unfold swrEffect
  split
  case h_4 | h_5 => exact ⟨rfl, rfl, rfl, fun _ _ => rfl, rfl, rfl⟩
  all_goals exact Group.alters_updThread fun _ => ⟨rfl, rfl⟩

theorem swrWrite_eq {sel v : Nat} {h : Group} {l : Nat} (hmx : sel = 0x0C → (h.thread l).mx = false) :
    swrWrite h l sel v = .ok (swrEffect sel v h l) := by
  by_cases h12 : sel = 0x0C
  · subst h12
    exact if_neg (by rw [hmx rfl]; decide)
  have h8 : v % 2 ^ 56 / 8 * 8 = v % 2 ^ 56 - v % 8 := by omega
  unfold swrWrite
  dsimp only
  rw [h8]
  split
  case h_2 => contradiction
  case h_7 =>
    unfold swrEffect
    split
    case h_7 => rfl
    all_goals contradiction
  all_goals rfl

theorem swr_lanewise (s : State) (gd : Guard) (a : Reg) {sr : BitVec 16} (hw : SReg.writable sr = true) :
    s.lanewise (.swr gd a sr) gd (fun g _ l => g.clean l a (SReg.regs sr) ∧ (sr = 0x0C → (g.thread l).mx = false)) (fun _ e _ => e.next)
      fun g _ h l => swrEffect sr.toNat (g.val l a (SReg.regs sr)) h l := by
  refine lanewise_runG (srcs := if SReg.writable sr then [(a, SReg.regs sr)] else []) rfl (fun g e l hr => ?_) (fun g e h l => swrEffect_alters ..)
    fun g e h l ⟨ha, hmx⟩ ht _ => ?_
  · rw [hw]
    exact List.forall_mem_singleton.2 hr.1.1
  · unfold swrBody
    rw [hw, Group.opnd_of_has ha.1]
    dsimp only [bind, Except.bind]
    rw [consumeAll_of_clean (List.forall_mem_singleton.2 ha.2)]
    dsimp only
    rw [swrWrite_eq fun h => ht ▸ hmx (BitVec.toNat_inj.1 h)]
    rfl

/-- An instruction whose body runs over the group fails in every acting lane, and each takes the trap its body gives (R346). -/
theorem runG_traps {s : State} {c : Cur} {t : Team} {g : Group} {e : Entry} {v : BitVec 64} (hi : s.issues c t g e) (hh : s.handled c t e v)
    {gd : Guard} {srcs : List (Reg × Nat)} {body : Entry → Group → Group → Nat → Except Fate (Group × Fate)} {tr : Nat → Trap}
    (hs : ∀ l ∈ actLanes g e gd, ∀ x ∈ srcs, g.has l x.1 x.2) (hb : ∀ l ∈ actLanes g e gd, body e g g l = .error (.trap (tr l))) :
    ∃ s', issue s gd srcs always (runG body) = .next s' ∧ s.traps s' c g e (actLanes g e gd) tr v := by
  obtain ⟨ht, hg, -, -⟩ := holds_of_issues hi
  have hrun : runG body c e (actLanes g e gd) s = (s.setTeam (t.setGroup c.grp g), (actLanes g e gd).map fun l => (l, .trap (tr l))) := by
    unfold runG
    rw [ht]
    dsimp only
    rw [hg, foldLanes_error hb]
  refine ⟨_, issue_ready s gd srcs always _ c t g e _ (fun l => .trap (tr l)) hi (fun l hl x hx => Group.notPending_of_has (hs l hl x hx)) rfl
    (fun _ _ => nofun) hrun, finish_traps hi hh rfl (fun _ => ⟨rfl, rfl⟩) fun l hl => ?_⟩
  rw [fateOf_map]
  unfold trapFate actLanes
  simp only [List.mem_filter, hl, true_and]

theorem swr_privilege {s : State} {c : Cur} {t : Team} {g : Group} {e : Entry} {v : BitVec 64} (hi : s.issues c t g e) (hh : s.handled c t e v)
    (gd : Guard) (a : Reg) {sr : BitVec 16} (hw : SReg.writable sr = false) :
    ∃ s', exec (.swr gd a sr) s = .next s' ∧
      s.traps s' c g e (actLanes g e gd) (fun _ => ⟨.privilege, 0, (encode (.swr gd a sr)).getD 0⟩) v := by
  refine runG_traps (srcs := if SReg.writable sr then [(a, SReg.regs sr)] else []) hi hh (fun l _ => ?_) fun l _ => ?_
  · rw [hw]
    exact nofun
  · unfold swrBody
    rw [hw]
    rfl

theorem swr_modeAlias {s : State} {c : Cur} {t : Team} {g : Group} {e : Entry} {v : BitVec 64} (hi : s.issues c t g e) (hh : s.handled c t e v)
    {gd : Guard} {a : Reg} (hr : ∀ l ∈ actLanes g e gd, g.clean l a 1 ∧ (g.thread l).mx = true) :
    ∃ s', exec (.swr gd a 0x0C) s = .next s' ∧ s.traps s' c g e (actLanes g e gd) (fun _ => ⟨.modeAlias, 0, 0⟩) v := by
  refine runG_traps (srcs := [(a, 1)]) hi hh (fun l hl => List.forall_mem_singleton.2 (hr l hl).1.1) fun l hl => ?_
  obtain ⟨ha, hmx⟩ := hr l hl
  show (readSrc g l a 1 >>= _ : Except Fate (Group × Fate)) = _
  rw [Group.opnd_of_has ha.1]
  dsimp only [bind, Except.bind]
  rw [consumeAll_of_clean (List.forall_mem_singleton.2 ha.2)]
  show (if (g.thread l).mx = true then _ else _ : Except Fate Group) >>= _ = _
  rw [if_pos hmx]
  rfl

/-! ### SRD and TIME (R86, R104, R385) -/

/-- What Table 4 of R86 says of each register of a lane, where the spec states it for the thread. -/
def srdStated (s : State) (c : Cur) (t : Team) (g : Group) (sel l : Nat) : Option Nat :=
  let team (v : Nat) : Option Nat := if c.tid = 0 then none else some v
  let context (f : Ctx → Nat) : Option Nat := (s.ctx? t.ctx).map f
  let th := g.thread l
  match sel with
  | 0x00 => some l
  | 0x01 => some c.grp
  | 0x02 => team t.team
  | 0x03 => team t.grid.toNat
  | 0x04 => some t.groups.length
  | 0x05 => some g.role
  | 0x06 => team t.quad
  | 0x07 => team t.core
  | 0x08 => team (t.core / 4)
  | 0x09 => some th.wb
  | 0x0A => some g.allot
  | 0x0B => some th.ix.toNat
  | 0x0C => some (64 * th.aw.toNat)
  | 0x0D => some (th.mx.toNat + 2 * th.mt.toNat + 2 ^ 9 * th.scaled.toNat + 2 ^ 10 * th.shape.toNat + 2 ^ 12 * th.mtype.toNat)
  | 0x0E => some g.flags.toNat
  | 0x0F => some g.fctl.toNat
  | 0x10 => some th.amax.toNat
  | 0x11 => some (s.time.toNat % 2 ^ 32)
  | 0x12 => some (s.time.toNat / 2 ^ 32)
  | 0x13 => team t.cls.toNat
  | 0x14 => context Ctx.wear
  | 0x15 => some th.trapc.toNat
  | 0x16 => some th.trappc.toNat
  | 0x17 => some th.trapa.toNat
  | 0x18 => some ((t.ifr.filter t.fwBit).length + 2 ^ 16 * (512 - t.ifr.length) + 2 ^ 30 * t.rp.toNat + 2 ^ 31 * t.ft.toNat)
  | 0x19 => team t.ctx.toNat
  | 0x1A => context fun x => 2 ^ 8 + x.minor
  | _ => none

theorem Thread.modeWord_eq (th : Thread) : th.modeWord =
    th.mx.toNat + 2 * th.mt.toNat + 2 ^ 9 * th.scaled.toNat + 2 ^ 10 * th.shape.toNat + 2 ^ 12 * th.mtype.toNat := by
  unfold Thread.modeWord
  cases th.mx <;> cases th.mt <;> cases th.scaled <;> simp <;> omega

theorem Team.ifrsWord_eq (t : Team) : t.ifrsWord =
    (t.ifr.filter t.fwBit).length + 2 ^ 16 * (512 - t.ifr.length) + 2 ^ 30 * t.rp.toNat + 2 ^ 31 * t.ft.toNat := by
  unfold Team.ifrsWord ifrCapacity
  cases t.rp <;> cases t.ft <;> simp <;> omega

theorem sregRead_stated {s : State} {c : Cur} {t : Team} {g : Group} (hn : t.tid = c.tid) (hg : t.group c.grp = g) {sel l x : Nat}
    (h : srdStated s c t g sel l = some x) : sregRead s t c.grp l sel = x := by
  have team {v w : Nat} (h : (if c.tid = 0 then none else some v) = some x) : (if (t.tid == 0) = true then w else v) = x := by
    rw [hn]
    split at h
    · cases h
    · next h0 => rw [if_neg (by simpa using h0)]; exact Option.some.inj h
  unfold srdStated at h
  unfold sregRead
  rw [hg]
  dsimp only at h ⊢
  split at h
  case h_3 | h_4 | h_7 | h_8 | h_9 | h_20 | h_26 => exact team h
  case h_14 => exact (Thread.modeWord_eq _).trans (Option.some.inj h)
  case h_25 => exact (Team.ifrsWord_eq _).trans (Option.some.inj h)
  case h_13 => exact (Nat.mul_comm _ _).trans (Option.some.inj h)
  case h_21 | h_27 =>
    obtain ⟨k, hk, rfl⟩ := Option.map_eq_some_iff.1 h
    rw [hk]
    rfl
  case h_28 => cases h
  all_goals exact Option.some.inj h

/-- SRD brings, in every acting lane, what `sregRead` reads there as the issue finds it. -/
theorem srd_spread {s : State} {c : Cur} {t : Team} {g : Group} {e : Entry} (hi : s.issues c t g e) {gd : Guard} {d : Reg} {sr : BitVec 16}
    (hd : ∀ l ∈ actLanes g e gd, g.room l d (SReg.regs sr)) :
    ∃ s', exec (.srd gd d sr) s = .next s' ∧
      State.spread { s with fresh := s.fresh + 1 } s' c g e (actLanes g e gd) (fun _ => e.next) fun h l =>
        h.put g l d (SReg.regs sr) (sregRead s t c.grp l sr.toNat) := by
  obtain ⟨ht, hg, -, -⟩ := holds_of_issues hi
  have hi' : State.issues { s with fresh := s.fresh + 1 } c t g e := hi
  have hrun : srdRun d sr c e (actLanes g e gd) s = (State.setTeam { s with fresh := s.fresh + 1 } (t.setGroup c.grp ((actLanes g e gd).foldl
      (fun h l => h.put g l d (SReg.regs sr) (sregRead s t c.grp l sr.toNat)) g)), (actLanes g e gd).map fun l => (l, .next)) := by
    unfold srdRun runG
    rw [ht, show State.team? { s with fresh := s.fresh + 1 } c.tid = some t from ht]
    dsimp only
    rw [hg, foldLanes_ok _ (fun h l => h.put g l d (SReg.regs sr) (sregRead s t c.grp l sr.toNat)) (fun _ => .next)]
    intro pre l post hl
    unfold srdBody
    dsimp only
    rw [Group.dst_of_room (hd l (hl ▸ List.mem_append_right _ List.mem_cons_self))]
    rfl
  obtain ⟨hent, hpulse⟩ := foldl_alters_pulse (fun h l => h.put_alters g l d (SReg.regs sr) (sregRead s t c.grp l sr.toNat) (false, false))
    (actLanes g e gd) g
  exact ⟨_, issue_ready s gd [] always _ c t g e _ (fun _ => .next) hi (fun _ _ => nofun) rfl (fun _ _ => nofun) hrun,
    (State.recasts_setGroup hi' hent hpulse).spread hi'⟩

theorem time_lanewise (s : State) (gd : Guard) (d : Reg) :
    s.lanewise (.time gd d) gd (fun g _ l => g.room l d 2) (fun _ e _ => e.next) fun g _ h l => h.put g l d 2 s.time.toNat := by
  have h := lanewise_alu (s := s) (i := .time gd d) (f := ⟨gd, d, 2, [], 7, false⟩) (out := fun _ => (s.time.toNat, false)) rfl fun _ _ => rfl
  intro c t g e hi hr
  have heff : (LaneForm.effect ⟨gd, d, 2, [], 7, false⟩ fun _ => (s.time.toNat, false)) g e = fun h l => h.put g l d 2 s.time.toNat := by
    funext h l
    exact Group.updThread_id ..
  obtain ⟨s', he, hs⟩ := h c t g e hi fun l hl => ⟨nofun, hr l hl, .inl rfl⟩
  rw [heff] at hs
  exact ⟨s', he, hs⟩

/-- Settles O7: SWR register by register with its two traps, SRD against Table 4 of R86, TIME as an instruction of no operand. -/
theorem specialRegisters : Obligations.SpecialRegisters := by
  unfold Obligations.SpecialRegisters
  intro s
  refine ⟨fun gd a sr hw => swr_lanewise s gd a hw, fun gd a sr c t g e v hi hh _ => ⟨fun hw => swr_privilege hi hh gd a hw, fun hsr hr => ?_⟩,
    fun gd d sr c t g e hi hd => ?_, fun gd d => time_lanewise s gd d⟩
  · subst hsr
    exact swr_modeAlias hi hh hr
  · obtain ⟨-, hg, -, -⟩ := holds_of_issues hi
    obtain ⟨s', he, hs⟩ := srd_spread hi hd
    exact ⟨s', fun l => sregRead s t c.grp l sr.toNat, he, fun l x hx => sregRead_stated (g := g) hi.2.1 hg hx, hs⟩

/-! ### ALLOT (R108) -/

/-- The registers from `n` on that are not Pending, register by register. -/
theorem drop_notPending {xs : List Slot} {n : Nat} :
    ((xs.drop n).all (·.st != .pending)) = true ↔ ∀ k, n ≤ k → (xs.getD k Slot.zero).st ≠ .pending := by
  rw [List.all_eq_true]
  constructor
  · intro h k hk
    by_cases hlen : k < xs.length
    · rw [List.getD_eq_getElem _ _ hlen]
      exact bne_iff_ne.1 (h _ (List.mem_drop_iff_getElem.2 ⟨k - n, by omega, by congr 1; omega⟩))
    · rw [List.getD_eq_default _ _ (Nat.le_of_not_lt hlen)]
      decide
  · intro h x hx
    obtain ⟨k, hk, rfl⟩ := List.mem_drop_iff_getElem.1 hx
    have := h (n + k) (Nat.le_add_right ..)
    rw [List.getD_eq_getElem _ _ (Nat.add_comm n k ▸ hk)] at this
    exact bne_iff_ne.2 this

theorem mayShrink_iff {g : Group} {n : Nat} : mayShrink g n = true ↔ ∀ l ∈ g.liveLanes, (g.thread l).wb ≤ n - 8 ∧ 8 ≤ n ∧
    (∀ k, n ≤ k → ((g.thread l).slot k).st ≠ .pending) ∧ ((g.thread l).mx = true → (g.thread l).aw.toNat * 64 + (g.thread l).columns ≤ n) := by
  unfold mayShrink
  rw [List.all_eq_true]
  refine forall₂_congr fun l _ => ?_
  simp only [Bool.and_eq_true, decide_eq_true_eq, drop_notPending, Bool.not_eq_true', Bool.and_eq_false_imp,
    decide_eq_false_iff_not, Nat.not_lt, Thread.slot]
  constructor
  · rintro ⟨⟨h1, h2⟩, h3⟩
    exact ⟨by omega, by omega, h2, h3⟩
  · rintro ⟨h1, h8, h2, h3⟩
    exact ⟨⟨by omega, h2⟩, h3⟩

/-- R108: the allotment `n` is granted to a group. -/
def State.grants (s : State) (t : Team) (g : Group) (n : Nat) : Prop :=
  if n = g.allot then True
  else if n < g.allot then ∀ l ∈ g.liveLanes, (g.thread l).wb ≤ n - 8 ∧ 8 ≤ n ∧
    (∀ k, n ≤ k → ((g.thread l).slot k).st ≠ .pending) ∧ ((g.thread l).mx = true → (g.thread l).aw.toNat * 64 + (g.thread l).columns ≤ n)
  else t.tid = 0 ∨ 128 * (n - g.allot) ≤ s.freeStore t.core t.quad

theorem State.grants_iff {s : State} {t : Team} {g : Group} {n : Nat} :
    (if n == g.allot then true else if n < g.allot then mayShrink g n
      else t.tid == 0 || s.freeStore t.core t.quad ≥ 128 * (n - g.allot)) = true ↔ s.grants t g n := by
  unfold State.grants
  by_cases h1 : n = g.allot
  · simp [h1]
  · rw [if_neg (by simpa using h1), if_neg h1]
    by_cases h2 : n < g.allot
    · rw [if_pos h2, if_pos h2]
      exact mayShrink_iff
    · rw [if_neg h2, if_neg h2]
      simp

theorem resizeGroup_pulse (g : Group) (n : Nat) (l : Nat) :
    ((resizeGroup g n).thread l).live = (g.thread l).live ∧ ((resizeGroup g n).thread l).mx = (g.thread l).mx := by
  unfold resizeGroup Group.thread
  simp only [List.getD_eq_getElem?_getD, List.getElem?_map]
  cases g.lanes[l]? <;> exact ⟨rfl, rfl⟩

/-- The group as ALLOT leaves it, before its predicate is written. -/
def allotted (g : Group) (n : Nat) (ok : Bool) : Group := if ok && n != g.allot then resizeGroup g n else g

theorem allotted_frame (g : Group) (n : Nat) (ok : Bool) : (allotted g n ok).entries = g.entries ∧
    ∀ l, ((allotted g n ok).thread l).live = (g.thread l).live ∧ ((allotted g n ok).thread l).mx = (g.thread l).mx := by
  unfold allotted
  split
  · exact ⟨rfl, resizeGroup_pulse g n⟩
  · exact ⟨rfl, fun _ => ⟨rfl, rfl⟩⟩

/-- ALLOT of an entry that holds every live thread of its group (R108). -/
theorem allot_spread {s : State} {c : Cur} {t : Team} {g : Group} {e : Entry} (hi : s.issues c t g e) {gd : Guard} {n : BitVec 8} {pd : BitVec 3}
    {ok : Bool} (hall : ∀ l ∈ g.liveLanes, l ∈ actLanes g e gd) (hok : ok = true ↔ s.grants t g (8 * n.toNat)) :
    ∃ s', exec (.allot gd n pd) s = .next s' ∧ s.spread s' c (allotted g (8 * n.toNat) ok) e (actLanes g e gd) (fun _ => e.next)
      fun h l => h.updThread l fun x => x.setPred pd.toNat ok := by
  obtain ⟨ht, hg, -, -⟩ := holds_of_issues hi
  have hwhole : (g.liveLanes.all fun l => (s.wholeMask c e).getLsbD l) = true := by
    refine List.all_eq_true.2 fun l hl => ?_
    have hm := (mem_lanesOf.1 (actLanes_sub (hall l hl))).2
    unfold State.wholeMask
    split
    · split
      · rw [BitVec.getLsbD_or, hm, Bool.true_or]
      · exact hm
    · exact hm
  obtain ⟨hent, hpulse⟩ := foldl_alters_pulse (fun h l => Group.alters_setPred h l pd.toNat ok) (actLanes g e gd) (allotted g (8 * n.toNat) ok)
  obtain ⟨hent0, hpulse0⟩ := allotted_frame g (8 * n.toNat) ok
  refine issue_recasts (srcs := []) hi (fun _ _ => nofun) rfl ?_ (State.recasts_setGroup hi (hent.trans hent0) fun l =>
    ⟨(hpulse l).1.trans (hpulse0 l).1, (hpulse l).2.trans (hpulse0 l).2⟩)
  unfold allotRun
  rw [ht]
  dsimp only
  rw [hg, hwhole, Bool.eq_iff_iff.2 (State.grants_iff.trans hok.symm)]
  rfl

/-- Settles O8: the grant that the model computes is R108's, and the group is resized, or not, before Pd tells. -/
theorem allotment : Obligations.Allotment := by
  unfold Obligations.Allotment
  intro s gd n pd c t g e hi hall m ok
  by_cases hok : s.grants t g m
  · obtain ⟨s', he, hs⟩ := allot_spread (pd := pd) (ok := true) hi hall (by simpa using hok)
    have hg : allotted g m true = if m = g.allot then g else resizeGroup g m := by
      unfold allotted
      by_cases h : m = g.allot <;> simp [h]
    exact ⟨s', he, fun _ => hg ▸ hs, fun h => absurd hok h⟩
  · obtain ⟨s', he, hs⟩ := allot_spread (pd := pd) (ok := false) hi hall (by simpa using hok)
    exact ⟨s', he, fun h => absurd h hok, fun _ => hs⟩

end Sys2Proof.Machine
end

section
/-! ## Results that land (R79, R81, R83, R331)

PRODUCER_COMPLETION for a lane of the in-flight record and for a palette access. -/

namespace Sys2Proof.Machine

/-! ### Collectives that stay open -/

/-- No collective of the team has all its arrivals. -/
def Team.waits (t : Team) : Prop :=
  (∀ y ∈ t.insts, y.isComplete t = false) ∧ ∀ g ∈ t.groups, ∀ y ∈ g.insts, y.isComplete t = false

/-- Two teams have the same collectives under way, and the same threads live. -/
structure Team.peers (t u : Team) : Prop where
  insts : u.insts = t.insts
  length : u.groups.length = t.groups.length
  own : ∀ k, (u.group k).insts = (t.group k).insts
  live : ∀ k l, ((u.group k).thread l).live = ((t.group k).thread l).live

theorem Team.peers.trans {t u v : Team} (h : t.peers u) (k : u.peers v) : t.peers v :=
  ⟨k.insts.trans h.insts, k.length.trans h.length, fun n => (k.own n).trans (h.own n), fun n l => (k.live n l).trans (h.live n l)⟩

theorem Team.group_mem {t : Team} {k : Nat} (h : k < t.groups.length) : t.group k ∈ t.groups := by
  unfold Team.group
  rw [List.getD_eq_getElem _ _ h]
  exact List.getElem_mem h

theorem Team.peers.isComplete {t u : Team} (h : t.peers u) (i : Instance) : i.isComplete u = i.isComplete t := by
  unfold Instance.isComplete Group.liveLanes
  simp only [h.live]

theorem Team.peers.waits {t u : Team} (h : t.peers u) (hw : t.waits) : u.waits := by
  refine ⟨fun y hy => ?_, fun g hg y hy => ?_⟩
  · rw [h.isComplete]
    exact hw.1 y (h.insts ▸ hy)
  · rw [h.isComplete]
    obtain ⟨k, hk, rfl⟩ := List.getElem_of_mem hg
    have hg : u.groups[k] = u.group k := (List.getD_eq_getElem _ _ hk).symm
    rw [hg, h.own] at hy
    exact hw.2 _ (Team.group_mem (h.length ▸ hk)) y hy

/-- A space none of whose collectives is complete is left alone. -/
theorem Team.completeReady_none {t : Team} {isTeam : Bool} {gi : Nat} (h : ∀ y ∈ t.instances isTeam gi, y.isComplete t = false) :
    t.completeReady isTeam gi = t := by
  unfold Team.completeReady
  rw [List.filter_eq_nil_iff.2 fun y hy => by unfold Instance.mayComplete; rw [h y hy]; exact Bool.false_ne_true]
  rfl

theorem Team.resumeInstances_waits {t : Team} (h : t.waits) : t.resumeInstances = t := by
  unfold Team.resumeInstances
  rw [Team.completeReady_none (isTeam := true) h.1]
  refine List.foldlRecOn (motive := fun u => u = t) _ _ rfl fun u hu gi hgi => ?_
  rw [hu]
  exact Team.completeReady_none (isTeam := false) (h.2 _ (Team.group_mem (List.mem_range.1 hgi)))

/-! ### A change of one group of a team -/

theorem Team.peers_refl (t : Team) : t.peers t := ⟨rfl, rfl, fun _ => rfl, fun _ _ => rfl⟩

/-- After the effects of some lanes the group has its collectives under way, and every lane lives as it did. -/
theorem foldl_alters_open {β : Type} {eff : Group → β → Group} {at_ : β → Nat} (hv : ∀ (h : Group) y, h.alters (at_ y) (eff h y)) (ys : List β)
    (g : Group) :
    (ys.foldl eff g).insts = g.insts ∧ ∀ k, ((ys.foldl eff g).thread k).live = (g.thread k).live :=
  List.foldlRecOn (motive := fun h : Group => h.insts = g.insts ∧ ∀ k, (h.thread k).live = (g.thread k).live) ys eff ⟨rfl, fun _ => rfl⟩
    fun h ⟨hi, hl⟩ y _ => ⟨(hv h y).insts.trans hi, fun k => ((hv h y).pulse k).1.trans (hl k)⟩

/-- A change of one group that leaves its collectives and its live threads. -/
theorem Team.peers_setGroup {t : Team} {gi : Nat} {h : Group} (hg : gi < t.groups.length)
    (ha : h.insts = (t.group gi).insts ∧ ∀ k, (h.thread k).live = ((t.group gi).thread k).live) : t.peers (t.setGroup gi h) := by
  refine ⟨rfl, List.length_set, fun k => ?_, fun k j => ?_⟩
  · by_cases hk : k = gi
    · rw [hk, setGroup_self t gi h hg]
      exact ha.1
    · rw [setGroup_ne t gi k h hk]
  · by_cases hk : k = gi
    · rw [hk, setGroup_self t gi h hg]
      exact ha.2 j
    · rw [setGroup_ne t gi k h hk]

/-- A change of a team by its number. -/
theorem State.updTeam_of {s : State} {tid : Nat} {t : Team} {f : Team → Team} (ht : s.team? tid = some t) : s.updTeam tid f = s.setTeam (f t) := by
  unfold State.updTeam
  rw [ht]

/-- What a team's own change leaves of the machine. -/
theorem State.setTeam_frame {s : State} {tid : Nat} {t u : Team} (ht : s.team? tid = some t) (hu : u.tid = tid) :
    (s.setTeam u).team? tid = some u ∧ (∀ k, k ≠ tid → (s.setTeam u).team? k = s.team? k) ∧ (s.setTeam u).rest = s.rest ∧
      (s.setTeam u).grids = s.grids := by
  subst hu
  exact ⟨setTeam_self s u t ht, setTeam_ne s u, setTeam_rest .., setTeam_grids ..⟩

/-! ### A lane of the in-flight record -/

/-- What a lane's result makes of the group it lands in. -/
def Group.landed (h : Group) (l : Nat) (b : LaneOp) (w : Nat) (x : Landing) : Group :=
  { (writeRef h l b.dst w x.val x.poison x.pt).updThread l fun th => th.setPred x.pd x.pred with flags := h.flags ||| x.flags }

theorem Group.landed_alters (h : Group) (l : Nat) (b : LaneOp) (w : Nat) (x : Landing) : h.alters l (h.landed l b w x) :=
  ((putSlots_alters ..).trans (Group.alters_setPred _ l x.pd x.pred)).trans ⟨rfl, rfl, rfl, fun _ _ => rfl, rfl, rfl⟩

theorem putSlots_flags (h : Group) (l : Nat) (r : Ref) (vs : List Slot) : (putSlots h l r vs).flags = h.flags := by
  cases r <;> rfl

theorem Group.landed_eq (h : Group) (l : Nat) (b : LaneOp) (w : Nat) (x : Landing) :
    ((writeRef h l b.dst w x.val x.poison x.pt).updThread l fun th => th.setPred x.pd x.pred).orFlags x.flags = h.landed l b w x := by
  unfold Group.orFlags Group.landed
  rw [show ((writeRef h l b.dst w x.val x.poison x.pt).updThread l fun th => th.setPred x.pd x.pred).flags = h.flags from putSlots_flags ..]

/-- The entry in the record's place of another of the same sequence number. -/
def IfrEntry.instead (e q y : IfrEntry) : IfrEntry := if y.seq == e.seq then q else y

/-- A team with another group, and another in-flight record. -/
def Team.revised (u : Team) (gi : Nat) (h : Group) (X : List IfrEntry) : Team := { u.setGroup gi h with ifr := X }

@[simp] theorem Team.revised_ifr (u : Team) (gi : Nat) (h : Group) (X : List IfrEntry) : (u.revised gi h X).ifr = X := rfl

theorem Team.revised_group (u : Team) {gi : Nat} (h : Group) (X : List IfrEntry) (hg : gi < u.groups.length) : (u.revised gi h X).group gi = h :=
  setGroup_self u gi h hg

theorem Team.revised_revised (u : Team) (gi : Nat) (h h' : Group) (X Y : List IfrEntry) :
    (u.revised gi h X).revised gi h' Y = u.revised gi h' Y := by
  unfold Team.revised Team.setGroup
  dsimp only
  rw [List.set_set]

theorem Team.peers_revised {t : Team} {gi : Nat} {h : Group} (X : List IfrEntry) (hg : gi < t.groups.length)
    (ha : h.insts = (t.group gi).insts ∧ ∀ k, (h.thread k).live = ((t.group gi).thread k).live) : t.peers (t.revised gi h X) :=
  have hp : t.peers (t.setGroup gi h) := Team.peers_setGroup hg ha
  ⟨hp.insts, hp.length, hp.own, hp.live⟩

/-- Lanes that land leave the collectives of their group, and its live threads. -/
theorem foldl_landed_open (e : IfrEntry) (x : LaneOp → Landing) (at_ : LaneOp → Nat) (ls : List LaneOp) (g : Group) :
    (ls.foldl (fun k y => k.landed (at_ y) y e.dwords (x y)) g).insts = g.insts ∧
      ∀ k, ((ls.foldl (fun k y => k.landed (at_ y) y e.dwords (x y)) g).thread k).live = (g.thread k).live :=
  foldl_alters_open (fun h y => h.landed_alters (at_ y) y e.dwords (x y)) ls g

/-- One lane lands (R81): its group and its entry change. -/
theorem Team.landLane_eq {u : Team} {e q : IfrEntry} {b : LaneOp} {x : Landing} {gi l : Nat} (hx : e.result b = some x)
    (hw : (b.who.find? fun y => ((u.group y.1).thread y.2).live) = some (gi, l)) (hq : u.ifr.find? (·.seq == e.seq) = some q) :
    u.landLane e b =
      u.revised gi ((u.group gi).landed l b e.dwords x) (u.ifr.map (e.instead (q.setLane { b with done := true }))) := by
  have hseq : q.seq = e.seq := beq_iff_eq.1 (List.find?_some hq :)
  unfold Team.landLane Team.land
  rw [hx, hw]
  dsimp only
  unfold Team.updGroup
  dsimp only
  rw [Group.landed_eq, show ((u.setGroup gi ((u.group gi).landed l b e.dwords x)).ifr.find? (·.seq == e.seq)) = some q from hq]
  unfold Team.setEntry IfrEntry.instead
  rw [← hseq]
  rfl

theorem IfrEntry.instead_self {e q y : IfrEntry} (hy : y.seq = e.seq) : e.instead q y = q := if_pos (beq_iff_eq.2 hy)

theorem IfrEntry.instead_seq {e q : IfrEntry} (hq : q.seq = e.seq) (y : IfrEntry) : (e.instead q y).seq = y.seq := by
  unfold IfrEntry.instead
  split
  · next h => exact hq.trans (beq_iff_eq.1 h).symm
  · rfl

/-- Of two replacements of an entry the second stands. -/
theorem IfrEntry.instead_instead {e q : IfrEntry} (r : IfrEntry) (hq : q.seq = e.seq) (y : IfrEntry) :
    e.instead r (e.instead q y) = e.instead r y := by
  unfold IfrEntry.instead
  by_cases h : (y.seq == e.seq) = true
  · rw [if_pos h, if_pos h, if_pos (beq_iff_eq.2 hq)]
  · rw [if_neg h, if_neg h]

/-- The entry with more of its lanes complete. -/
def IfrEntry.complete (e : IfrEntry) (ls : List LaneOp) : IfrEntry := ls.foldl (fun q b => q.setLane { b with done := true }) e

/-- Lanes land in their order (R79, R83). -/
theorem Team.foldl_landLane {t : Team} {e : IfrEntry} {gi : Nat} {x : LaneOp → Landing} {at_ : LaneOp → Nat} (b : LaneOp) (ls : List LaneOp)
    {u : Team} {q : IfrEntry} (hp : t.peers u) (hg : gi < u.groups.length) (hq : u.ifr.find? (·.seq == e.seq) = some q)
    (h : ∀ y ∈ b :: ls, e.result y = some (x y) ∧ (y.who.find? fun z => ((t.group z.1).thread z.2).live) = some (gi, at_ y)) :
    (b :: ls).foldl (fun u y => u.landLane e y) u =
      u.revised gi ((b :: ls).foldl (fun k y => k.landed (at_ y) y e.dwords (x y)) (u.group gi)) (u.ifr.map (e.instead (q.complete (b :: ls)))) := by
  induction ls generalizing b u q with
  | nil =>
    obtain ⟨hx, hw⟩ := h b List.mem_cons_self
    exact Team.landLane_eq hx (by simpa only [hp.live] using hw) hq
  | cons c ls ih =>
    obtain ⟨hx, hw⟩ := h b List.mem_cons_self
    have hseq : (q.setLane { b with done := true }).seq = e.seq := beq_iff_eq.1 (List.find?_some hq :)
    have hfind : (u.ifr.map (e.instead (q.setLane { b with done := true }))).find? (·.seq == e.seq) = some (q.setLane { b with done := true }) := by
      rw [find?_map_key IfrEntry.seq _ (IfrEntry.instead_seq hseq), hq]
      exact congrArg some (IfrEntry.instead_self (beq_iff_eq.1 (List.find?_some hq :)))
    have hmap (r : IfrEntry) : (u.ifr.map (e.instead (q.setLane { b with done := true }))).map (e.instead r) = u.ifr.map (e.instead r) := by
      rw [List.map_map]
      exact List.map_congr_left fun y _ => IfrEntry.instead_instead r hseq y
    have hpeers : u.peers (u.revised gi ((u.group gi).landed (at_ b) b e.dwords (x b)) (u.ifr.map (e.instead (q.setLane { b with done := true })))) :=
      Team.peers_revised _ hg (foldl_landed_open e x at_ [b] _)
    rw [List.foldl_cons, Team.landLane_eq hx (by simpa only [hp.live] using hw) hq,
      ih c (hp.trans hpeers) (List.length_set.symm ▸ hg) hfind
        fun y hy => h y (List.mem_cons_of_mem _ hy)]
    rw [Team.revised_ifr, hmap, Team.revised_group _ _ _ hg, Team.revised_revised]
    rfl

/-- The lane itself is among those that it lands with. -/
theorem IfrEntry.mem_landsWith {e : IfrEntry} {o : LaneOp} (ho : o ∈ e.lanes) (hd : o.done = false) : o ∈ e.landsWith o := by
  have hself : (!o.done && o.dst == o.dst) = true := by rw [hd, beq_self_eq_true]; rfl
  unfold IfrEntry.landsWith
  split
  · exact List.mem_filter.2 ⟨ho, hself⟩
  · exact List.mem_singleton_self o

/-- A list of threads one of which lives. -/
theorem Team.allDead_eq_false {t : Team} {who : List (Nat × Nat)} {y : Nat × Nat}
    (h : (who.find? fun z => ((t.group z.1).thread z.2).live) = some y) : t.allDead who = false := by
  refine Bool.eq_false_iff.2 fun hd => ?_
  have hlive := List.find?_some h
  have := List.all_eq_true.1 hd y (List.mem_of_find?_eq_some h)
  rw [hlive] at this
  cases this

/-- A lane is complete, with those that land with it, in a team no collective of which waited for it. -/
theorem Team.completeLane_eq {t : Team} {e : IfrEntry} {o : LaneOp} {gi : Nat} {x : LaneOp → Landing} {at_ : LaneOp → Nat} (hg : gi < t.groups.length)
    (he : t.ifr.find? (·.seq == e.seq) = some e) (ho : o ∈ e.lanes) (hd : o.done = false) (hw : t.waits)
    (h : ∀ b ∈ e.landsWith o, e.result b = some (x b) ∧ (b.who.find? fun z => ((t.group z.1).thread z.2).live) = some (gi, at_ b)) :
    t.completeLane e o = (t.revised gi ((e.landsWith o).foldl (fun k y => k.landed (at_ y) y e.dwords (x y)) (t.group gi))
      (t.ifr.map (e.instead (e.complete (e.landsWith o))))).freeFinished := by
  have hmem := IfrEntry.mem_landsWith ho hd
  have hready : (e.landsWith o).any (fun b => (e.result b).isNone) = false := List.any_eq_false.2 fun b hb => by
    rw [(h b hb).1]
    exact Bool.false_ne_true
  have halive : ((e.landsWith o).all fun b => t.allDead b.who) = false :=
    List.all_eq_false.2 ⟨o, hmem, by rw [Team.allDead_eq_false (h o hmem).2]; exact Bool.false_ne_true⟩
  unfold Team.completeLane
  dsimp only
  rw [hd, hready, halive]
  obtain ⟨b, ls, hls⟩ : ∃ b ls, e.landsWith o = b :: ls := List.exists_cons_of_ne_nil (List.ne_nil_of_mem hmem)
  have hfold := Team.foldl_landLane b ls (Team.peers_refl t) hg he (hls ▸ h)
  rw [← hls] at hfold
  rw [hfold]
  exact Team.resumeInstances_waits ((Team.peers_revised _ hg (foldl_landed_open ..)).waits hw)

/-- PRODUCER_COMPLETION of a lane of the in-flight record. -/
theorem exec_completeLane {s : State} {tid op lane : Nat} {t : Team} {e : IfrEntry} {o : LaneOp} (ht : s.team? tid = some t)
    (hst : t.st = .resident) (hsn : t.snapped = false) (hp : ∀ p ∈ t.palPend, palBase + p.id ≠ op) (he : t.ifr.find? (·.seq == op) = some e)
    (ho : e.lanes.find? (·.lane == lane) = some o) : exec (.producerCompletion tid op lane) s = .next (s.setTeam (t.completeLane e o)) := by
  have hpal : t.palPend.find? (fun p => palBase + p.id == op) = none := List.find?_eq_none.2 fun p hm h => hp p hm (beq_iff_eq.1 h)
  show execProducerCompletion tid op lane s = _
  unfold execProducerCompletion
  rw [State.updTeam_of ht, hsn, hst, hpal, he]
  show Host.Outcome.next (s.setTeam (match e.lanes.find? (·.lane == lane) with | none => t | some o => t.completeLane e o)) = _
  rw [ho]

/-- The result of a special function's lane (R155). -/
theorem IfrEntry.result_sfu {e : IfrEntry} {f : SFunc} {m : RMode} (h : e.op = .sfu f m) (o : LaneOp) :
    e.result o = some { val := (sfunc f m (BitVec.ofNat 32 o.a) (BitVec.ofNat 32 o.b)).bits,
                        flags := (sfunc f m (BitVec.ofNat 32 o.a) (BitVec.ofNat 32 o.b)).flags, poison := o.poison, pt := o.pt } := by
  unfold IfrEntry.result
  rw [h]

/-- Settles O19: the lanes that land are written in their order into one group, and no collective has waited for them. -/
theorem producerCompletion : Obligations.ProducerCompletion := by
  unfold Obligations.ProducerCompletion
  refine ⟨fun s tid op lane t e o gi x at_ ht htid hst hsn hpal he ho hd hg hi hgi h => ?_, fun e o f m hop => IfrEntry.result_sfu hop o⟩
  have hseq : e.seq = op := beq_iff_eq.1 (List.find?_some he :)
  have hls : ∀ b ∈ e.landsWith o, e.result b = some (x b) ∧ (b.who.find? fun z => ((t.group z.1).thread z.2).live) = some (gi, at_ b) := h
  have hc := Team.completeLane_eq hg (hseq.symm ▸ he) (List.mem_of_find?_eq_some ho) hd ⟨hi, hgi⟩ hls
  obtain ⟨hself, hother, hrest, hgrids⟩ := State.setTeam_frame (u := t.completeLane e o) ht (by rw [hc]; exact htid)
  refine ⟨_, _, exec_completeLane ht hst hsn hpal he ho, hself, ?_, fun k hk => ?_, ?_, hother, hrest, hgrids⟩
  · rw [hc]
    exact Team.revised_group t _ _ hg
  · rw [hc]
    exact setGroup_ne t gi k _ hk
  · rw [hc]
    rfl

end Sys2Proof.Machine
end

section
/-! ## Palette accesses (R254-R257, R263-R273)

LDP, STP, ATOMP and ACASP at issue, and what lands of them. -/

namespace Sys2Proof.Machine

/-! ### What lands -/

/-- One palette access lands in its group. -/
theorem Team.landPal_eq {u : Team} {q : PalPend} {gi l : Nat} (hw : (q.who.find? fun y => ((u.group y.1).thread y.2).live) = some (gi, l)) :
    u.landPal q = u.setGroup gi (writeEach (u.group gi) l q.dst q.width q.val q.bad) := by
  unfold Team.landPal
  rw [hw]
  rfl

/-- Palette accesses that land leave the collectives of their group, and its live threads. -/
theorem foldl_writeEach_open (at_ : PalPend → Nat) (qs : List PalPend) (g : Group) :
    (qs.foldl (fun h q => writeEach h (at_ q) q.dst q.width q.val q.bad) g).insts = g.insts ∧
      ∀ k, ((qs.foldl (fun h q => writeEach h (at_ q) q.dst q.width q.val q.bad) g).thread k).live = (g.thread k).live :=
  foldl_alters_open (fun h q => putSlots_alters h (at_ q) ..) qs g

/-- Palette accesses land in their order (R79, R83). -/
theorem Team.foldl_landPal {t : Team} {gi : Nat} {at_ : PalPend → Nat} (qs : List PalPend) {u : Team} (hp : t.peers u) (hg : gi < u.groups.length)
    (h : ∀ q ∈ qs, (q.who.find? fun y => ((t.group y.1).thread y.2).live) = some (gi, at_ q)) :
    qs.foldl Team.landPal u = u.setGroup gi (qs.foldl (fun k q => writeEach k (at_ q) q.dst q.width q.val q.bad) (u.group gi)) := by
  induction qs generalizing u with
  | nil =>
    exact (Team.updGroup_of_same (f := fun k => k) rfl hg).symm
  | cons q qs ih =>
    have hpeers : u.peers (u.setGroup gi (writeEach (u.group gi) (at_ q) q.dst q.width q.val q.bad)) :=
      Team.peers_setGroup hg (foldl_writeEach_open at_ [q] _)
    rw [List.foldl_cons, Team.landPal_eq (by simpa only [hp.live] using h q List.mem_cons_self),
      ih (hp.trans hpeers) (List.length_set.symm ▸ hg) fun y hy => h y (List.mem_cons_of_mem _ hy), setGroup_self u gi _ hg]
    unfold Team.setGroup
    dsimp only
    rw [List.set_set]
    rfl

theorem PalPend.landsWith_self (p : PalPend) : p.landsWith p = true := by
  unfold PalPend.landsWith
  rw [beq_self_eq_true, Bool.true_or]

/-- A palette access is complete, with those that land with it, in a team no collective of which waited for it. -/
theorem Team.completePal_eq {t : Team} {p : PalPend} {gi : Nat} {at_ : PalPend → Nat} (hg : gi < t.groups.length) (hp : p ∈ t.palPend) (hw : t.waits)
    (h : ∀ q ∈ t.palPend.filter p.landsWith, (q.who.find? fun y => ((t.group y.1).thread y.2).live) = some (gi, at_ q)) :
    t.completePal p = { t with palPend := t.palPend.filter fun q => !p.landsWith q }.setGroup gi
      ((t.palPend.filter p.landsWith).foldl (fun k q => writeEach k (at_ q) q.dst q.width q.val q.bad) (t.group gi)) := by
  have hmem : p ∈ t.palPend.filter p.landsWith := List.mem_filter.2 ⟨hp, p.landsWith_self⟩
  have halive : ((t.palPend.filter p.landsWith).all fun q => t.allDead q.who) = false :=
    List.all_eq_false.2 ⟨p, hmem, by rw [Team.allDead_eq_false (h p hmem)]; exact Bool.false_ne_true⟩
  have hpeers : t.peers { t with palPend := t.palPend.filter fun q => !p.landsWith q } := ⟨rfl, rfl, fun _ => rfl, fun _ _ => rfl⟩
  have hfold := Team.foldl_landPal (t.palPend.filter p.landsWith) hpeers hg h
  unfold Team.completePal
  split
  · next hnil => exact absurd hnil (List.ne_nil_of_mem hmem)
  · dsimp only
    rw [halive, hfold]
    exact Team.resumeInstances_waits ((hpeers.trans (Team.peers_setGroup hg (foldl_writeEach_open ..))).waits hw)

/-- PRODUCER_COMPLETION of a palette access. -/
theorem exec_completePal {s : State} {tid op lane : Nat} {t : Team} {p : PalPend} (ht : s.team? tid = some t) (hst : t.st = .resident)
    (hsn : t.snapped = false) (hp : t.palPend.find? (fun q => palBase + q.id == op) = some p) :
    exec (.producerCompletion tid op lane) s = .next (s.setTeam (t.completePal p)) := by
  show execProducerCompletion tid op lane s = _
  unfold execProducerCompletion
  rw [State.updTeam_of ht, hsn, hst, hp]
  rfl

/-- Palette accesses that land with one another land together in its group (R79, R83). -/
theorem palette_lands {s : State} {tid lane : Nat} {t : Team} {p : PalPend} {gi : Nat} {at_ : PalPend → Nat} (ht : s.team? tid = some t)
    (htid : t.tid = tid) (hst : t.st = .resident) (hsn : t.snapped = false) (hg : gi < t.groups.length)
    (hp : t.palPend.find? (fun q => palBase + q.id == palBase + p.id) = some p) (hw : t.waits)
    (h : ∀ q ∈ t.palPend, p.landsWith q = true → (q.who.find? fun y => ((t.group y.1).thread y.2).live) = some (gi, at_ q)) :
    ∃ s' t', exec (.producerCompletion tid (palBase + p.id) lane) s = .next s' ∧ s'.team? tid = some t' ∧
      t'.group gi = (t.palPend.filter p.landsWith).foldl (fun k q => writeEach k (at_ q) q.dst q.width q.val q.bad) (t.group gi) ∧
      (∀ k, k ≠ gi → t'.group k = t.group k) ∧ t'.palPend = t.palPend.filter (fun q => !p.landsWith q) ∧ t'.pal = t.pal ∧
      (∀ k, k ≠ tid → s'.team? k = s.team? k) ∧ s'.rest = s.rest := by
  have hc := Team.completePal_eq hg (List.mem_of_find?_eq_some hp) hw fun q hq => h q (List.mem_filter.1 hq).1 (List.mem_filter.1 hq).2
  obtain ⟨hself, hother, hrest, -⟩ := State.setTeam_frame (u := t.completePal p) ht (by rw [hc]; exact htid)
  refine ⟨_, _, exec_completePal ht hst hsn hp, hself, ?_, fun k hk => ?_, ?_, ?_, hother, hrest⟩
  all_goals rw [hc]
  · exact setGroup_self _ gi _ hg
  · exact setGroup_ne _ gi k _ hk
  · rfl
  · rfl

end Sys2Proof.Machine
end

section
/-! ## Palette instructions at issue (R254, R256, R263-R273) -/

namespace Sys2Proof.Machine

/-! ### Bytes written back -/

/-- Writing the byte that stands at an address. -/
theorem Memory.write_read {m : Memory} {lo : Nat} (a : Nat) (hm : Memory.wfFrom lo m = true) : m.write a (m.read a) = m := by
  induction m generalizing lo with
  | nil => rfl
  | cons x m ih =>
    obtain ⟨b, w⟩ := x
    simp only [Memory.wfFrom, Bool.and_eq_true, bne_iff_ne] at hm
    obtain ⟨⟨-, hw⟩, hm⟩ := hm
    unfold Memory.read Memory.write
    by_cases hlt : a < b
    · rw [if_pos hlt, if_pos hlt]
      rfl
    · rw [if_neg hlt, if_neg hlt]
      by_cases heq : a = b
      · rw [if_pos heq, if_pos heq, if_neg hw, heq]
      · rw [if_neg heq, if_neg heq, ih hm]

/-- Writing the bytes that stand from an address on. -/
theorem Memory.writeN_readN {m : Memory} (a n : Nat) (hm : Memory.wf m = true) : m.writeN a n (m.readN a n) = m := by
  induction n generalizing a with
  | zero => rfl
  | succ n ih =>
    have hlow : BitVec.ofNat 8 ((m.read a).toNat + 256 * m.readN (a + 1) n) = m.read a :=
      BitVec.eq_of_toNat_eq (by rw [BitVec.toNat_ofNat]; have := (m.read a).isLt; omega)
    have hhigh : ((m.read a).toNat + 256 * m.readN (a + 1) n) / 256 = m.readN (a + 1) n := by
      have := (m.read a).isLt
      omega
    unfold Memory.writeN Memory.readN
    rw [hlow, hhigh, Memory.write_read a hm, ih]

/-! ### The forms -/

/-- What a form says of the model's palette instruction. -/
structure PalForm.fits (f : PalForm) (m : PalSpec) : Prop where
  srcs : m.srcs = [(f.t, f.tw), (f.a, 1), (f.x, f.xw)]
  shared : [m.t, m.a, m.x, m.dst] = [f.t, f.a, f.x, f.dst]
  dst : m.dst = f.dst
  dw : m.dw = f.dw
  disp : m.disp = f.disp
  index : m.index = f.index
  len : m.len = f.len
  store : m.store = f.store
  ord : m.ord = f.ord
  writes : f.store = true → ∀ old tv xv, (m.write old false tv xv).getD old = f.new old tv xv
  reads : f.store = false → ∀ old tv xv, m.write old false tv xv = none

theorem palForm_fits {i : Instr} {f : PalForm} (h : palForm i = some f) : ∃ m, (∀ s, exec i s = palIssue s f.gd m) ∧ f.fits m := by
  cases i
  case ldp =>
    cases h
    exact ⟨_, fun _ => rfl, rfl, rfl, rfl, rfl, rfl, rfl, rfl, rfl, rfl, nofun, fun _ _ _ _ => rfl⟩
  case stp | atomp =>
    cases h
    exact ⟨_, fun _ => rfl, rfl, rfl, rfl, rfl, rfl, rfl, rfl, rfl, rfl, fun _ _ _ _ => rfl, nofun⟩
  case acasp gd t a x ofs scope ord sz =>
    cases h
    refine ⟨_, fun _ => rfl, rfl, rfl, rfl, rfl, rfl, rfl, rfl, rfl, rfl, fun _ old tv xv => ?_, nofun⟩
    show (if (!false && old == xv % 2 ^ (8 * bytesOfSz sz)) = true then some (xv / 2 ^ (8 * bytesOfSz sz)) else none).getD old =
      if old = xv % 2 ^ (8 * bytesOfSz sz) then xv / 2 ^ (8 * bytesOfSz sz) else old
    by_cases ho : old = xv % 2 ^ (8 * bytesOfSz sz)
    · rw [if_pos ho, if_pos (by simpa using ho)]
      rfl
    · rw [if_neg ho, if_neg (by simpa using ho)]
      rfl
  all_goals cases h

/-! ### One lane -/

/-- The bytes a lane finds (R269). -/
def PalForm.old (f : PalForm) (g : Group) (pal : Memory) (l : Nat) : Nat := Memory.readN pal (f.offset g l).toNat f.len

/-- The allotment after a lane (R271-R273). -/
def PalForm.step (f : PalForm) (g : Group) (pal : Memory) (l : Nat) : Memory :=
  if f.store then Memory.writeN pal (f.offset g l).toNat f.len (f.new (f.old g pal l) (g.val l f.t f.tw) (g.val l f.x f.xw)) else pal

theorem PalForm.step_wf {f : PalForm} {g : Group} {pal : Memory} {l : Nat} (h : Memory.wf pal = true) : Memory.wf (f.step g pal l) = true := by
  unfold PalForm.step
  split
  · exact Memory.writeN_wf _ _ _ _ h
  · exact h

/-- The group after a lane: its destination is Pending (R81). -/
def PalForm.mark (f : PalForm) (g h : Group) (l : Nat) : Group := markRef h l (g.dst l f.dst f.dw) f.dw .pending

/-- A team whose group `gi`, allotment and palette accesses have changed. -/
def Team.drawn (t : Team) (gi : Nat) (h : Group) (pal : Memory) (ps : List PalPend) : Team := { t.setGroup gi h with pal := pal, palPend := ps }

/-- In a state, after some lanes of a palette instruction, only the issuing team has changed, and the name of the next access. -/
structure State.draws (s u : State) (c : Cur) (x : Team) : Prop where
  team : u.team? c.tid = some x
  others : ∀ k, k ≠ c.tid → u.team? k = s.team? k
  mem : u.mem = s.mem
  parts : u.parts = s.parts
  panels : u.panels = s.panels

theorem State.draws.setTeam {s u : State} {c : Cur} {x : Team} (h : s.draws u c x) (y : Team) (hy : y.tid = c.tid) : s.draws (u.setTeam y) c y := by
  obtain ⟨hself, hother, hrest, -⟩ := State.setTeam_frame h.team hy
  exact ⟨hself, fun k hk => (hother k hk).trans (h.others k hk), (congrArg State.mem hrest).trans h.mem, (congrArg State.parts hrest).trans h.parts,
    (congrArg State.panels hrest).trans h.panels⟩

theorem State.draws.fresh {s u : State} {c : Cur} {x : Team} (h : s.draws u c x) (n : Nat) : s.draws { u with fresh := n } c x :=
  ⟨h.team, h.others, h.mem, h.parts, h.panels⟩

theorem State.lockHit_congr {s u : State} {t x : Team} {pal : Option Nat} {lo hi : Nat} {store : Bool} (hp : u.parts = s.parts)
    (hn : u.panels = s.panels) (hc : x.core = t.core) : u.lockHit x pal lo hi store = s.lockHit t pal lo hi store := by
  unfold State.lockHit State.partOf
  rw [hp, hn, hc]

/-- What a lane of a palette instruction needs (R265). -/
def PalForm.ready (f : PalForm) (s : State) (t : Team) (gi : Nat) (g : Group) (l : Nat) : Prop :=
  g.clean l f.t f.tw ∧ g.clean l f.a 1 ∧ g.clean l f.x f.xw ∧ g.room l f.dst f.dw ∧
    f.offset g l % f.len = 0 ∧ s.palFree t (f.offset g l) f.len f.store ∧ t.palOrdered gi l f.ord = true

/-- An access that its order lets pass passes with the acquire part of that order alone (R273). -/
theorem Team.palOrdered_acquire {t : Team} {gi l ord : Nat} (h : t.palOrdered gi l ord = true) : t.palOrdered gi l (ord % 2) = true := by
  have hrel : isRelease (ord % 2) = false := by
    unfold isRelease
    have : ord % 2 < 2 := Nat.mod_lt _ (by decide)
    simp only [Bool.or_eq_false_iff, beq_eq_false_iff_ne]
    omega
  unfold Team.palOrdered at h ⊢
  rw [Bool.and_eq_true] at h
  rw [hrel, Bool.not_false, Bool.true_or, Bool.and_true]
  refine List.all_eq_true.2 fun x hx => List.all_eq_true.2 fun p hp => ?_
  have := List.all_eq_true.1 (List.all_eq_true.1 h.1 x hx) p hp
  revert this
  cases x.1.final x.2 p <;> cases isRelease ord <;> simp

theorem State.palFree_check {s u : State} {t x : Team} {off : Int} {n : Nat} {store : Bool} (h : s.palFree t off n store) (hp : u.parts = s.parts)
    (hn : u.panels = s.panels) (hc : x.core = t.core) (ht : x.tid = t.tid) (hs : x.palSize = t.palSize) :
    palCheck u x off n store = .ok off.toNat := by
  obtain ⟨h0, hle, hlock, -⟩ := h
  unfold palCheck
  rw [State.lockHit_congr hp hn hc, ht, hs, if_neg (by simp only [Bool.or_eq_true, decide_eq_true_eq]; omega), hlock]

/-- No uncorrectable word is touched (R256). -/
theorem State.palFree_bad {s : State} {t : Team} {off : Int} {n : Nat} {store : Bool} (h : s.palFree t off n store) :
    (t.palBad.any fun w => off.toNat < 4 * w + 4 && 4 * w < off.toNat + n) = false := by
  obtain ⟨-, -, -, hbad⟩ := h
  refine List.any_eq_false.2 fun w hw => ?_
  have := hbad w hw
  simp only [Bool.and_eq_true, decide_eq_true_eq]
  omega

/-- A write of no bytes, or of words without an error, leaves the list of uncorrectable words. -/
theorem State.palFree_filter {s : State} {t : Team} {off : Int} {n : Nat} {store : Bool} (h : s.palFree t off n store) :
    (t.palBad.filter fun w => !(off.toNat ≤ 4 * w && 4 * w + 4 ≤ off.toNat + n)) = t.palBad := by
  obtain ⟨-, -, -, hbad⟩ := h
  refine List.filter_eq_self.2 fun w hw => ?_
  have := hbad w hw
  simp only [Bool.not_eq_true', Bool.and_eq_false_iff, decide_eq_false_iff_not]
  omega

/-- The new bytes that a lane writes make the allotment of the form. -/
theorem PalForm.fits.palWrite {s : State} {t : Team} {gi l n : Nat} {g h : Group} {pal : Memory} {ps : List PalPend} {f : PalForm} {m : PalSpec}
    (hf : f.fits m) (hr : s.palFree t (f.offset g l) f.len f.store)
    (hw : m.write (f.old g pal l) false (g.val l f.t f.tw) (g.val l f.x f.xw) = some n) :
    (t.drawn gi h pal ps).palWrite (f.offset g l).toNat f.len n = t.drawn gi h (f.step g pal l) ps := by
  have hstep : f.step g pal l = Memory.writeN pal (f.offset g l).toNat f.len n := by
    unfold PalForm.step
    cases hst : f.store with
    | false => exact absurd (hw.symm.trans (hf.reads hst ..)) nofun
    | true => rw [← hf.writes hst, hw]; rfl
  unfold Team.palWrite
  rw [hstep, show (t.drawn gi h pal ps).palBad = t.palBad from rfl, State.palFree_filter hr]
  rfl

/-- A lane that writes nothing leaves the allotment of the form. -/
theorem PalForm.fits.step_eq {g : Group} {pal : Memory} {l : Nat} {f : PalForm} {m : PalSpec} (hf : f.fits m) (hpal : Memory.wf pal = true)
    (hw : m.write (f.old g pal l) false (g.val l f.t f.tw) (g.val l f.x f.xw) = none) : f.step g pal l = pal := by
  unfold PalForm.step
  cases hst : f.store with
  | false => rfl
  | true =>
    have hnew := hf.writes hst (f.old g pal l) (g.val l f.t f.tw) (g.val l f.x f.xw)
    rw [hw] at hnew
    rw [← hnew]
    exact Memory.writeN_readN _ _ hpal

/-- The operands of a lane that is ready. -/
theorem PalForm.fits.readAll {f : PalForm} {m : PalSpec} {s : State} {t : Team} {gi : Nat} {g : Group} {l : Nat} (hf : f.fits m)
    (hr : f.ready s t gi g l) : readAll g l m.srcs = .ok [g.opnd l f.t f.tw, g.opnd l f.a 1, g.opnd l f.x f.xw] ∧
      consumeAll [g.opnd l f.t f.tw, g.opnd l f.a 1, g.opnd l f.x f.xw] = .ok () := by
  obtain ⟨⟨ht, htp⟩, ⟨ha, hap⟩, ⟨hx, hxp⟩, -⟩ := hr
  refine ⟨?_, consumeAll_of_clean fun y hy => ?_⟩
  · rw [hf.srcs]
    refine readAll_of_has fun y hy => ?_
    simp only [List.mem_cons, List.not_mem_nil, or_false] at hy
    obtain rfl | rfl | rfl := hy
    exacts [ht, ha, hx]
  · simp only [List.mem_cons, List.not_mem_nil, or_false] at hy
    obtain rfl | rfl | rfl := hy
    exacts [htp, hap, hxp]

/-- The state after a lane of a palette instruction whose access leaves team `y` (R257): a destination is Pending, and waits for the bytes. -/
def State.drew (u : State) (c : Cur) (y : Team) (p : PalPend) (l : Nat) : State :=
  if p.dst == .null then u.setTeam y
  else
    { u.setTeam { y.updGroup c.grp fun g => markRef g l p.dst p.width .pending with palPend := y.palPend ++ [p] } with fresh := u.fresh + 1 }

theorem State.draws.drew {s u : State} {c : Cur} {t : Team} {h : Group} {pal pal' : Memory} {ps : List PalPend} {p : PalPend} {l : Nat}
    (hu : s.draws u c (t.drawn c.grp h pal ps)) (hn : t.tid = c.tid) (hg : c.grp < t.groups.length) :
    ∃ qs, s.draws (u.drew c (t.drawn c.grp h pal' ps) p l) c (t.drawn c.grp (markRef h l p.dst p.width .pending) pal' (ps ++ qs)) ∧
      (p.dst ≠ .null → p ∈ qs) := by
  unfold State.drew
  by_cases hd : p.dst = .null
  · refine ⟨[], ?_, fun h => absurd hd h⟩
    rw [if_pos (beq_iff_eq.2 hd), hd, List.append_nil]
    exact hu.setTeam (t.drawn c.grp h pal' ps) hn
  · refine ⟨[p], ?_, fun _ => List.mem_singleton_self p⟩
    rw [if_neg fun h => hd (beq_iff_eq.1 h)]
    have hmark : ((t.drawn c.grp h pal' ps).updGroup c.grp fun g => markRef g l p.dst p.width .pending) =
        t.drawn c.grp (markRef h l p.dst p.width .pending) pal' ps := by
      unfold Team.updGroup
      rw [show (t.drawn c.grp h pal' ps).group c.grp = h from setGroup_self t c.grp h hg]
      unfold Team.drawn Team.setGroup
      dsimp only
      rw [List.set_set]
    rw [hmark]
    exact (hu.setTeam (t.drawn c.grp (markRef h l p.dst p.width .pending) pal' (ps ++ [p])) hn).fresh (u.fresh + 1)

/-- What an access of lane `l` that has found the allotment `pal` leaves to land. -/
def PalForm.pends (f : PalForm) (g : Group) (who : Nat → List (Nat × Nat)) (pal : Memory) (l : Nat) (p : PalPend) : Prop :=
  p.who = who l ∧ p.dst = g.dst l f.dst f.dw ∧ p.width = f.dw ∧ p.val = f.old g pal l ∧ p.bad = List.replicate f.dw false

/-- A lane that is ready performs its access, and its destination waits for the old bytes. -/
theorem palLane_ready {s u : State} {c : Cur} {t : Team} {g h : Group} {pal : Memory} {ps : List PalPend} {f : PalForm} {m : PalSpec}
    {who : Nat → List (Nat × Nat)} {l : Nat} (hf : f.fits m) (hn : t.tid = c.tid) (hg : c.grp < t.groups.length) (hpal : Memory.wf pal = true)
    (hu : s.draws u c (t.drawn c.grp h pal ps)) (hr : f.ready s t c.grp g l) :
    ∃ u' qs, palLane m c g who u l = .ok (u', .next) ∧ s.draws u' c (t.drawn c.grp (f.mark g h l) (f.step g pal l) (ps ++ qs)) ∧
      (g.dst l f.dst f.dw ≠ .null → ∃ p ∈ qs, f.pends g who pal l p) := by
  obtain ⟨hread, hcons⟩ := hf.readAll hr
  obtain ⟨-, -, -, hroom, halign, hfree, hord⟩ := hr
  obtain ⟨qs, hdraws, hmem⟩ := hu.drew (pal' := f.step g pal l) (l := l) hn hg
    (p := ⟨u.fresh, who l, g.dst l f.dst f.dw, f.dw, f.old g pal l, List.replicate f.dw false⟩)
  refine ⟨_, qs, ?_, hdraws, fun hd => ⟨_, hmem hd, rfl, rfl, rfl, rfl, rfl⟩⟩
  have hoff : (g.opnd l f.a 1).val + (if f.index = true then ((g.opnd l f.x f.xw).val : Int) else 0) + f.disp = f.offset g l := rfl
  have hcheck : palCheck u (t.drawn c.grp h pal ps) (f.offset g l) f.len f.store = .ok (f.offset g l).toNat :=
    State.palFree_check hfree hu.parts hu.panels rfl rfl rfl
  have hbytes : (t.drawn c.grp h pal ps).palRead (f.offset g l).toNat f.len = (f.old g pal l, false) := Prod.ext rfl (State.palFree_bad hfree)
  have hpass (b : Bool) : (t.drawn c.grp h pal ps).palOrdered c.grp l (if b = true then f.ord % 2 else f.ord) = true := by
    cases b
    · exact hord
    · exact Team.palOrdered_acquire hord
  unfold palLane State.drew
  rw [hu.team]
  dsimp only
  rw [hread, hf.dst, hf.dw, hf.disp, hf.index, hf.len, hf.store, hf.ord, Group.dst_of_room hroom]
  dsimp only [bind, Except.bind]
  rw [hcons]
  simp only [List.getD_cons_zero, List.getD_cons_succ, hoff, halign, hcheck, hbytes, hpass, bne_self_eq_false, Bool.not_true,
    Bool.false_eq_true, if_false]
  cases hw : m.write (f.old g pal l) false (g.val l f.t f.tw) (g.val l f.x f.xw) with
  | some n =>
    rw [← hf.palWrite hfree hw]
    unfold Group.val at hw
    rw [hw]
    split <;> rfl
  | none =>
    rw [hf.step_eq hpal hw]
    unfold Group.val at hw
    rw [hw]
    split <;> rfl

/-- Lanes that are ready act in turn (R263): each finds what those before it left. -/
theorem foldLanes_palLane {s : State} {c : Cur} {t : Team} {g : Group} {f : PalForm} {m : PalSpec} {who : Nat → List (Nat × Nat)} (hf : f.fits m)
    (hn : t.tid = c.tid) (hg : c.grp < t.groups.length) (ls : List Nat) {u : State} {h : Group} {pal : Memory} {ps : List PalPend}
    (hpal : Memory.wf pal = true) (hu : s.draws u c (t.drawn c.grp h pal ps)) (hr : ∀ l ∈ ls, f.ready s t c.grp g l) :
    ∃ u' qs, foldLanes (palLane m c g who) ls u = (u', ls.map fun l => (l, .next)) ∧
      s.draws u' c (t.drawn c.grp (ls.foldl (f.mark g) h) (ls.foldl (f.step g) pal) (ps ++ qs)) ∧
      ∀ pre l post, ls = pre ++ l :: post → g.dst l f.dst f.dw ≠ .null → ∃ p ∈ qs, f.pends g who (pre.foldl (f.step g) pal) l p := by
  induction ls generalizing u h pal ps with
  | nil => exact ⟨u, [], rfl, by rwa [List.append_nil], fun pre l post hl => absurd hl (by simp)⟩
  | cons k ls ih =>
    obtain ⟨u1, qs1, hlane, hu1, hpend1⟩ := palLane_ready (who := who) hf hn hg hpal hu (hr k List.mem_cons_self)
    obtain ⟨u2, qs2, hfold, hu2, hpend2⟩ := ih (PalForm.step_wf hpal) hu1 fun l hl => hr l (List.mem_cons_of_mem _ hl)
    refine ⟨u2, qs1 ++ qs2, ?_, List.append_assoc .. ▸ hu2, fun pre l post hl hd => ?_⟩
    · unfold foldLanes
      rw [hlane]
      dsimp only
      rw [hfold]
      rfl
    · cases pre with
      | nil =>
        obtain ⟨rfl, -⟩ := List.cons.inj hl
        obtain ⟨p, hp, hpd⟩ := hpend1 hd
        exact ⟨p, List.mem_append_left _ hp, hpd⟩
      | cons x pre =>
        obtain ⟨rfl, hls⟩ := List.cons.inj hl
        obtain ⟨p, hp, hpd⟩ := hpend2 pre l post hls hd
        exact ⟨p, List.mem_append_right _ hp, hpd⟩

/-- The marks of Pending destinations leave the frontier, and the threads' own accesses. -/
theorem PalForm.foldl_mark (f : PalForm) (g : Group) (ls : List Nat) (h : Group) :
    (ls.foldl (f.mark g) h).entries = h.entries ∧ ∀ k, ((ls.foldl (f.mark g) h).thread k).probe = (h.thread k).probe :=
  List.foldlRecOn (motive := fun x : Group => x.entries = h.entries ∧ ∀ k, (x.thread k).probe = (h.thread k).probe) ls (f.mark g) ⟨rfl, fun _ => rfl⟩
    fun _ ⟨he, hp⟩ _ _ => ⟨(markRef_entries ..).trans he, fun k => (markRef_probe ..).trans (hp k)⟩

/-- Where each lane that acts goes on, every member of the issue does (R57). -/
theorem shareFates_next (uni : Bool) (act : List Nat) :
    shareFates uni act ((accessLanes uni act).map fun l => (l, .next)) = act.map fun l => (l, .next) := by
  cases uni <;> cases act <;> rfl

theorem Team.drawn_self {t : Team} {gi : Nat} (hg : gi < t.groups.length) : t.drawn gi (t.group gi) t.pal t.palPend = t := by
  unfold Team.drawn
  rw [show t.setGroup gi (t.group gi) = t from Team.updGroup_of_same (f := fun k => k) rfl hg]

/-- A palette instruction all of whose acting lanes are ready. -/
theorem palette_issues {s : State} {c : Cur} {t : Team} {g : Group} {e : Entry} {f : PalForm} {m : PalSpec} (hi : s.issues c t g e) (hf : f.fits m)
    (hpal : Memory.wf t.pal = true) (hr : ∀ l ∈ actLanes g e f.gd, f.ready s t c.grp g l) :
    let uni := uniform f.gd [f.t, f.a, f.x, f.dst]
    let lanes := accessLanes uni (actLanes g e f.gd)
    ∃ u qs, palIssue s f.gd m = .next (finishIssue u c e ((actLanes g e f.gd).map fun l => (l, .next))) ∧
      s.draws u c (t.drawn c.grp (lanes.foldl (f.mark g) g) (lanes.foldl (f.step g) t.pal) (t.palPend ++ qs)) ∧
      ∀ pre l post, lanes = pre ++ l :: post → g.dst l f.dst f.dw ≠ .null →
        ∃ p ∈ qs, f.pends g (issuers uni c (actLanes g e f.gd)) (pre.foldl (f.step g) t.pal) l p := by
  intro uni lanes
  obtain ⟨ht, rfl, hg, -⟩ := holds_of_issues hi
  have hsub : ∀ l ∈ lanes, f.ready s t c.grp (t.group c.grp) l := fun l hl => hr l (by
    unfold lanes accessLanes at hl
    split at hl
    · exact List.mem_of_mem_take hl
    · exact hl)
  have hs : s.draws s c (t.drawn c.grp (t.group c.grp) t.pal t.palPend) := by
    rw [Team.drawn_self hg]
    exact ⟨ht, fun _ _ => rfl, rfl, rfl, rfl⟩
  obtain ⟨u, qs, hfold, hu, hpend⟩ := foldLanes_palLane (who := issuers uni c (actLanes (t.group c.grp) e f.gd)) hf hi.2.1 hg lanes hpal hs hsub
  refine ⟨u, qs, issue_ready s f.gd m.srcs always _ c t _ e u (fun _ => .next) hi (fun l hl x hx => ?_) rfl (fun _ _ => nofun) ?_, hu, hpend⟩
  · obtain ⟨⟨ht, -⟩, ⟨ha, -⟩, ⟨hx', -⟩, -⟩ := hr l hl
    rw [hf.srcs] at hx
    simp only [List.mem_cons, List.not_mem_nil, or_false] at hx
    obtain rfl | rfl | rfl := hx
    exacts [Group.notPending_of_has ht, Group.notPending_of_has ha, Group.notPending_of_has hx']
  · unfold palRun
    rw [ht, hf.shared]
    show ((foldLanes (palLane m c (t.group c.grp) (issuers uni c (actLanes (t.group c.grp) e f.gd))) lanes s).1,
      shareFates uni _ (foldLanes (palLane m c (t.group c.grp) (issuers uni c (actLanes (t.group c.grp) e f.gd))) lanes s).2) = _
    rw [hfold, shareFates_next]

/-- The issuing team, where the members of an entry have gone on. -/
theorem State.settles.issuer {m s' : State} {c : Cur} {x : Team} (h : m.settles s' c) (hx : m.team? c.tid = some x) :
    ∃ y, s'.team? c.tid = some y ∧ y.bare = x.bare ∧ y.flight = x.flight ∧ (y.group c.grp).store = (x.group c.grp).store := by
  have hbare := h.others.2.1
  have hflight := h.flight
  have hstore := h.store
  rw [hx] at hbare hflight
  cases hy : s'.team? c.tid with
  | none => rw [hy] at hbare; cases hbare
  | some y =>
    rw [hy] at hbare hflight
    rw [grp_of hx, grp_of hy] at hstore
    exact ⟨y, rfl, Option.some.inj hbare, Option.some.inj hflight, hstore⟩

/-- Settles O26: at issue lane by lane on the allotment, each on what the lanes before it left; and what lands, in its order, in one group. -/
theorem paletteAccess : Obligations.PaletteAccess := by
  unfold Obligations.PaletteAccess
  refine ⟨?_, fun s tid lane t p gi at_ ht htid hst hsn hg hp h hi hgi => palette_lands ht htid hst hsn hg hp ⟨hi, hgi⟩ h⟩
  intro i f hform s c t g e hi _ hr uni lanes old step who hpal
  obtain ⟨m, hexec, hf⟩ := palForm_fits hform
  obtain ⟨ht, hgrp, hg, -⟩ := holds_of_issues hi
  obtain ⟨u, qs, hrun, hu, hpend⟩ := palette_issues hi hf hpal hr
  replace hu : s.draws u c (t.drawn c.grp (lanes.foldl (f.mark g) g) (lanes.foldl step t.pal) (t.palPend ++ qs)) := hu
  obtain ⟨hent, hprobe⟩ := f.foldl_mark g lanes g
  have hgroup : (t.drawn c.grp (lanes.foldl (f.mark g) g) (lanes.foldl step t.pal) (t.palPend ++ qs)).group c.grp = lanes.foldl (f.mark g) g :=
    setGroup_self t c.grp _ hg
  have hpoised : s.poised u c t := ⟨⟨_, hu.team, rfl, List.length_set, by rw [hgroup, hent, hgrp], fun l => by rw [hgroup, hprobe, hgrp]⟩, hu.mem⟩
  obtain ⟨hmoves, hsettles, hmem⟩ := finish_poised (gd := f.gd) hi hpoised
  obtain ⟨t', ht', hbare, hflight, hstore⟩ := hsettles.issuer hu.team
  rw [hgroup] at hstore
  refine ⟨_, t', (hexec s).trans hrun, hmoves, ht', congrArg Team.pal hbare, hstore, fun pre l post hl hd => ?_,
    fun k hk => (hsettles.others.1 k hk).trans (hu.others k hk), hmem,
    (congrArg Team.palSize hbare :), (congrArg Team.palBad hbare :)⟩
  obtain ⟨p, hp, hpd⟩ := hpend pre l post hl hd
  have hpends : t'.palPend = t.palPend ++ qs := congrArg Prod.snd hflight
  exact ⟨p, hpends ▸ List.mem_append_right _ hp, hpd⟩

end Sys2Proof.Machine
end

section
/-! ## REGROUP (R89, R134) -/

namespace Sys2Proof.Machine

/-! ### Members that go on and members that arrive -/

theorem foldl_applyFate_goes {c : Cur} (e : Entry) (fs : List (Nat × Fate)) {s : State} (h : s.holds c)
    (hf : ∀ x ∈ fs, x.2.moves = true ∨ x.2 = .arrive) :
    s.quiet (fs.foldl (fun st x => st.applyFate c e x.1 x.2) s) c ∧ s.keeps (fs.foldl (fun st x => st.applyFate c e x.1 x.2) s) c := by
  induction fs generalizing s with
  | nil => exact ⟨quiet_refl s c h, keeps_refl s c h⟩
  | cons x xs ih =>
    have hx : s.quiet (s.applyFate c e x.1 x.2) c ∧ s.keeps (s.applyFate c e x.1 x.2) c := by
      rcases hf x List.mem_cons_self with hm | ha
      · exact ⟨applyFate_quiet s c e x.1 x.2 h hm, (applyFate_keeps s c e x.1 x.2 h hm).1⟩
      · rw [ha]
        exact ⟨quiet_refl s c h, keeps_refl s c h⟩
    obtain ⟨q, k⟩ := ih hx.1.holds fun y hy => hf y (List.mem_cons_of_mem _ hy)
    exact ⟨quiet_trans hx.1 q, keeps_trans hx.2 k⟩

/-- An issue in which every member goes on or arrives. -/
theorem finishIssue_goes {s : State} {c : Cur} {e : Entry} {fs : List (Nat × Fate)} {fate : Nat → Fate} (hh : s.holds c)
    (hapart : ∀ x ∈ (s.grp c).entries.erase e, x.mask &&& e.mask = 0) (hf : ∀ l ∈ lanesOf e.mask, fateOf fs l = fate l)
    (hm : ∀ l ∈ lanesOf e.mask, (fate l).moves = true ∨ fate l = .arrive) :
    (∀ l ∈ lanesOf e.mask, ∀ pc, (fate l).place e = some pc → (finishIssue s c e fs).stands c l pc) ∧
      ((finishIssue s c e fs).grp c).store = (s.grp c).store ∧ s.others (finishIssue s c e fs) c ∧ (finishIssue s c e fs).rest = s.rest := by
  obtain ⟨r, k1, -⟩ := State.advanced_regroups hh e (e.fates fate)
  have hfates : ∀ x ∈ e.fates fate, x.2.moves = true ∨ x.2 = .arrive := fun x hx => by
    obtain ⟨l, hl, rfl⟩ := List.mem_map.1 hx
    exact hm l hl
  obtain ⟨q2, k2⟩ := foldl_applyFate_goes e (e.fates fate) r.holds hfates
  have q3 := gridSettle_quiet _ c c.tid q2.holds
  have hfin := finishIssue_of_keeps hf (keeps_trans k1 k2)
  have hent : ((finishIssue s c e fs).grp c).entries = frontierAfter ((s.grp c).entries.erase e) e (e.fates fate) := by
    rw [hfin]
    refine (q3.entries.trans q2.entries).trans ?_
    rw [r.grp]
  have hstore : ((s.advanced c e (e.fates fate)).grp c).store = (s.grp c).store := by
    rw [r.grp]
    rfl
  refine ⟨fun l hl pc hp => ?_, ?_, ?_, ?_⟩
  · unfold State.stands
    rw [hent]
    have hgone : nowhere ((s.grp c).entries.erase e) l := fun x hx => by
      have := congrArg (fun m : BitVec 32 => m.getLsbD l) (hapart x hx)
      simpa [(mem_lanesOf.1 hl).2] using this
    obtain ⟨x, hx, -, -, hxl⟩ := frontierAfter_place _ e (e.fates fate) l _ pc (mem_lanesOf.1 hl).1 (List.mem_map.2 ⟨l, hl, rfl⟩) hp
    exact ⟨⟨x, hx, hxl⟩, frontierAfter_only _ e _ l _ pc hgone (fun _ h => Entry.fates_own h) hp⟩
  · rw [hfin]
    exact (q3.store.trans q2.store).trans hstore
  · rw [hfin]
    exact others_trans r.others (others_trans q2.others q3.others)
  · rw [hfin]
    exact q3.rest.trans (q2.rest.trans r.rest)

/-! ### Arrival at a reorder point -/

/-- The place and the key of a thread that has arrived. -/
def Arrival.keyed (x : Arrival) : Nat × Nat × Nat := (x.grp, x.lane, (x.opnd 0).val)

/-- In a state, after threads of the issuing team have arrived at the reorder point: the team's groups stand, and so does all outside it. -/
structure State.gathers (s u : State) (c : Cur) (t : Team) (as : List (Nat × Nat × Nat)) : Prop where
  team : ∃ x, u.team? c.tid = some x ∧ x.tid = c.tid ∧ x.groups = t.groups ∧ x.regroup.map Arrival.keyed = t.regroup.map Arrival.keyed ++ as
  others : ∀ k, k ≠ c.tid → u.team? k = s.team? k
  rest : u.rest = s.rest

/-- One thread arrives (R134). -/
theorem regroupBody_arrives {s u : State} {c : Cur} {t : Team} {e : Entry} {a : Reg} {as : List (Nat × Nat × Nat)} {l : Nat}
    (hu : s.gathers u c t as) (hsol : e.solitary = false) (ha : (t.group c.grp).clean l a 1) :
    ∃ u', regroupBody a c e u l = .ok (u', .arrive) ∧ s.gathers u' c t (as ++ [(c.grp, l, (t.group c.grp).val l a 1)]) := by
  obtain ⟨⟨x, hx, htid, hgroups, hreg⟩, hothers, hrest⟩ := hu
  obtain ⟨hhas, hpoison⟩ := ha
  have hg : x.group c.grp = t.group c.grp := by unfold Team.group; rw [hgroups]
  let arr : Arrival := ⟨c.grp, l, [(t.group c.grp).opnd l a 1], false, .null, 7, x.seq⟩
  obtain ⟨hself, hother, hrest', -⟩ := State.setTeam_frame
    (u := Team.newEntry { x with regroup := x.regroup ++ [arr] } (arrivalEntry c.grp l e.pc)) hx htid
  refine ⟨_, ?_, ⟨_, hself, htid, hgroups, ?_⟩, fun k hk => (hother k hk).trans (hothers k hk), hrest'.trans hrest⟩
  · unfold regroupBody
    rw [hx]
    dsimp only
    rw [hg, Group.opnd_of_has hhas]
    dsimp only [bind, Except.bind]
    rw [consumeAll_of_clean (List.forall_mem_singleton.2 hpoison), hsol]
    rfl
  · show (x.regroup ++ [arr]).map Arrival.keyed = _
    rw [List.map_append, hreg, List.append_assoc]
    rfl

theorem foldLanes_regroupBody {s : State} {c : Cur} {t : Team} {e : Entry} {a : Reg} (hsol : e.solitary = false) (ls : List Nat) {u : State}
    {as : List (Nat × Nat × Nat)} (hu : s.gathers u c t as) (ha : ∀ l ∈ ls, (t.group c.grp).clean l a 1) :
    ∃ u', foldLanes (regroupBody a c e) ls u = (u', ls.map fun l => (l, .arrive)) ∧
      s.gathers u' c t (as ++ ls.map fun l => (c.grp, l, (t.group c.grp).val l a 1)) := by
  induction ls generalizing u as with
  | nil => exact ⟨u, rfl, by rwa [List.map_nil, List.append_nil]⟩
  | cons l ls ih =>
    obtain ⟨u1, hl, hu1⟩ := regroupBody_arrives hu hsol (ha l List.mem_cons_self)
    obtain ⟨u2, hls, hu2⟩ := ih hu1 fun k hk => ha k (List.mem_cons_of_mem _ hk)
    refine ⟨u2, ?_, by rwa [List.append_assoc, List.singleton_append] at hu2⟩
    unfold foldLanes
    rw [hl]
    dsimp only
    rw [hls]
    rfl

/-- The acting lanes of a REGROUP arrive, and wait (R134). -/
theorem regroup_arrives {s : State} {gd : Guard} {a : Reg} {c : Cur} {t : Team} {g : Group} {e : Entry} (hi : s.issues c t g e)
    (hsol : e.solitary = false) (ha : ∀ l ∈ actLanes g e gd, g.clean l a 1) (hroom : t.ifr.length + (actLanes g e gd).length ≤ 512) :
    ∃ s' t', exec (.regroup gd a) s = .next s' ∧ s'.team? c.tid = some t' ∧
      t'.regroup.map Arrival.keyed = t.regroup.map Arrival.keyed ++ (actLanes g e gd).map (fun l => (c.grp, l, g.val l a 1)) ∧
      (∀ l ∈ actLanes g e gd, s'.stands c l (e.pc, e.prio)) ∧ (s'.grp c).store = g.store ∧
      (∀ k, k ≠ c.tid → s'.team? k = s.team? k) ∧ s'.rest = s.rest := by
  obtain ⟨ht, rfl, hg, -⟩ := holds_of_issues hi
  have hs : s.gathers s c t [] := ⟨⟨t, ht, hi.2.1, rfl, (List.append_nil _).symm⟩, fun _ _ => rfl, rfl⟩
  obtain ⟨u, hrun, ⟨x, hx, htid, hgroups, hreg⟩, hothers, hrest⟩ := foldLanes_regroupBody hsol _ hs ha
  have hfree : ifrFree List.length s c (actLanes (t.group c.grp) e gd) = true := by
    unfold ifrFree
    rw [ht]
    exact decide_eq_true hroom
  have hgrp : u.grp c = t.group c.grp := by
    rw [grp_of hx]
    unfold Team.group
    rw [hgroups]
  obtain ⟨hstands, hstore, hother', hrest'⟩ := finishIssue_goes (s := u)
    (fs := (actLanes (t.group c.grp) e gd).map fun l => (l, .arrive)) (fate := fun l => if l ∈ actLanes (t.group c.grp) e gd then .arrive else .next)
    ⟨x, hx, htid, hgroups ▸ hg⟩ (by rw [hgrp]; exact hi.2.2.2) (fun l _ => fateOf_map _ _ l)
    fun l _ => by split <;> simp [Fate.moves]
  obtain ⟨hteams, hbare, -⟩ := hother'
  rw [hx] at hbare
  obtain ⟨t', ht', hb⟩ := Option.map_eq_some_iff.1 hbare
  have hregroup : t'.regroup = x.regroup := (congrArg Team.regroup hb :)
  refine ⟨_, t', issue_ready s gd [(a, 1)] _ _ c t _ e u (fun _ => .arrive) hi (fun l hl => ?_) hfree (fun _ _ => nofun) hrun, ht', ?_,
    fun l hl => hstands l (actLanes_sub hl) _ (by rw [if_pos hl]; rfl), ?_, fun k hk => (hteams k hk).trans (hothers k hk), hrest'.trans hrest⟩
  · exact List.forall_mem_singleton.2 (Group.notPending_of_has (ha l hl).1)
  · rw [hregroup, hreg, List.nil_append]
  · rw [hstore, hgrp]

end Sys2Proof.Machine
end

section
/-! ## Reorder points (R89, R90, R134)

REGROUP_COMPLETION once every live thread of the team has arrived. -/

namespace Sys2Proof.Machine

/-! ### Every group is re-formed -/

/-- Steps of which each leaves what a state holds, or replaces it by its image under a map that comes to the same once it is made, and one of
which does replace it. -/
theorem foldl_reaches {σ β γ : Type} {f : σ → β → σ} {P : σ → γ → Prop} {F : γ → γ} (hF : ∀ x, F (F x) = F x) {bs : List β} {b : β} (hb : b ∈ bs)
    (hstep : ∀ a x, ∀ y ∈ bs, P a x → P (f a y) x ∨ P (f a y) (F x)) (hdone : ∀ a x, P a x → P (f a b) (F x)) {a : σ} {x : γ} (ha : P a x) :
    P (bs.foldl f a) (F x) := by
  obtain ⟨pre, post, rfl⟩ := List.append_of_mem hb
  have hpre : P (pre.foldl f a) x ∨ P (pre.foldl f a) (F x) :=
    List.foldlRecOn (motive := fun u => P u x ∨ P u (F x)) pre f (.inl ha) fun u hu y hy => by
      have hy := List.mem_append_left (b :: post) hy
      rcases hu with hu | hu
      · exact hstep u x y hy hu
      · exact .inr (by simpa only [hF, or_self] using hstep u (F x) y hy hu)
  have hmid : P (f (pre.foldl f a) b) (F x) := by
    rcases hpre with h | h
    · exact hdone _ _ h
    · exact hF x ▸ hdone _ _ h
  rw [List.foldl_append, List.foldl_cons]
  refine List.foldlRecOn (motive := fun u => P u (F x)) post f hmid fun u hu y hy => ?_
  simpa only [hF, or_self] using hstep u (F x) y (List.mem_append_right _ (List.mem_cons_of_mem _ hy)) hu

/-- The movers of a role in their order (R134). -/
def Team.sorted (t : Team) (role : Nat) : List Mover := (t.movers.filter (·.role == role)).mergeSort Mover.before

/-- The issue slots that the old groups of a role with a live thread free. -/
def Team.freed (t : Team) (role : Nat) : List (Option (Nat × Nat)) :=
  ((t.roleGroups role).filter fun gi => !(t.group gi).liveLanes.isEmpty).map fun gi => (t.group gi).pipe

/-- A group, once the reorder point has made it the `k`-th of a role. -/
def Team.reformed (t : Team) (pc : BitVec 64) (prio : BitVec 8) (role k : Nat) (g : Group) : Group :=
  reformGroup t pc prio k (t.sorted role) (t.freed role) g

theorem Team.reformed_reformed (t : Team) (pc : BitVec 64) (prio : BitVec 8) (role k : Nat) (g : Group) :
    t.reformed pc prio role k (t.reformed pc prio role k g) = t.reformed pc prio role k g := rfl

theorem reformRole_eq (t u : Team) (pc : BitVec 64) (prio : BitVec 8) (role : Nat) :
    reformRole t pc prio u role = (t.roleGroups role).zipIdx.foldl (fun v x => v.updGroup x.1 (t.reformed pc prio role x.2)) u := rfl

theorem Team.mem_roleGroups {t : Team} {role gi : Nat} : gi ∈ t.roleGroups role ↔ gi < t.groups.length ∧ (t.group gi).role = role := by
  unfold Team.roleGroups
  rw [List.mem_filter, List.mem_range, beq_iff_eq]

/-- A group stands at one place of its role. -/
theorem Team.roleGroups_inj {t : Team} {role gi j k : Nat} (hj : (t.roleGroups role)[j]? = some gi) (hk : (t.roleGroups role)[k]? = some gi) :
    j = k := by
  obtain ⟨hlt, -⟩ := List.getElem?_eq_some_iff.1 hj
  exact (List.getElem?_inj hlt (List.nodup_range.filter _)).1 (hj.trans hk.symm)

/-- A team of `n` groups, of which one is `g`. -/
def Team.bears (u : Team) (n gi : Nat) (g : Group) : Prop := u.groups.length = n ∧ u.group gi = g

theorem Team.bears.updGroup_self {u : Team} {n gi : Nat} {g : Group} (h : u.bears n gi g) (hn : gi < n) (f : Group → Group) :
    (u.updGroup gi f).bears n gi (f g) := by
  obtain ⟨rfl, rfl⟩ := h
  exact ⟨List.length_set, setGroup_self u gi _ hn⟩

theorem Team.bears.updGroup_ne {u : Team} {n gi k : Nat} {g : Group} (h : u.bears n gi g) (hk : k ≠ gi) (f : Group → Group) :
    (u.updGroup k f).bears n gi g := by
  obtain ⟨rfl, rfl⟩ := h
  exact ⟨List.length_set, setGroup_ne u k gi _ hk.symm⟩

/-- The reordering of a role re-forms each of its groups. -/
theorem reformRole_self {t u : Team} {pc : BitVec 64} {prio : BitVec 8} {role k gi n : Nat} {g : Group} (hn : gi < n)
    (hk : (t.roleGroups role)[k]? = some gi) (hu : u.bears n gi g) : (reformRole t pc prio u role).bears n gi (t.reformed pc prio role k g) := by
  rw [reformRole_eq]
  refine foldl_reaches (P := fun v : Team => v.bears n gi) (b := (gi, k)) (t.reformed_reformed pc prio role k) (List.mem_zipIdx_iff_getElem?.2 hk)
    (fun v h x hx hv => ?_) (fun v h hv => hv.updGroup_self hn _) hu
  by_cases heq : x.1 = gi
  · have hxk : x.2 = k := Team.roleGroups_inj (List.mem_zipIdx_iff_getElem?.1 hx) (heq ▸ hk)
    rw [heq, hxk]
    exact .inr (hv.updGroup_self hn _)
  · exact .inl (hv.updGroup_ne heq _)

/-- The reordering of a role leaves the groups of the others. -/
theorem reformRole_other {t u : Team} {pc : BitVec 64} {prio : BitVec 8} {role gi n : Nat} {g : Group} (h : gi ∉ t.roleGroups role)
    (hu : u.bears n gi g) : (reformRole t pc prio u role).bears n gi g := by
  rw [reformRole_eq]
  refine List.foldlRecOn (motive := fun v : Team => v.bears n gi g) _ _ hu fun v hv x hx => hv.updGroup_ne (fun he => h ?_) _
  exact he ▸ List.mem_of_getElem? (List.mem_zipIdx_iff_getElem?.1 hx)

/-- The team's groups, once every role has been reordered. -/
def Team.regrouped (t : Team) (pc : BitVec 64) (prio : BitVec 8) : Team := (t.groups.map (·.role)).eraseDups.foldl (reformRole t pc prio) t

/-- Every group of the team is re-formed, once. -/
theorem Team.regrouped_group {t : Team} (pc : BitVec 64) (prio : BitVec 8) {role k gi : Nat} (hk : (t.roleGroups role)[k]? = some gi) :
    (t.regrouped pc prio).group gi = t.reformed pc prio role k (t.group gi) := by
  obtain ⟨hgi, hrole⟩ := Team.mem_roleGroups.1 (List.mem_of_getElem? hk)
  have hmem : role ∈ (t.groups.map (·.role)).eraseDups :=
    List.mem_eraseDups.2 (List.mem_map.2 ⟨t.group gi, Team.group_mem hgi, hrole⟩)
  have hother {r : Nat} (hr : r ≠ role) : gi ∉ t.roleGroups r := fun h => hr ((Team.mem_roleGroups.1 h).2.symm.trans hrole)
  have hheld : t.bears t.groups.length gi (t.group gi) := ⟨rfl, rfl⟩
  refine (foldl_reaches (P := fun v : Team => v.bears t.groups.length gi) (t.reformed_reformed pc prio role k) hmem
    (fun v h r _ hv => ?_) (fun v h hv => reformRole_self hgi hk hv) hheld).2
  by_cases hr : r = role
  · rw [hr]
    exact .inr (reformRole_self hgi hk hv)
  · exact .inl (reformRole_other (hother hr) hv)

/-- Every group has a place in its role. -/
theorem Team.exists_place {t : Team} {gi : Nat} (hg : gi < t.groups.length) : ∃ k : Nat, (t.roleGroups (t.group gi).role)[k]? = some gi :=
  List.getElem?_of_mem (Team.mem_roleGroups.2 ⟨hg, rfl⟩)

/-! ### What a re-formed group holds -/

/-- The mover at place `p` of a role's order is lane `p % 32` of its group. -/
theorem Team.reformed_thread {t : Team} (pc : BitVec 64) (prio : BitVec 8) {role p : Nat} {m : Mover} (g : Group)
    (hm : (t.sorted role)[p]? = some m) :
    ((t.reformed pc prio role (p / 32) g).thread (p % 32)).calm = m.thread.calm := by
  have hp : 32 * (p / 32) + p % 32 = p := Nat.div_add_mod p 32
  have hmine : (((t.sorted role).drop (32 * (p / 32))).take 32)[p % 32]? = some m := by
    rw [List.getElem?_take, if_pos (Nat.mod_lt _ (by decide)), List.getElem?_drop, hp, hm]
  unfold Team.reformed reformGroup Group.thread
  dsimp only
  rw [List.getD_eq_getElem?_getD, List.getElem?_append_left (by simpa using (List.getElem?_eq_some_iff.1 hmine).1), List.getElem?_map, hmine]
  dsimp only [Option.map_some, Option.getD_some]
  split <;> rfl

/-- Its threads stand in one entry. -/
theorem Team.reformed_entries {t : Team} (pc : BitVec 64) (prio : BitVec 8) (role k : Nat) (g : Group) :
    (t.reformed pc prio role k g).entries = if (t.sorted role).length ≤ 32 * k then []
      else [Entry.at pc prio (maskOf (List.range (min 32 ((t.sorted role).length - 32 * k)))) false] := by
  have hlen : (((t.sorted role).drop (32 * k)).take 32).length = min 32 ((t.sorted role).length - 32 * k) := by
    rw [List.length_take, List.length_drop]
  have hempty : (((t.sorted role).drop (32 * k)).take 32).isEmpty = decide ((t.sorted role).length ≤ 32 * k) := by
    rw [Bool.eq_iff_iff, List.isEmpty_iff_length_eq_zero, hlen, decide_eq_true_eq]
    omega
  unfold Team.reformed reformGroup
  dsimp only
  rw [hempty, hlen]
  simp only [decide_eq_true_eq]

/-! ### The lowest priority -/

/-- The lowest priority among entries, of 255 and lower. -/
def leastPrio (es : List Entry) : BitVec 8 := es.foldl (fun p e => if e.prio.toNat < p.toNat then e.prio else p) 255

theorem foldl_leastPrio (es : List Entry) (p : BitVec 8) :
    let r := es.foldl (fun p e => if e.prio.toNat < p.toNat then e.prio else p) p
    r.toNat ≤ p.toNat ∧ (∀ e ∈ es, r.toNat ≤ e.prio.toNat) ∧ (r = p ∨ ∃ e ∈ es, e.prio = r) := by
  induction es generalizing p with
  | nil => exact ⟨Nat.le_refl _, nofun, .inl rfl⟩
  | cons e es ih =>
    obtain ⟨hle, hall, hor⟩ := ih (if e.prio.toNat < p.toNat then e.prio else p)
    have hmin : (if e.prio.toNat < p.toNat then e.prio else p).toNat ≤ p.toNat ∧
        (if e.prio.toNat < p.toNat then e.prio else p).toNat ≤ e.prio.toNat := by split <;> omega
    refine ⟨hle.trans hmin.1, List.forall_mem_cons.2 ⟨hle.trans hmin.2, hall⟩, ?_⟩
    rcases hor with h | ⟨x, hx, h⟩
    · rw [List.foldl_cons, h]
      split
      · exact .inr ⟨e, List.mem_cons_self, rfl⟩
      · exact .inl rfl
    · exact .inr ⟨x, List.mem_cons_of_mem _ hx, h⟩

/-- Of entries one at least has the lowest priority. -/
theorem leastPrio_spec {es : List Entry} (hne : es ≠ []) : (∃ e ∈ es, e.prio = leastPrio es) ∧ ∀ e ∈ es, (leastPrio es).toNat ≤ e.prio.toNat := by
  obtain ⟨-, hall, hor⟩ := foldl_leastPrio es 255
  refine ⟨?_, hall⟩
  rcases hor with h | h
  · obtain ⟨e, es, rfl⟩ := List.exists_cons_of_ne_nil hne
    have := hall e List.mem_cons_self
    refine ⟨e, List.mem_cons_self, BitVec.eq_of_toNat_eq ?_⟩
    unfold leastPrio
    rw [h] at this ⊢
    have hlt := e.prio.isLt
    have h255 : (255 : BitVec 8).toNat = 255 := rfl
    omega
  · exact h

/-! ### The completion -/

/-- Where the threads that have arrived stand. -/
def Team.standing (t : Team) : List Entry := t.regroup.filterMap fun a => (t.group a.grp).entryOf a.lane

/-- The word that the threads go on at. -/
def Team.after (t : Team) : BitVec 64 := (t.standing.head?.map (·.pc)).getD 0 + 8

/-- The team, once its threads have been reordered (R89). -/
def Team.reordered (t : Team) : Team :=
  Team.freeSeqs { moveProducers t (t.regrouped t.after (leastPrio t.standing)) with regroup := [] } (t.regroup.map (·.seq))

theorem Team.reordered_tid (t : Team) : t.reordered.tid = t.tid := by
  show (t.regrouped _ _).tid = t.tid
  refine List.foldlRecOn (motive := fun u : Team => u.tid = t.tid) _ _ rfl fun u hu role _ => ?_
  rw [reformRole_eq]
  exact List.foldlRecOn (motive := fun v : Team => v.tid = t.tid) _ _ hu fun v hv x _ => hv

theorem Team.reordered_group {t : Team} {role k gi : Nat} (hk : (t.roleGroups role)[k]? = some gi) :
    t.reordered.group gi = t.reformed t.after (leastPrio t.standing) role k (t.group gi) := t.regrouped_group _ _ hk

theorem exec_regroupCompletion {s : State} {tid : Nat} {t : Team} (ht : s.team? tid = some t) (hst : t.st = .resident) (hfull : t.regroupFull = true)
    (hallot : t.allotsDiffer = false) (hmx : ∀ x ∈ t.regroup, ((t.group x.grp).thread x.lane).mx = false)
    (hpend : ∀ g ∈ t.groups, ∀ r ∈ g.gregs, r.st ≠ .pending) :
    exec (.regroupCompletion tid) s = .next ((s.setTeam t.reordered).moveCopies t) := by
  have hmode : (t.regroup.any fun a => ((t.group a.grp).thread a.lane).mx) = false :=
    List.any_eq_false.2 fun x hx => by rw [hmx x hx]; exact Bool.false_ne_true
  have hregs : (t.groups.any fun g => g.gregs.any (·.st == .pending)) = false :=
    List.any_eq_false.2 fun g hg h => by
      obtain ⟨r, hr, hp⟩ := List.any_eq_true.1 h
      exact hpend g hg r hr (beq_iff_eq.1 hp)
  show execRegroupCompletion tid s = _
  unfold execRegroupCompletion
  rw [ht]
  dsimp only
  rw [hfull, hst, hmode, hallot, hregs]
  rfl

/-- Threads that stand at one word go on at the next one, at the lowest of their priorities. -/
theorem Team.standing_spec {t : Team} {pc : BitVec 64} (hne : t.regroup ≠ [])
    (hpc : ∀ x ∈ t.regroup, ((t.group x.grp).entryOf x.lane).map (·.pc) = some pc) :
    t.after = pc + 8 ∧ (∃ x ∈ t.regroup, ((t.group x.grp).entryOf x.lane).map (·.prio) = some (leastPrio t.standing)) ∧
      ∀ x ∈ t.regroup, ∀ y, (t.group x.grp).entryOf x.lane = some y → (leastPrio t.standing).toNat ≤ y.prio.toNat := by
  have hhead : t.standing.head?.map (·.pc) = some pc := by
    unfold Team.standing
    obtain ⟨x, xs, hx⟩ := List.exists_cons_of_ne_nil hne
    obtain ⟨y, hy, hyp⟩ := Option.map_eq_some_iff.1 (hpc x (hx ▸ List.mem_cons_self))
    rw [hx, List.filterMap_cons_some (f := fun a : Arrival => (t.group a.grp).entryOf a.lane) hy, List.head?_cons, Option.map_some, hyp]
  have hstand : t.standing ≠ [] := fun h => by rw [h] at hhead; cases hhead
  obtain ⟨⟨e, he, hp⟩, hall⟩ := leastPrio_spec hstand
  obtain ⟨x, hx, hxe⟩ := List.mem_filterMap.1 he
  refine ⟨?_, ⟨x, hx, ?_⟩, fun x hx y hy => hall y (List.mem_filterMap.2 ⟨x, hx, hy⟩)⟩
  · unfold Team.after
    rw [hhead]
    rfl
  · rw [hxe, Option.map_some, hp]

/-- Settles O17: who arrives waits, and stands with what has arrived before it; at the completion every group of the team is re-formed from
the movers of its role, once. -/
theorem regroup : Obligations.Regroup := by
  unfold Obligations.Regroup
  refine fun s => ⟨fun gd a c t g e hi hsol ha hroom => regroup_arrives hi hsol ha hroom,
    fun tid t ht htid hst hfull hallot hmx _ hpend => ?_⟩
  have hne : t.regroup ≠ [] := fun h => by
    unfold Team.regroupFull at hfull
    rw [h] at hfull
    cases hfull
  obtain ⟨hself, hother, hrest, -⟩ := State.setTeam_frame (u := t.reordered) ht (t.reordered_tid.trans htid)
  refine ⟨_, t.reordered, exec_regroupCompletion ht hst hfull hallot (fun x hx => (hmx x hx).1) hpend, hself, rfl, ?_, fun pc hpc => ?_,
    fun gi hg => ?_, hother, (congrArg State.mem hrest :)⟩
  · rintro role _ _ rfl rfl p m gi hm hgi
    rw [Team.reordered_group hgi]
    exact Team.reformed_thread _ _ _ hm
  · obtain ⟨hafter, hone, hall⟩ := Team.standing_spec hne hpc
    refine ⟨leastPrio t.standing, hone, hall, ?_⟩
    rintro role _ _ rfl rfl k gi hgi
    have hlen : (t.sorted role).length = (t.movers.filter (·.role == role)).length := List.length_mergeSort _
    rw [Team.reordered_group hgi, Team.reformed_entries, hlen, hafter]
  · obtain ⟨k, hk⟩ := Team.exists_place hg
    rw [Team.reordered_group hk]
    exact ⟨rfl, rfl, rfl⟩

end Sys2Proof.Machine
end
